-- ==== Sys2Proof/Word.lean ====
section
/-! DEFINITION. Words, bytes and the one kind of table the model keeps: a list of keyed entries. -/

namespace Sys2Proof

/-- Eight bits. -/
abbrev Byte := BitVec 8

/-- A 32-bit register word (R96). -/
abbrev Word := BitVec 32

/-- A 64-bit word: an instruction word (R52) or a register pair (R96). -/
abbrev DWord := BitVec 64

/-- A sparse table: entries by number, in ascending number, none repeated. -/
abbrev Map (α : Type) := List (Nat × α)

end Sys2Proof
end

