-- ==== Sys2Proof/Syntax.lean ====
section
/-! DEFINITION. The instruction set as a type: one constructor for each row of the opcode table,
156 instruction words (R77) and 92 events of the device. -/

namespace Sys2Proof

/-! ## Field codes shared by the formats (R60..R70) -/

/-- The register tags, which are also the type codes T (R66, R104). -/
inductive Tag
  | void | b32 | s32 | n32 | f32 | bf16x2 | f16x2 | e4m3x4
  | e5m2x4 | s8x4 | n8x4 | dx8x4 | dx4x8 | s64 | n64 | af
  deriving DecidableEq, Repr

/-- The memory type codes MT of format M (R66). -/
inductive MemType
  | n8 | s8 | n16 | s16 | b32 | s32 | n32 | f32
  | bf16x2 | f16x2 | e4m3x4 | e5m2x4 | b64 | b128 | s64 | n64
  deriving DecidableEq, Repr

/-- Rounding modes RM (R67). -/
inductive Rnd
  | ne | tz | up | dn
  deriving DecidableEq, Repr

/-- Scope codes SC (R68). -/
inductive Scope
  | blk | core | quad | part | sys
  deriving DecidableEq, Repr

/-- Order codes ORD (R68). -/
inductive Order
  | plain | acq | rel | ar
  deriving DecidableEq, Repr

/-- Cache hints CH (R69). -/
inductive Hint
  | norm | strm | keep | nol1
  deriving DecidableEq, Repr

/-- Named constants, in specifier order 0x180..0x18E (R62). -/
inductive NamedConst
  | zero | one | mone | two | half | inf | ninf | qnan | max | min | pi | ln2 | log2e | nzero | minsub
  deriving DecidableEq, Repr

/-- A register named by an 11-bit operand field (R60). -/
inductive Reg
  | v (n : Fin 256)
  | k (n : Fin 1024)
  deriving DecidableEq, Repr

/-- An 11-bit operand specifier (R60): a register, a small immediate (its seven bits) or a named
constant. -/
inductive Src
  | reg (r : Reg)
  | imm (i : Fin 128)
  | const (c : NamedConst)
  deriving DecidableEq, Repr

/-- A 4-bit predicate field (R65). -/
structure Pred where
  neg : Bool
  ps : Fin 8
  deriving DecidableEq, Repr

/-- Special registers, in the order of their numbers 0x00..0x1A (R124). -/
inductive SpecialReg
  | lane | group | block | blockdim | blkx | blky | blkz | launch | core | pairpos | quadpos
  | gang | active | clock | time | winid | winstart | winend | reckey | rectime | watermark
  | progress | fpstat | afnext | afmode | trapcause | rev
  deriving DecidableEq, Repr

/-- System registers, in the order of their numbers 0x000..0x007 (R127). -/
inductive SysReg
  | trapbase | trapframe | noprebudget | budgetperiod | partid | tenant | gentag | fpclear
  deriving DecidableEq, Repr

/-- Atomic operations, in the order of the codes 0..14 (R73). -/
inductive AtomOp
  | add | min | max | and | or | xor | exch | cas | inc | dec | fadd | fmin | fmax | bf16add | f16add
  deriving DecidableEq, Repr

/-- Reduction operations GOP of `GRED` and `GSCAN` (R156). -/
inductive GroupOp
  | add | min | max | and | or | xor
  deriving DecidableEq, Repr

/-- Matrix operand formats FA and FB, and the weight-slot formats (R75, R207). -/
inductive MatFmt
  | bf16 | f16 | e4m3 | e5m2 | dx8 | dx4
  deriving DecidableEq, Repr

/-- A participation mask: the issuing gang, all lanes, or four k registers (R152). -/
inductive LaneMask
  | gang
  | all
  | kregs (n : Fin 256)
  deriving DecidableEq, Repr

/-! ## Operand records, one for each way a format lays out its fields (R71) -/

/-- Format A with the operands in their ordinary places. -/
structure OpA where
  pred : Pred
  d : Reg
  a : Src
  b : Src
  c : Src
  t : Tag
  rm : Rnd
  sat : Bool
  x : Bool
  deriving DecidableEq, Repr

/-- `SEL`: format A with the selector in C (R143). -/
structure OpSel where
  pred : Pred
  d : Reg
  a : Src
  b : Src
  inv : Bool
  psel : Fin 8
  t : Tag
  raw : Bool
  deriving DecidableEq, Repr

/-- `ICMP` and `FCMP`: format A with the condition and the predicate in C (R142, R172). -/
structure OpCmp where
  pred : Pred
  d : Reg
  a : Src
  b : Src
  cc : Fin 16
  pd : Fin 8
  t : Tag
  raw : Bool
  deriving DecidableEq, Repr

/-- `CVT`: format A with the source type in B (R176). -/
structure OpCvt where
  pred : Pred
  d : Reg
  a : Src
  src : Tag
  t : Tag
  rm : Rnd
  sat : Bool
  raw : Bool
  deriving DecidableEq, Repr

/-- `UNPK`: format A with the element number in B (R179). -/
structure OpUnpk where
  pred : Pred
  d : Reg
  a : Src
  el : Fin 4
  t : Tag
  deriving DecidableEq, Repr

/-- `PLOP`: format A with predicate numbers and a truth table (R150). -/
structure OpPlop where
  pred : Pred
  uni : Bool
  pa : Fin 8
  pb : Fin 8
  pc : Fin 8
  pd : Fin 8
  lut : BitVec 8
  deriving DecidableEq, Repr

/-- `PMOV`: its get form, and its set form with MASK (R151). -/
inductive OpPmov
  | get (pred : Pred) (d : Reg)
  | set (pred : Pred) (uni : Bool) (a : Src) (mask : Fin 128)
  deriving DecidableEq, Repr

/-- `VOTE` (R154). MODE is 0 any, 1 all, 2 uni, 3 ballot. -/
structure OpVote where
  pred : Pred
  d : Reg
  psrc : Fin 8
  neg : Bool
  mode : Fin 4
  pd : Fin 8
  mask : LaneMask
  deriving DecidableEq, Repr

/-- `SHFL` (R155). The mode is 0 idx, 1 up, 2 down, 3 xor. -/
structure OpShfl where
  pred : Pred
  d : Reg
  a : Src
  b : Src
  mode : Fin 4
  mask : LaneMask
  deriving DecidableEq, Repr

/-- `GRED` and `GSCAN` (R156). -/
structure OpGroup where
  pred : Pred
  d : Reg
  a : Src
  op : GroupOp
  exc : Bool
  mask : LaneMask
  t : Tag
  rm : Rnd
  sat : Bool
  deriving DecidableEq, Repr

/-- `MATCH` (R157). -/
structure OpMatch where
  pred : Pred
  d : Reg
  a : Src
  pd : Fin 8
  mask : LaneMask
  t : Tag
  deriving DecidableEq, Repr

/-- `ELECT` (R158). -/
structure OpElect where
  pred : Pred
  d : Reg
  pd : Fin 8
  mask : LaneMask
  deriving DecidableEq, Repr

/-- `IXSET` (R269). -/
structure OpIxset where
  pred : Pred
  a : Src
  b : Src
  ixn : Fin 4
  deriving DecidableEq, Repr

/-- `AFNEW` (R196). -/
structure OpAfNew where
  pred : Pred
  d : Fin 4
  a : Src
  b : Src
  cw : Bool
  deriving DecidableEq, Repr

/-- `AFCST` (R197). -/
structure OpAfCst where
  pred : Pred
  d : Fin 4
  a : Src
  deriving DecidableEq, Repr

/-- Affine instructions of two affine sources (R192, R193). -/
structure OpAfBin where
  pred : Pred
  d : Fin 4
  a : Fin 4
  b : Fin 4
  raw : Bool
  deriving DecidableEq, Repr

/-- `AFSCL` (R192). -/
structure OpAfScl where
  pred : Pred
  d : Fin 4
  a : Fin 4
  s : Src
  t : Src
  raw : Bool
  deriving DecidableEq, Repr

/-- Affine instructions of one affine source (R193, R194). -/
structure OpAfUn where
  pred : Pred
  d : Fin 4
  a : Fin 4
  raw : Bool
  deriving DecidableEq, Repr

/-- `AFCND` (R198). -/
structure OpAfCnd where
  pred : Pred
  d : Fin 4
  a : Fin 4
  k : Src
  tor : Bool
  raw : Bool
  deriving DecidableEq, Repr

/-- `AFRNG`: D is the even register of a v pair (R199). -/
structure OpAfRng where
  pred : Pred
  d : Reg
  a : Fin 4
  raw : Bool
  deriving DecidableEq, Repr

/-- `AFGET` (R199). SELG is 0 centre, 1 radius, 2 coefficient, 3 flags. -/
structure OpAfGet where
  pred : Pred
  d : Reg
  a : Fin 4
  b : Src
  selg : Fin 4
  raw : Bool
  deriving DecidableEq, Repr

/-- `AFSYM` (R202). SOP is 0 size, 1 take, 2 mode, 3 free. -/
structure OpAfSym where
  pred : Pred
  d : Reg
  a : Src
  sop : Fin 4
  deriving DecidableEq, Repr

/-- Format I in general (R147). -/
structure OpI where
  pred : Pred
  d : Reg
  a : Src
  t : Tag
  imm : BitVec 26
  deriving DecidableEq, Repr

/-- `LOPI` (R148). LOP is 0 and, 1 or, 2 xor, 3 andn. -/
structure OpLopi where
  pred : Pred
  d : Reg
  a : Src
  t : Tag
  lop : Fin 4
  val : BitVec 24
  deriving DecidableEq, Repr

/-- `MOVS` (R146). -/
structure OpMovs where
  pred : Pred
  d : Reg
  sr : SpecialReg
  deriving DecidableEq, Repr

/-- Format L (R145). -/
structure OpL where
  pred : Pred
  d : Reg
  t : Tag
  imm : BitVec 32
  deriving DecidableEq, Repr

/-- Format M of a load or a store (R72, R257). -/
structure OpM where
  pred : Pred
  ds : Src
  ab : Src
  mt : MemType
  sc : Scope
  ord : Order
  ch : Hint
  off : BitVec 19
  deriving DecidableEq, Repr

/-- `LDK`: MT holds CNT - 1 (R264). -/
structure OpLdk where
  pred : Pred
  d : Reg
  ab : Src
  cntm1 : Fin 16
  sc : Scope
  ord : Order
  ch : Hint
  off : BitVec 19
  deriving DecidableEq, Repr

/-- `LDX` and `STX`: DS holds IXN and the index register (R270). -/
structure OpMX where
  pred : Pred
  ixn : Fin 4
  idx : Fin 256
  ab : Src
  mt : MemType
  sc : Scope
  ord : Order
  ch : Hint
  off : BitVec 19
  deriving DecidableEq, Repr

/-- `FENCE` (R271). -/
structure OpFence where
  pred : Pred
  sc : Scope
  ord : Order
  deriving DecidableEq, Repr

/-- `PREF` (R272). -/
structure OpPref where
  pred : Pred
  ab : Src
  sc : Scope
  ch : Hint
  off : BitVec 19
  deriving DecidableEq, Repr

/-- `CCTL` (R273). COP is 0 wb, 1 inv, 2 iinv, 3 wball. -/
structure OpCctl where
  pred : Pred
  cop : Fin 4
  ab : Src
  sc : Scope
  ch : Hint
  off : BitVec 19
  deriving DecidableEq, Repr

/-- `AFLD` and `AFST`: AB is a register pair, or the constant 0x180 for the state form
(R200, R201). -/
structure OpAfMem where
  pred : Pred
  r : Fin 4
  ab : Src
  sc : Scope
  ord : Order
  ch : Hint
  off : BitVec 19
  deriving DecidableEq, Repr

/-- Format N (R73). -/
structure OpN where
  pred : Pred
  d : Reg
  a : Src
  b : Src
  aop : AtomOp
  t : Tag
  sc : Scope
  ord : Order
  deriving DecidableEq, Repr

/-- Format V (R74). -/
structure OpV where
  cnt : Fin 4096
  t : Tag
  kd : Fin 512
  std : Fin 8
  ks1 : Fin 512
  st1 : Fin 8
  ks2 : Fin 512
  st2 : Fin 8
  mod : Fin 16
  deriving DecidableEq, Repr

/-- Format X (R75, R214). -/
structure OpX where
  mt : Fin 32
  ka : Fin 1024
  kb : Fin 1024
  km : Fin 1024
  fa : MatFmt
  fb : MatFmt
  kn : Fin 64
  zero : Bool
  ta : Bool
  deriving DecidableEq, Repr

/-- Format Q (R295, R372): DIR is 0 load, 1 store. -/
structure OpQ where
  pred : Pred
  kd : Fin 1024
  ks : Fin 1024
  ky : Fin 1024
  mask : Fin 16
  dir : Fin 4
  seg : Fin 4096
  deriving DecidableEq, Repr

/-- `BRA` (R159): MODE 1 selects a q predicate. -/
structure OpBra where
  pred : Pred
  qpred : Bool
  disp : BitVec 32
  deriving DecidableEq, Repr

/-- `BRI` (R159). -/
structure OpBri where
  pred : Pred
  qpred : Bool
  a : Reg
  deriving DecidableEq, Repr

/-- The target of `CALL`: a displacement, or a register pair (R159). -/
inductive CallTarget
  | direct (disp : BitVec 32)
  | indirect (r : Reg)
  deriving DecidableEq, Repr

/-- `CALL` (R159, R161). -/
structure OpCall where
  pred : Pred
  sp : Reg
  target : CallTarget
  deriving DecidableEq, Repr

/-- `BAR` (R376). -/
structure OpBar where
  pred : Pred
  arrive : Bool
  n : Fin 16
  deriving DecidableEq, Repr

/-- An instruction that names only a predicate and one register: `RET`, `LNCH`, `NSEND`,
`NRECV` (R159, R322, R324). -/
structure OpR where
  pred : Pred
  a : Reg
  deriving DecidableEq, Repr

/-- `WWAIT` (R360). CC is 0 eq, 1 ne, 2 ge, 3 gt, 4 mask-any, 5 mask-all. -/
structure OpWwait where
  pred : Pred
  a : Reg
  b : Src
  k : Fin 1024
  cc : Fin 8
  w64 : Bool
  tmo : Bool
  pd : Fin 8
  sys : Bool
  deriving DecidableEq, Repr

/-- `WWAKE` (R360). -/
structure OpWwake where
  pred : Pred
  a : Reg
  all : Bool
  deriving DecidableEq, Repr

/-- `WEMIT` (R345). -/
structure OpWemit where
  pred : Pred
  key : Reg
  time : Reg
  first : Fin 256
  deriving DecidableEq, Repr

/-- `WPNLD` and `WPNST` (R345). -/
structure OpPane where
  pred : Pred
  a : Reg
  b : Src
  deriving DecidableEq, Repr

/-- `WFWD` (R345). -/
structure OpWfwd where
  pred : Pred
  a : Reg
  stream : Fin 4096
  keep : Bool
  deriving DecidableEq, Repr

/-- `NCTR` (R327). -/
structure OpNctr where
  pred : Pred
  a : Reg
  sel : Fin 16
  port : Fin 16
  deriving DecidableEq, Repr

/-- `TRAP` and `BKPT` (R386). -/
structure OpCode where
  pred : Pred
  code : BitVec 16
  deriving DecidableEq, Repr

/-- `SYSC` (R386, R391). -/
structure OpSysc where
  pred : Pred
  d : Reg
  a : Reg
  service : BitVec 16
  deriving DecidableEq, Repr

/-- `MOVY` (R386, R389). -/
structure OpMovy where
  pred : Pred
  d : Reg
  sys : SysReg
  deriving DecidableEq, Repr

/-- `MOVYW` (R386, R389). -/
structure OpMovyw where
  pred : Pred
  a : Src
  sys : SysReg
  deriving DecidableEq, Repr

/-- `TLBI` (R386, R390): scope 0 page, 1 asid, 2 all. -/
structure OpTlbi where
  pred : Pred
  d : Reg
  a : Reg
  scope : Fin 4
  deriving DecidableEq, Repr

/-! ## What events carry: the parties they name and what the outside supplies -/

/-- Where the distributor finds the record it takes (R314): a group's pending-launch queue, or a
launch packet of a slice's queue. -/
inductive LaunchSource
  | group (gid : Nat)
  | queue (slice queue : Nat)
  deriving DecidableEq, Repr

/-- A host access over CXL (R422): a read, or a write of `size` bytes of `data`. -/
inductive HostAccess
  | read (addr size : Nat)
  | write (addr size data : Nat)
  deriving DecidableEq, Repr

/-- What arrives at the boundary block of a stopped core (R403). -/
inductive Arrival
  | response (n : Nat)
  | storeAck (gen : Nat)
  | bopDone (id : Nat)
  deriving DecidableEq, Repr

/-- An arriving network packet (R325, R364): its peer's address and job, the message and the packet
number, and the payload. Kind 0 is a send, 1 a write, 2 a read request, 3 read data. -/
structure NetPacket where
  dfa : Nat
  jobid : Nat
  msg : Nat
  kind : Nat
  tag : Nat
  len : Nat
  pktlog : Nat
  spray : Nat
  k : Nat
  offset : Nat
  payload : List Byte
  deriving DecidableEq, Repr

/-- The delivery modes of Ultra Ethernet Transport that R423 names. -/
inductive UetDelivery
  | rud
  | rudi
  | rod
  | uud
  deriving DecidableEq, Repr

/-- What a peer asks for when it sets up a connection (R423, R427): the AI Full profile or another, a
delivery mode for an operation (0 send, 1 write, 2 read), the paths a request is spread on, the transport
security sublayer, the payload of a packet in bytes, and the lowest and the highest version of the
network work request that the peer accepts. -/
structure ConnRequest where
  aiFull : Bool
  delivery : UetDelivery
  op : Nat
  paths : Nat
  security : Bool
  payload : Nat
  lowest : Nat
  highest : Nat
  deriving DecidableEq, Repr

/-- What Mbotum does from a service core (R9, R419): an access to memory it maps, or a write of a
table that only Mbotum writes. -/
inductive ServiceAccess
  | write (addr size data : Nat)
  | queueDesc (queue : Nat) (desc : BitVec 512)
  | flow (n : Nat) (entry : BitVec 256)
  | peer (n : Nat) (entry : BitVec 128)
  | budget (n : Nat) (entry : BitVec 512)
  | asid (n : Nat) (entry : BitVec 128)
  | spec (n : Nat) (rcd : BitVec 1024)
  | stream (n : Nat) (entry : BitVec 512)
  | wakeLine (asid line hostline : Nat) (on : Bool)
  | overflow (bytes : Nat)
  | sliceLength (ns : Nat)
  | cxlMem (on : Bool)
  | core (pos : Nat) (reserved : Bool)
  | readErrors
  deriving DecidableEq, Repr

/-- An instruction or an event: one constructor for each row of the opcode table: the 156
instruction words (R77), and the events that other agents of the device and its surroundings perform. The
last ones stand out of the table's order for the compiler's sake: it numbers no more constructors that
have arguments. -/
inductive Instr
  | iadd (o : OpA)
  | isub (o : OpA)
  | imul (o : OpA)
  | imulh (o : OpA)
  | imad (o : OpA)
  | idiv (o : OpA)
  | irem (o : OpA)
  | imin (o : OpA)
  | imax (o : OpA)
  | iabs (o : OpA)
  | and (o : OpA)
  | or (o : OpA)
  | xor (o : OpA)
  | andn (o : OpA)
  | shl (o : OpA)
  | shr (o : OpA)
  | shra (o : OpA)
  | rotl (o : OpA)
  | popc (o : OpA)
  | clz (o : OpA)
  | brev (o : OpA)
  | bfx (o : OpA)
  | bfi (o : OpA)
  | lea (o : OpA)
  | sel (o : OpSel)
  | icmp (o : OpCmp)
  | mov (o : OpA)
  | movi (o : OpL)
  | movs (o : OpMovs)
  | iaddi (o : OpI)
  | lopi (o : OpLopi)
  | fadd (o : OpA)
  | fsub (o : OpA)
  | fmul (o : OpA)
  | ffma (o : OpA)
  | fmin (o : OpA)
  | fmax (o : OpA)
  | fcmp (o : OpCmp)
  | frcp (o : OpA)
  | frsq (o : OpA)
  | fsqrt (o : OpA)
  | fdiv (o : OpA)
  | fexp2 (o : OpA)
  | flog2 (o : OpA)
  | fsin (o : OpA)
  | fcos (o : OpA)
  | ftanh (o : OpA)
  | fclass (o : OpA)
  | frnd (o : OpA)
  | cvt (o : OpCvt)
  | pack (o : OpA)
  | unpk (o : OpUnpk)
  | fdot2 (o : OpA)
  | idot4 (o : OpA)
  | afnew (o : OpAfNew)
  | afcst (o : OpAfCst)
  | afadd (o : OpAfBin)
  | afsub (o : OpAfBin)
  | afscl (o : OpAfScl)
  | afmul (o : OpAfBin)
  | afsqr (o : OpAfUn)
  | afrcp (o : OpAfUn)
  | afsqrt (o : OpAfUn)
  | afexp (o : OpAfUn)
  | afcnd (o : OpAfCnd)
  | afrng (o : OpAfRng)
  | afget (o : OpAfGet)
  | afsym (o : OpAfSym)
  | afld (o : OpAfMem)
  | afst (o : OpAfMem)
  | plop (o : OpPlop)
  | pmov (o : OpPmov)
  | vote (o : OpVote)
  | shfl (o : OpShfl)
  | gred (o : OpGroup)
  | gscan (o : OpGroup)
  | elect (o : OpElect)
  | matchLanes (o : OpMatch)
  | ld (o : OpM)
  | st (o : OpM)
  | lds (o : OpM)
  | sts (o : OpM)
  | ldk (o : OpLdk)
  | fence (o : OpFence)
  | pref (o : OpPref)
  | ldx (o : OpMX)
  | stx (o : OpMX)
  | cctl (o : OpCctl)
  | atom (o : OpN)
  | atoms (o : OpN)
  | red (o : OpN)
  | ixset (o : OpIxset)
  | bop (o : OpV)
  | cpy (o : OpQ)
  | cpym (o : OpQ)
  | cpyx (o : OpQ)
  | cpyw (o : OpQ)
  | synci (o : OpQ)
  | synca (o : OpQ)
  | syncw (o : OpQ)
  | synct (o : OpQ)
  | vadd (o : OpV)
  | vsub (o : OpV)
  | vmul (o : OpV)
  | vfma (o : OpV)
  | vmin (o : OpV)
  | vmax (o : OpV)
  | vexp (o : OpV)
  | vrsq (o : OpV)
  | vrcp (o : OpV)
  | vtanh (o : OpV)
  | vcvt (o : OpV)
  | vred (o : OpV)
  | vscan (o : OpV)
  | vgth (o : OpV)
  | vsct (o : OpV)
  | vmov (o : OpV)
  | vsel (o : OpV)
  | vcmp (o : OpV)
  | vlrec (o : OpV)
  | mma (o : OpX)
  | mmap (o : OpX)
  | mmas (o : OpX)
  | mwait (o : OpX)
  | mopr (o : OpX)
  | mzero (o : OpX)
  | mldc (o : OpX)
  | mstc (o : OpX)
  | bra (o : OpBra)
  | bri (o : OpBri)
  | call (o : OpCall)
  | ret (o : OpR)
  | exitT (o : Pred)
  | yield (o : Pred)
  | bar (o : OpBar)
  | lnch (o : OpR)
  | wwait (o : OpWwait)
  | wwake (o : OpWwake)
  | nopre (leave : Bool)
  | wend (o : Pred)
  | wemit (o : OpWemit)
  | wclose (o : Pred)
  | wpnld (o : OpPane)
  | wpnst (o : OpPane)
  | wfwd (o : OpWfwd)
  | nsend (o : OpR)
  | nrecv (o : OpR)
  | nctr (o : OpNctr)
  | trap (o : OpCode)
  | sysc (o : OpSysc)
  | eret (skip : Bool)
  | movy (o : OpMovy)
  | movyw (o : OpMovyw)
  | bkpt (o : OpCode)
  | tlbi (o : OpTlbi)
  | demotionEnd (gid : Nat) (pc : DWord)
  | groupStarved (gid : Nat)
  | trapEntry (gid : Nat)
  | translationFaultResolution (slice entry : Nat) (allow : Bool)
  | pageWalk (slice walk : Nat)
  | tlbiComplete (part id : Nat)
  | loadReturn (core n : Nat)
  | storeAcknowledgement (core : Nat)
  | atomicReturn (core n : Nat)
  | promotionRequest (line : Nat)
  | hostCxlAccess (part : Nat) (a : HostAccess)
  | groupSwapOut (gid : Nat)
  | groupResume (gid core sub : Nat)
  | launchAccept (src : LaunchSource)
  | blockPlacement (part : Nat)
  | dispatchPromiseRestore (block : Nat)
  | groupRetire (gid : Nat)
  | launchTimeout (launch : Nat)
  | launchKill (launch : Nat)
  | notify (slice : Nat) (value : DWord)
  | nopPacket (slice queue : Nat)
  | launchPacket (slice queue : Nat)
  | waitPacket (slice queue : Nat)
  | signalPacket (slice queue : Nat)
  | queueWaitRecheck (slice queue : Nat)
  | queueWaitTimeout (slice queue : Nat)
  | budgetPeriodBoundary (part : Nat)
  | nopreBudgetExpiry (gid : Nat)
  | parkedGroupResolution (gid : Nat) (resume : Bool)
  | waitEvaluation (part entry : Nat)
  | wwaitTimeout (gid lane : Nat)
  | unregisteredWaitPoll (gid lane : Nat)
  | hostWakeWrite (part : Nat) (asid : Nat) (value : DWord)
  | symbolDraw (gid : Nat)
  | copyLanding (core id landing : Nat)
  | matrixOpStart (core id : Nat)
  | matrixOperandRelease (core id : Nat)
  | matrixOpRetire (core id : Nat)
  | sweepStart (core : Nat)
  | sweepComplete (core : Nat)
  | bopComplete (core id : Nat)
  | syscNull (slice id : Nat)
  | shapeInstall (slice id slot : Nat)
  | shapeFree (slice id : Nat)
  | specInstall (slice id : Nat)
  | specRemove (slice id : Nat)
  | streamInstall (slice id : Nat) (tail : DWord)
  | mbotumService (slice id status : Nat) (res : List DWord)
  | syscReply (slice id : Nat)
  | uncorrectableError (gid : Nat) (lanes : BitVec 128) (sub : Nat) (mismatch : Bool)
  | recordIngest (part stream : Nat)
  | recordDelivery (slice spec : Nat) (key : DWord)
  | activationStart (slice core : Nat)
  | watermarkUpdate (slice stream : Nat)
  | closeEvent (slice spec : Nat) (key : DWord)
  | packetTransmission (slice msg k : Nat)
  | networkPacketArrival (slice : Nat) (p : NetPacket)
  | selectiveAckArrival (slice msg : Nat) (packets : List Nat) (noBuffer : Bool)
  | lossDetection (slice msg k : Nat)
  | connectionSetup (slice part : Nat) (r : ConnRequest)
  | imageStop (slice : Nat) (cmd : DWord)
  | imageRestore (slice : Nat) (cmd : DWord)
  | imageDiscard (slice : Nat) (cmd : DWord)
  | imageStopAndSelfTest (slice : Nat) (cmd : DWord)
  | imageMoveOut (slice : Nat) (cmd : DWord)
  | imageMoveIn (slice : Nat) (cmd : DWord)
  | imageSeal (slice : Nat)
  | imageOperationComplete (slice : Nat)
  | boundaryArrival (core : Nat) (a : Arrival)
  | selfTestComplete (slice : Nat) (pass : Bool)
  | architecturalPreemption (block : Nat)
  | tenantSliceEnd (part next : Nat)
  | partitionCreate (n : Nat) (slices : BitVec 16) (commons wsc : Nat) (keyId : Word) (verified : Bool)
  | partitionEnd (n : Nat)
  | sliceMove (slice src dst : Nat) (keep : Map Nat)
  | coopRestore (launch : Nat)
  | windowStoreSizing (slice : Nat) (counts : List Nat)
  | imageStoreSizing (part slots : Nat)
  | healthCertificate (nonce : BitVec 256) (time : Nat)
  | spdmAttestation (nonce : BitVec 256)
  | boot (verified : Bool)
  | invarAdjust (core : Nat) (slacks : List Nat)
  | binHourTick (core temp volt : Nat)
  | fieldTestSchedule (core : Nat)
  | deconfiguration (slice pair : Nat)
  | thermalThrottle (on : Bool)
  | serviceCoreMemoryAccess (slice : Nat) (a : ServiceAccess)
  | unassignedOpcode (word : DWord)
  | errorInUnconsumedData (line : Nat)
  | partitionChange (n commons wsc : Nat)
  | nop
  | thermalShutdown
  | marginMeasurement (slice sram hbm : Nat)
  deriving DecidableEq, Repr

end Sys2Proof
end

