-- ==== Sys2Proof/Machine/Formats.lean ====
section
/-! DEFINITION. The number formats by their parameters, and what small immediates and named constants
read under each type (R61, R62, R66, R96, R98). -/

namespace Sys2Proof.Machine

/-- The floating-point formats (R98). -/
inductive FloatFmt
  | f32 | bf16 | f16 | e4m3 | e5m2
  deriving DecidableEq, Repr

/-- Bits of the exponent field (R98). -/
def FloatFmt.expBits : FloatFmt → Nat
  | .f32 => 8 | .bf16 => 8 | .f16 => 5 | .e4m3 => 4 | .e5m2 => 5

/-- Bits of the fraction field (R98). -/
def FloatFmt.fracBits : FloatFmt → Nat
  | .f32 => 23 | .bf16 => 7 | .f16 => 10 | .e4m3 => 3 | .e5m2 => 2

/-- The exponent bias (R98). -/
def FloatFmt.bias : FloatFmt → Nat
  | .f32 => 127 | .bf16 => 127 | .f16 => 15 | .e4m3 => 7 | .e5m2 => 15

/-- Bits of one element (R98). -/
def FloatFmt.width (f : FloatFmt) : Nat := 1 + f.expBits + f.fracBits

/-- Whether the format has an infinity; E4M3 alone has none (R98). -/
def FloatFmt.hasInf : FloatFmt → Bool
  | .e4m3 => false
  | _ => true

/-- The pattern of the largest finite value (R98). -/
def FloatFmt.maxBits : FloatFmt → Nat
  | .f32 => 0x7F7FFFFF | .bf16 => 0x7F7F | .f16 => 0x7BFF | .e4m3 => 0x7E | .e5m2 => 0x7B

/-- The pattern of +∞, where the format has one (R98). -/
def FloatFmt.infBits : FloatFmt → Nat
  | .f32 => 0x7F800000 | .bf16 => 0x7F80 | .f16 => 0x7C00 | .e4m3 => 0x7E | .e5m2 => 0x7C

/-- The canonical NaN (R98, R101). -/
def FloatFmt.nanBits : FloatFmt → Nat
  | .f32 => 0x7FC00000 | .bf16 => 0x7FC0 | .f16 => 0x7E00 | .e4m3 => 0x7F | .e5m2 => 0x7E

/-- The pattern of the sign bit alone: -0. -/
def FloatFmt.signBit (f : FloatFmt) : Nat := 2 ^ (f.width - 1)

/-- Whether a type is a 64-bit integer held in a register pair (R96). -/
def is64 : Tag → Bool
  | .s64 | .n64 => true
  | _ => false

/-- The element format of a float type (R104). -/
def floatElem : Tag → Option FloatFmt
  | .f32 => some .f32
  | .bf16x2 => some .bf16
  | .f16x2 => some .f16
  | .e4m3x4 => some .e4m3
  | .e5m2x4 => some .e5m2
  | _ => none

/-- Elements in one register of the type (R96, R98). -/
def elems : Tag → Nat
  | .bf16x2 | .f16x2 => 2
  | .e4m3x4 | .e5m2x4 | .s8x4 | .n8x4 | .dx8x4 => 4
  | .dx4x8 => 8
  | _ => 1

/-- Bits of one element of the type. -/
def elemWidth : Tag → Nat
  | .s64 | .n64 => 64
  | .bf16x2 | .f16x2 => 16
  | .e4m3x4 | .e5m2x4 | .s8x4 | .n8x4 | .dx8x4 => 8
  | .dx4x8 => 4
  | _ => 32

/-- The same element in every place of a register (R61, R62). -/
def splat (t : Tag) (e : Nat) : Nat :=
  match elems t with
  | 2 => e + e * 2 ^ 16
  | 4 => e + e * 2 ^ 8 + e * 2 ^ 16 + e * 2 ^ 24
  | _ => e

/-- The number a small immediate stands for: its seven bits, sign-extended (R60). -/
def immValue (i : Fin 128) : Int := if i.val < 64 then (i.val : Int) else (i.val : Int) - 128

/-- An integer as a two's complement pattern of `w` bits. -/
def wrapInt (w : Nat) (x : Int) : Nat := (x % (2 ^ w : Nat)).toNat

/-- A small integer in a float format, where the format holds it exactly (R61). -/
def smallIntBits (f : FloatFmt) (x : Int) : Option Nat :=
  let m := x.natAbs
  if m = 0 then some 0
  else
    let e := Nat.log2 m
    let p := f.fracBits
    if m * 2 ^ p % 2 ^ e = 0 then
      let body := (e + f.bias) * 2 ^ p + (m * 2 ^ p / 2 ^ e - 2 ^ p)
      some (if x < 0 then f.signBit + body else body)
    else none

/-- The bits a small immediate reads as under a type, or none where the type cannot hold it
(R61). A 64-bit type gives the 64 bits of its pair. -/
def immBits (t : Tag) (i : Fin 128) : Option Nat :=
  let x := immValue i
  match t with
  | .b32 | .s32 | .n32 => some (wrapInt 32 x)
  | .s64 | .n64 => some (wrapInt 64 x)
  | .s8x4 => some (splat t (wrapInt 8 x))
  | .n8x4 => if x < 0 then none else some (splat t (wrapInt 8 x))
  | .dx8x4 | .dx4x8 => if x = 0 then some 0 else none
  | .void | .af => none
  | .f32 | .bf16x2 | .f16x2 | .e4m3x4 | .e5m2x4 =>
    match floatElem t with
    | some f => (smallIntBits f x).map (splat t)
    | none => none

/-- A named constant in a float format: its real value rounded to nearest, ties to even (R62). E4M3
has no infinity, so the two infinite constants have no pattern there. -/
def constFloat (f : FloatFmt) (c : NamedConst) : Option Nat :=
  let one := f.bias * 2 ^ f.fracBits
  match c with
  | .zero => some 0
  | .one => some one
  | .mone => some (f.signBit + one)
  | .two => some ((f.bias + 1) * 2 ^ f.fracBits)
  | .half => some ((f.bias - 1) * 2 ^ f.fracBits)
  | .inf => if f.hasInf then some f.infBits else none
  | .ninf => if f.hasInf then some (f.signBit + f.infBits) else none
  | .qnan => some f.nanBits
  | .max => some f.maxBits
  | .min => some (2 ^ f.fracBits)
  | .nzero => some f.signBit
  | .minsub => some 1
  | .pi => some (match f with
      | .f32 => 0x40490FDB | .bf16 => 0x4049 | .f16 => 0x4248 | .e4m3 => 0x45 | .e5m2 => 0x42)
  | .ln2 => some (match f with
      | .f32 => 0x3F317218 | .bf16 => 0x3F31 | .f16 => 0x398C | .e4m3 => 0x33 | .e5m2 => 0x3A)
  | .log2e => some (match f with
      | .f32 => 0x3FB8AA3B | .bf16 => 0x3FB9 | .f16 => 0x3DC5 | .e4m3 => 0x3C | .e5m2 => 0x3E)

/-- A named constant under an integer type: the integer column of R62. -/
def constInt (w : Nat) (signed : Bool) (c : NamedConst) : Option Nat :=
  match c with
  | .zero => some 0
  | .one => some 1
  | .mone => some (2 ^ w - 1)
  | .two => some 2
  | .max => some (if signed then 2 ^ (w - 1) - 1 else 2 ^ w - 1)
  | .min => some (if signed then 2 ^ (w - 1) else 0)
  | _ => none

/-- The bits a named constant reads as under a type (R62). -/
def constBits (t : Tag) (c : NamedConst) : Option Nat :=
  match t with
  | .b32 | .n32 => constInt 32 false c
  | .s32 => constInt 32 true c
  | .n64 => constInt 64 false c
  | .s64 => constInt 64 true c
  | .s8x4 => (constInt 8 true c).map (splat t)
  | .n8x4 => (constInt 8 false c).map (splat t)
  | .dx8x4 | .dx4x8 => if c = .zero then some 0 else none
  | .void | .af => none
  | .f32 | .bf16x2 | .f16x2 | .e4m3x4 | .e5m2x4 =>
    match floatElem t with
    | some f => (constFloat f c).map (splat t)
    | none => none

/-- The type under which a constant source of a store is converted (R262). -/
def storeType : MemType → Tag
  | .n8 | .n16 | .n32 => .n32
  | .s8 | .s16 | .s32 => .s32
  | .b32 => .b32
  | .f32 => .f32
  | .bf16x2 => .bf16x2
  | .f16x2 => .f16x2
  | .e4m3x4 => .e4m3x4
  | .e5m2x4 => .e5m2x4
  | .b64 | .n64 => .n64
  | .s64 => .s64
  | .b128 => .void

/-- The access size in bytes (R259). -/
def memSize : MemType → Nat
  | .n8 | .s8 => 1
  | .n16 | .s16 => 2
  | .b64 | .s64 | .n64 => 8
  | .b128 => 16
  | _ => 4

/-- Registers one operand of the memory type fills (R259). -/
def memRegs (m : MemType) : Nat := if memSize m ≤ 4 then 1 else memSize m / 4

/-- Width in bits of a special register, and whether it may be read only into a v register
(R124). -/
def srWidth : SpecialReg → Nat
  | .gang | .active => 128
  | .clock | .time | .winid | .winstart | .winend | .reckey | .rectime | .watermark => 64
  | _ => 32

/-- The registers marked "v only" (R124). -/
def srVOnly : SpecialReg → Bool
  | .lane | .active | .winid | .winstart | .winend | .reckey | .rectime | .watermark | .fpstat => true
  | _ => false

end Sys2Proof.Machine
end

