-- ==== Sys2Proof/Machine/Encodings.lean ====
section
/-! DEFINITION. Which field values each instruction accepts (R60..R79 and the chapter of each
instruction). A field value that is not accepted raises the illegal-instruction trap (R78). -/

namespace Sys2Proof.Machine

/-! ## Operands -/

/-- Whether a register is a k register. -/
def isK : Reg → Bool
  | .v _ => false
  | .k _ => true

/-- A register's number in its file. -/
def regNum : Reg → Nat
  | .v n => n.val
  | .k n => n.val

/-- Whether a register may stand as the base of a pair (R64). -/
def evenReg (r : Reg) : Bool := regNum r % 2 == 0

/-- Whether a register may stand as the first of four (R259). -/
def quadReg (r : Reg) : Bool := regNum r % 4 == 0

/-- The field value 0x000 of an operand that is not used (R71). -/
def zeroSrc : Src := .reg (.v 0)

/-- Whether a source names a v register. -/
def srcIsV : Src → Bool
  | .reg (.v _) => true
  | _ => false

/-- Whether a source names a register. -/
def srcIsReg : Src → Bool
  | .reg _ => true
  | _ => false

/-- A source operand of type `t`: a register (an even one for a 64-bit type), or a constant the
type holds (R61, R62, R64). -/
def srcOk (t : Tag) : Src → Bool
  | .reg r => !is64 t || evenReg r
  | .imm i => (immBits t i).isSome
  | .const c => (constBits t c).isSome

/-- A count operand: one register, or a constant read as n32 (R131). -/
def countOk (s : Src) : Bool := srcOk .n32 s

/-- A destination of type `t` (R63, R64). -/
def dstOk (t : Tag) (d : Reg) : Bool := !is64 t || evenReg d

/-- A uniform instruction reads no v register (R63). -/
def uniOk (d : Reg) (srcs : List Src) : Bool := !isK d || srcs.all (fun s => !srcIsV s)

/-- An address pair: an even register (R72). -/
def pairOk : Src → Bool
  | .reg r => evenReg r
  | _ => false

/-! ## Format A -/

/-- The field rules of an ordinary format A row: the accepted types, the number of sources, and
whether RM, SAT and X may be nonzero (R132, R166, R169). -/
structure RowA where
  types : List Tag
  srcs : Nat
  rm : Bool := false
  sat : Bool := false
  x : Bool := false

/-- The modifiers of a row (R67). -/
def modsOk (r : RowA) (o : OpA) : Bool :=
  r.types.contains o.t && (r.rm || o.rm == .ne) && (r.sat || !o.sat) && (r.x || !o.x)

/-- The types of the arithmetic rows (R136). -/
def arithTypes : List Tag := [.s32, .n32, .s64, .n64]

/-- The types of the rows that also take packed integers (R136). -/
def arithPacked : List Tag := [.s32, .n32, .s64, .n64, .s8x4, .n8x4]

/-- The types of the logic, shift and bit rows (R138..R140). -/
def logicTypes : List Tag := [.b32, .s32, .n32, .s64, .n64]

/-- The float types (R169). -/
def floatTypes : List Tag := [.f32, .bf16x2, .f16x2]

/-- The sources a row does not use are the v register 0, which a uniform instruction may carry
there. -/
def usedSrcs (n : Nat) (o : OpA) : List Src := [o.a, o.b, o.c].take n

/-- A row whose used sources obey the given checks. -/
def wfA (r : RowA) (okD : Reg → Bool) (okA okB okC : Src → Bool) (o : OpA) : Bool :=
  modsOk r o && okD o.d && okA o.a &&
  (if r.srcs ≥ 2 then okB o.b else o.b == zeroSrc) &&
  (if r.srcs ≥ 3 then okC o.c else o.c == zeroSrc) && uniOk o.d (usedSrcs r.srcs o)

/-- A row all of whose operands have type T. -/
def wfT (r : RowA) (o : OpA) : Bool :=
  wfA r (dstOk o.t) (srcOk o.t) (srcOk o.t) (srcOk o.t) o

/-- A shift: B is a count operand (R138). -/
def wfShift (o : OpA) : Bool :=
  wfA { types := logicTypes, srcs := 2 } (dstOk o.t) (srcOk o.t) countOk countOk o

/-- A bit count: D is a single register (R139). -/
def wfCount (o : OpA) : Bool :=
  wfA { types := logicTypes, srcs := 1 } (fun _ => true) (srcOk o.t) countOk countOk o

/-- A bit field: B and C are count operands (R140). -/
def wfField (o : OpA) : Bool :=
  wfA { types := logicTypes, srcs := 3 } (dstOk o.t) (srcOk o.t) countOk countOk o

/-- `LEA`: A and D are pairs, B one register of type T, C a count operand (R141). -/
def wfLea (o : OpA) : Bool :=
  wfA { types := [.s32, .n32], srcs := 3 } evenReg (srcOk .n64) (srcOk o.t) countOk o

/-- The types a move or a selection accepts: every code 1..14 (R143, R144). -/
def movable (t : Tag) : Bool := t != .void && t != .af

/-- `MOV` (R144). -/
def wfMov (o : OpA) : Bool :=
  o.rm == .ne && !o.sat && o.b == zeroSrc && o.c == zeroSrc && uniOk o.d [o.a] &&
  (if o.x then o.t == .void && srcIsReg o.a
   else movable o.t && dstOk o.t o.d && srcOk o.t o.a)

/-- `SEL` (R143). -/
def wfSel (o : OpSel) : Bool :=
  uniOk o.d [o.a, o.b] &&
  (if o.raw then o.t == .void && srcIsReg o.a && srcIsReg o.b
   else movable o.t && dstOk o.t o.d && srcOk o.t o.a && srcOk o.t o.b)

/-- `ICMP` (R142). -/
def wfIcmp (o : OpCmp) : Bool :=
  !o.raw && o.cc.val < 8 && uniOk o.d [o.a, o.b] && srcOk o.t o.a && srcOk o.t o.b &&
  (arithTypes.contains o.t || (o.t == .b32 && [0, 1, 6, 7].contains o.cc.val))

/-- `FCMP` (R172). -/
def wfFcmp (o : OpCmp) : Bool :=
  o.cc.val < 8 && uniOk o.d [o.a, o.b] && srcOk o.t o.a && srcOk o.t o.b && floatTypes.contains o.t

/-- The scalar types `CVT` converts (R176). -/
def cvtTypes : List Tag := [.s32, .n32, .f32, .s64, .n64]

/-- `CVT` (R176, R177). -/
def wfCvt (o : OpCvt) : Bool :=
  cvtTypes.contains o.t && cvtTypes.contains o.src && o.t != o.src && dstOk o.t o.d &&
  srcOk o.src o.a && uniOk o.d [o.a] && (!o.sat || (o.t != .f32 && o.src != .f32))

/-- The packed types of `PACK` and `UNPK` (R169). -/
def packTypes : List Tag := [.bf16x2, .f16x2, .e4m3x4, .e5m2x4, .s8x4, .n8x4]

/-- The scalar type of the elements `PACK` takes (R178). -/
def packScalar : Tag → Tag
  | .s8x4 => .s32
  | .n8x4 => .n32
  | _ => .f32

/-- `PACK` (R178). -/
def wfPack (o : OpA) : Bool :=
  packTypes.contains o.t && srcOk (packScalar o.t) o.a && srcOk (packScalar o.t) o.b &&
  (packScalar o.t == .f32 || o.rm == .ne) && uniOk o.d (usedSrcs (elems o.t) o) &&
  (if elems o.t = 2 then o.c == zeroSrc && !o.x else srcOk o.t o.c)

/-- `UNPK` (R179). -/
def wfUnpk (o : OpUnpk) : Bool :=
  packTypes.contains o.t && srcOk o.t o.a && uniOk o.d [o.a] && o.el.val < elems o.t

/-- `FDOT2` (R180). -/
def wfFdot2 (o : OpA) : Bool :=
  wfA { types := [.bf16x2, .f16x2], srcs := 3, rm := true, sat := true, x := true }
    (fun _ => true) (srcOk o.t) (srcOk o.t) (srcOk .f32) o

/-- The other signedness of a packed integer type (R181). -/
def otherSign : Tag → Tag
  | .s8x4 => .n8x4
  | _ => .s8x4

/-- The type of C and D of `IDOT4` (R181). -/
def idotAcc (t : Tag) (x : Bool) : Tag := if t = .n8x4 ∧ x = false then .n32 else .s32

/-- `IDOT4` (R181). -/
def wfIdot4 (o : OpA) : Bool :=
  wfA { types := [.s8x4, .n8x4], srcs := 3, sat := true, x := true } (fun _ => true) (srcOk o.t)
    (srcOk (if o.x then otherSign o.t else o.t)) (srcOk (idotAcc o.t o.x)) o

/-- A float row (R169). -/
def wfFloat (n : Nat) (rm sat : Bool) (o : OpA) : Bool :=
  wfT { types := floatTypes, srcs := n, rm := rm, sat := sat, x := true } o

/-- A float row of f32 alone (R169). -/
def wfFloat1 (n : Nat) (rm : Bool) (o : OpA) : Bool :=
  wfT { types := [.f32], srcs := n, rm := rm, sat := true, x := true } o

/-- `FCLASS`: D is one register tagged n32 (R173). -/
def wfFclass (o : OpA) : Bool :=
  wfA { types := floatTypes, srcs := 1, x := true } (fun _ => true) (srcOk o.t) countOk countOk o

/-! ## Formats I and L -/

/-- `MOVI` (R145). -/
def wfMovi (o : OpL) : Bool := movable o.t && dstOk o.t o.d

/-- `MOVS` (R124, R146). -/
def wfMovs (o : OpMovs) : Bool :=
  (srWidth o.sr == 32 || (srWidth o.sr == 64 && evenReg o.d) || (srWidth o.sr == 128 && quadReg o.d)) &&
  !(srVOnly o.sr && isK o.d)

/-- `IADDI` (R147). -/
def wfIaddi (o : OpI) : Bool :=
  arithTypes.contains o.t && dstOk o.t o.d && srcOk o.t o.a && uniOk o.d [o.a]

/-- `LOPI` (R148). -/
def wfLopi (o : OpLopi) : Bool :=
  logicTypes.contains o.t && dstOk o.t o.d && srcOk o.t o.a && uniOk o.d [o.a]

/-! ## Predicates and lanes -/

/-- `PMOV` (R151). -/
def wfPmov : OpPmov → Bool
  | .get _ _ => true
  | .set _ uni a _ =>
    match a with
    | .reg r => isK r == uni
    | _ => srcOk .b32 a

/-- `VOTE` (R153, R154). -/
def wfVote (o : OpVote) : Bool :=
  !isK o.d && (o.mode != 3 || (quadReg o.d && o.pd == 7))

/-- `SHFL` (R153, R155). A names a register: the instruction is untyped, and a constant has no
value without a type (log 21, DEDUCED). -/
def wfShfl (o : OpShfl) : Bool := !isK o.d && srcIsReg o.a && srcOk .n32 o.b

/-- The types of a group reduction (R156). -/
def groupTypes : GroupOp → List Tag
  | .add | .min | .max => [.s32, .n32, .f32, .s64, .n64]
  | .and | .or | .xor => [.b32, .s64, .n64]

/-- `GRED` and `GSCAN` (R153, R156). -/
def wfGroup (scan : Bool) (o : OpGroup) : Bool :=
  !isK o.d && (groupTypes o.op).contains o.t && dstOk o.t o.d && srcOk o.t o.a &&
  (scan || !o.exc) && (o.rm == .ne || (o.t == .f32 && o.op == .add)) &&
  (!o.sat || (o.op == .add && o.t != .f32))

/-- `MATCH` (R153, R157). -/
def wfMatch (o : OpMatch) : Bool :=
  !isK o.d && quadReg o.d && [Tag.b32, .s64, .n64].contains o.t && srcOk o.t o.a

/-- `IXSET` (R269). -/
def wfIxset (o : OpIxset) : Bool := srcOk .n32 o.a && srcOk .n32 o.b

/-! ## Affine instructions (R189) -/

/-- `AFNEW` (R189, R196). -/
def wfAfNew (o : OpAfNew) : Bool := srcOk .f32 o.a && srcOk .f32 o.b

/-- `AFRNG`: D is an even v register (R199). -/
def wfAfRng (o : OpAfRng) : Bool := !isK o.d && evenReg o.d

/-- `AFGET` (R199). -/
def wfAfGet (o : OpAfGet) : Bool :=
  !isK o.d && (if o.selg = 2 then srcOk .n32 o.b else o.b == zeroSrc)

/-- `AFSYM`: uniform, with a source for `.size` and `.mode` only: a k register or an immediate (R189,
R202). -/
def wfAfSym (o : OpAfSym) : Bool :=
  isK o.d &&
  (if o.sop = 0 ∨ o.sop = 2 then
     !srcIsV o.a && srcOk .n32 o.a && (match o.a with | .const _ => false | _ => true)
   else o.a == zeroSrc)

/-- `AFLD` and `AFST` (R200, R201). -/
def wfAfMem (store : Bool) (o : OpAfMem) : Bool :=
  (if store then o.ord == .plain || o.ord == .rel else o.ord == .plain || o.ord == .acq) &&
  (match o.ab with
   | .reg r => evenReg r
   | .const .zero => o.sc == .blk && o.ord == .plain && o.ch == .norm
   | _ => false)

/-! ## Memory instructions (R257) -/

/-- The register operand of a memory type: its alignment in register numbers (R259). -/
def memRegOk (m : MemType) (r : Reg) : Bool := regNum r % memRegs m == 0

/-- A load's order (R68). -/
def loadOrd (o : Order) : Bool := o == .plain || o == .acq

/-- A store's order (R68). -/
def storeOrd (o : Order) : Bool := o == .plain || o == .rel

/-- The source of a store (R262). -/
def storeSrcOk (m : MemType) : Src → Bool
  | .reg r => memRegOk m r
  | .imm i => (immBits (storeType m) i).isSome
  | .const c => (constBits (storeType m) c).isSome

/-- `LD`: uniform with a k destination, and then its address is a k pair (R257). -/
def wfLd (o : OpM) : Bool :=
  loadOrd o.ord && pairOk o.ab &&
  (match o.ds with
   | .reg d => memRegOk o.mt d && uniOk d [o.ab]
   | _ => false)

/-- `ST` (R257, R262). -/
def wfSt (o : OpM) : Bool := storeOrd o.ord && pairOk o.ab && storeSrcOk o.mt o.ds

/-- `LDS` (R257, R258). -/
def wfLds (o : OpM) : Bool :=
  loadOrd o.ord && srcIsReg o.ab &&
  (match o.ds with
   | .reg (.v n) => memRegOk o.mt (.v n)
   | _ => false)

/-- `STS` (R257, R258). -/
def wfSts (o : OpM) : Bool := storeOrd o.ord && srcIsReg o.ab && storeSrcOk o.mt o.ds

/-- `LDK` (R264). -/
def wfLdk (o : OpLdk) : Bool :=
  isK o.d && loadOrd o.ord &&
  (match o.ab with
   | .reg r => isK r && evenReg r
   | .const .zero => true
   | _ => false)

/-- Memory types whose codes are 0..11 (R270). -/
def memType12 : MemType → Bool
  | .b64 | .b128 | .s64 | .n64 => false
  | _ => true

/-- `LDX` and `STX` (R257, R270). -/
def wfMX (store : Bool) (o : OpMX) : Bool :=
  memType12 o.mt && pairOk o.ab && (if store then storeOrd o.ord else loadOrd o.ord)

/-- `CCTL` (R273). -/
def wfCctl (o : OpCctl) : Bool :=
  if o.cop.val ≥ 2 then o.ab == zeroSrc && o.off == 0#19 else pairOk o.ab

/-- The types an atomic operation accepts (R73). -/
def atomTypes : AtomOp → List Tag
  | .add | .min | .max => [.s32, .n32, .s64, .n64]
  | .and | .or | .xor | .exch | .cas => [.b32, .s64, .n64]
  | .inc | .dec => [.n32]
  | .fadd | .fmin | .fmax => [.f32]
  | .bf16add => [.bf16x2]
  | .f16add => [.f16x2]

/-- The operand B of an atomic (R73, R266). -/
def atomSrcOk (op : AtomOp) (t : Tag) (b : Src) : Bool :=
  if op = .cas then
    match b with
    | .reg r => if is64 t then evenReg r && (if isK r then regNum r ≤ 1020 else regNum r ≤ 252)
                else (if isK r then regNum r < 1023 else regNum r < 255)
    | _ => false
  else srcOk t b

/-- `ATOM` (R257, R266). -/
def wfAtom (o : OpN) : Bool :=
  (atomTypes o.aop).contains o.t && pairOk o.a && atomSrcOk o.aop o.t o.b && dstOk o.t o.d &&
  uniOk o.d [o.a, o.b]

/-- `ATOMS` (R257, R266). -/
def wfAtoms (o : OpN) : Bool :=
  (atomTypes o.aop).contains o.t && srcIsReg o.a && atomSrcOk o.aop o.t o.b && dstOk o.t o.d &&
  !isK o.d

/-- `RED` (R73, R257, R266). -/
def wfRed (o : OpN) : Bool :=
  (atomTypes o.aop).contains o.t && pairOk o.a && atomSrcOk o.aop o.t o.b && o.d == .v 0 &&
  o.aop != .exch && o.aop != .cas && storeOrd o.ord

/-! ## Sweeps (R74, R280) -/

/-- An operand that a sweep does not use (R276). -/
def unused1 (n : Fin 512) (st : Fin 8) : Bool := n.val == 0 && st.val == 0

/-- The types of the arithmetic sweeps (R280). -/
def sweepTypes : List Tag := [.f32, .bf16x2, .f16x2, .s32, .n32]

/-- A sweep of two sources with a list of types and a bound on MOD. -/
def wfV2 (types : List Tag) (modMax : Nat) (o : OpV) : Bool :=
  o.cnt.val != 0 && types.contains o.t && o.mod.val ≤ modMax

/-- A sweep of one source. -/
def wfV1 (types : List Tag) (modMax : Nat) (o : OpV) : Bool :=
  wfV2 types modMax o && unused1 o.ks2 o.st2

/-- The formats `VCVT` converts (R284). -/
def vcvtTypes : List Tag :=
  [.f32, .bf16x2, .f16x2, .e4m3x4, .e5m2x4, .s32, .n32, .dx8x4, .dx4x8]

/-- Whether a type is an Electrum format (R107). -/
def isElectrum : Tag → Bool
  | .dx8x4 | .dx4x8 => true
  | _ => false

/-- The type with a code (R66). -/
def tagOf (n : Nat) : Tag :=
  match n % 16 with
  | 0 => .void | 1 => .b32 | 2 => .s32 | 3 => .n32 | 4 => .f32 | 5 => .bf16x2 | 6 => .f16x2
  | 7 => .e4m3x4 | 8 => .e5m2x4 | 9 => .s8x4 | 10 => .n8x4 | 11 => .dx8x4 | 12 => .dx4x8
  | 13 => .s64 | 14 => .n64 | _ => .af

/-- `VCVT` (R284). -/
def wfVcvt (o : OpV) : Bool :=
  let dst := tagOf o.mod.val
  o.cnt.val != 0 && vcvtTypes.contains o.t && vcvtTypes.contains dst && o.t != dst &&
  !(isElectrum o.t && isElectrum dst) &&
  (isElectrum o.t || isElectrum dst || unused1 o.ks2 o.st2)

/-- `VRED` (R280, R286). -/
def wfVred (o : OpV) : Bool :=
  wfV1 [.f32, .s32, .n32] 15 o && o.std.val == 0 && o.mod.val % 4 < 3 && o.mod.val / 4 % 2 == 0

/-- `VSCAN` (R280, R286). -/
def wfVscan (o : OpV) : Bool :=
  wfV2 [.f32, .s32, .n32] 7 o && o.st2.val == 0 && o.mod.val % 4 < 3

/-- `VGTH` (R280, R287). -/
def wfVgth (o : OpV) : Bool := wfV2 [.b32] 2 o && o.st2.val == 0

/-- `VSCT` (R280, R287). -/
def wfVsct (o : OpV) : Bool := wfV2 [.b32] 2 o && o.std.val == 0

/-- `VLREC` (R280, R288). -/
def wfVlrec (o : OpV) : Bool := wfV2 [.f32] 0 o && o.st1.val != 7 && o.st2.val == 0

/-- `BOP` (R293). -/
def wfBop (o : OpV) : Bool :=
  if o.mod.val ≤ 5 then wfV2 sweepTypes 5 o
  else if o.mod.val = 6 then wfV1 [.b32] 6 o
  else wfV2 [.b32] 9 o

/-! ## Matrix instructions (R212, R214) -/

/-- The accepted pairs of operand formats (R212). -/
def matPair : MatFmt → MatFmt → Bool
  | .bf16, .bf16 => true
  | .f16, .f16 => true
  | .e4m3, .e4m3 | .e4m3, .e5m2 | .e5m2, .e4m3 | .e5m2, .e5m2 => true
  | .dx8, .dx8 | .dx8, .dx4 | .dx4, .dx8 | .dx4, .dx4 => true
  | _, _ => false

/-- Whether a matrix format is an Electrum format. -/
def matElectrum : MatFmt → Bool
  | .dx8 | .dx4 => true
  | _ => false

/-- `MMA`, `MMAP` and `MMAS` (R214). -/
def wfMma (sparse : Bool) (o : OpX) : Bool :=
  matPair o.fa o.fb && (sparse || o.km.val == 0) && !(o.ta && (matElectrum o.fa || sparse))

/-- A matrix instruction that names no format (R214). -/
def wfXplain (o : OpX) : Bool := o.fa == .bf16 && o.fb == .bf16 && !o.ta

/-- `MWAIT`: ZERO is `.all`, and then no tile is named (R214, R71). -/
def wfMwait (o : OpX) : Bool :=
  wfXplain o && o.ka.val == 0 && o.kb.val == 0 && o.km.val == 0 && o.kn.val == 0 &&
  (!o.zero || o.mt.val == 0)

/-- `MOPR` (R214). -/
def wfMopr (o : OpX) : Bool :=
  wfXplain o && o.mt.val == 0 && o.ka.val == 0 && o.kb.val == 0 && o.km.val == 0 &&
  o.kn.val == 0 && !o.zero

/-- `MZERO` (R214). -/
def wfMzero (o : OpX) : Bool :=
  wfXplain o && o.ka.val == 0 && o.kb.val == 0 && o.km.val == 0 && o.kn.val == 0 && !o.zero

/-- `MLDC` (R214). -/
def wfMldc (o : OpX) : Bool :=
  wfXplain o && o.kb.val == 0 && o.km.val == 0 && o.kn.val == 0 && !o.zero

/-- `MSTC`: KN holds SAT and BIAS (R214). -/
def wfMstc (o : OpX) : Bool :=
  wfXplain o && o.kn.val < 4 && (o.kn.val / 2 == 1 || o.km.val == 0)

/-! ## Format Q (R295, R372) -/

/-- `CPY` (R295). -/
def wfCpy (o : OpQ) : Bool := o.mask.val == 0 && o.dir.val < 2

/-- `CPYM` (R295). -/
def wfCpym (o : OpQ) : Bool := o.mask.val != 0 && o.dir.val == 0

/-- `CPYX` (R295). -/
def wfCpyx (o : OpQ) : Bool := o.mask.val == 0 && o.dir.val == 0

/-- `CPYW` (R295). -/
def wfCpyw (o : OpQ) : Bool := o.mask.val == 0 && o.dir.val == 0 && o.seg.val == 0

/-- The fields that every sync instruction leaves zero (R372). -/
def wfSync (o : OpQ) : Bool := o.dir.val == 0 && o.seg.val == 0

/-- `SYNCI` (R372). -/
def wfSynci (o : OpQ) : Bool := wfSync o && o.mask.val == 0

/-- `SYNCA` (R372). -/
def wfSynca (o : OpQ) : Bool := wfSync o && o.kd.val == 0

/-- `SYNCT` (R372, R374). -/
def wfSynct (o : OpQ) : Bool := wfSync o && o.mask.val == 0 && o.ks.val == 0 && o.kd.val % 2 == 0

/-! ## Formats C, W and S -/

/-- `BRI` (R159). -/
def wfBri (o : OpBri) : Bool := evenReg o.a && (!o.qpred || isK o.a)

/-- `CALL` (R159, R161). -/
def wfCall (o : OpCall) : Bool :=
  !isK o.sp && evenReg o.sp &&
  (match o.target with
   | .direct _ => true
   | .indirect r => evenReg r)

/-- `WWAIT` (R360). -/
def wfWwait (o : OpWwait) : Bool :=
  evenReg o.a && o.cc.val < 6 && srcOk (if o.w64 then .n64 else .n32) o.b &&
  (o.tmo || o.k.val == 0) && uniOk o.a [o.b]

/-- `WEMIT` (R345). -/
def wfWemit (o : OpWemit) : Bool :=
  !isK o.key && evenReg o.key && !isK o.time && evenReg o.time && o.first.val ≤ 244

/-- `WPNLD` and `WPNST` (R345). -/
def wfPane (o : OpPane) : Bool :=
  !isK o.a &&
  (match o.b with
   | .reg r => !isK r
   | .imm _ => true
   | .const _ => false)

/-- `WFWD` (R345). -/
def wfWfwd (o : OpWfwd) : Bool :=
  if o.keep then o.a == .v 0 else !isK o.a && evenReg o.a

/-- `SYSC` (R386). -/
def wfSysc (o : OpSysc) : Bool := evenReg o.a && uniOk o.d [.reg o.a]

/-- System registers of 64 bits (R127). -/
def sysWide : SysReg → Bool
  | .trapbase | .trapframe => true
  | _ => false

/-- `MOVY`: a register that an instruction reads (R76, R127). -/
def wfMovy (o : OpMovy) : Bool := o.sys != .fpclear && (!sysWide o.sys || evenReg o.d)

/-- `MOVYW`: a register that an instruction writes (R76, R127). -/
def wfMovyw (o : OpMovyw) : Bool :=
  (match o.sys with
   | .trapbase | .noprebudget | .budgetperiod | .fpclear => true
   | _ => false) && srcOk (if sysWide o.sys then .n64 else .n32) o.a

/-- `TLBI` (R386). -/
def wfTlbi (o : OpTlbi) : Bool :=
  match o.scope.val with
  | 0 => evenReg o.a && isK o.d == isK o.a
  | 1 => o.a == .v 0
  | 2 => o.a == .v 0 && o.d == .v 0
  | _ => false

/-! ## Every instruction -/

/-- Whether an instruction's fields take only values its chapter accepts. An event has no fields of
a word, and is always accepted. -/
def wfInstr : Instr → Bool
  | .nop => true
  | .iadd o | .isub o => wfT { types := arithPacked, srcs := 2, sat := true } o
  | .imul o => wfT { types := arithTypes, srcs := 2, sat := true } o
  | .imulh o => wfT { types := arithTypes, srcs := 2 } o
  | .imad o => wfT { types := arithTypes, srcs := 3, sat := true } o
  | .idiv o => wfT { types := arithTypes, srcs := 2, sat := true } o
  | .irem o => wfT { types := arithTypes, srcs := 2 } o
  | .imin o | .imax o => wfT { types := arithPacked, srcs := 2 } o
  | .iabs o => wfT { types := [.s32, .s64, .s8x4], srcs := 1, sat := true } o
  | .and o | .or o | .xor o | .andn o => wfT { types := logicTypes, srcs := 2 } o
  | .shl o | .shr o | .shra o | .rotl o => wfShift o
  | .popc o | .clz o => wfCount o
  | .brev o => wfT { types := logicTypes, srcs := 1 } o
  | .bfx o | .bfi o => wfField o
  | .lea o => wfLea o
  | .sel o => wfSel o
  | .icmp o => wfIcmp o
  | .mov o => wfMov o
  | .movi o => wfMovi o
  | .movs o => wfMovs o
  | .iaddi o => wfIaddi o
  | .lopi o => wfLopi o
  | .fadd o | .fsub o | .fmul o => wfFloat 2 true true o
  | .ffma o => wfFloat 3 true true o
  | .fmin o | .fmax o => wfFloat 2 false false o
  | .fcmp o => wfFcmp o
  | .frcp o | .frsq o => wfFloat1 1 false o
  | .fsqrt o => wfFloat1 1 true o
  | .fdiv o => wfFloat1 2 true o
  | .fexp2 o | .flog2 o | .fsin o | .fcos o | .ftanh o => wfFloat1 1 false o
  | .fclass o => wfFclass o
  | .frnd o => wfFloat 1 true false o
  | .cvt o => wfCvt o
  | .pack o => wfPack o
  | .unpk o => wfUnpk o
  | .fdot2 o => wfFdot2 o
  | .idot4 o => wfIdot4 o
  | .afnew o => wfAfNew o
  | .afcst o => srcOk .f32 o.a
  | .afadd _ | .afsub _ | .afmul _ => true
  | .afscl o => srcOk .f32 o.s && srcOk .f32 o.t
  | .afsqr _ | .afrcp _ | .afsqrt _ | .afexp _ => true
  | .afcnd o => srcOk .n32 o.k
  | .afrng o => wfAfRng o
  | .afget o => wfAfGet o
  | .afsym o => wfAfSym o
  | .afld o => wfAfMem false o
  | .afst o => wfAfMem true o
  | .plop _ => true
  | .pmov o => wfPmov o
  | .vote o => wfVote o
  | .shfl o => wfShfl o
  | .gred o => wfGroup false o
  | .gscan o => wfGroup true o
  | .elect _ => true
  | .matchLanes o => wfMatch o
  | .ld o => wfLd o
  | .st o => wfSt o
  | .lds o => wfLds o
  | .sts o => wfSts o
  | .ldk o => wfLdk o
  | .fence _ => true
  | .pref o => pairOk o.ab
  | .ldx o => wfMX false o
  | .stx o => wfMX true o
  | .cctl o => wfCctl o
  | .atom o => wfAtom o
  | .atoms o => wfAtoms o
  | .red o => wfRed o
  | .ixset o => wfIxset o
  | .bop o => wfBop o
  | .cpy o => wfCpy o
  | .cpym o => wfCpym o
  | .cpyx o => wfCpyx o
  | .cpyw o => wfCpyw o
  | .synci o | .syncw o => wfSynci o
  | .synca o => wfSynca o
  | .synct o => wfSynct o
  | .vadd o | .vsub o | .vmul o | .vfma o => wfV2 sweepTypes 1 o
  | .vmin o | .vmax o => wfV2 sweepTypes 0 o
  | .vexp o | .vrsq o | .vrcp o | .vtanh o => wfV1 floatTypes 1 o
  | .vcvt o => wfVcvt o
  | .vred o => wfVred o
  | .vscan o => wfVscan o
  | .vgth o => wfVgth o
  | .vsct o => wfVsct o
  | .vmov o => wfV1 [.b32] 0 o
  | .vsel o => wfV2 [.b32] 0 o
  | .vcmp o => wfV2 sweepTypes 7 o
  | .vlrec o => wfVlrec o
  | .mma o | .mmap o => wfMma false o
  | .mmas o => wfMma true o
  | .mwait o => wfMwait o
  | .mopr o => wfMopr o
  | .mzero o => wfMzero o
  | .mldc o => wfMldc o
  | .mstc o => wfMstc o
  | .bra _ => true
  | .bri o => wfBri o
  | .call o => wfCall o
  | .ret o => !isK o.a && evenReg o.a
  | .exitT _ | .yield _ | .bar _ => true
  | .lnch o => evenReg o.a
  | .wwait o => wfWwait o
  | .wwake o => evenReg o.a
  | .nopre _ => true
  | .wend _ | .wclose _ => true
  | .wemit o => wfWemit o
  | .wpnld o | .wpnst o => wfPane o
  | .wfwd o => wfWfwd o
  | .nsend o | .nrecv o => evenReg o.a
  | .nctr o => evenReg o.a && o.sel.val < 8
  | .trap _ | .eret _ | .bkpt _ => true
  | .sysc o => wfSysc o
  | .movy o => wfMovy o
  | .movyw o => wfMovyw o
  | .tlbi o => wfTlbi o
  | .demotionEnd _ _ => true
  | .groupStarved _ => true
  | .trapEntry _ => true
  | .translationFaultResolution _ _ _ => true
  | .pageWalk _ _ => true
  | .tlbiComplete _ _ => true
  | .loadReturn _ _ => true
  | .storeAcknowledgement _ => true
  | .atomicReturn _ _ => true
  | .promotionRequest _ => true
  | .hostCxlAccess _ _ => true
  | .groupSwapOut _ => true
  | .groupResume _ _ _ => true
  | .launchAccept _ => true
  | .blockPlacement _ => true
  | .dispatchPromiseRestore _ => true
  | .groupRetire _ => true
  | .launchTimeout _ => true
  | .launchKill _ => true
  | .notify _ _ => true
  | .nopPacket _ _ => true
  | .launchPacket _ _ => true
  | .waitPacket _ _ => true
  | .signalPacket _ _ => true
  | .queueWaitRecheck _ _ => true
  | .queueWaitTimeout _ _ => true
  | .budgetPeriodBoundary _ => true
  | .nopreBudgetExpiry _ => true
  | .parkedGroupResolution _ _ => true
  | .waitEvaluation _ _ => true
  | .wwaitTimeout _ _ => true
  | .unregisteredWaitPoll _ _ => true
  | .hostWakeWrite _ _ _ => true
  | .symbolDraw _ => true
  | .copyLanding _ _ _ => true
  | .matrixOpStart _ _ => true
  | .matrixOperandRelease _ _ => true
  | .matrixOpRetire _ _ => true
  | .sweepStart _ => true
  | .sweepComplete _ => true
  | .bopComplete _ _ => true
  | .syscNull _ _ => true
  | .shapeInstall _ _ _ => true
  | .shapeFree _ _ => true
  | .specInstall _ _ => true
  | .specRemove _ _ => true
  | .streamInstall _ _ _ => true
  | .mbotumService _ _ _ _ => true
  | .syscReply _ _ => true
  | .uncorrectableError _ _ _ _ => true
  | .recordIngest _ _ => true
  | .recordDelivery _ _ _ => true
  | .activationStart _ _ => true
  | .watermarkUpdate _ _ => true
  | .closeEvent _ _ _ => true
  | .packetTransmission _ _ _ => true
  | .networkPacketArrival _ _ => true
  | .selectiveAckArrival _ _ _ _ => true
  | .lossDetection _ _ _ => true
  | .connectionSetup _ _ _ => true
  | .imageStop _ _ => true
  | .imageRestore _ _ => true
  | .imageDiscard _ _ => true
  | .imageStopAndSelfTest _ _ => true
  | .imageMoveOut _ _ => true
  | .imageMoveIn _ _ => true
  | .imageSeal _ => true
  | .boundaryArrival _ _ => true
  | .selfTestComplete _ _ => true
  | .architecturalPreemption _ => true
  | .tenantSliceEnd _ _ => true
  | .partitionCreate _ _ _ _ _ _ => true
  | .partitionEnd _ => true
  | .sliceMove _ _ _ _ => true
  | .coopRestore _ => true
  | .windowStoreSizing _ _ => true
  | .imageStoreSizing _ _ => true
  | .healthCertificate _ _ => true
  | .spdmAttestation _ => true
  | .boot _ => true
  | .invarAdjust _ _ => true
  | .binHourTick _ _ _ => true
  | .fieldTestSchedule _ => true
  | .deconfiguration _ _ => true
  | .thermalThrottle _ => true
  | .thermalShutdown => true
  | .serviceCoreMemoryAccess _ _ => true
  | .unassignedOpcode _ => true
  | .errorInUnconsumedData _ => true
  | .partitionChange _ _ _ => true
  | .imageOperationComplete _ => true
  | .marginMeasurement _ _ _ => true

end Sys2Proof.Machine
end

