-- ==== Sys2Proof/WellFormed.lean ====
section
/-! DEFINITION. Which instructions are well-formed: those whose fields take only values that the
spec accepts (R78). -/

namespace Sys2Proof

/-- The check of R78 on an instruction's fields. -/
abbrev Instr.wf (i : Instr) : Bool := Machine.wfInstr i

/-- An instruction whose every field takes a value that its chapter accepts. -/
abbrev Instr.WellFormed (i : Instr) : Prop := i.wf = true

end Sys2Proof
end

