-- ==== Sys2Proof/Decode.lean ====
section
/-! DEFINITION. The decoder: an instruction word to an instruction, or a refusal by name (R52, R71,
R77, R78); after it the encoder, from the same tables of fields. -/

namespace Sys2Proof

/-! ## Fields -/

/-- The values of consecutive fields of a word, lowest field first, given their widths. -/
def unpack : List Nat → Nat → List Nat
  | [], _ => []
  | b :: bs, w => w % 2 ^ b :: unpack bs (w / 2 ^ b)

/-- A field's value as a number below `n`. -/
def finOf (n : Nat) [NeZero n] (x : Nat) : Fin n := Fin.ofNat n x

/-- The word with the given fields, lowest first, each a width and a value. -/
def pack : List (Nat × Nat) → Nat
  | [] => 0
  | (b, x) :: fs => x % 2 ^ b + 2 ^ b * pack fs

/-- Why a word is refused. Every one of these raises the illegal-instruction trap (R78). -/
inductive DecodeError
  /-- The major opcode is not assigned (R77). -/
  | unassigned
  /-- A header word stands where an instruction must (R55). -/
  | header
  /-- A reserved operand specifier (R60). -/
  | reservedSpecifier
  /-- A field that must name a register does not (R63, R64). -/
  | notARegister
  /-- A field that must be zero, or that the instruction does not use, is not zero (R71). -/
  | mbz
  /-- A reserved code (R66..R76). -/
  | reservedCode
  /-- A combination of values that the instruction does not accept (R76, R78). -/
  | forbidden
  deriving DecidableEq, Repr

/-- A decoded part of a word, or the refusal. -/
abbrev Dec (α : Type) := Except DecodeError α

/-- A condition that a word must meet. -/
def need (b : Bool) (e : DecodeError) : Dec Unit := if b then .ok () else .error e

/-! ## Operand specifiers and codes (R60..R70) -/

/-- The named constants in specifier order (R62). -/
def constCode : NamedConst → Nat
  | .zero => 0 | .one => 1 | .mone => 2 | .two => 3 | .half => 4 | .inf => 5 | .ninf => 6
  | .qnan => 7 | .max => 8 | .min => 9 | .pi => 10 | .ln2 => 11 | .log2e => 12 | .nzero => 13
  | .minsub => 14

/-- The named constant with a number (R62). -/
def constOf : Nat → Option NamedConst
  | 0 => some .zero | 1 => some .one | 2 => some .mone | 3 => some .two | 4 => some .half
  | 5 => some .inf | 6 => some .ninf | 7 => some .qnan | 8 => some .max | 9 => some .min
  | 10 => some .pi | 11 => some .ln2 | 12 => some .log2e | 13 => some .nzero | 14 => some .minsub
  | _ => none

/-- The specifier of a register (R60). -/
def regCode : Reg → Nat
  | .v n => n.val
  | .k n => 0x400 + n.val

/-- The specifier of an operand (R60). -/
def srcCode : Src → Nat
  | .reg r => regCode r
  | .imm i => 0x100 + i.val
  | .const c => 0x180 + constCode c

/-- The operand a specifier names (R60). -/
def srcOf (n : Nat) : Dec Src :=
  if h : n < 256 then .ok (.reg (.v ⟨n, h⟩))
  else if h : n - 0x100 < 128 then .ok (.imm ⟨n - 0x100, h⟩)
  else if n < 0x400 then
    match constOf (n - 0x180) with
    | some c => .ok (.const c)
    | none => .error .reservedSpecifier
  else if h : n - 0x400 < 1024 then .ok (.reg (.k ⟨n - 0x400, h⟩))
  else .error .reservedSpecifier

/-- The register a specifier names (R63). -/
def regOf (n : Nat) : Dec Reg :=
  match srcOf n with
  | .ok (.reg r) => .ok r
  | .ok _ => .error .notARegister
  | .error e => .error e

/-- An affine register named by its first v register (R64). -/
def afCode (r : Fin 4) : Nat := 192 + 16 * r.val

/-- The affine register a specifier names (R64). -/
def afOf (n : Nat) : Dec (Fin 4) :=
  match n with
  | 192 => .ok 0
  | 208 => .ok 1
  | 224 => .ok 2
  | 240 => .ok 3
  | _ => .error .notARegister

/-- The code of a predicate field (R65). -/
def predCode (p : Pred) : Nat := (if p.neg then 8 else 0) + p.ps.val

/-- The predicate of a 4-bit field (R65). -/
def predOf (n : Nat) : Pred := ⟨n / 8 % 2 == 1, finOf 8 n⟩

/-- A one-bit field. -/
def boolCode (b : Bool) : Nat := if b then 1 else 0

/-- The value of a one-bit field. -/
def boolOf (n : Nat) : Bool := n == 1

/-- The type code of a tag (R66). -/
def tagCode : Tag → Nat
  | .void => 0 | .b32 => 1 | .s32 => 2 | .n32 => 3 | .f32 => 4 | .bf16x2 => 5 | .f16x2 => 6
  | .e4m3x4 => 7 | .e5m2x4 => 8 | .s8x4 => 9 | .n8x4 => 10 | .dx8x4 => 11 | .dx4x8 => 12
  | .s64 => 13 | .n64 => 14 | .af => 15

/-- The tag with a type code (R66). -/
def tagOf (n : Nat) : Tag := Machine.tagOf n

/-- The memory type codes (R66). -/
def mtCode : MemType → Nat
  | .n8 => 0 | .s8 => 1 | .n16 => 2 | .s16 => 3 | .b32 => 4 | .s32 => 5 | .n32 => 6 | .f32 => 7
  | .bf16x2 => 8 | .f16x2 => 9 | .e4m3x4 => 10 | .e5m2x4 => 11 | .b64 => 12 | .b128 => 13
  | .s64 => 14 | .n64 => 15

/-- The memory type with a code (R66). -/
def mtOf (n : Nat) : MemType :=
  match n with
  | 0 => .n8 | 1 => .s8 | 2 => .n16 | 3 => .s16 | 4 => .b32 | 5 => .s32 | 6 => .n32 | 7 => .f32
  | 8 => .bf16x2 | 9 => .f16x2 | 10 => .e4m3x4 | 11 => .e5m2x4 | 12 => .b64 | 13 => .b128
  | 14 => .s64 | _ => .n64

/-- The rounding codes (R67). -/
def rndCode : Rnd → Nat
  | .ne => 0 | .tz => 1 | .up => 2 | .dn => 3

/-- The rounding mode with a code (R67). -/
def rndOf (n : Nat) : Rnd :=
  match n with
  | 0 => .ne | 1 => .tz | 2 => .up | _ => .dn

/-- The scope codes (R68). -/
def scopeCode : Scope → Nat
  | .blk => 0 | .core => 1 | .quad => 2 | .part => 3 | .sys => 4

/-- The scope with a code (R68). -/
def scopeOf (n : Nat) : Dec Scope :=
  match n with
  | 0 => .ok .blk | 1 => .ok .core | 2 => .ok .quad | 3 => .ok .part | 4 => .ok .sys
  | _ => .error .reservedCode

/-- The order codes (R68). -/
def orderCode : Order → Nat
  | .plain => 0 | .acq => 1 | .rel => 2 | .ar => 3

/-- The order with a code (R68). -/
def orderOf (n : Nat) : Order :=
  match n with
  | 0 => .plain | 1 => .acq | 2 => .rel | _ => .ar

/-- The cache hint codes (R69). -/
def hintCode : Hint → Nat
  | .norm => 0 | .strm => 1 | .keep => 2 | .nol1 => 3

/-- The cache hint with a code (R69). -/
def hintOf (n : Nat) : Hint :=
  match n with
  | 0 => .norm | 1 => .strm | 2 => .keep | _ => .nol1

/-- The numbers of the special registers (R124). -/
def srCode : SpecialReg → Nat
  | .lane => 0x00 | .group => 0x01 | .block => 0x02 | .blockdim => 0x03 | .blkx => 0x04
  | .blky => 0x05 | .blkz => 0x06 | .launch => 0x07 | .core => 0x08 | .pairpos => 0x09
  | .quadpos => 0x0A | .gang => 0x0B | .active => 0x0C | .clock => 0x0D | .time => 0x0E
  | .winid => 0x0F | .winstart => 0x10 | .winend => 0x11 | .reckey => 0x12 | .rectime => 0x13
  | .watermark => 0x14 | .progress => 0x15 | .fpstat => 0x16 | .afnext => 0x17 | .afmode => 0x18
  | .trapcause => 0x19 | .rev => 0x1A

/-- The special register with a number (R124). -/
def srOf (n : Nat) : Dec SpecialReg :=
  match n with
  | 0x00 => .ok .lane | 0x01 => .ok .group | 0x02 => .ok .block | 0x03 => .ok .blockdim
  | 0x04 => .ok .blkx | 0x05 => .ok .blky | 0x06 => .ok .blkz | 0x07 => .ok .launch
  | 0x08 => .ok .core | 0x09 => .ok .pairpos | 0x0A => .ok .quadpos | 0x0B => .ok .gang
  | 0x0C => .ok .active | 0x0D => .ok .clock | 0x0E => .ok .time | 0x0F => .ok .winid
  | 0x10 => .ok .winstart | 0x11 => .ok .winend | 0x12 => .ok .reckey | 0x13 => .ok .rectime
  | 0x14 => .ok .watermark | 0x15 => .ok .progress | 0x16 => .ok .fpstat | 0x17 => .ok .afnext
  | 0x18 => .ok .afmode | 0x19 => .ok .trapcause | 0x1A => .ok .rev
  | _ => .error .reservedCode

/-- The numbers of the system registers (R127). -/
def sysCode : SysReg → Nat
  | .trapbase => 0 | .trapframe => 1 | .noprebudget => 2 | .budgetperiod => 3 | .partid => 4
  | .tenant => 5 | .gentag => 6 | .fpclear => 7

/-- The system register with a number (R127). -/
def sysOf (n : Nat) : Dec SysReg :=
  match n with
  | 0 => .ok .trapbase | 1 => .ok .trapframe | 2 => .ok .noprebudget | 3 => .ok .budgetperiod
  | 4 => .ok .partid | 5 => .ok .tenant | 6 => .ok .gentag | 7 => .ok .fpclear
  | _ => .error .reservedCode

/-- The codes of the atomic operations (R73). -/
def aopCode : AtomOp → Nat
  | .add => 0 | .min => 1 | .max => 2 | .and => 3 | .or => 4 | .xor => 5 | .exch => 6 | .cas => 7
  | .inc => 8 | .dec => 9 | .fadd => 10 | .fmin => 11 | .fmax => 12 | .bf16add => 13
  | .f16add => 14

/-- The atomic operation with a code (R73). -/
def aopOf (n : Nat) : Dec AtomOp :=
  match n with
  | 0 => .ok .add | 1 => .ok .min | 2 => .ok .max | 3 => .ok .and | 4 => .ok .or | 5 => .ok .xor
  | 6 => .ok .exch | 7 => .ok .cas | 8 => .ok .inc | 9 => .ok .dec | 10 => .ok .fadd
  | 11 => .ok .fmin | 12 => .ok .fmax | 13 => .ok .bf16add | 14 => .ok .f16add
  | _ => .error .reservedCode

/-- The codes of the group reductions (R156). -/
def gopCode : GroupOp → Nat
  | .add => 0 | .min => 1 | .max => 2 | .and => 3 | .or => 4 | .xor => 5

/-- The group reduction with a code (R156). -/
def gopOf (n : Nat) : Dec GroupOp :=
  match n with
  | 0 => .ok .add | 1 => .ok .min | 2 => .ok .max | 3 => .ok .and | 4 => .ok .or | 5 => .ok .xor
  | _ => .error .reservedCode

/-- The codes of the matrix formats (R75). -/
def matCode : MatFmt → Nat
  | .bf16 => 0 | .f16 => 1 | .e4m3 => 2 | .e5m2 => 3 | .dx8 => 4 | .dx4 => 5

/-- The matrix format with a code (R75). -/
def matOf (n : Nat) : Dec MatFmt :=
  match n with
  | 0 => .ok .bf16 | 1 => .ok .f16 | 2 => .ok .e4m3 | 3 => .ok .e5m2 | 4 => .ok .dx8
  | 5 => .ok .dx4
  | _ => .error .reservedCode

/-- The specifier of a participation mask (R152). -/
def maskCode : LaneMask → Nat
  | .gang => 0x180
  | .all => 0x182
  | .kregs n => 0x400 + 4 * n.val

/-- The participation mask of field C (R152). -/
def maskOf (n : Nat) : Dec LaneMask :=
  if n = 0x180 then .ok .gang
  else if n = 0x182 then .ok .all
  else if h : 0x400 ≤ n ∧ n % 4 = 0 ∧ (n - 0x400) / 4 < 256 then .ok (.kregs ⟨(n - 0x400) / 4, h.2.2⟩)
  else .error .reservedSpecifier

/-! ## The layouts, lowest field first (R71) -/

/-- Format A. -/
def wdA : List Nat := [1, 1, 2, 4, 11, 11, 11, 11, 4, 8]
/-- Format A with CC and PD in C (R142, R172). -/
def wdCmp : List Nat := [1, 1, 2, 4, 4, 3, 4, 11, 11, 11, 4, 8]
/-- Format A with INV and PSEL in C (R143). -/
def wdSel : List Nat := [1, 1, 2, 4, 7, 3, 1, 11, 11, 11, 4, 8]
/-- Format A with ST in B (R176). -/
def wdCvt : List Nat := [1, 1, 2, 4, 11, 4, 7, 11, 11, 4, 8]
/-- Format A with EL in B (R179). -/
def wdUnpk : List Nat := [1, 1, 2, 4, 11, 2, 9, 11, 11, 4, 8]
/-- Format A with predicate numbers in A and B (R150). -/
def wdPlop : List Nat := [1, 1, 2, 4, 11, 8, 3, 2, 3, 3, 3, 11, 4, 8]
/-- Format A with MASK in C (R151). -/
def wdPmov : List Nat := [1, 1, 2, 4, 7, 4, 11, 11, 11, 4, 8]
/-- Format A with PSRC, NEG, MODE and PD in A and B (R154). -/
def wdVote : List Nat := [1, 1, 2, 4, 11, 8, 3, 5, 2, 1, 3, 11, 4, 8]
/-- Format A with GOP and EXC in B (R156). -/
def wdGroup : List Nat := [1, 1, 2, 4, 11, 6, 1, 4, 11, 11, 4, 8]
/-- Format A with PD in B (R157, R158). -/
def wdMatch : List Nat := [1, 1, 2, 4, 11, 8, 3, 11, 11, 4, 8]
/-- Format A with IXN in C (R269). -/
def wdIxset : List Nat := [1, 1, 2, 4, 2, 9, 11, 11, 11, 4, 8]
/-- Format A with one control bit in [18] (R189). -/
def wdAf1 : List Nat := [1, 1, 2, 4, 10, 1, 11, 11, 11, 4, 8]
/-- Format A with two control bits in [18:17] (R189). -/
def wdAf2 : List Nat := [1, 1, 2, 4, 9, 2, 11, 11, 11, 4, 8]
/-- Format I. -/
def wdI : List Nat := [26, 4, 11, 11, 4, 8]
/-- Format I with LOP and VAL (R148). -/
def wdLopi : List Nat := [24, 2, 4, 11, 11, 4, 8]
/-- Format L. -/
def wdL : List Nat := [32, 5, 4, 11, 4, 8]
/-- Format M. -/
def wdM : List Nat := [19, 2, 2, 3, 4, 11, 11, 4, 8]
/-- Format M with IXN and the index register in DS (R270). -/
def wdMX : List Nat := [19, 2, 2, 3, 4, 11, 8, 1, 2, 4, 8]
/-- Format N. -/
def wdN : List Nat := [5, 2, 3, 4, 5, 11, 11, 11, 4, 8]
/-- Format V. -/
def wdV : List Nat := [4, 3, 9, 3, 9, 3, 9, 4, 12, 8]
/-- Format X. -/
def wdX : List Nat := [5, 1, 1, 6, 4, 4, 10, 10, 10, 5, 8]
/-- Format C. -/
def wdC : List Nat := [32, 5, 11, 4, 4, 8]
/-- Format C with a register in DISP[10:0] (R159). -/
def wdCall : List Nat := [11, 21, 5, 11, 4, 4, 8]
/-- Format Q. -/
def wdQ : List Nat := [12, 2, 4, 4, 10, 10, 10, 4, 8]
/-- Format W. -/
def wdW : List Nat := [20, 10, 11, 11, 4, 8]
/-- Format W of `WWAIT` (R360). -/
def wdWwait : List Nat := [3, 1, 1, 3, 1, 11, 10, 11, 11, 4, 8]
/-- Format W of `WWAKE` (R360). -/
def wdWwake : List Nat := [1, 19, 10, 11, 11, 4, 8]
/-- Format W of `WEMIT` (R345). -/
def wdWemit : List Nat := [8, 12, 10, 11, 11, 4, 8]
/-- Format W of `WFWD` (R345). -/
def wdWfwd : List Nat := [12, 1, 7, 10, 11, 11, 4, 8]
/-- Format W of `NCTR` (R327). -/
def wdNctr : List Nat := [4, 4, 12, 10, 11, 11, 4, 8]
/-- Format S. -/
def wdS : List Nat := [16, 14, 11, 11, 4, 8]

/-- A word of a layout: the values of its fields, lowest first. -/
def mk (ws xs : List Nat) : Nat := pack (ws.zip xs)

/-! ## Reading each shape, with the writer of the same shape beside it -/

/-- Reading the shape `A` (R71). -/
def rdA (w : Nat) : Dec OpA := do
  match unpack wdA w with
  | [x, sat, rm, t, c, b, a, d, p, _] =>
    return ⟨predOf p, ← regOf d, ← srcOf a, ← srcOf b, ← srcOf c, tagOf t, rndOf rm, boolOf sat,
      boolOf x⟩
  | _ => .error .mbz
/-- Writing the shape `A` (R71). -/
def wrA (op : Nat) (o : OpA) : Nat :=
  mk wdA [boolCode o.x, boolCode o.sat, rndCode o.rm, tagCode o.t, srcCode o.c, srcCode o.b,
    srcCode o.a, regCode o.d, predCode o.pred, op]

/-- Reading the shape `Sel` (R71). -/
def rdSel (w : Nat) : Dec OpSel := do
  match unpack wdSel w with
  | [x, sat, rm, t, z, ps, inv, b, a, d, p, _] =>
    need (sat == 0 && rm == 0 && z == 0) .mbz
    return ⟨predOf p, ← regOf d, ← srcOf a, ← srcOf b, boolOf inv, finOf 8 ps, tagOf t, boolOf x⟩
  | _ => .error .mbz
/-- Writing the shape `Sel` (R71). -/
def wrSel (op : Nat) (o : OpSel) : Nat :=
  mk wdSel [boolCode o.raw, 0, 0, tagCode o.t, 0, o.psel.val, boolCode o.inv, srcCode o.b,
    srcCode o.a, regCode o.d, predCode o.pred, op]

/-- Reading the shape `Cmp` (R71). -/
def rdCmp (w : Nat) : Dec OpCmp := do
  match unpack wdCmp w with
  | [x, sat, rm, t, z, pd, cc, b, a, d, p, _] =>
    need (sat == 0 && rm == 0 && z == 0) .mbz
    return ⟨predOf p, ← regOf d, ← srcOf a, ← srcOf b, finOf 16 cc, finOf 8 pd, tagOf t,
      boolOf x⟩
  | _ => .error .mbz
/-- Writing the shape `Cmp` (R71). -/
def wrCmp (op : Nat) (o : OpCmp) : Nat :=
  mk wdCmp [boolCode o.raw, 0, 0, tagCode o.t, 0, o.pd.val, o.cc.val, srcCode o.b, srcCode o.a,
    regCode o.d, predCode o.pred, op]

/-- Reading the shape `Cvt` (R71). -/
def rdCvt (w : Nat) : Dec OpCvt := do
  match unpack wdCvt w with
  | [x, sat, rm, t, c, st, z, a, d, p, _] =>
    need (c == 0 && z == 0) .mbz
    return ⟨predOf p, ← regOf d, ← srcOf a, tagOf st, tagOf t, rndOf rm, boolOf sat, boolOf x⟩
  | _ => .error .mbz
/-- Writing the shape `Cvt` (R71). -/
def wrCvt (op : Nat) (o : OpCvt) : Nat :=
  mk wdCvt [boolCode o.raw, boolCode o.sat, rndCode o.rm, tagCode o.t, 0, tagCode o.src, 0,
    srcCode o.a, regCode o.d, predCode o.pred, op]

/-- Reading the shape `Unpk` (R71). -/
def rdUnpk (w : Nat) : Dec OpUnpk := do
  match unpack wdUnpk w with
  | [x, sat, rm, t, c, el, z, a, d, p, _] =>
    need (x == 0 && sat == 0 && rm == 0 && c == 0 && z == 0) .mbz
    return ⟨predOf p, ← regOf d, ← srcOf a, finOf 4 el, tagOf t⟩
  | _ => .error .mbz
/-- Writing the shape `Unpk` (R71). -/
def wrUnpk (op : Nat) (o : OpUnpk) : Nat :=
  mk wdUnpk [0, 0, 0, tagCode o.t, 0, o.el.val, 0, srcCode o.a, regCode o.d, predCode o.pred, op]

/-- Reading the shape `Plop` (R71). -/
def rdPlop (w : Nat) : Dec OpPlop := do
  match unpack wdPlop w with
  | [x, sat, rm, t, c, lut, pd, z, pc, pb, pa, d, p, _] =>
    need (x == 0 && sat == 0 && rm == 0 && t == 0 && c == 0 && z == 0) .mbz
    need (d == 0 || d == 0x400) .notARegister
    return ⟨predOf p, d == 0x400, finOf 8 pa, finOf 8 pb, finOf 8 pc, finOf 8 pd,
      BitVec.ofNat 8 lut⟩
  | _ => .error .mbz
/-- Writing the shape `Plop` (R71). -/
def wrPlop (op : Nat) (o : OpPlop) : Nat :=
  mk wdPlop [0, 0, 0, 0, 0, o.lut.toNat, o.pd.val, 0, o.pc.val, o.pb.val, o.pa.val,
    (if o.uni then 0x400 else 0), predCode o.pred, op]

/-- Reading the shape `Pmov` (R71). -/
def rdPmov (w : Nat) : Dec OpPmov := do
  match unpack wdPmov w with
  | [x, sat, rm, t, mask, z, b, a, d, p, _] =>
    need (sat == 0 && rm == 0 && t == 0 && b == 0 && z == 0) .mbz
    if x == 0 then
      need (mask == 0 && a == 0) .mbz
      return .get (predOf p) (← regOf d)
    else
      need (d == 0 || d == 0x400) .notARegister
      return .set (predOf p) (d == 0x400) (← srcOf a) (finOf 128 mask)
  | _ => .error .mbz
/-- Writing the shape `Pmov` (R71). -/
def wrPmov (op : Nat) : OpPmov → Nat
  | .get p d => mk wdPmov [0, 0, 0, 0, 0, 0, 0, 0, regCode d, predCode p, op]
  | .set p uni a mask =>
    mk wdPmov [1, 0, 0, 0, mask.val, 0, 0, srcCode a, (if uni then 0x400 else 0), predCode p, op]

/-- Reading the shape `Vote` (R71). -/
def rdVote (w : Nat) : Dec OpVote := do
  match unpack wdVote w with
  | [x, sat, rm, t, c, z1, pd, z2, mode, neg, ps, d, p, _] =>
    need (x == 0 && sat == 0 && rm == 0 && t == 0 && z1 == 0 && z2 == 0) .mbz
    return ⟨predOf p, ← regOf d, finOf 8 ps, boolOf neg, finOf 4 mode, finOf 8 pd,
      ← maskOf c⟩
  | _ => .error .mbz
/-- Writing the shape `Vote` (R71). -/
def wrVote (op : Nat) (o : OpVote) : Nat :=
  mk wdVote [0, 0, 0, 0, maskCode o.mask, 0, o.pd.val, 0, o.mode.val, boolCode o.neg, o.psrc.val,
    regCode o.d, predCode o.pred, op]

/-- Reading the shape `Shfl` (R71). -/
def rdShfl (w : Nat) : Dec OpShfl := do
  match unpack wdA w with
  | [x, sat, rm, t, c, b, a, d, p, _] =>
    need (x == 0 && sat == 0 && rm == 0) .mbz
    need (t < 4) .reservedCode
    return ⟨predOf p, ← regOf d, ← srcOf a, ← srcOf b, finOf 4 t, ← maskOf c⟩
  | _ => .error .mbz
/-- Writing the shape `Shfl` (R71). -/
def wrShfl (op : Nat) (o : OpShfl) : Nat :=
  mk wdA [0, 0, 0, o.mode.val, maskCode o.mask, srcCode o.b, srcCode o.a, regCode o.d,
    predCode o.pred, op]

/-- Reading the shape `Group` (R71). -/
def rdGroup (w : Nat) : Dec OpGroup := do
  match unpack wdGroup w with
  | [x, sat, rm, t, c, z, exc, gop, a, d, p, _] =>
    need (x == 0 && z == 0) .mbz
    return ⟨predOf p, ← regOf d, ← srcOf a, ← gopOf gop, boolOf exc, ← maskOf c, tagOf t, rndOf rm,
      boolOf sat⟩
  | _ => .error .mbz
/-- Writing the shape `Group` (R71). -/
def wrGroup (op : Nat) (o : OpGroup) : Nat :=
  mk wdGroup [0, boolCode o.sat, rndCode o.rm, tagCode o.t, maskCode o.mask, 0, boolCode o.exc,
    gopCode o.op, srcCode o.a, regCode o.d, predCode o.pred, op]

/-- Reading the shape `Match` (R71). -/
def rdMatch (w : Nat) : Dec OpMatch := do
  match unpack wdMatch w with
  | [x, sat, rm, t, c, z, pd, a, d, p, _] =>
    need (x == 0 && sat == 0 && rm == 0 && z == 0) .mbz
    return ⟨predOf p, ← regOf d, ← srcOf a, finOf 8 pd, ← maskOf c, tagOf t⟩
  | _ => .error .mbz
/-- Writing the shape `Match` (R71). -/
def wrMatch (op : Nat) (o : OpMatch) : Nat :=
  mk wdMatch [0, 0, 0, tagCode o.t, maskCode o.mask, 0, o.pd.val, srcCode o.a, regCode o.d,
    predCode o.pred, op]

/-- Reading the shape `Elect` (R71). -/
def rdElect (w : Nat) : Dec OpElect := do
  match unpack wdMatch w with
  | [x, sat, rm, t, c, z, pd, a, d, p, _] =>
    need (x == 0 && sat == 0 && rm == 0 && z == 0 && t == 0 && a == 0) .mbz
    return ⟨predOf p, ← regOf d, finOf 8 pd, ← maskOf c⟩
  | _ => .error .mbz
/-- Writing the shape `Elect` (R71). -/
def wrElect (op : Nat) (o : OpElect) : Nat :=
  mk wdMatch [0, 0, 0, 0, maskCode o.mask, 0, o.pd.val, 0, regCode o.d, predCode o.pred, op]

/-- Reading the shape `Ixset` (R71). -/
def rdIxset (w : Nat) : Dec OpIxset := do
  match unpack wdIxset w with
  | [x, sat, rm, t, ixn, z, b, a, d, p, _] =>
    need (x == 0 && sat == 0 && rm == 0 && z == 0 && d == 0) .mbz
    need (t == 3) .reservedCode
    return ⟨predOf p, ← srcOf a, ← srcOf b, finOf 4 ixn⟩
  | _ => .error .mbz
/-- Writing the shape `Ixset` (R71). -/
def wrIxset (op : Nat) (o : OpIxset) : Nat :=
  mk wdIxset [0, 0, 0, 3, o.ixn.val, 0, srcCode o.b, srcCode o.a, 0, predCode o.pred, op]

/-- Reading the shape `AfNew` (R71). -/
def rdAfNew (w : Nat) : Dec OpAfNew := do
  match unpack wdAf1 w with
  | [x, sat, rm, t, z, cw, b, a, d, p, _] =>
    need (x == 0 && sat == 0 && rm == 0 && z == 0) .mbz
    need (t == 15) .reservedCode
    return ⟨predOf p, ← afOf d, ← srcOf a, ← srcOf b, boolOf cw⟩
  | _ => .error .mbz
/-- Writing the shape `AfNew` (R71). -/
def wrAfNew (op : Nat) (o : OpAfNew) : Nat :=
  mk wdAf1 [0, 0, 0, 15, 0, boolCode o.cw, srcCode o.b, srcCode o.a, afCode o.d, predCode o.pred, op]

/-- Reading the shape `AfCst` (R71). -/
def rdAfCst (w : Nat) : Dec OpAfCst := do
  match unpack wdA w with
  | [x, sat, rm, t, c, b, a, d, p, _] =>
    need (x == 0 && sat == 0 && rm == 0 && c == 0 && b == 0) .mbz
    need (t == 15) .reservedCode
    return ⟨predOf p, ← afOf d, ← srcOf a⟩
  | _ => .error .mbz
/-- Writing the shape `AfCst` (R71). -/
def wrAfCst (op : Nat) (o : OpAfCst) : Nat :=
  mk wdA [0, 0, 0, 15, 0, 0, srcCode o.a, afCode o.d, predCode o.pred, op]

/-- Reading the shape `AfBin` (R71). -/
def rdAfBin (w : Nat) : Dec OpAfBin := do
  match unpack wdA w with
  | [x, sat, rm, t, c, b, a, d, p, _] =>
    need (sat == 0 && rm == 0 && c == 0) .mbz
    need (t == 15) .reservedCode
    return ⟨predOf p, ← afOf d, ← afOf a, ← afOf b, boolOf x⟩
  | _ => .error .mbz
/-- Writing the shape `AfBin` (R71). -/
def wrAfBin (op : Nat) (o : OpAfBin) : Nat :=
  mk wdA [boolCode o.raw, 0, 0, 15, 0, afCode o.b, afCode o.a, afCode o.d, predCode o.pred, op]

/-- Reading the shape `AfScl` (R71). -/
def rdAfScl (w : Nat) : Dec OpAfScl := do
  match unpack wdA w with
  | [x, sat, rm, t, c, b, a, d, p, _] =>
    need (sat == 0 && rm == 0) .mbz
    need (t == 15) .reservedCode
    return ⟨predOf p, ← afOf d, ← afOf a, ← srcOf b, ← srcOf c, boolOf x⟩
  | _ => .error .mbz
/-- Writing the shape `AfScl` (R71). -/
def wrAfScl (op : Nat) (o : OpAfScl) : Nat :=
  mk wdA [boolCode o.raw, 0, 0, 15, srcCode o.t, srcCode o.s, afCode o.a, afCode o.d,
    predCode o.pred, op]

/-- Reading the shape `AfUn` (R71). -/
def rdAfUn (w : Nat) : Dec OpAfUn := do
  match unpack wdA w with
  | [x, sat, rm, t, c, b, a, d, p, _] =>
    need (sat == 0 && rm == 0 && c == 0 && b == 0) .mbz
    need (t == 15) .reservedCode
    return ⟨predOf p, ← afOf d, ← afOf a, boolOf x⟩
  | _ => .error .mbz
/-- Writing the shape `AfUn` (R71). -/
def wrAfUn (op : Nat) (o : OpAfUn) : Nat :=
  mk wdA [boolCode o.raw, 0, 0, 15, 0, 0, afCode o.a, afCode o.d, predCode o.pred, op]

/-- Reading the shape `AfCnd` (R71). -/
def rdAfCnd (w : Nat) : Dec OpAfCnd := do
  match unpack wdAf1 w with
  | [x, sat, rm, t, z, tor, b, a, d, p, _] =>
    need (sat == 0 && rm == 0 && z == 0) .mbz
    need (t == 15) .reservedCode
    return ⟨predOf p, ← afOf d, ← afOf a, ← srcOf b, boolOf tor, boolOf x⟩
  | _ => .error .mbz
/-- Writing the shape `AfCnd` (R71). -/
def wrAfCnd (op : Nat) (o : OpAfCnd) : Nat :=
  mk wdAf1 [boolCode o.raw, 0, 0, 15, 0, boolCode o.tor, srcCode o.k, afCode o.a, afCode o.d,
    predCode o.pred, op]

/-- Reading the shape `AfRng` (R71). -/
def rdAfRng (w : Nat) : Dec OpAfRng := do
  match unpack wdA w with
  | [x, sat, rm, t, c, b, a, d, p, _] =>
    need (sat == 0 && rm == 0 && c == 0 && b == 0) .mbz
    need (t == 4) .reservedCode
    return ⟨predOf p, ← regOf d, ← afOf a, boolOf x⟩
  | _ => .error .mbz
/-- Writing the shape `AfRng` (R71). -/
def wrAfRng (op : Nat) (o : OpAfRng) : Nat :=
  mk wdA [boolCode o.raw, 0, 0, 4, 0, 0, afCode o.a, regCode o.d, predCode o.pred, op]

/-- Reading the shape `AfGet` (R71). -/
def rdAfGet (w : Nat) : Dec OpAfGet := do
  match unpack wdAf2 w with
  | [x, sat, rm, t, z, selg, b, a, d, p, _] =>
    need (sat == 0 && rm == 0 && z == 0) .mbz
    need (t == (if selg == 3 then 3 else 4)) .reservedCode
    return ⟨predOf p, ← regOf d, ← afOf a, ← srcOf b, finOf 4 selg, boolOf x⟩
  | _ => .error .mbz
/-- Writing the shape `AfGet` (R71). -/
def wrAfGet (op : Nat) (o : OpAfGet) : Nat :=
  mk wdAf2 [boolCode o.raw, 0, 0, (if o.selg.val == 3 then 3 else 4), 0, o.selg.val, srcCode o.b,
    afCode o.a, regCode o.d, predCode o.pred, op]

/-- Reading the shape `AfSym` (R71). -/
def rdAfSym (w : Nat) : Dec OpAfSym := do
  match unpack wdAf2 w with
  | [x, sat, rm, t, z, sop, b, a, d, p, _] =>
    need (x == 0 && sat == 0 && rm == 0 && z == 0 && b == 0) .mbz
    need (t == 3) .reservedCode
    return ⟨predOf p, ← regOf d, ← srcOf a, finOf 4 sop⟩
  | _ => .error .mbz
/-- Writing the shape `AfSym` (R71). -/
def wrAfSym (op : Nat) (o : OpAfSym) : Nat :=
  mk wdAf2 [0, 0, 0, 3, 0, o.sop.val, 0, srcCode o.a, regCode o.d, predCode o.pred, op]

/-- Reading the shape `I` (R71). -/
def rdI (w : Nat) : Dec OpI := do
  match unpack wdI w with
  | [imm, t, a, d, p, _] =>
    return ⟨predOf p, ← regOf d, ← srcOf a, tagOf t, BitVec.ofNat 26 imm⟩
  | _ => .error .mbz
/-- Writing the shape `I` (R71). -/
def wrI (op : Nat) (o : OpI) : Nat :=
  mk wdI [o.imm.toNat, tagCode o.t, srcCode o.a, regCode o.d, predCode o.pred, op]

/-- Reading the shape `Lopi` (R71). -/
def rdLopi (w : Nat) : Dec OpLopi := do
  match unpack wdLopi w with
  | [val, lop, t, a, d, p, _] =>
    return ⟨predOf p, ← regOf d, ← srcOf a, tagOf t, finOf 4 lop, BitVec.ofNat 24 val⟩
  | _ => .error .mbz
/-- Writing the shape `Lopi` (R71). -/
def wrLopi (op : Nat) (o : OpLopi) : Nat :=
  mk wdLopi [o.val.toNat, o.lop.val, tagCode o.t, srcCode o.a, regCode o.d, predCode o.pred, op]

/-- Reading the shape `Movs` (R71). -/
def rdMovs (w : Nat) : Dec OpMovs := do
  match unpack wdI w with
  | [imm, t, a, d, p, _] =>
    need (t == 0 && a == 0) .mbz
    return ⟨predOf p, ← regOf d, ← srOf imm⟩
  | _ => .error .mbz
/-- Writing the shape `Movs` (R71). -/
def wrMovs (op : Nat) (o : OpMovs) : Nat :=
  mk wdI [srCode o.sr, 0, 0, regCode o.d, predCode o.pred, op]

/-- Reading the shape `L` (R71). -/
def rdL (w : Nat) : Dec OpL := do
  match unpack wdL w with
  | [imm, z, t, d, p, _] =>
    need (z == 0) .mbz
    return ⟨predOf p, ← regOf d, tagOf t, BitVec.ofNat 32 imm⟩
  | _ => .error .mbz
/-- Writing the shape `L` (R71). -/
def wrL (op : Nat) (o : OpL) : Nat :=
  mk wdL [o.imm.toNat, 0, tagCode o.t, regCode o.d, predCode o.pred, op]

/-- Reading the shape `M` (R71). -/
def rdM (w : Nat) : Dec OpM := do
  match unpack wdM w with
  | [off, ch, ord, sc, mt, ab, ds, p, _] =>
    return ⟨predOf p, ← srcOf ds, ← srcOf ab, mtOf mt, ← scopeOf sc, orderOf ord, hintOf ch,
      BitVec.ofNat 19 off⟩
  | _ => .error .mbz
/-- Writing the shape `M` (R71). -/
def wrM (op : Nat) (o : OpM) : Nat :=
  mk wdM [o.off.toNat, hintCode o.ch, orderCode o.ord, scopeCode o.sc, mtCode o.mt, srcCode o.ab,
    srcCode o.ds, predCode o.pred, op]

/-- Reading the shape `Ldk` (R71). -/
def rdLdk (w : Nat) : Dec OpLdk := do
  match unpack wdM w with
  | [off, ch, ord, sc, mt, ab, ds, p, _] =>
    return ⟨predOf p, ← regOf ds, ← srcOf ab, finOf 16 mt, ← scopeOf sc, orderOf ord, hintOf ch,
      BitVec.ofNat 19 off⟩
  | _ => .error .mbz
/-- Writing the shape `Ldk` (R71). -/
def wrLdk (op : Nat) (o : OpLdk) : Nat :=
  mk wdM [o.off.toNat, hintCode o.ch, orderCode o.ord, scopeCode o.sc, o.cntm1.val, srcCode o.ab,
    regCode o.d, predCode o.pred, op]

/-- Reading the shape `MX` (R71). -/
def rdMX (w : Nat) : Dec OpMX := do
  match unpack wdMX w with
  | [off, ch, ord, sc, mt, ab, idx, z, ixn, p, _] =>
    need (z == 0) .mbz
    return ⟨predOf p, finOf 4 ixn, finOf 256 idx, ← srcOf ab, mtOf mt, ← scopeOf sc,
      orderOf ord, hintOf ch, BitVec.ofNat 19 off⟩
  | _ => .error .mbz
/-- Writing the shape `MX` (R71). -/
def wrMX (op : Nat) (o : OpMX) : Nat :=
  mk wdMX [o.off.toNat, hintCode o.ch, orderCode o.ord, scopeCode o.sc, mtCode o.mt, srcCode o.ab,
    o.idx.val, 0, o.ixn.val, predCode o.pred, op]

/-- Reading the shape `Fence` (R71). -/
def rdFence (w : Nat) : Dec OpFence := do
  match unpack wdM w with
  | [off, ch, ord, sc, mt, ab, ds, p, _] =>
    need (off == 0 && ch == 0 && mt == 0 && ab == 0 && ds == 0) .mbz
    return ⟨predOf p, ← scopeOf sc, orderOf ord⟩
  | _ => .error .mbz
/-- Writing the shape `Fence` (R71). -/
def wrFence (op : Nat) (o : OpFence) : Nat :=
  mk wdM [0, 0, orderCode o.ord, scopeCode o.sc, 0, 0, 0, predCode o.pred, op]

/-- Reading the shape `Pref` (R71). -/
def rdPref (w : Nat) : Dec OpPref := do
  match unpack wdM w with
  | [off, ch, ord, sc, mt, ab, ds, p, _] =>
    need (ord == 0 && mt == 0 && ds == 0) .mbz
    return ⟨predOf p, ← srcOf ab, ← scopeOf sc, hintOf ch, BitVec.ofNat 19 off⟩
  | _ => .error .mbz
/-- Writing the shape `Pref` (R71). -/
def wrPref (op : Nat) (o : OpPref) : Nat :=
  mk wdM [o.off.toNat, hintCode o.ch, 0, scopeCode o.sc, 0, srcCode o.ab, 0, predCode o.pred, op]

/-- Reading the shape `Cctl` (R71). -/
def rdCctl (w : Nat) : Dec OpCctl := do
  match unpack wdM w with
  | [off, ch, ord, sc, mt, ab, ds, p, _] =>
    need (ord == 0 && ds == 0) .mbz
    need (mt < 4) .reservedCode
    return ⟨predOf p, finOf 4 mt, ← srcOf ab, ← scopeOf sc, hintOf ch, BitVec.ofNat 19 off⟩
  | _ => .error .mbz
/-- Writing the shape `Cctl` (R71). -/
def wrCctl (op : Nat) (o : OpCctl) : Nat :=
  mk wdM [o.off.toNat, hintCode o.ch, 0, scopeCode o.sc, o.cop.val, srcCode o.ab, 0,
    predCode o.pred, op]

/-- Reading the shape `AfMem` (R71). -/
def rdAfMem (w : Nat) : Dec OpAfMem := do
  match unpack wdM w with
  | [off, ch, ord, sc, mt, ab, ds, p, _] =>
    need (mt == 0) .mbz
    return ⟨predOf p, ← afOf ds, ← srcOf ab, ← scopeOf sc, orderOf ord, hintOf ch,
      BitVec.ofNat 19 off⟩
  | _ => .error .mbz
/-- Writing the shape `AfMem` (R71). -/
def wrAfMem (op : Nat) (o : OpAfMem) : Nat :=
  mk wdM [o.off.toNat, hintCode o.ch, orderCode o.ord, scopeCode o.sc, 0, srcCode o.ab, afCode o.r,
    predCode o.pred, op]

/-- Reading the shape `N` (R71). -/
def rdN (w : Nat) : Dec OpN := do
  match unpack wdN w with
  | [z, ord, sc, t, aop, b, a, d, p, _] =>
    need (z == 0) .mbz
    return ⟨predOf p, ← regOf d, ← srcOf a, ← srcOf b, ← aopOf aop, tagOf t, ← scopeOf sc,
      orderOf ord⟩
  | _ => .error .mbz
/-- Writing the shape `N` (R71). -/
def wrN (op : Nat) (o : OpN) : Nat :=
  mk wdN [0, orderCode o.ord, scopeCode o.sc, tagCode o.t, aopCode o.aop, srcCode o.b, srcCode o.a,
    regCode o.d, predCode o.pred, op]

/-- Reading the shape `V` (R71). -/
def rdV (w : Nat) : Dec OpV := do
  match unpack wdV w with
  | [mod, st2, ks2, st1, ks1, std, kd, t, cnt, _] =>
    return ⟨finOf 4096 cnt, tagOf t, finOf 512 kd, finOf 8 std, finOf 512 ks1,
      finOf 8 st1, finOf 512 ks2, finOf 8 st2, finOf 16 mod⟩
  | _ => .error .mbz
/-- Writing the shape `V` (R71). -/
def wrV (op : Nat) (o : OpV) : Nat :=
  mk wdV [o.mod.val, o.st2.val, o.ks2.val, o.st1.val, o.ks1.val, o.std.val, o.kd.val, tagCode o.t,
    o.cnt.val, op]

/-- Reading the shape `X` (R71). -/
def rdX (w : Nat) : Dec OpX := do
  match unpack wdX w with
  | [z, ta, zb, kn, fb, fa, km, kb, ka, mt, _] =>
    need (z == 0) .mbz
    return ⟨finOf 32 mt, finOf 1024 ka, finOf 1024 kb, finOf 1024 km, ← matOf fa,
      ← matOf fb, finOf 64 kn, boolOf zb, boolOf ta⟩
  | _ => .error .mbz
/-- Writing the shape `X` (R71). -/
def wrX (op : Nat) (o : OpX) : Nat :=
  mk wdX [0, boolCode o.ta, boolCode o.zero, o.kn.val, matCode o.fb, matCode o.fa, o.km.val,
    o.kb.val, o.ka.val, o.mt.val, op]

/-- Reading the shape `Q` (R71). -/
def rdQ (w : Nat) : Dec OpQ := do
  match unpack wdQ w with
  | [seg, dir, t, mask, ky, ks, kd, p, _] =>
    need (t == 0) .mbz
    return ⟨predOf p, finOf 1024 kd, finOf 1024 ks, finOf 1024 ky, finOf 16 mask,
      finOf 4 dir, finOf 4096 seg⟩
  | _ => .error .mbz
/-- Writing the shape `Q` (R71). -/
def wrQ (op : Nat) (o : OpQ) : Nat :=
  mk wdQ [o.seg.val, o.dir.val, 0, o.mask.val, o.ky.val, o.ks.val, o.kd.val, predCode o.pred, op]

/-- Reading the shape `Bra` (R71). -/
def rdBra (w : Nat) : Dec OpBra := do
  match unpack wdC w with
  | [disp, z, a, mode, p, _] =>
    need (z == 0 && a == 0) .mbz
    need (mode < 2) .reservedCode
    return ⟨predOf p, boolOf mode, BitVec.ofNat 32 disp⟩
  | _ => .error .mbz
/-- Writing the shape `Bra` (R71). -/
def wrBra (op : Nat) (o : OpBra) : Nat :=
  mk wdC [o.disp.toNat, 0, 0, boolCode o.qpred, predCode o.pred, op]

/-- Reading the shape `Bri` (R71). -/
def rdBri (w : Nat) : Dec OpBri := do
  match unpack wdC w with
  | [disp, z, a, mode, p, _] =>
    need (z == 0 && disp == 0) .mbz
    need (mode < 2) .reservedCode
    return ⟨predOf p, boolOf mode, ← regOf a⟩
  | _ => .error .mbz
/-- Writing the shape `Bri` (R71). -/
def wrBri (op : Nat) (o : OpBri) : Nat :=
  mk wdC [0, 0, regCode o.a, boolCode o.qpred, predCode o.pred, op]

/-- Reading the shape `Call` (R71). -/
def rdCall (w : Nat) : Dec OpCall := do
  match unpack wdC w, unpack wdCall w with
  | [disp, z, a, mode, p, _], [r, hi, _, _, _, _, _] =>
    need (z == 0) .mbz
    need (mode < 2) .reservedCode
    if mode == 0 then return ⟨predOf p, ← regOf a, .direct (BitVec.ofNat 32 disp)⟩
    else
      need (hi == 0) .mbz
      return ⟨predOf p, ← regOf a, .indirect (← regOf r)⟩
  | _, _ => .error .mbz
/-- Writing the shape `Call` (R71). -/
def wrCall (op : Nat) (o : OpCall) : Nat :=
  match o.target with
  | .direct disp => mk wdC [disp.toNat, 0, regCode o.sp, 0, predCode o.pred, op]
  | .indirect r => mk wdCall [regCode r, 0, 0, regCode o.sp, 1, predCode o.pred, op]

/-- Reading the shape `RegC` (R71). -/
def rdRegC (w : Nat) : Dec OpR := do
  match unpack wdC w with
  | [disp, z, a, mode, p, _] =>
    need (disp == 0 && z == 0 && mode == 0) .mbz
    return ⟨predOf p, ← regOf a⟩
  | _ => .error .mbz
/-- Writing the shape `RegC` (R71). -/
def wrRegC (op : Nat) (o : OpR) : Nat := mk wdC [0, 0, regCode o.a, 0, predCode o.pred, op]

/-- Reading the shape `PredC` (R71). -/
def rdPredC (w : Nat) : Dec Pred := do
  match unpack wdC w with
  | [disp, z, a, mode, p, _] =>
    need (disp == 0 && z == 0 && mode == 0 && a == 0) .mbz
    return predOf p
  | _ => .error .mbz
/-- Writing the shape `PredC` (R71). -/
def wrPredC (op : Nat) (o : Pred) : Nat := mk wdC [0, 0, 0, 0, predCode o, op]

/-- Reading the shape `Bar` (R71). -/
def rdBar (w : Nat) : Dec OpBar := do
  match unpack wdC w with
  | [disp, z, a, mode, p, _] =>
    need (z == 0 && a == 0 && disp < 16) .mbz
    need (mode < 2) .reservedCode
    return ⟨predOf p, boolOf mode, finOf 16 disp⟩
  | _ => .error .mbz
/-- Writing the shape `Bar` (R71). -/
def wrBar (op : Nat) (o : OpBar) : Nat :=
  mk wdC [o.n.val, 0, 0, boolCode o.arrive, predCode o.pred, op]

/-- Reading the shape `Nopre` (R71). -/
def rdNopre (w : Nat) : Dec Bool := do
  match unpack wdC w with
  | [disp, z, a, mode, p, _] =>
    need (disp == 0 && z == 0 && a == 0 && p == 7) .mbz
    need (mode < 2) .reservedCode
    return boolOf mode
  | _ => .error .mbz
/-- Writing the shape `Nopre` (R71). -/
def wrNopre (op : Nat) (o : Bool) : Nat := mk wdC [0, 0, 0, boolCode o, 7, op]

/-- Reading the shape `Wwait` (R71). -/
def rdWwait (w : Nat) : Dec OpWwait := do
  match unpack wdWwait w with
  | [cc, w64, tmo, pd, sys, z, k, b, a, p, _] =>
    need (z == 0) .mbz
    return ⟨predOf p, ← regOf a, ← srcOf b, finOf 1024 k, finOf 8 cc, boolOf w64, boolOf tmo,
      finOf 8 pd, boolOf sys⟩
  | _ => .error .mbz
/-- Writing the shape `Wwait` (R71). -/
def wrWwait (op : Nat) (o : OpWwait) : Nat :=
  mk wdWwait [o.cc.val, boolCode o.w64, boolCode o.tmo, o.pd.val, boolCode o.sys, 0, o.k.val,
    srcCode o.b, regCode o.a, predCode o.pred, op]

/-- Reading the shape `Wwake` (R71). -/
def rdWwake (w : Nat) : Dec OpWwake := do
  match unpack wdWwake w with
  | [all, z, k, b, a, p, _] =>
    need (z == 0 && k == 0 && b == 0) .mbz
    return ⟨predOf p, ← regOf a, boolOf all⟩
  | _ => .error .mbz
/-- Writing the shape `Wwake` (R71). -/
def wrWwake (op : Nat) (o : OpWwake) : Nat :=
  mk wdWwake [boolCode o.all, 0, 0, 0, regCode o.a, predCode o.pred, op]

/-- Reading the shape `PredW` (R71). -/
def rdPredW (w : Nat) : Dec Pred := do
  match unpack wdW w with
  | [imm, k, b, a, p, _] =>
    need (imm == 0 && k == 0 && b == 0 && a == 0) .mbz
    return predOf p
  | _ => .error .mbz
/-- Writing the shape `PredW` (R71). -/
def wrPredW (op : Nat) (o : Pred) : Nat := mk wdW [0, 0, 0, 0, predCode o, op]

/-- Reading the shape `Wemit` (R71). -/
def rdWemit (w : Nat) : Dec OpWemit := do
  match unpack wdWemit w with
  | [first, z, k, b, a, p, _] =>
    need (z == 0 && k == 0) .mbz
    return ⟨predOf p, ← regOf a, ← regOf b, finOf 256 first⟩
  | _ => .error .mbz
/-- Writing the shape `Wemit` (R71). -/
def wrWemit (op : Nat) (o : OpWemit) : Nat :=
  mk wdWemit [o.first.val, 0, 0, regCode o.time, regCode o.key, predCode o.pred, op]

/-- Reading the shape `Pane` (R71). -/
def rdPane (w : Nat) : Dec OpPane := do
  match unpack wdW w with
  | [imm, k, b, a, p, _] =>
    need (imm == 0 && k == 0) .mbz
    return ⟨predOf p, ← regOf a, ← srcOf b⟩
  | _ => .error .mbz
/-- Writing the shape `Pane` (R71). -/
def wrPane (op : Nat) (o : OpPane) : Nat :=
  mk wdW [0, 0, srcCode o.b, regCode o.a, predCode o.pred, op]

/-- Reading the shape `Wfwd` (R71). -/
def rdWfwd (w : Nat) : Dec OpWfwd := do
  match unpack wdWfwd w with
  | [stream, keep, z, k, b, a, p, _] =>
    need (z == 0 && k == 0 && b == 0) .mbz
    return ⟨predOf p, ← regOf a, finOf 4096 stream, boolOf keep⟩
  | _ => .error .mbz
/-- Writing the shape `Wfwd` (R71). -/
def wrWfwd (op : Nat) (o : OpWfwd) : Nat :=
  mk wdWfwd [o.stream.val, boolCode o.keep, 0, 0, 0, regCode o.a, predCode o.pred, op]

/-- Reading the shape `RegW` (R71). -/
def rdRegW (w : Nat) : Dec OpR := do
  match unpack wdW w with
  | [imm, k, b, a, p, _] =>
    need (imm == 0 && k == 0 && b == 0) .mbz
    return ⟨predOf p, ← regOf a⟩
  | _ => .error .mbz
/-- Writing the shape `RegW` (R71). -/
def wrRegW (op : Nat) (o : OpR) : Nat := mk wdW [0, 0, 0, regCode o.a, predCode o.pred, op]

/-- Reading the shape `Nctr` (R71). -/
def rdNctr (w : Nat) : Dec OpNctr := do
  match unpack wdNctr w with
  | [sel, port, z, k, b, a, p, _] =>
    need (z == 0 && k == 0 && b == 0) .mbz
    return ⟨predOf p, ← regOf a, finOf 16 sel, finOf 16 port⟩
  | _ => .error .mbz
/-- Writing the shape `Nctr` (R71). -/
def wrNctr (op : Nat) (o : OpNctr) : Nat :=
  mk wdNctr [o.sel.val, o.port.val, 0, 0, 0, regCode o.a, predCode o.pred, op]

/-- Reading the shape `Code` (R71). -/
def rdCode (w : Nat) : Dec OpCode := do
  match unpack wdS w with
  | [imm, sys, a, d, p, _] =>
    need (sys == 0 && a == 0 && d == 0) .mbz
    return ⟨predOf p, BitVec.ofNat 16 imm⟩
  | _ => .error .mbz
/-- Writing the shape `Code` (R71). -/
def wrCode (op : Nat) (o : OpCode) : Nat :=
  mk wdS [o.code.toNat, 0, 0, 0, predCode o.pred, op]

/-- Reading the shape `Sysc` (R71). -/
def rdSysc (w : Nat) : Dec OpSysc := do
  match unpack wdS w with
  | [imm, sys, a, d, p, _] =>
    need (sys == 0) .mbz
    return ⟨predOf p, ← regOf d, ← regOf a, BitVec.ofNat 16 imm⟩
  | _ => .error .mbz
/-- Writing the shape `Sysc` (R71). -/
def wrSysc (op : Nat) (o : OpSysc) : Nat :=
  mk wdS [o.service.toNat, 0, regCode o.a, regCode o.d, predCode o.pred, op]

/-- Reading the shape `Eret` (R71). -/
def rdEret (w : Nat) : Dec Bool := do
  match unpack wdS w with
  | [imm, sys, a, d, p, _] =>
    need (imm < 2 && sys == 0 && a == 0 && d == 0 && p == 7) .mbz
    return boolOf imm
  | _ => .error .mbz
/-- Writing the shape `Eret` (R71). -/
def wrEret (op : Nat) (o : Bool) : Nat := mk wdS [boolCode o, 0, 0, 0, 7, op]

/-- Reading the shape `Movy` (R71). -/
def rdMovy (w : Nat) : Dec OpMovy := do
  match unpack wdS w with
  | [imm, sys, a, d, p, _] =>
    need (imm == 0 && a == 0) .mbz
    return ⟨predOf p, ← regOf d, ← sysOf sys⟩
  | _ => .error .mbz
/-- Writing the shape `Movy` (R71). -/
def wrMovy (op : Nat) (o : OpMovy) : Nat :=
  mk wdS [0, sysCode o.sys, 0, regCode o.d, predCode o.pred, op]

/-- Reading the shape `Movyw` (R71). -/
def rdMovyw (w : Nat) : Dec OpMovyw := do
  match unpack wdS w with
  | [imm, sys, a, d, p, _] =>
    need (imm == 0 && d == 0) .mbz
    return ⟨predOf p, ← srcOf a, ← sysOf sys⟩
  | _ => .error .mbz
/-- Writing the shape `Movyw` (R71). -/
def wrMovyw (op : Nat) (o : OpMovyw) : Nat :=
  mk wdS [0, sysCode o.sys, srcCode o.a, 0, predCode o.pred, op]

/-- Reading the shape `Tlbi` (R71). -/
def rdTlbi (w : Nat) : Dec OpTlbi := do
  match unpack wdS w with
  | [imm, sys, a, d, p, _] =>
    need (sys == 0 && imm < 4) .mbz
    return ⟨predOf p, ← regOf d, ← regOf a, finOf 4 imm⟩
  | _ => .error .mbz
/-- Writing the shape `Tlbi` (R71). -/
def wrTlbi (op : Nat) (o : OpTlbi) : Nat :=
  mk wdS [o.scope.val, 0, regCode o.a, regCode o.d, predCode o.pred, op]

/-! ## The opcode map (R77) -/

/-- The instruction a word's fields spell, by its major opcode. -/
def parseWord (w : Nat) : Dec Instr :=
  match w / 2 ^ 56 % 256 with
  | 0x00 => if w % 2 ^ 56 = 0 then .ok .nop else .error .mbz
  | 0x01 => (rdA w).map .iadd
  | 0x02 => (rdA w).map .isub
  | 0x03 => (rdA w).map .imul
  | 0x04 => (rdA w).map .imulh
  | 0x05 => (rdA w).map .imad
  | 0x06 => (rdA w).map .idiv
  | 0x07 => (rdA w).map .irem
  | 0x08 => (rdA w).map .imin
  | 0x09 => (rdA w).map .imax
  | 0x0A => (rdA w).map .iabs
  | 0x0B => (rdA w).map .and
  | 0x0C => (rdA w).map .or
  | 0x0D => (rdA w).map .xor
  | 0x0E => (rdA w).map .andn
  | 0x0F => (rdA w).map .shl
  | 0x10 => (rdA w).map .shr
  | 0x11 => (rdA w).map .shra
  | 0x12 => (rdA w).map .rotl
  | 0x13 => (rdA w).map .popc
  | 0x14 => (rdA w).map .clz
  | 0x15 => (rdA w).map .brev
  | 0x16 => (rdA w).map .bfx
  | 0x17 => (rdA w).map .bfi
  | 0x18 => (rdA w).map .lea
  | 0x19 => (rdSel w).map .sel
  | 0x1A => (rdCmp w).map .icmp
  | 0x1B => (rdA w).map .mov
  | 0x1C => (rdL w).map .movi
  | 0x1D => (rdMovs w).map .movs
  | 0x1E => (rdI w).map .iaddi
  | 0x1F => (rdLopi w).map .lopi
  | 0x30 => (rdA w).map .fadd
  | 0x31 => (rdA w).map .fsub
  | 0x32 => (rdA w).map .fmul
  | 0x33 => (rdA w).map .ffma
  | 0x34 => (rdA w).map .fmin
  | 0x35 => (rdA w).map .fmax
  | 0x36 => (rdCmp w).map .fcmp
  | 0x37 => (rdA w).map .frcp
  | 0x38 => (rdA w).map .frsq
  | 0x39 => (rdA w).map .fsqrt
  | 0x3A => (rdA w).map .fdiv
  | 0x3B => (rdA w).map .fexp2
  | 0x3C => (rdA w).map .flog2
  | 0x3D => (rdA w).map .fsin
  | 0x3E => (rdA w).map .fcos
  | 0x3F => (rdA w).map .ftanh
  | 0x40 => (rdA w).map .fclass
  | 0x41 => (rdA w).map .frnd
  | 0x42 => (rdCvt w).map .cvt
  | 0x43 => (rdA w).map .pack
  | 0x44 => (rdUnpk w).map .unpk
  | 0x45 => (rdA w).map .fdot2
  | 0x46 => (rdA w).map .idot4
  | 0x50 => (rdAfNew w).map .afnew
  | 0x51 => (rdAfCst w).map .afcst
  | 0x52 => (rdAfBin w).map .afadd
  | 0x53 => (rdAfBin w).map .afsub
  | 0x54 => (rdAfScl w).map .afscl
  | 0x55 => (rdAfBin w).map .afmul
  | 0x56 => (rdAfUn w).map .afsqr
  | 0x57 => (rdAfUn w).map .afrcp
  | 0x58 => (rdAfUn w).map .afsqrt
  | 0x59 => (rdAfUn w).map .afexp
  | 0x5A => (rdAfCnd w).map .afcnd
  | 0x5B => (rdAfRng w).map .afrng
  | 0x5C => (rdAfGet w).map .afget
  | 0x5D => (rdAfMem w).map .afld
  | 0x5E => (rdAfMem w).map .afst
  | 0x5F => (rdAfSym w).map .afsym
  | 0x60 => (rdPlop w).map .plop
  | 0x61 => (rdPmov w).map .pmov
  | 0x62 => (rdVote w).map .vote
  | 0x63 => (rdShfl w).map .shfl
  | 0x64 => (rdGroup w).map .gred
  | 0x65 => (rdGroup w).map .gscan
  | 0x66 => (rdElect w).map .elect
  | 0x67 => (rdMatch w).map .matchLanes
  | 0x70 => (rdM w).map .ld
  | 0x71 => (rdM w).map .st
  | 0x72 => (rdM w).map .lds
  | 0x73 => (rdM w).map .sts
  | 0x74 => (rdLdk w).map .ldk
  | 0x75 => (rdN w).map .atom
  | 0x76 => (rdN w).map .atoms
  | 0x77 => (rdN w).map .red
  | 0x78 => (rdFence w).map .fence
  | 0x79 => (rdPref w).map .pref
  | 0x7A => (rdMX w).map .ldx
  | 0x7B => (rdMX w).map .stx
  | 0x7C => (rdIxset w).map .ixset
  | 0x7D => (rdCctl w).map .cctl
  | 0x7E => (rdV w).map .bop
  | 0x90 => (rdQ w).map .cpy
  | 0x91 => (rdQ w).map .cpym
  | 0x92 => (rdQ w).map .cpyx
  | 0x93 => (rdQ w).map .cpyw
  | 0x94 => (rdQ w).map .synci
  | 0x95 => (rdQ w).map .synca
  | 0x96 => (rdQ w).map .syncw
  | 0x97 => (rdQ w).map .synct
  | 0xA0 => (rdV w).map .vadd
  | 0xA1 => (rdV w).map .vsub
  | 0xA2 => (rdV w).map .vmul
  | 0xA3 => (rdV w).map .vfma
  | 0xA4 => (rdV w).map .vmin
  | 0xA5 => (rdV w).map .vmax
  | 0xA6 => (rdV w).map .vexp
  | 0xA7 => (rdV w).map .vrsq
  | 0xA8 => (rdV w).map .vrcp
  | 0xA9 => (rdV w).map .vtanh
  | 0xAA => (rdV w).map .vcvt
  | 0xAB => (rdV w).map .vred
  | 0xAC => (rdV w).map .vscan
  | 0xAD => (rdV w).map .vgth
  | 0xAE => (rdV w).map .vsct
  | 0xAF => (rdV w).map .vmov
  | 0xB0 => (rdV w).map .vsel
  | 0xB1 => (rdV w).map .vcmp
  | 0xB2 => (rdV w).map .vlrec
  | 0xC0 => (rdX w).map .mma
  | 0xC1 => (rdX w).map .mmap
  | 0xC2 => (rdX w).map .mmas
  | 0xC3 => (rdX w).map .mwait
  | 0xC4 => (rdX w).map .mopr
  | 0xC5 => (rdX w).map .mzero
  | 0xC6 => (rdX w).map .mldc
  | 0xC7 => (rdX w).map .mstc
  | 0xD0 => (rdBra w).map .bra
  | 0xD1 => (rdBri w).map .bri
  | 0xD2 => (rdCall w).map .call
  | 0xD3 => (rdRegC w).map .ret
  | 0xD4 => (rdPredC w).map .exitT
  | 0xD5 => (rdBar w).map .bar
  | 0xD6 => (rdPredC w).map .yield
  | 0xD7 => (rdRegC w).map .lnch
  | 0xD8 => (rdWwait w).map .wwait
  | 0xD9 => (rdWwake w).map .wwake
  | 0xDA => (rdNopre w).map .nopre
  | 0xE0 => (rdPredW w).map .wend
  | 0xE1 => (rdWemit w).map .wemit
  | 0xE2 => (rdPredW w).map .wclose
  | 0xE3 => (rdPane w).map .wpnld
  | 0xE4 => (rdPane w).map .wpnst
  | 0xE5 => (rdWfwd w).map .wfwd
  | 0xE8 => (rdRegW w).map .nsend
  | 0xE9 => (rdRegW w).map .nrecv
  | 0xEA => (rdNctr w).map .nctr
  | 0xF0 => (rdCode w).map .trap
  | 0xF1 => (rdSysc w).map .sysc
  | 0xF2 => (rdEret w).map .eret
  | 0xF3 => (rdMovy w).map .movy
  | 0xF4 => (rdMovyw w).map .movyw
  | 0xF5 => (rdCode w).map .bkpt
  | 0xF6 => (rdTlbi w).map .tlbi
  | 0xFF => .error .header
  | _ => .error .unassigned

/-- The decoder (R78): an instruction word to a well-formed instruction, or the name of what is
wrong with it. -/
def decodeWord (w : Nat) : Dec Instr :=
  match parseWord w with
  | .ok i => if i.wf then .ok i else .error .forbidden
  | .error e => .error e

/-- Bytes in memory order to the number they spell, least significant byte first (R52). -/
def leNat : List Byte → Nat
  | [] => 0
  | b :: bs => b.toNat + 256 * leNat bs

/-- The lowest `n` bytes of a number, in memory order (R52). -/
def leBytes : Nat → Nat → List Byte
  | 0, _ => []
  | n + 1, x => BitVec.ofNat 8 x :: leBytes n (x / 256)

/-- The decoder on the eight bytes of an instruction as memory holds them. -/
def decodeBytes (bs : List Byte) : Dec Instr :=
  if bs.length = 8 then decodeWord (leNat bs) else .error .mbz

/-- The instruction the decoder reads from a word whose bits are `w`, the bits from `nbits` up being
zero. -/
def decodeTableWord (nbits w : Nat) : Option Instr :=
  match decodeBytes (leBytes 8 (w % 2 ^ nbits)) with
  | .ok i => some i
  | .error _ => none

/-- Whether an instruction is one of the 156 that have a word (R77); the others are events. -/
def Instr.isWord : Instr → Bool
  | .nop => true
  | .iadd _ => true
  | .isub _ => true
  | .imul _ => true
  | .imulh _ => true
  | .imad _ => true
  | .idiv _ => true
  | .irem _ => true
  | .imin _ => true
  | .imax _ => true
  | .iabs _ => true
  | .and _ => true
  | .or _ => true
  | .xor _ => true
  | .andn _ => true
  | .shl _ => true
  | .shr _ => true
  | .shra _ => true
  | .rotl _ => true
  | .popc _ => true
  | .clz _ => true
  | .brev _ => true
  | .bfx _ => true
  | .bfi _ => true
  | .lea _ => true
  | .sel _ => true
  | .icmp _ => true
  | .mov _ => true
  | .movi _ => true
  | .movs _ => true
  | .iaddi _ => true
  | .lopi _ => true
  | .fadd _ => true
  | .fsub _ => true
  | .fmul _ => true
  | .ffma _ => true
  | .fmin _ => true
  | .fmax _ => true
  | .fcmp _ => true
  | .frcp _ => true
  | .frsq _ => true
  | .fsqrt _ => true
  | .fdiv _ => true
  | .fexp2 _ => true
  | .flog2 _ => true
  | .fsin _ => true
  | .fcos _ => true
  | .ftanh _ => true
  | .fclass _ => true
  | .frnd _ => true
  | .cvt _ => true
  | .pack _ => true
  | .unpk _ => true
  | .fdot2 _ => true
  | .idot4 _ => true
  | .afnew _ => true
  | .afcst _ => true
  | .afadd _ => true
  | .afsub _ => true
  | .afscl _ => true
  | .afmul _ => true
  | .afsqr _ => true
  | .afrcp _ => true
  | .afsqrt _ => true
  | .afexp _ => true
  | .afcnd _ => true
  | .afrng _ => true
  | .afget _ => true
  | .afsym _ => true
  | .afld _ => true
  | .afst _ => true
  | .plop _ => true
  | .pmov _ => true
  | .vote _ => true
  | .shfl _ => true
  | .gred _ => true
  | .gscan _ => true
  | .elect _ => true
  | .matchLanes _ => true
  | .ld _ => true
  | .st _ => true
  | .lds _ => true
  | .sts _ => true
  | .ldk _ => true
  | .fence _ => true
  | .pref _ => true
  | .ldx _ => true
  | .stx _ => true
  | .cctl _ => true
  | .atom _ => true
  | .atoms _ => true
  | .red _ => true
  | .ixset _ => true
  | .bop _ => true
  | .cpy _ => true
  | .cpym _ => true
  | .cpyx _ => true
  | .cpyw _ => true
  | .synci _ => true
  | .synca _ => true
  | .syncw _ => true
  | .synct _ => true
  | .vadd _ => true
  | .vsub _ => true
  | .vmul _ => true
  | .vfma _ => true
  | .vmin _ => true
  | .vmax _ => true
  | .vexp _ => true
  | .vrsq _ => true
  | .vrcp _ => true
  | .vtanh _ => true
  | .vcvt _ => true
  | .vred _ => true
  | .vscan _ => true
  | .vgth _ => true
  | .vsct _ => true
  | .vmov _ => true
  | .vsel _ => true
  | .vcmp _ => true
  | .vlrec _ => true
  | .mma _ => true
  | .mmap _ => true
  | .mmas _ => true
  | .mwait _ => true
  | .mopr _ => true
  | .mzero _ => true
  | .mldc _ => true
  | .mstc _ => true
  | .bra _ => true
  | .bri _ => true
  | .call _ => true
  | .ret _ => true
  | .exitT _ => true
  | .yield _ => true
  | .bar _ => true
  | .lnch _ => true
  | .wwait _ => true
  | .wwake _ => true
  | .nopre _ => true
  | .wend _ => true
  | .wemit _ => true
  | .wclose _ => true
  | .wpnld _ => true
  | .wpnst _ => true
  | .wfwd _ => true
  | .nsend _ => true
  | .nrecv _ => true
  | .nctr _ => true
  | .trap _ => true
  | .sysc _ => true
  | .eret _ => true
  | .movy _ => true
  | .movyw _ => true
  | .bkpt _ => true
  | .tlbi _ => true
  | .demotionEnd _ _ => false
  | .groupStarved _ => false
  | .trapEntry _ => false
  | .translationFaultResolution _ _ _ => false
  | .pageWalk _ _ => false
  | .tlbiComplete _ _ => false
  | .loadReturn _ _ => false
  | .storeAcknowledgement _ => false
  | .atomicReturn _ _ => false
  | .promotionRequest _ => false
  | .hostCxlAccess _ _ => false
  | .groupSwapOut _ => false
  | .groupResume _ _ _ => false
  | .launchAccept _ => false
  | .blockPlacement _ => false
  | .dispatchPromiseRestore _ => false
  | .groupRetire _ => false
  | .launchTimeout _ => false
  | .launchKill _ => false
  | .notify _ _ => false
  | .nopPacket _ _ => false
  | .launchPacket _ _ => false
  | .waitPacket _ _ => false
  | .signalPacket _ _ => false
  | .queueWaitRecheck _ _ => false
  | .queueWaitTimeout _ _ => false
  | .budgetPeriodBoundary _ => false
  | .nopreBudgetExpiry _ => false
  | .parkedGroupResolution _ _ => false
  | .waitEvaluation _ _ => false
  | .wwaitTimeout _ _ => false
  | .unregisteredWaitPoll _ _ => false
  | .hostWakeWrite _ _ _ => false
  | .symbolDraw _ => false
  | .copyLanding _ _ _ => false
  | .matrixOpStart _ _ => false
  | .matrixOperandRelease _ _ => false
  | .matrixOpRetire _ _ => false
  | .sweepStart _ => false
  | .sweepComplete _ => false
  | .bopComplete _ _ => false
  | .syscNull _ _ => false
  | .shapeInstall _ _ _ => false
  | .shapeFree _ _ => false
  | .specInstall _ _ => false
  | .specRemove _ _ => false
  | .streamInstall _ _ _ => false
  | .mbotumService _ _ _ _ => false
  | .syscReply _ _ => false
  | .uncorrectableError _ _ _ _ => false
  | .recordIngest _ _ => false
  | .recordDelivery _ _ _ => false
  | .activationStart _ _ => false
  | .watermarkUpdate _ _ => false
  | .closeEvent _ _ _ => false
  | .packetTransmission _ _ _ => false
  | .networkPacketArrival _ _ => false
  | .selectiveAckArrival _ _ _ _ => false
  | .lossDetection _ _ _ => false
  | .connectionSetup _ _ _ => false
  | .imageStop _ _ => false
  | .imageRestore _ _ => false
  | .imageDiscard _ _ => false
  | .imageStopAndSelfTest _ _ => false
  | .imageMoveOut _ _ => false
  | .imageMoveIn _ _ => false
  | .imageSeal _ => false
  | .boundaryArrival _ _ => false
  | .selfTestComplete _ _ => false
  | .architecturalPreemption _ => false
  | .tenantSliceEnd _ _ => false
  | .partitionCreate _ _ _ _ _ _ => false
  | .partitionEnd _ => false
  | .sliceMove _ _ _ _ => false
  | .coopRestore _ => false
  | .windowStoreSizing _ _ => false
  | .imageStoreSizing _ _ => false
  | .healthCertificate _ _ => false
  | .spdmAttestation _ => false
  | .boot _ => false
  | .invarAdjust _ _ => false
  | .binHourTick _ _ _ => false
  | .fieldTestSchedule _ => false
  | .deconfiguration _ _ => false
  | .thermalThrottle _ => false
  | .thermalShutdown => false
  | .serviceCoreMemoryAccess _ _ => false
  | .unassignedOpcode _ => false
  | .errorInUnconsumedData _ => false
  | .partitionChange _ _ _ => false
  | .imageOperationComplete _ => false
  | .marginMeasurement _ _ _ => false

/-- The word of an instruction, from the tables of fields above; an event has none, and gives 0. -/
def encode : Instr → Nat
  | .nop => 0
  | .iadd o => wrA 0x01 o
  | .isub o => wrA 0x02 o
  | .imul o => wrA 0x03 o
  | .imulh o => wrA 0x04 o
  | .imad o => wrA 0x05 o
  | .idiv o => wrA 0x06 o
  | .irem o => wrA 0x07 o
  | .imin o => wrA 0x08 o
  | .imax o => wrA 0x09 o
  | .iabs o => wrA 0x0A o
  | .and o => wrA 0x0B o
  | .or o => wrA 0x0C o
  | .xor o => wrA 0x0D o
  | .andn o => wrA 0x0E o
  | .shl o => wrA 0x0F o
  | .shr o => wrA 0x10 o
  | .shra o => wrA 0x11 o
  | .rotl o => wrA 0x12 o
  | .popc o => wrA 0x13 o
  | .clz o => wrA 0x14 o
  | .brev o => wrA 0x15 o
  | .bfx o => wrA 0x16 o
  | .bfi o => wrA 0x17 o
  | .lea o => wrA 0x18 o
  | .sel o => wrSel 0x19 o
  | .icmp o => wrCmp 0x1A o
  | .mov o => wrA 0x1B o
  | .movi o => wrL 0x1C o
  | .movs o => wrMovs 0x1D o
  | .iaddi o => wrI 0x1E o
  | .lopi o => wrLopi 0x1F o
  | .fadd o => wrA 0x30 o
  | .fsub o => wrA 0x31 o
  | .fmul o => wrA 0x32 o
  | .ffma o => wrA 0x33 o
  | .fmin o => wrA 0x34 o
  | .fmax o => wrA 0x35 o
  | .fcmp o => wrCmp 0x36 o
  | .frcp o => wrA 0x37 o
  | .frsq o => wrA 0x38 o
  | .fsqrt o => wrA 0x39 o
  | .fdiv o => wrA 0x3A o
  | .fexp2 o => wrA 0x3B o
  | .flog2 o => wrA 0x3C o
  | .fsin o => wrA 0x3D o
  | .fcos o => wrA 0x3E o
  | .ftanh o => wrA 0x3F o
  | .fclass o => wrA 0x40 o
  | .frnd o => wrA 0x41 o
  | .cvt o => wrCvt 0x42 o
  | .pack o => wrA 0x43 o
  | .unpk o => wrUnpk 0x44 o
  | .fdot2 o => wrA 0x45 o
  | .idot4 o => wrA 0x46 o
  | .afnew o => wrAfNew 0x50 o
  | .afcst o => wrAfCst 0x51 o
  | .afadd o => wrAfBin 0x52 o
  | .afsub o => wrAfBin 0x53 o
  | .afscl o => wrAfScl 0x54 o
  | .afmul o => wrAfBin 0x55 o
  | .afsqr o => wrAfUn 0x56 o
  | .afrcp o => wrAfUn 0x57 o
  | .afsqrt o => wrAfUn 0x58 o
  | .afexp o => wrAfUn 0x59 o
  | .afcnd o => wrAfCnd 0x5A o
  | .afrng o => wrAfRng 0x5B o
  | .afget o => wrAfGet 0x5C o
  | .afld o => wrAfMem 0x5D o
  | .afst o => wrAfMem 0x5E o
  | .afsym o => wrAfSym 0x5F o
  | .plop o => wrPlop 0x60 o
  | .pmov o => wrPmov 0x61 o
  | .vote o => wrVote 0x62 o
  | .shfl o => wrShfl 0x63 o
  | .gred o => wrGroup 0x64 o
  | .gscan o => wrGroup 0x65 o
  | .elect o => wrElect 0x66 o
  | .matchLanes o => wrMatch 0x67 o
  | .ld o => wrM 0x70 o
  | .st o => wrM 0x71 o
  | .lds o => wrM 0x72 o
  | .sts o => wrM 0x73 o
  | .ldk o => wrLdk 0x74 o
  | .atom o => wrN 0x75 o
  | .atoms o => wrN 0x76 o
  | .red o => wrN 0x77 o
  | .fence o => wrFence 0x78 o
  | .pref o => wrPref 0x79 o
  | .ldx o => wrMX 0x7A o
  | .stx o => wrMX 0x7B o
  | .ixset o => wrIxset 0x7C o
  | .cctl o => wrCctl 0x7D o
  | .bop o => wrV 0x7E o
  | .cpy o => wrQ 0x90 o
  | .cpym o => wrQ 0x91 o
  | .cpyx o => wrQ 0x92 o
  | .cpyw o => wrQ 0x93 o
  | .synci o => wrQ 0x94 o
  | .synca o => wrQ 0x95 o
  | .syncw o => wrQ 0x96 o
  | .synct o => wrQ 0x97 o
  | .vadd o => wrV 0xA0 o
  | .vsub o => wrV 0xA1 o
  | .vmul o => wrV 0xA2 o
  | .vfma o => wrV 0xA3 o
  | .vmin o => wrV 0xA4 o
  | .vmax o => wrV 0xA5 o
  | .vexp o => wrV 0xA6 o
  | .vrsq o => wrV 0xA7 o
  | .vrcp o => wrV 0xA8 o
  | .vtanh o => wrV 0xA9 o
  | .vcvt o => wrV 0xAA o
  | .vred o => wrV 0xAB o
  | .vscan o => wrV 0xAC o
  | .vgth o => wrV 0xAD o
  | .vsct o => wrV 0xAE o
  | .vmov o => wrV 0xAF o
  | .vsel o => wrV 0xB0 o
  | .vcmp o => wrV 0xB1 o
  | .vlrec o => wrV 0xB2 o
  | .mma o => wrX 0xC0 o
  | .mmap o => wrX 0xC1 o
  | .mmas o => wrX 0xC2 o
  | .mwait o => wrX 0xC3 o
  | .mopr o => wrX 0xC4 o
  | .mzero o => wrX 0xC5 o
  | .mldc o => wrX 0xC6 o
  | .mstc o => wrX 0xC7 o
  | .bra o => wrBra 0xD0 o
  | .bri o => wrBri 0xD1 o
  | .call o => wrCall 0xD2 o
  | .ret o => wrRegC 0xD3 o
  | .exitT o => wrPredC 0xD4 o
  | .bar o => wrBar 0xD5 o
  | .yield o => wrPredC 0xD6 o
  | .lnch o => wrRegC 0xD7 o
  | .wwait o => wrWwait 0xD8 o
  | .wwake o => wrWwake 0xD9 o
  | .nopre o => wrNopre 0xDA o
  | .wend o => wrPredW 0xE0 o
  | .wemit o => wrWemit 0xE1 o
  | .wclose o => wrPredW 0xE2 o
  | .wpnld o => wrPane 0xE3 o
  | .wpnst o => wrPane 0xE4 o
  | .wfwd o => wrWfwd 0xE5 o
  | .nsend o => wrRegW 0xE8 o
  | .nrecv o => wrRegW 0xE9 o
  | .nctr o => wrNctr 0xEA o
  | .trap o => wrCode 0xF0 o
  | .sysc o => wrSysc 0xF1 o
  | .eret o => wrEret 0xF2 o
  | .movy o => wrMovy 0xF3 o
  | .movyw o => wrMovyw 0xF4 o
  | .bkpt o => wrCode 0xF5 o
  | .tlbi o => wrTlbi 0xF6 o
  | .demotionEnd _ _ => 0
  | .groupStarved _ => 0
  | .trapEntry _ => 0
  | .translationFaultResolution _ _ _ => 0
  | .pageWalk _ _ => 0
  | .tlbiComplete _ _ => 0
  | .loadReturn _ _ => 0
  | .storeAcknowledgement _ => 0
  | .atomicReturn _ _ => 0
  | .promotionRequest _ => 0
  | .hostCxlAccess _ _ => 0
  | .groupSwapOut _ => 0
  | .groupResume _ _ _ => 0
  | .launchAccept _ => 0
  | .blockPlacement _ => 0
  | .dispatchPromiseRestore _ => 0
  | .groupRetire _ => 0
  | .launchTimeout _ => 0
  | .launchKill _ => 0
  | .notify _ _ => 0
  | .nopPacket _ _ => 0
  | .launchPacket _ _ => 0
  | .waitPacket _ _ => 0
  | .signalPacket _ _ => 0
  | .queueWaitRecheck _ _ => 0
  | .queueWaitTimeout _ _ => 0
  | .budgetPeriodBoundary _ => 0
  | .nopreBudgetExpiry _ => 0
  | .parkedGroupResolution _ _ => 0
  | .waitEvaluation _ _ => 0
  | .wwaitTimeout _ _ => 0
  | .unregisteredWaitPoll _ _ => 0
  | .hostWakeWrite _ _ _ => 0
  | .symbolDraw _ => 0
  | .copyLanding _ _ _ => 0
  | .matrixOpStart _ _ => 0
  | .matrixOperandRelease _ _ => 0
  | .matrixOpRetire _ _ => 0
  | .sweepStart _ => 0
  | .sweepComplete _ => 0
  | .bopComplete _ _ => 0
  | .syscNull _ _ => 0
  | .shapeInstall _ _ _ => 0
  | .shapeFree _ _ => 0
  | .specInstall _ _ => 0
  | .specRemove _ _ => 0
  | .streamInstall _ _ _ => 0
  | .mbotumService _ _ _ _ => 0
  | .syscReply _ _ => 0
  | .uncorrectableError _ _ _ _ => 0
  | .recordIngest _ _ => 0
  | .recordDelivery _ _ _ => 0
  | .activationStart _ _ => 0
  | .watermarkUpdate _ _ => 0
  | .closeEvent _ _ _ => 0
  | .packetTransmission _ _ _ => 0
  | .networkPacketArrival _ _ => 0
  | .selectiveAckArrival _ _ _ _ => 0
  | .lossDetection _ _ _ => 0
  | .connectionSetup _ _ _ => 0
  | .imageStop _ _ => 0
  | .imageRestore _ _ => 0
  | .imageDiscard _ _ => 0
  | .imageStopAndSelfTest _ _ => 0
  | .imageMoveOut _ _ => 0
  | .imageMoveIn _ _ => 0
  | .imageSeal _ => 0
  | .boundaryArrival _ _ => 0
  | .selfTestComplete _ _ => 0
  | .architecturalPreemption _ => 0
  | .tenantSliceEnd _ _ => 0
  | .partitionCreate _ _ _ _ _ _ => 0
  | .partitionEnd _ => 0
  | .sliceMove _ _ _ _ => 0
  | .coopRestore _ => 0
  | .windowStoreSizing _ _ => 0
  | .imageStoreSizing _ _ => 0
  | .healthCertificate _ _ => 0
  | .spdmAttestation _ => 0
  | .boot _ => 0
  | .invarAdjust _ _ => 0
  | .binHourTick _ _ _ => 0
  | .fieldTestSchedule _ => 0
  | .deconfiguration _ _ => 0
  | .thermalThrottle _ => 0
  | .thermalShutdown => 0
  | .serviceCoreMemoryAccess _ _ => 0
  | .unassignedOpcode _ => 0
  | .errorInUnconsumedData _ => 0
  | .partitionChange _ _ _ => 0
  | .imageOperationComplete _ => 0
  | .marginMeasurement _ _ _ => 0

end Sys2Proof
end

