-- ==== Sys2Proof/Config.lean ====
section
/-! DEFINITION. The constants an implementation fixes and the free values: what the spec leaves open
has no value here that anything could compute or prove. -/

namespace Sys2Proof.Config

/-- Free 32-bit values, one for each count (log 2, DESIGN CHOICE). -/
opaque freeWord : Nat → Word

/-- Free choices between two outcomes that the spec allows, one for each count (log 2, DESIGN CHOICE). -/
opaque freeBool : Nat → Bool

/-- Free numbers, one for each count (log 2, DESIGN CHOICE). -/
opaque freeNat : Nat → Nat

/-- The stepping letter of the device, set at manufacture (R126, log 6, DESIGN CHOICE). -/
opaque stepping : BitVec 8

/-- The scan layout number of a core, set at manufacture (R126, log 6, DESIGN CHOICE). -/
opaque layout : Nat → BitVec 8

/-- The value a core of a revision delivers for an approximated function (R111): the function's
number, the revision and the operand's bits. It counts only where it lies within the bound. -/
opaque approx : Nat → Word → Word → Word

/-- Where a physical address lies: the slice that is home to its line (R227, log 9, DESIGN CHOICE). -/
opaque home : Nat → Nat

/-- The address space that a remote memory key names (R323, log 12, DESIGN CHOICE). -/
opaque keyAsid : Nat → Nat

/-- The virtual address at which the memory of a remote memory key begins (R323, log 12, DESIGN CHOICE). -/
opaque keyBase : Nat → BitVec 56

/-- The budget entry to which the transfers of a remote memory key are charged (R320, log 12, DESIGN CHOICE). -/
opaque keyEntry : Nat → BitVec 8

/-- What a word of private memory holds once its activation has ended (R232): the step, and its physical
address (log 2, DESIGN CHOICE). -/
opaque discarded : Nat → Nat → Word

end Sys2Proof.Config
end

