-- ==== Sys2Proof/Machine/Maps.lean ====
section
/-! DEFINITION. The operations of a sparse table: an ascending list of keyed entries. -/

namespace Sys2Proof.Machine

/-- The entry at a key. -/
def mfind {α : Type} : Map α → Nat → Option α
  | [], _ => none
  | (k, a) :: m, n => if n = k then some a else mfind m n

/-- The entry at a key, or the value that an unlisted key stands for. -/
def mget {α : Type} (d : α) (m : Map α) (n : Nat) : α := (mfind m n).getD d

/-- The table without the entry at a key. -/
def mdel {α : Type} : Map α → Nat → Map α
  | [], _ => []
  | (k, a) :: m, n => if n = k then mdel m n else (k, a) :: mdel m n

/-- The table with one entry put in or replaced, in ascending order of keys. -/
def mput {α : Type} : Map α → Nat → α → Map α
  | [], n, x => [(n, x)]
  | (k, a) :: m, n, x =>
    if n = k then (n, x) :: m else if n < k then (n, x) :: (k, a) :: m else (k, a) :: mput m n x

/-- The table in which a key stands for a value; the default value is not listed. -/
def mset {α : Type} [DecidableEq α] (d : α) (m : Map α) (n : Nat) (x : α) : Map α :=
  if x = d then mdel m n else mput m n x

/-- A present entry changed; an absent one stays absent. -/
def mmod {α : Type} (m : Map α) (n : Nat) (f : α → α) : Map α :=
  match mfind m n with
  | some a => mput m n (f a)
  | none => m

/-- The keys of a table. -/
def mkeys {α : Type} (m : Map α) : List Nat := m.map Prod.fst

/-- The entries of a table without their keys. -/
def mvals {α : Type} (m : Map α) : List α := m.map Prod.snd

/-- Every entry changed, given its key. -/
def mmap {α β : Type} (f : Nat → α → β) (m : Map α) : Map β := m.map (fun e => (e.1, f e.1 e.2))

/-- The entries that meet a condition. -/
def mfilter {α : Type} (p : Nat → α → Bool) (m : Map α) : Map α := m.filter (fun e => p e.1 e.2)

/-- The canonical form: keys strictly ascending, and no entry equal to what an unlisted key
stands for. -/
def msorted {α : Type} [DecidableEq α] (d : α) : Map α → Bool
  | [] => true
  | [(_, a)] => a ≠ d
  | (k, a) :: (k', a') :: m => k < k' && a ≠ d && msorted d ((k', a') :: m)

/-- The first unused key at or above a number. -/
def mfree {α : Type} (m : Map α) (start : Nat) : Nat → Nat
  | 0 => start
  | fuel + 1 => if (mfind m start).isSome then mfree m (start + 1) fuel else start

/-- The place in a list at which a condition first holds. -/
def findIdx {α : Type} (p : α → Bool) : List α → Nat → Option Nat
  | [], _ => none
  | a :: as, i => if p a then some i else findIdx p as (i + 1)

/-- The list without its first element that meets a condition. -/
def dropFirst {α : Type} (p : α → Bool) : List α → List α
  | [] => []
  | a :: as => if p a then as else a :: dropFirst p as

/-- The list with its first element that meets a condition changed. -/
def modFirst {α : Type} (p : α → Bool) (f : α → α) : List α → List α
  | [] => []
  | a :: as => if p a then f a :: as else a :: modFirst p f as

/-- The least element of a list by a key, the first among equals. -/
def least {α : Type} (key : α → List Nat) : List α → Option α
  | [] => none
  | a :: as =>
    match least key as with
    | none => some a
    | some b => if key b < key a then some b else some a

/-- An insertion into an ascending list of numbers, without repeats. -/
def insertNat : Nat → List Nat → List Nat
  | n, [] => [n]
  | n, a :: as => if n = a then a :: as else if n < a then n :: a :: as else a :: insertNat n as

/-- The numbers of a list in ascending order, without repeats. -/
def sortNat (l : List Nat) : List Nat := l.foldr insertNat []

end Sys2Proof.Machine
end

