-- ==== Sys2Proof/Machine/State.lean ====
section
/-! DEFINITION. The state of the device as plain data: everything the spec gives the machine, and
the reasons a step can stop. INVENTORY.md names the rule of every field. -/

namespace Sys2Proof.Machine

/-! ## Registers (R121) -/

/-- A register's bits and its tag (R104, R121). -/
structure Val where
  bits : Word := 0#32
  tag : Tag := .void
  deriving DecidableEq, Repr

/-- The registers of one thread (R121): v0..v255 with tags, p0..p6, ix0..ix3 and `s.fpstat`. A v
register not listed holds 0 with tag void (R47). -/
structure RegFile where
  v : Map Val := []
  p : BitVec 7 := 0#7
  ix0 : BitVec 16 := 0#16
  ix1 : BitVec 16 := 0#16
  ix2 : BitVec 16 := 0#16
  ix3 : BitVec 16 := 0#16
  fp : BitVec 7 := 0#7
  deriving DecidableEq, Repr

/-- The registers a group shares (R121): k0..k1023 with tags and q0..q6. -/
structure UniFile where
  k : Map Val := []
  q : BitVec 7 := 0#7
  deriving DecidableEq, Repr

/-! ## Threads -/

/-- A leaf translation held in a translation cache (R237, R238). -/
structure Leaf where
  part : Nat := 0
  asid : Nat := 0
  page : Nat := 0
  entry : DWord := 0#64
  base : Nat := 0
  log : Nat := 12
  deriving DecidableEq, Repr

/-- What a blocked path waits for (R31). -/
inductive Wait
  /-- A condition that is tried again after every change: an engine, a queue, a mask, a sync word. -/
  | retry
  /-- A page walk of this page, for the address of the lane where the lane itself needs it (R239). -/
  | walk (page : Nat) (va : Option DWord)
  /-- Barrier n (R377). -/
  | bar (n : Nat)
  /-- The next evaluation of a wait-and-wake line (R361). -/
  | wwait
  /-- The reply to a service request (R391). -/
  | sysc (req : Nat)
  /-- The completion of a `TLBI` (R390). -/
  | tlbi (req : Nat)
  /-- The allocator's reply to a draw (R186), and whether the lane needs a fresh term. -/
  | draw (need : Bool)
  deriving DecidableEq, Repr

/-- The state of a thread's path (R31). -/
inductive Run
  | ready
  | blocked (w : Wait)
  | held
  | ended
  deriving DecidableEq, Repr

/-- A thread's split record (R36): the reconvergence header and the set of threads that split. -/
structure Split where
  hdr : DWord := 0#64
  set : BitVec 128 := 0#128
  deriving DecidableEq, Repr

/-- The spin detector's reference entry of a thread's path (R38): the header, the registers at that entry,
the k and q registers that the path has written since, and whether it has had an effect since. -/
structure SpinRef where
  hdr : DWord := 0#64
  rf : RegFile := {}
  uni : UniFile := {}
  kSet : List Nat := []
  qSet : List Nat := []
  effect : Bool := false
  deriving DecidableEq, Repr

/-- An open idempotent region: the entry and its checkpoint (R396). -/
structure Region where
  hdr : DWord := 0#64
  live : Nat := 0
  rf : RegFile := {}
  shadow : Option RegFile := none
  afnext : Nat := 0
  deriving DecidableEq, Repr

/-- A thread's `WWAIT` in progress (R361): its operands as they were read, whether it holds a
registration, the time it began in nanoseconds, whether a `WWAKE.all` released it, the time of its
last read, and, for a uniform wait, the gang that waits as one. -/
structure WaitReg where
  addr : DWord := 0#64
  value : Nat := 0
  limit : Option Nat := none
  registered : Bool := false
  since : Nat := 0
  released : Bool := false
  polled : Nat := 0
  gang : BitVec 128 := 0#128
  deriving DecidableEq, Repr

/-- What a thread's waiting instruction captured when it first issued (R217, R372): its address, the
operations that had been accepted before it, as a bound of their keys, and its operands. -/
structure Await where
  pc : DWord := 0#64
  bound : Nat := 0
  vals : List Nat := []
  deriving DecidableEq, Repr

/-- A record of a stream (R330). -/
structure Record where
  key : DWord := 0#64
  time : DWord := 0#64
  payload : List Word := []
  deriving DecidableEq, Repr

/-- The kinds of activation (R340). -/
inductive ActKind
  | openA | record | merge | close | late
  deriving DecidableEq, Repr

/-- A record an activation has buffered, with its stream (R347). -/
structure Emit where
  stream : Nat := 0
  rcd : Record := {}
  deriving DecidableEq, Repr

/-- A window activation as its thread sees it (R340, R345..R348). -/
structure Activation where
  kind : ActKind := .record
  slice : Nat := 0
  stream : Nat := 0
  spec : Nat := 0
  key : DWord := 0#64
  win : Nat := 0
  other : Nat := 0
  isPane : Bool := false
  winStart : DWord := 0#64
  winEnd : DWord := 0#64
  recKey : DWord := 0#64
  recTime : DWord := 0#64
  rcd : Option Record := none
  watermark : DWord := 0#64
  closeFlag : Bool := false
  emits : List Emit := []
  panes : Map (List Val) := []
  begun : Bool := false
  deriving DecidableEq, Repr

/-- One thread (R22, R23). A lane slot that holds no thread is an ended one. `sureAt` is the last
instruction invalidation of its core that stood before its last branch (R53); `walked` is the translation
that a walk has answered it with (R239); `soft` is a v register that a restore put back poisoned (R401). -/
structure Thread where
  pc : DWord := 0#64
  hdr : DWord := 0#64
  hword : DWord := 0#64
  run : Run := .ended
  demote : Nat := 0
  rf : RegFile := {}
  shadow : Option RegFile := none
  split : Option Split := none
  spin : Option SpinRef := none
  region : Option Region := none
  arrived : BitVec 16 := 0#16
  sureAt : Nat := 0
  walked : Option Leaf := none
  await : Option Await := none
  wwait : Option WaitReg := none
  act : Option Activation := none
  soft : Option Nat := none
  deriving DecidableEq, Repr

/-! ## Groups -/

/-- A fault being delivered to a group (R379, R382, R384). `kill` marks a mismatch that kills and relaunches
its block without a rollback (R274, R290, R305, R375). -/
structure FaultInfo where
  cls : Nat := 0
  sub : Nat := 0
  detail : Nat := 0
  lanes : BitVec 128 := 0#128
  gang : BitVec 128 := 0#128
  pc : DWord := 0#64
  addr : DWord := 0#64
  poisoner : DWord := 0#64
  late : Bool := false
  skip : Bool := false
  kill : Bool := false
  deriving DecidableEq, Repr

/-- Why a group is parked (R240, R380, R387, R393). -/
inductive Park
  | none
  | translation
  | frame
  | budget
  | bkpt
  deriving DecidableEq, Repr

/-- Where a group's state is (R27, R401, R409, R410). -/
inductive Residency
  | resident
  | swappedOut
  | saved
  | imaged
  deriving DecidableEq, Repr

/-- One entry of a replay queue (R385). -/
structure Replay where
  word : DWord := 0#64
  pc : DWord := 0#64
  gang : BitVec 128 := 0#128
  mask : BitVec 128 := 0#128
  state : Word := 0#32
  operands : Map (List Word) := []
  deriving DecidableEq, Repr

/-- One group (R22, R121, R124, R127). -/
structure Group where
  block : Nat := 0
  launch : Nat := 0
  idx : Nat := 0
  core : Nat := 0
  sub : Nat := 0
  where_ : Residency := .resident
  park : Park := .none
  threads : Map Thread := []
  uni : UniFile := {}
  uniShadow : UniFile := {}
  afnext : Nat := 0
  afmode : Nat := 0
  progress : Nat := 0
  trapcause : Word := 0#32
  trapframe : DWord := 0#64
  pending : List (DWord × BitVec 1024) := []
  replay : List Replay := []
  fault : Option FaultInfo := none
  starve : Nat := 0
  nopre : Option Nat := none
  sweepMark : Option DWord := none
  actIdx : Option Nat := none
  activation : Bool := false
  deriving DecidableEq, Repr

/-! ## Blocks and launches -/

/-- An accumulator tile (R205, R223, R226): elements by row × 64 + column; an element not listed
is +0. -/
structure Tile where
  elems : Map Word := []
  tag : Tag := .void
  poison : Option DWord := none
  shadow : Map Word := []
  deriving DecidableEq, Repr

/-- A weight-buffer slot (R208): a column scale not listed is 1.0, a byte not listed is 0. -/
structure Slot where
  fmt : MatFmt := .bf16
  rows : Nat := 0
  filling : Bool := false
  scales : Map Word := []
  bytes : Map Byte := []
  deriving DecidableEq, Repr

/-- One barrier (R369): the groups that have arrived in this phase. -/
structure Barrier where
  arrived : List Nat := []
  phase : Bool := false
  deriving DecidableEq, Repr

/-- One pending write of a block's store buffer (R397): physical address, bytes, or a `RED`. -/
structure Buffered where
  pa : Nat := 0
  size : Nat := 0
  data : Nat := 0
  red : Option (AtomOp × Tag) := none
  narrow : Bool := false
  rel : Bool := false
  deriving DecidableEq, Repr

/-- The status codes of a launch (R315). -/
inductive LStatus
  | done | running | badVersion | badField | oversize | badMap | badEntry
  | timeout | coopUnplaceable | failed | killed
  deriving DecidableEq, Repr

/-- One launch (R313..R315, R127, R186). `relaunch` holds the blocks to be placed anew: index, times
relaunched, and the slice to avoid (R398). -/
structure Launch where
  rcd : BitVec 1024 := 0#1024
  kpre : List Word := []
  map : List Nat := []
  number : Nat := 0
  part : Nat := 0
  tenant : Nat := 0
  level : Nat := 0
  asid : Nat := 0
  budget : Nat := 0
  slice : Nat := 0
  prio : Nat := 0
  queue : Option (Nat × Nat) := none
  status : LStatus := .running
  detail : Nat := 0
  final : Bool := false
  raised : Bool := false
  accepted : Nat := 0
  order : Nat := 0
  nextBlock : Nat := 0
  retired : Nat := 0
  relaunch : List (Nat × Nat × Nat) := []
  trapbase : DWord := 0#64
  nopreBudget : Nat := 100000
  budgetPeriod : Nat := 100000
  symS : Nat := 4095
  symNext : Nat := 1
  deriving DecidableEq, Repr

/-! ## The engines of a core -/

/-- Where an access goes: pieces of physical memory, each an address and a length (a private datum
above four bytes is spread over several words, R232), or a run of `n` bytes of a block's scratchpad at a
position. -/
inductive Place
  | phys (pieces : List (Nat × Nat))
  | scratch (block pos off n : Nat)
  deriving DecidableEq, Repr

/-- An operation of an engine: what it captured at issue (R215, R276, R297). `regs` holds the
captured k registers by number. -/
structure Captured where
  id : Nat := 0
  group : Nat := 0
  block : Nat := 0
  pos : Nat := 0
  pc : DWord := 0#64
  op : Nat := 0
  regs : Map Word := []
  deriving DecidableEq, Repr

/-- An accepted sweep or `BOP` (R279, R291, R294). `rev` is the revision of the core that accepted it first, whose
approximations it keeps wherever it goes on (R291). -/
structure Sweep where
  cap : Captured := {}
  word : OpV := ⟨0, .void, 0, 0, 0, 0, 0, 0, 0⟩
  rev : Word := 0
  pages : Map Nat := []
  started : Bool := false
  done : Nat := 0
  partials : List Nat := []
  deriving DecidableEq, Repr

/-- An accepted array operation (R215, R225). `shapes` holds the captured shape records, `scale` and `pages` where
its row scales are read, and `old` the scratchpad of its block when it was accepted (R224). -/
structure MatOp where
  cap : Captured := {}
  word : OpX := ⟨0, 0, 0, 0, .bf16, .bf16, 0, false, false⟩
  shapes : List (BitVec 512) := []
  k : Nat := 0
  peerCore : Option Nat := none
  follower : Bool := false
  started : Bool := false
  released : Bool := false
  chunks : Nat := 0
  result : Option Tile := none
  out : Map Byte := []
  old : Map Byte := []
  scale : Option Place := none
  pages : Map Nat := []
  deriving DecidableEq, Repr

/-- An accepted copy (R295, R298, R304). -/
structure Copy where
  cap : Captured := {}
  word : OpQ := ⟨⟨false, 7⟩, 0, 0, 0, 0, 0, 0⟩
  shapes : List (BitVec 512) := []
  pages : Map Nat := []
  total : Nat := 0
  done : List Nat := []
  deriving DecidableEq, Repr

/-- The kinds of outstanding access (R407). -/
inductive AccKind
  | load
  | atomic
  deriving DecidableEq, Repr

/-- The memory types of a page (R236). -/
inductive PageType
  | normal | writeCombining | device | strong
  deriving DecidableEq, Repr

/-- One outstanding access of a core (R122, R407); `seq` tells the instructions apart that issued them. -/
structure Access where
  kind : AccKind := .load
  group : Nat := 0
  lane : Nat := 0
  uniform : Bool := false
  va : DWord := 0#64
  place : Place := .phys []
  commons : Bool := false
  ptype : PageType := .normal
  size : Nat := 4
  scope : Scope := .part
  order : Order := .plain
  dest : Nat := 0
  mt : MemType := .b32
  af : Bool := false
  aop : AtomOp := .add
  t : Tag := .b32
  b : Nat := 0
  c : Nat := 0
  captured : Option Nat := none
  replay : Bool := false
  gen : Word := 0#32
  seq : Nat := 0
  deriving DecidableEq, Repr

/-- A word of instructions that a store has changed (R53): what it held before, and when. -/
structure StaleWord where
  old : DWord := 0#64
  time : Nat := 0
  deriving DecidableEq, Repr

/-- A core's wear state (R429). -/
structure Wear where
  slack : List Nat := []
  stressed : Nat := 0
  unstressed : Nat := 0
  offset : Nat := 0
  made : Nat := 0
  highest : Nat := 0
  highestDay : Nat := 0
  above45 : Nat := 0
  bins : Map Nat := []
  tested : Nat := 0
  testDue : Bool := false
  failed : Bool := false
  deriving DecidableEq, Repr

/-- One core position (R10..R14, R238, R400..R404): `tlb` is its TLB, and `utlbs` those of its sub-cores. -/
structure Core where
  gentag : Word := 0#32
  held : Map Byte := []
  tlb : List Leaf := []
  utlbs : Map (List Leaf) := []
  iinvAt : Nat := 0
  sweeps : List Sweep := []
  matrix : List MatOp := []
  copies : List Copy := []
  bops : List Sweep := []
  acc : List Access := []
  stPend : Nat := 0
  stopped : Bool := false
  image : Option Nat := none
  selfTest : Bool := false
  reserved : Bool := false
  credits : Map Nat := []
  wear : Wear := {}
  deriving DecidableEq, Repr

/-- One block (R22, R25, R26). Scratchpad bytes are keyed by position × 2^19 + offset, tiles by
position × 32 + number, slots by position × 8 + number. `saved` holds, by position, the engine records of
a block saved by the portable path (R409). -/
structure Block where
  launch : Nat := 0
  idx : Nat := 0
  cores : List Nat := []
  where_ : Residency := .resident
  scratch : Map Byte := []
  tiles : Map Tile := []
  slots : Map Slot := []
  bars : Map Barrier := []
  buffer : List Buffered := []
  seen : Bool := false
  relaunches : Nat := 0
  isAct : Bool := false
  preempt : Bool := false
  saved : Map Core := []
  deriving DecidableEq, Repr

/-! ## Slices -/

/-- A hardware queue slot (R306, R309, R310, R312). -/
structure QSlot where
  queue : Nat := 0
  notified : Nat := 0
  mapped : Nat := 0
  launching : Bool := false
  waiting : Option (BitVec 512) := none
  since : Nat := 0
  checked : Nat := 0
  deriving DecidableEq, Repr

/-- Why a record stands in a slice error queue (R306). -/
inductive ErrCause
  | badNotify | queueStop | waitTimeout | badLaunchAddress | netFailure | truncation | noFlow
  | streamStop | droppedEmit | badWake | badBudget | bkpt | uncorrectable
  deriving DecidableEq, Repr

/-- A record of a slice error queue (R306): the cause and the numbers it names. -/
structure ErrRec where
  cause : ErrCause := .badNotify
  a : Nat := 0
  b : Nat := 0
  c : Nat := 0
  deriving DecidableEq, Repr

/-- A walk in progress, with the requests attached to it (R239): the page, and the group and core
of each request. -/
structure Walk where
  part : Nat := 0
  asid : Nat := 0
  page : Nat := 0
  groups : List Nat := []
  deriving DecidableEq, Repr

/-- An entry of a translation fault queue (R240). -/
structure TransFault where
  part : Nat := 0
  asid : Nat := 0
  page : Nat := 0
  groups : List Nat := []
  deriving DecidableEq, Repr

/-- A live window or pane (R334, R335). -/
structure Window where
  spec : Nat := 0
  key : DWord := 0#64
  start : Int := 0
  stop : Int := 0
  records : Nat := 0
  isPane : Bool := false
  cls : Nat := 0
  words : List Val := []
  closing : Bool := false
  deriving DecidableEq, Repr

/-- An event of a (spec, key) queue (R336), with its stream, in stream order: a record delivery; a risen
watermark, which closes the windows that it has passed; or the close of a window, under the watermark
that causes it, or forced by a count or by `WCLOSE` where there is none. -/
inductive KeyEvent
  | deliver (stream : Nat) (r : Record) (wBefore : Int)
  | mark (stream : Nat) (w : Int)
  | close (stream win : Nat) (w : Option Int)
  deriving DecidableEq, Repr

/-- A message of an ingest slice to another slice (R333): a record for a spec, or a risen watermark. -/
inductive SliceMsg
  | record (stream spec : Nat) (r : Record) (wBefore : Int)
  | mark (stream : Nat) (w : Int)
  deriving DecidableEq, Repr

/-- The queue of one (spec, key) pair (R336): the activations still to run for the event that has
its turn, and the events behind it. -/
structure KeyQueue where
  spec : Nat := 0
  key : DWord := 0#64
  ordinal : Nat := 0
  running : Nat := 0
  todo : List Activation := []
  events : List KeyEvent := []
  deriving DecidableEq, Repr

/-- A network message that a port carries (R323, R325, R326, R468): a posted send, write, read or
receive. `sent` counts the transmissions of each packet; `lost` holds those to be resent. -/
structure NetMsg where
  id : Nat := 0
  part : Nat := 0
  asid : Nat := 0
  level : Nat := 0
  budget : Nat := 0
  req : BitVec 512 := 0#512
  addr : DWord := 0#64
  dfa : Nat := 0
  jobid : Nat := 0
  retry : Nat := 0
  sent : Map Nat := []
  acked : List Nat := []
  lost : List Nat := []
  placed : List Nat := []
  deriving DecidableEq, Repr

/-- A read request of a peer that a port answers (R325, R460): where its data lie, how they are cut, and the packets
sent, acknowledged and lost. -/
structure Answer where
  id : Nat := 0
  part : Nat := 0
  asid : Nat := 0
  budget : Nat := 0
  dfa : Nat := 0
  jobid : Nat := 0
  msg : Nat := 0
  va : Nat := 0
  len : Nat := 0
  pktlog : Nat := 10
  spray : Nat := 0
  sent : Map Nat := []
  acked : List Nat := []
  lost : List Nat := []
  deriving DecidableEq, Repr

/-- A message that arrives at a port (R325, R365, R460): its sender, what it follows (0 a receive, 1 a
stream, 2 a queue, 3 nothing, 4 a one-sided write), the stream or queue, the matched receive, and the packets placed. `bytes` holds
the payload of a message to a stream or a queue. -/
structure Inbound where
  dfa : Nat := 0
  jobid : Nat := 0
  msg : Nat := 0
  tag : Nat := 0
  len : Nat := 0
  pktlog : Nat := 10
  act : Nat := 0
  target : Nat := 0
  tenant : Nat := 0
  recv : Option NetMsg := none
  placed : List Nat := []
  bytes : Map Byte := []
  deriving DecidableEq, Repr

/-- What Plearo reports over PLDM (R368, R416, R425). -/
inductive Report
  | createRefused | changeRefused | imageRefused
  deriving DecidableEq, Repr

/-- What leaves the device toward its peers and its hosts: packets with their paths, the data of reads,
acknowledgements, refusals, host-line writes and reads, and reports (R325, R359, R416, R422, R423, R460). -/
inductive OutMsg
  | packet (slice dfa jobid msg : Nat) (req : BitVec 512) (k path : Nat) (payload : List Byte)
  | readData (slice dfa jobid msg k path : Nat) (payload : List Byte)
  | ack (slice dfa jobid msg : Nat) (placed : List Nat)
  | nack (slice dfa jobid msg k : Nat)
  | refusal (slice : Nat)
  | hostData (addr : Nat) (data : Nat)
  | report (r : Report) (part : Nat)
  deriving DecidableEq, Repr

/-- A service request at a service core (R391). -/
structure SyscReq where
  id : Nat := 0
  group : Nat := 0
  lane : Nat := 0
  uniform : Bool := false
  service : Nat := 0
  args : List DWord := []
  block : DWord := 0#64
  dest : Reg := .v 0
  done : Bool := false
  status : Nat := 0
  res : List DWord := []
  deriving DecidableEq, Repr

/-- What is held of one core in an image slot (R406, R407). The groups stay in `State.groups`, where
their residency says that they are imaged; the engines and accesses of the core are held here. `own` is
the slot of the image area that its header names for it. -/
structure Image where
  isSealed : Bool := false
  part : Nat := 0
  tenant : Nat := 0
  slice : Nat := 0
  pos : Nat := 0
  rev : Word := 0#32
  gentag : Word := 0#32
  reason : Nat := 0
  time : Nat := 0
  set : List (Nat × Nat) := []
  quadpos : Nat := 0
  stPend : Nat := 0
  late : Nat := 0
  counter : Nat := 0
  corrupt : Bool := false
  own : Nat × Nat := (0, 0)
  groups : List Nat := []
  blocks : List Nat := []
  core : Core := {}
  deriving DecidableEq, Repr

/-- An image operation of the scan controllers that has not finished (R13, R401, R404, R412, R414): its
command, the cores that it stops or restores and their slots, in the same order, the image-store slots
of a move, whether a `NOPRE` region defers it (R393), and the slices to which its result is reported. -/
structure ImgOp where
  cmd : DWord := 0#64
  cores : List Nat := []
  slots : List (Nat × Nat) := []
  entries : List Nat := []
  waiting : Bool := false
  reports : List Nat := []
  deriving DecidableEq, Repr

/-- One slice (R7). -/
structure Slice where
  queues : Map (BitVec 512) := []
  qslots : List QSlot := []
  pend : List Nat := []
  stopped : List Nat := []
  errs : List ErrRec := []
  errOverflow : Bool := false
  imgCmd : DWord := 0#64
  imgStatus : DWord := 0#64
  imgIrq : Bool := false
  imgOps : List ImgOp := []
  images : Map Image := []
  imgCounter : Nat := 0
  portable : Map Nat := []
  wclasses : List Nat := []
  wcount : Nat := 1
  windows : Map Window := []
  keyqs : List KeyQueue := []
  actq : List Activation := []
  wms : Map Int := []
  inbox : List SliceMsg := []
  tlb : List Leaf := []
  walks : List Walk := []
  waiting : List Walk := []
  faultq : List TransFault := []
  sendq : List NetMsg := []
  recvq : List NetMsg := []
  inbound : List Inbound := []
  answers : List Answer := []
  flows : Map (BitVec 256) := []
  peers : Map (BitVec 128) := []
  counts : Map Nat := []
  owed : List OutMsg := []
  reqs : List SyscReq := []
  sramMargin : Nat := 0
  hbmMargin : Nat := 0
  floor : Bool := false
  barred : Bool := false
  deriving DecidableEq, Repr

/-! ## Partitions -/

/-- The states of a partition (R368). -/
inductive PState
  | free | starting | running | changing | ending
  deriving DecidableEq, Repr

/-- A shape slot (R355). -/
structure ShapeSlot where
  rcd : BitVec 512 := 0#512
  gen : Nat := 0
  tenant : Nat := 0
  live : Bool := false
  deriving DecidableEq, Repr

/-- An installed stream (R331). -/
structure Stream where
  src : Nat := 0
  wmx : Bool := false
  stopped : Bool := false
  logsize : Nat := 0
  maxooo : Nat := 0
  specs : List Nat := []
  ring : DWord := 0#64
  asid : Nat := 0
  level : Nat := 0
  head : Nat := 0
  wmark : Int := -9223372036854775808
  maxt : Int := -9223372036854775808
  seq : Nat := 0
  pending : List Record := []
  deriving DecidableEq, Repr

/-- An installed spec (R328, R329). -/
structure Spec where
  rcd : BitVec 1024 := 0#1024
  launch : Nat := 0
  tenant : Nat := 0
  deriving DecidableEq, Repr

/-- An entry of the wait-and-wake table (R358), with the evaluations that it owes, each with the ALL of
its `WWAKE` (R359, R362), and the physical line whose writes evaluate it. -/
structure WakeEntry where
  line : Nat := 0
  asid : Nat := 0
  waiters : Nat := 0
  host : Bool := false
  hostline : Nat := 0
  wakeseq : Word := 0#32
  due : List Bool := []
  pline : Option Nat := none
  deriving DecidableEq, Repr

/-- A budget entry (R320, R366): the table's words, the limits that bind in this period, and the
running use. -/
structure Budget where
  entry : BitVec 512 := 0#512
  bound : BitVec 512 := 0#512
  issue : Nat := 0
  hbm : Nat := 0
  net : Nat := 0
  copy : Nat := 0
  test : Nat := 0
  heldAny : Bool := false
  deriving DecidableEq, Repr

/-- A `TLBI` in progress (R390, R241): what the threads of its gang drop, each an ASID and a page. -/
structure Tlbi where
  id : Nat := 0
  group : Nat := 0
  scope : Nat := 0
  targets : List (Nat × Nat) := []
  deriving DecidableEq, Repr

/-- One partition (R368, R415..R418). `wakeseqs` holds WAKESEQ of the free places of its wait-and-wake table
(R369). -/
structure Partition where
  state : PState := .free
  slices : BitVec 16 := 0#16
  commons : Nat := 0
  wsc : Nat := 0
  keyId : Word := 0#32
  epoch : Nat := 0
  shapeBase : DWord := 0#64
  budgetBase : DWord := 0#64
  winBase : DWord := 0#64
  wakeBase : DWord := 0#64
  created : Nat := 0
  period : Nat := 100000
  periodNext : Nat := 100000
  periodStart : Nat := 0
  nextLaunch : Nat := 1
  shapes : Map ShapeSlot := []
  asids : Map (BitVec 128) := []
  specs : Map Spec := []
  streams : Map Stream := []
  wakes : Map WakeEntry := []
  wakeseqs : Map Word := []
  budgets : Map Budget := []
  tlbis : List Tlbi := []
  tenant : Nat := 0
  sliceLength : Nat := 0
  sliceStart : Nat := 0
  cxlMem : Bool := false
  storeSize : Nat := 0
  store : Map Image := []
  overflow : Nat := 0
  overflowUsed : Map Nat := []
  wcounts : Map Nat := []
  deriving DecidableEq, Repr

/-! ## The device -/

/-- The thermal state of the hottest die (R435). -/
inductive Thermal
  | normal | throttled | shutDown
  deriving DecidableEq, Repr

/-- A change of the deconfiguration log (R429). -/
structure Deconf where
  slice : Nat := 0
  pair : Nat := 0
  time : Nat := 0
  deriving DecidableEq, Repr

/-- What Plearo has issued: health certificates and attestations (R426, R434). The lists go by slice, or
by physical core, in ascending order; an attestation holds the partition entries and the revisions. -/
structure Certificate where
  spdm : Bool := false
  nonce : BitVec 256 := 0#256
  time : Nat := 0
  hours : Nat := 0
  floor : BitVec 16 := 0#16
  devPairs : Nat := 0
  stepping : BitVec 8 := 0#8
  pairs : List Nat := []
  bands : List (Nat × Nat × Nat) := []
  ageing : List Nat := []
  margins : List (Nat × Nat) := []
  bins : List (Map Nat) := []
  log : List Deconf := []
  entries : List (BitVec 512) := []
  revs : List Word := []
  deriving DecidableEq, Repr

/-- The gang that now issues (R32). An instruction that a frame gives back to be issued again reads the
source values that the frame holds (R385): `lent` by lane, `lentK` for the group. -/
structure Issue where
  gid : Nat := 0
  gang : List Nat := []
  pc : DWord := 0#64
  lent : Map (Map Val) := []
  lentK : Map Val := []
  deriving DecidableEq, Repr

/-- The first issue of a sub-core in a cycle, whose second issue is still to come (R319): the sub-core, the
group and its gang, the PC, and the word. -/
structure CoIssue where
  sub : Nat := 0
  gid : Nat := 0
  gang : List Nat := []
  pc : DWord := 0#64
  word : DWord := 0#64
  deriving DecidableEq, Repr

/-- The whole device. -/
structure State where
  /-- ac cycles since device reset (`s.clock`, R124). -/
  now : Nat := 0
  /-- The model's own count of free values drawn (log 2, DESIGN CHOICE). -/
  fresh : Nat := 0
  /-- The model's own list of events that come before the next issue (log 1, DESIGN CHOICE). -/
  agenda : List Instr := []
  /-- The gang that issues (R32). -/
  issue : Option Issue := none
  /-- The first issue of a cycle whose second one is next (R319). -/
  co : Option CoIssue := none
  /-- Physical memory, by physical address; bit 56 of the key marks a commons address (R234). -/
  mem : Map Byte := []
  /-- Words that a store has changed, by physical address / 8 (R53). -/
  stale : Map StaleWord := []
  /-- Lines marked poisoned (R395). -/
  poison : List Nat := []
  /-- Owner fields of lines (R251): line number to core. -/
  owner : Map Nat := []
  parts : Map Partition := []
  slices : Map Slice := []
  cores : Map Core := []
  launches : Map Launch := []
  blocks : Map Block := []
  groups : Map Group := []
  /-- Pairs removed (R432), oldest first: the deconfiguration log (R429). -/
  deconf : List Deconf := []
  /-- Plearo's image has been verified and runs (R425). -/
  booted : Bool := false
  temp : Thermal := .normal
  hours : Nat := 0
  certs : List Certificate := []
  /-- What has left the device and not been taken by its peers. -/
  outbox : List OutMsg := []
  /-- The model's own supply of keys for launches, blocks, groups and operations (log 1, DESIGN CHOICE). -/
  nextId : Nat := 1
  deriving DecidableEq, Repr

/-- The reasons the machine itself stops: none. The spec gives every error of the device an effect (a
trap, a failed launch, a status code, a report), and after each of them the device goes on. Safe. -/
inductive Fault
  deriving DecidableEq, Repr

/-- The reasons a step is turned away. -/
inductive Refusal
  /-- An instruction of the opcode table without a meaning in the model; raised by `exec`. Safe. -/
  | notModelled (mnemonic : String)
  /-- `exec` of an instruction word in a state in which no gang issues: an instruction is executed by
  a gang only (R32). Safe: no run of the hardware does it. -/
  | noIssuingGang
  /-- An event named in a state in which it cannot happen: what it needs is not there. Raised by the
  meanings of events. Safe: no run of the hardware performs it there. -/
  | notEnabled
  deriving DecidableEq, Repr

/-- The outcome of a step. -/
abbrev Out := Host.Outcome State Fault Refusal

/-- The device right after reset: no partition exists (R368, R415), nothing has booted (R425), every
field holds its reset value. -/
def State.reset : State := {}

end Sys2Proof.Machine
end

