-- ==== Sys2Proof/Machine/Topology.lean ====
section
/-! DEFINITION. Slices, clusters, pairs and quads, and the identities of cores (R6, R15, R16). A core
is named by its physical position in the device, slice × 16 + position (R316). -/

namespace Sys2Proof.Machine

/-- The slice of a core. -/
def coreSlice (c : Nat) : Nat := c / 16

/-- The physical position of a core within its cluster. -/
def corePos (c : Nat) : Nat := c % 16

/-- Whether a pair of a slice has been deconfigured (R429, R432). -/
def pairGone (s : State) (slice pair : Nat) : Bool :=
  s.deconf.any (fun d => d.slice == slice && d.pair == pair)

/-- The configured pairs of a slice, in order (R15, R16). -/
def slicePairs (s : State) (slice : Nat) : List Nat :=
  (List.range 8).filter (fun p => !pairGone s slice p)

/-- Whether a core is configured. -/
def configured (s : State) (c : Nat) : Bool := c < 256 && !pairGone s (coreSlice c) (corePos c / 2)

/-- The configured cores of a slice, ascending. -/
def sliceCores (s : State) (slice : Nat) : List Nat :=
  (List.range 16).filterMap (fun p =>
    if pairGone s slice (p / 2) then none else some (slice * 16 + p))

/-- Configured pairs in the device: `s.rev` DEVPAIRS (R126). -/
def devPairs (s : State) : Nat := 128 - s.deconf.length

/-- Configured pairs in a core's cluster: `s.rev` CLPAIRS (R126). -/
def clPairs (s : State) (slice : Nat) : Nat := (slicePairs s slice).length

/-- The logical id of a core: its rank among the configured cores (R15). -/
def logicalId (s : State) (c : Nat) : Nat :=
  ((List.range (coreSlice c)).foldl (fun n sl => n + 2 * clPairs s sl) 0) +
  ((sliceCores s (coreSlice c)).filter (· < c)).length

/-- The number of a core's pair among its cluster's pairs (R15). -/
def pairRank (s : State) (c : Nat) : Nat :=
  ((slicePairs s (coreSlice c)).filter (· < corePos c / 2)).length

/-- Whether a core's pair belongs to a quad (R16). -/
def inQuad (s : State) (c : Nat) : Bool := pairRank s c / 2 * 2 + 1 < clPairs s (coreSlice c)

/-- `s.pairpos`: 0 leader, 1 follower (R15, R17). -/
def pairPos (c : Nat) : Nat := c % 2

/-- `s.quadpos` (R15, R16). -/
def quadPos (s : State) (c : Nat) : Nat := pairRank s c % 2 * 2 + pairPos c

/-- The other core of a pair. -/
def pairPeer (c : Nat) : Nat := if c % 2 = 0 then c + 1 else c - 1

/-- The two cores of a core's pair. -/
def pairCores (c : Nat) : List Nat := [c / 2 * 2, c / 2 * 2 + 1]

/-- The cores of a core's quad, by quad position; the two of its pair where the pair is outside
every quad (R15, R16, R242). -/
def quadCores (s : State) (c : Nat) : List Nat :=
  let r := pairRank s c / 2 * 2
  ((slicePairs s (coreSlice c)).drop r |>.take 2).flatMap
    (fun p => [coreSlice c * 16 + 2 * p, coreSlice c * 16 + 2 * p + 1])

/-- `s.rev` (R126). -/
def coreRev (s : State) (c : Nat) : Word :=
  Config.stepping ++ Config.layout c ++ BitVec.ofNat 8 (devPairs s) ++
    BitVec.ofNat 8 (clPairs s (coreSlice c))

/-! ## Entities -/

/-- A core's state. -/
def coreOf (s : State) (c : Nat) : Core := mget {} s.cores c

/-- A slice's state. -/
def sliceOf (s : State) (n : Nat) : Slice := mget {} s.slices n

/-- A partition's state. -/
def partOf (s : State) (n : Nat) : Partition := mget {} s.parts n

/-- A launch. -/
def launchOf (s : State) (n : Nat) : Launch := mget {} s.launches n

/-- A block. -/
def blockOf (s : State) (n : Nat) : Block := mget {} s.blocks n

/-- A group. -/
def groupOf (s : State) (n : Nat) : Group := mget {} s.groups n

/-- The state with one core replaced. -/
def setCore (s : State) (c : Nat) (x : Core) : State := { s with cores := mset {} s.cores c x }

/-- The state with one slice replaced. -/
def setSlice (s : State) (n : Nat) (x : Slice) : State := { s with slices := mset {} s.slices n x }

/-- The state with one partition replaced. -/
def setPart (s : State) (n : Nat) (x : Partition) : State := { s with parts := mset {} s.parts n x }

/-- The state with one launch replaced. -/
def setLaunch (s : State) (n : Nat) (x : Launch) : State := { s with launches := mput s.launches n x }

/-- The state with one block replaced. -/
def setBlock (s : State) (n : Nat) (x : Block) : State := { s with blocks := mput s.blocks n x }

/-- The state with one group replaced. -/
def setGroup (s : State) (n : Nat) (x : Group) : State := { s with groups := mput s.groups n x }

/-- A change of one core. -/
def modCore (s : State) (c : Nat) (f : Core → Core) : State := setCore s c (f (coreOf s c))

/-- A change of one slice. -/
def modSlice (s : State) (n : Nat) (f : Slice → Slice) : State := setSlice s n (f (sliceOf s n))

/-- A change of one partition. -/
def modPart (s : State) (n : Nat) (f : Partition → Partition) : State := setPart s n (f (partOf s n))

/-- A change of a launch that is there. -/
def modLaunch (s : State) (n : Nat) (f : Launch → Launch) : State :=
  { s with launches := mmod s.launches n f }

/-- A change of a block that is there. -/
def modBlock (s : State) (n : Nat) (f : Block → Block) : State :=
  { s with blocks := mmod s.blocks n f }

/-- A change of a group that is there. -/
def modGroup (s : State) (n : Nat) (f : Group → Group) : State :=
  { s with groups := mmod s.groups n f }

/-- A lane's thread; a slot that holds none is an ended thread (R23). -/
def threadOf (g : Group) (lane : Nat) : Thread := mget {} g.threads lane

/-- A change of one lane's thread. -/
def modThread (g : Group) (lane : Nat) (f : Thread → Thread) : Group :=
  { g with threads := mmod g.threads lane f }

/-- A change of every thread of a group, given its lane. -/
def mapThreads (g : Group) (f : Nat → Thread → Thread) : Group :=
  { g with threads := mmap f g.threads }

/-- A change of the thread of every listed lane. -/
def modThreads (g : Group) (lanes : List Nat) (f : Thread → Thread) : Group :=
  mapThreads g (fun l t => if lanes.contains l then f t else t)

/-- The lanes of a group that have not ended, ascending. -/
def liveLanes (g : Group) : List Nat :=
  (g.threads.filter (fun p => p.2.run ≠ .ended)).map Prod.fst

/-- The lanes of a group whose threads meet a condition, ascending. -/
def lanesWhere (g : Group) (p : Thread → Bool) : List Nat :=
  (g.threads.filter (fun e => p e.2)).map Prod.fst

/-- A set of lanes as a 128-bit mask. -/
def maskOfLanes (lanes : List Nat) : BitVec 128 :=
  lanes.foldl (fun m l => m ||| (1#128 <<< l)) 0#128

/-- The lanes of a mask, ascending. -/
def lanesOfMask (m : BitVec 128) : List Nat := (List.range 128).filter (fun l => m.getLsbD l)

/-- The next key of the model's own supply (log 1, DESIGN CHOICE). -/
def takeId (s : State) : Nat × State := (s.nextId, { s with nextId := s.nextId + 1 })

/-- The next count of free values (log 2, DESIGN CHOICE). -/
def takeFresh (s : State) : Nat × State := (s.fresh, { s with fresh := s.fresh + 1 })

/-! ## Fields of the launch record (R313) -/

/-- Bits `hi`..`lo` of a record. -/
def bitsOf {w : Nat} (x : BitVec w) (hi lo : Nat) : Nat := (x.toNat / 2 ^ lo) % 2 ^ (hi - lo + 1)

/-- The fields of a launch record, by name (R313). -/
def lrGroups (r : BitVec 1024) : Nat := bitsOf r 47 40
def lrBlocks (r : BitVec 1024) : Nat := bitsOf r 159 128 + 1
def lrEntry (r : BitVec 1024) : DWord := BitVec.ofNat 64 (bitsOf r 127 64)
def lrPrio (r : BitVec 1024) : Nat := bitsOf r 34 32
def lrWin (r : BitVec 1024) : Bool := bitsOf r 20 20 == 1
def lrCont (r : BitVec 1024) : Bool := bitsOf r 19 19 == 1
def lrProt (r : BitVec 1024) : Bool := bitsOf r 18 18 == 1
def lrPair (r : BitVec 1024) : Bool := bitsOf r 17 17 == 1
def lrCoop (r : BitVec 1024) : Bool := bitsOf r 16 16 == 1
def lrDim (r : BitVec 1024) : Nat × Nat × Nat :=
  if bitsOf r 191 160 = 0 then (lrBlocks r, 1, 1)
  else (bitsOf r 191 160, bitsOf r 223 192, bitsOf r 255 224)
def lrC0 (r : BitVec 1024) : Nat := bitsOf r 263 256
def lrC1 (r : BitVec 1024) : Nat := bitsOf r 271 264
def lrRegs (r : BitVec 1024) (cls : Nat) : Nat := bitsOf r (277 + 6 * cls) (272 + 6 * cls) * 8
def lrUregs (r : BitVec 1024) (cls : Nat) : Nat := bitsOf r (294 + 5 * cls) (290 + 5 * cls) * 64
def lrShared (r : BitVec 1024) : Nat := bitsOf r 330 320 * 512
def lrTiles (r : BitVec 1024) : Nat := bitsOf r 336 331
def lrSlots (r : BitVec 1024) : Nat := bitsOf r 340 337
def lrAfspace (r : BitVec 1024) : Nat :=
  if bitsOf r 352 341 = 0 then 4095 else bitsOf r 352 341
def lrPriv (r : BitVec 1024) : Nat := bitsOf r 365 353 * 16
def lrPrivBase (r : BitVec 1024) : Nat := bitsOf r 447 384
def lrArgs (r : BitVec 1024) : Nat := bitsOf r 511 448
def lrCbase (r : BitVec 1024) : Nat := bitsOf r 575 512
def lrTrapbase (r : BitVec 1024) : Nat := bitsOf r 639 576
def lrCounter (r : BitVec 1024) : Nat := bitsOf r 703 640
def lrMap (r : BitVec 1024) : Nat := bitsOf r 767 704
def lrStatus (r : BitVec 1024) : Nat := bitsOf r 831 768
def lrTimeout (r : BitVec 1024) : Nat := bitsOf r 863 832
def lrKpre (r : BitVec 1024) : Nat := bitsOf r 868 864
def lrKpreAddr (r : BitVec 1024) : Nat := bitsOf r 959 896

/-- The fields of a window spec, by name (R328). -/
def spFault (r : BitVec 1024) : Nat := bitsOf r 1023 960
def spLate (r : BitVec 1024) : DWord := BitVec.ofNat 64 (bitsOf r 959 896)
def spClose (r : BitVec 1024) : DWord := BitVec.ofNat 64 (bitsOf r 895 832)
def spMerge (r : BitVec 1024) : DWord := BitVec.ofNat 64 (bitsOf r 831 768)
def spRecord (r : BitVec 1024) : DWord := BitVec.ofNat 64 (bitsOf r 767 704)
def spOpen (r : BitVec 1024) : DWord := BitVec.ofNat 64 (bitsOf r 703 640)
def spCapacity (r : BitVec 1024) : Nat := bitsOf r 607 576
def spLateness (r : BitVec 1024) : Nat := bitsOf r 575 544
def spGap (r : BitVec 1024) : Nat := bitsOf r 543 512
def spSlide (r : BitVec 1024) : Nat := bitsOf r 511 480
def spSize (r : BitVec 1024) : Nat := bitsOf r 479 448
def spLaunch (r : BitVec 1024) : Nat := bitsOf r 415 384
def spOut (r : BitVec 1024) : Bool := bitsOf r 52 52 == 1
def spOutStream (r : BitVec 1024) : Nat := bitsOf r 51 40
def spL (r : BitVec 1024) : Nat := bitsOf r 38 32
def spF (r : BitVec 1024) : Nat := bitsOf r 31 28
def spKeysel (r : BitVec 1024) : Nat := bitsOf r 27 24
def spStop (r : BitVec 1024) : Bool := bitsOf r 20 20 == 1
def spPane (r : BitVec 1024) : Bool := bitsOf r 19 19 == 1
def spKind (r : BitVec 1024) : Nat := bitsOf r 18 16

/-- The class of a group (R28). -/
def groupClass (r : BitVec 1024) (g : Nat) : Nat :=
  if lrC0 r = 0 then 0 else if g < lrC0 r then 0 else if g < lrC0 r + lrC1 r then 1 else 2

/-- The v registers a group's class declares (R28). -/
def declaredV (s : State) (g : Group) : Nat :=
  let r := (launchOf s g.launch).rcd
  lrRegs r (groupClass r g.idx)

/-- The k registers a group's class declares (R28). -/
def declaredK (s : State) (g : Group) : Nat :=
  let r := (launchOf s g.launch).rcd
  lrUregs r (groupClass r g.idx)

/-- Whether a group runs in a protected launch (R399). -/
def isProt (s : State) (g : Group) : Bool := lrProt (launchOf s g.launch).rcd

end Sys2Proof.Machine
end

