-- ==== Sys2Proof/Machine/Operands.lean ====
section
/-! DEFINITION. How an instruction reads its operands and names its results: tags (R105, R106),
predicates (R65), constants (R61, R62), and the registers a word names (R79 class 4). -/

namespace Sys2Proof.Machine

/-! ## Causes and sticky flags -/

/-- A fault found in one thread: class and sub-cause (R380), the fault address and the poisoning
instruction where one applies (R384), and DETAIL where it is not a lane number (R379). `kill` marks a mismatch that
kills and relaunches the block (R274, R290, R305, R375). -/
structure Cause where
  cls : Nat
  sub : Nat := 0
  addr : DWord := 0#64
  poisoner : DWord := 0#64
  detail : Option Nat := none
  kill : Bool := false
  deriving DecidableEq, Repr

/-- The sticky flags of `s.fpstat` (R125). -/
abbrev Flags := BitVec 7

/-- The flag bits (R125). -/
def flINV : Flags := 1#7
def flDZ : Flags := 2#7
def flOVF : Flags := 4#7
def flUNF : Flags := 8#7
def flINX : Flags := 16#7
def flVOID : Flags := 32#7
def flXLANE : Flags := 64#7

/-- A computation of one thread that may raise sticky flags or find a fault. -/
abbrev Sem (α : Type) := StateT Flags (Except Cause) α

/-- Raise sticky flags (R103). -/
def raiseFlags (f : Flags) : Sem Unit := fun fl => .ok ((), fl ||| f)

/-- Find a fault. -/
def faulting {α : Type} (c : Cause) : Sem α := fun _ => .error c

/-- Find a fault of a class unless a condition holds. -/
def check (b : Bool) (c : Cause) : Sem Unit := if b then pure () else faulting c

/-- The fault causes by name (R380). `cMisuse` is an illegal operation that no operand value causes: its
DETAIL is 0, as that of a privilege fault and of symbol exhaustion (R379). -/
def cIllegal : Cause := { cls := 1, detail := some 0 }
def cTarget (a : DWord) : Cause := { cls := 2, addr := a, detail := some 0 }
def cRange : Cause := { cls := 3 }
def cTag : Cause := { cls := 4 }
def cMalformed : Cause := { cls := 4, sub := 1 }
def cPoison (a : DWord) : Cause := { cls := 4, sub := 2, poisoner := a }
def cMarked (a : DWord) : Cause := { cls := 4, sub := 3, poisoner := a }
def cWindow (a : DWord) : Cause := { cls := 5, addr := a }
def cAbsent (a : DWord) : Cause := { cls := 5, sub := 1, addr := a }
def cGrant (a : DWord) : Cause := { cls := 5, sub := 2, addr := a }
def cPageType (a : DWord) : Cause := { cls := 5, sub := 3, addr := a }
def cAlign (a : DWord) : Cause := { cls := 6, addr := a }
def cIndex : Cause := { cls := 7 }
def cShape : Cause := { cls := 8 }
def cTranslation (a : DWord) : Cause := { cls := 9, addr := a }
def cAccess (a : DWord) : Cause := { cls := 10, addr := a }
def cIllegalOp : Cause := { cls := 11 }
def cMisuse : Cause := { cls := 11, detail := some 0 }
def cPrivilege : Cause := { cls := 12, detail := some 0 }
def cAffine : Cause := { cls := 13 }
def cSymbols : Cause := { cls := 14, detail := some 0 }
def cMismatch (kill : Bool := false) : Cause := { cls := 0x13, kill := kill }

/-! ## What a thread sees -/

/-- What an instruction sees of its thread: the registers of the thread and of its group, and where
it runs. A uniform instruction has no thread; it sees the lowest lane of its gang. `sh` says
that the shadow of the lane looks (R399). -/
structure View where
  s : State
  gid : Nat
  g : Group
  gang : List Nat
  active : List Nat
  lane : Nat
  rf : RegFile
  uni : UniFile
  sh : Bool

/-- What the same instruction sees of another lane of the group (R155, R156). -/
def View.peer (v : View) (lane : Nat) : View :=
  let t := threadOf v.g lane
  { v with lane := lane, rf := if v.sh then t.shadow.getD t.rf else t.rf }

/-- A register's bits and tag. -/
def readReg (v : View) : Reg → Val
  | .v n => mget {} v.rf.v n.val
  | .k n => mget {} v.uni.k n.val

/-- The register that follows another in its file: the odd half of a pair, or a later one. -/
def regPlus (r : Reg) (i : Nat) : Reg :=
  match r with
  | .v n => .v (finOf 256 (n.val + i))
  | .k n => .k (finOf 1024 (n.val + i))

/-- Whether a register tagged `have_` may be read under a type, given `.raw` (R105). -/
def tagOk (t have_ : Tag) (raw : Bool) : Bool := have_ == t || have_ == .b32 || raw

/-- One register read under a type (R105): the bits, +0 for a void one. -/
def readVal (x : Val) (t : Tag) (raw : Bool) : Sem Nat :=
  if x.tag = .void then do raiseFlags flVOID; pure 0
  else if tagOk t x.tag raw then pure x.bits.toNat
  else faulting cTag

/-- A register operand under a type: one register, or a pair for a 64-bit type (R105) (log 43, DEDUCED). -/
def readTyped (v : View) (r : Reg) (t : Tag) (raw : Bool) : Sem Nat :=
  if is64 t then do
    let x := readReg v r
    let y := readReg v (regPlus r 1)
    let mixed := (x.tag == .s64 && y.tag == .n64) || (x.tag == .n64 && y.tag == .s64)
    check (!mixed) cTag
    let lo ← readVal x t raw
    let hi ← readVal y t raw
    pure (lo + hi * 2 ^ 32)
  else readVal (readReg v r) t raw

/-- A source operand under a type (R61, R62, R105). A constant the type cannot hold is refused as an
illegal word before any operand is read (R78). -/
def readSrc (v : View) (s : Src) (t : Tag) (raw : Bool := false) : Sem Nat :=
  match s with
  | .reg r => readTyped v r t raw
  | .imm i => pure ((immBits t i).getD 0)
  | .const c => pure ((constBits t c).getD 0)

/-- One register that accepts several tags beside b32 and void, by its bit pattern. -/
def readTags (v : View) (r : Reg) (ts : List Tag) : Sem Nat :=
  let x := readReg v r
  if x.tag = .void then do raiseFlags flVOID; pure 0
  else if x.tag = .b32 || ts.contains x.tag then pure x.bits.toNat
  else faulting cTag

/-- An operand of one register read under n32 that also accepts s32 by its bit pattern: the count
operands of R131 and the offsets of R258. -/
def readN32 (v : View) (s : Src) : Sem Nat :=
  match s with
  | .reg r => readTags v r [.n32, .s32]
  | .imm i => pure ((immBits .n32 i).getD 0)
  | .const c => pure ((constBits .n32 c).getD 0)

/-- An address pair: tags n64 half, s64 half, b32 or void, not mixed (R105, R258). -/
def readPair (v : View) (r : Reg) : Sem DWord := do
  let x := readReg v r
  let y := readReg v (regPlus r 1)
  let mixed := (x.tag == .s64 && y.tag == .n64) || (x.tag == .n64 && y.tag == .s64)
  check (!mixed) cTag
  let lo ← readTags v r [.n64, .s64]
  let hi ← readTags v (regPlus r 1) [.n64, .s64]
  pure (BitVec.ofNat 64 (lo + hi * 2 ^ 32))

/-- A register with any tag, read as raw bits; a void one gives 0 and raises VOID (R262). -/
def readRaw (v : View) (r : Reg) : Sem Nat :=
  let x := readReg v r
  if x.tag = .void then do raiseFlags flVOID; pure 0 else pure x.bits.toNat

/-! ## Predicates (R65) -/

/-- Predicate number `n` of a file; number 7 is constantly true. -/
def predBit (p : BitVec 7) (n : Nat) : Bool := if n = 7 then true else p.getLsbD n

/-- The value of a predicate field. -/
def predVal (p : BitVec 7) (f : Pred) : Bool := predBit p f.ps.val != f.neg

/-- A predicate file with one predicate written; writes to number 7 are ignored (R121). -/
def setPred (p : BitVec 7) (n : Nat) (b : Bool) : BitVec 7 :=
  if n = 7 then p
  else if b then p ||| BitVec.ofNat 7 (2 ^ n) else p &&& ~~~(BitVec.ofNat 7 (2 ^ n))

/-! ## Results -/

/-- What an instruction writes for one thread, or for its group when it is uniform: registers by
number in the file of its destination, predicates, index registers, and flags to clear. -/
structure Eff where
  regs : List (Nat × Val) := []
  preds : List (Nat × Bool) := []
  ixs : List (Nat × BitVec 16) := []
  clear : Flags := 0#7
  deriving DecidableEq, Repr

/-- A result of a type in a destination: the pair for a 64-bit type (R106). -/
def writeVal (d : Reg) (t : Tag) (x : Nat) : List (Nat × Val) :=
  if is64 t then
    [(regNum d, ⟨BitVec.ofNat 32 x, t⟩), (regNum d + 1, ⟨BitVec.ofNat 32 (x / 2 ^ 32), t⟩)]
  else [(regNum d, ⟨BitVec.ofNat 32 x, t⟩)]

/-- The effect of writing one typed result. -/
def writeEff (d : Reg) (t : Tag) (x : Nat) : Eff := { regs := writeVal d t x }

/-- Consecutive registers from a number on, each with one tag. -/
def writeRun (n : Nat) (t : Tag) (xs : List Nat) : List (Nat × Val) :=
  match xs with
  | [] => []
  | x :: rest => (n, ⟨BitVec.ofNat 32 x, t⟩) :: writeRun (n + 1) t rest

/-- Registers of a file written in order. -/
def putRegs (m : Map Val) (ws : List (Nat × Val)) : Map Val :=
  ws.foldl (fun m w => mset {} m w.1 w.2) m

/-- Predicates of a file written in order. -/
def putPreds (p : BitVec 7) (ws : List (Nat × Bool)) : BitVec 7 :=
  ws.foldl (fun p w => setPred p w.1 w.2) p

/-- One index register written. -/
def putIx (rf : RegFile) (w : Nat × BitVec 16) : RegFile :=
  match w.1 with
  | 0 => { rf with ix0 := w.2 }
  | 1 => { rf with ix1 := w.2 }
  | 2 => { rf with ix2 := w.2 }
  | _ => { rf with ix3 := w.2 }

/-- The value of an index register. -/
def getIx (rf : RegFile) (n : Nat) : BitVec 16 :=
  match n with
  | 0 => rf.ix0
  | 1 => rf.ix1
  | 2 => rf.ix2
  | _ => rf.ix3

/-- A thread's registers after a per-thread effect (R103, R106, R125). -/
def applyEff (rf : RegFile) (e : Eff) (fl : Flags) : RegFile :=
  let rf := e.ixs.foldl putIx rf
  { rf with
    v := putRegs rf.v e.regs
    p := putPreds rf.p e.preds
    fp := (rf.fp ||| fl) &&& ~~~e.clear }

/-- A group's registers after a uniform effect. -/
def applyUni (u : UniFile) (e : Eff) : UniFile :=
  { k := putRegs u.k e.regs, q := putPreds u.q e.preds }

/-! ## The registers a word names (R79 class 4, R122) -/

/-- Registers that an instruction names: a file, the first number and how many. -/
structure RegUse where
  isK : Bool
  base : Nat
  len : Nat
  deriving DecidableEq, Repr

/-- Registers that one register operand of a given count names. -/
def useReg (r : Reg) (n : Nat := 1) : List RegUse := [⟨isK r, regNum r, n⟩]

/-- Registers that a source operand names. -/
def useSrc (s : Src) (n : Nat := 1) : List RegUse :=
  match s with
  | .reg r => useReg r n
  | _ => []

/-- Registers that an operand of a type fills. -/
def tagRegs (t : Tag) : Nat := if is64 t then 2 else if t = .af then 16 else 1

/-- Registers of a k index. -/
def useK (n len : Nat) : List RegUse := [⟨true, n, len⟩]

/-- Registers of a v index. -/
def useV (n len : Nat) : List RegUse := [⟨false, n, len⟩]

/-- Registers of an affine register (R64). -/
def useAf (r : Fin 4) : List RegUse := [⟨false, 192 + 16 * r.val, 16⟩]

/-- Registers of a lane mask (R152). -/
def useMask : LaneMask → List RegUse
  | .kregs n => [⟨true, n.val * 4, 4⟩]
  | _ => []

/-- Registers of an ordinary format A instruction all of whose operands have one type. -/
def useA (o : OpA) (n : Nat) : List RegUse :=
  let w := tagRegs o.t
  useReg o.d w ++ useSrc o.a w ++ (if n ≥ 2 then useSrc o.b w else []) ++
    (if n ≥ 3 then useSrc o.c w else [])

/-- Registers of format V: pairs of k registers named by 9-bit indices (R74). -/
def useVf (o : OpV) : List RegUse :=
  useK (2 * o.kd.val) 2 ++ useK (2 * o.ks1.val) 2 ++ useK (2 * o.ks2.val) 2

end Sys2Proof.Machine
end

