-- ==== Sys2Proof/Machine/Flags.lean ====
section
/-! DEFINITION. Floating-point values, the one rounding of a result, and the sticky flags it raises
(R98..R103). -/

namespace Sys2Proof.Machine

/-- The value of a float pattern (R98, R101): a NaN, signalling or not; an infinity; or ±m × 2^e. -/
inductive FV
  | nan (sig : Bool)
  | inf (neg : Bool)
  | fin (neg : Bool) (m : Nat) (e : Int)
  deriving DecidableEq, Repr

/-- A pattern with a sign put before its magnitude. -/
def withSign (f : FloatFmt) (neg : Bool) (mag : Nat) : Nat := if neg then f.signBit + mag else mag

/-- `value(F, b)` (R119): the value a bit pattern denotes. -/
def valueOf (f : FloatFmt) (bits : Nat) : FV :=
  let b := bits % 2 ^ f.width
  let neg := b / f.signBit == 1
  let mag := b % f.signBit
  let ex := mag / 2 ^ f.fracBits
  let fr := mag % 2 ^ f.fracBits
  if f.hasInf then
    if mag = f.infBits then .inf neg
    else if mag > f.infBits then .nan (f.fracBits ≥ 7 && fr < 2 ^ (f.fracBits - 1))
    else if ex = 0 then .fin neg fr (1 - f.bias - f.fracBits)
    else .fin neg (2 ^ f.fracBits + fr) ((ex : Int) - f.bias - f.fracBits)
  else
    if mag > f.maxBits then .nan false
    else if ex = 0 then .fin neg fr (1 - f.bias - f.fracBits)
    else .fin neg (2 ^ f.fracBits + fr) ((ex : Int) - f.bias - f.fracBits)

/-- Whether a value is a NaN. -/
def FV.isNan : FV → Bool
  | .nan _ => true
  | _ => false

/-- Whether a value is a signalling NaN (R101). -/
def FV.isSig : FV → Bool
  | .nan s => s
  | _ => false

/-- Whether a value is zero. -/
def FV.isZero : FV → Bool
  | .fin _ m _ => m == 0
  | _ => false

/-- Whether a value is an infinity. -/
def FV.isInf : FV → Bool
  | .inf _ => true
  | _ => false

/-- The sign of a value; a NaN counts as positive (R101). -/
def FV.isNeg : FV → Bool
  | .nan _ => false
  | .inf n => n
  | .fin n _ _ => n

/-- The value with its sign reversed. -/
def FV.negate : FV → FV
  | .nan s => .nan s
  | .inf n => .inf (!n)
  | .fin n m e => .fin (!n) m e

/-- The magnitude of a value. -/
def FV.abs : FV → FV
  | .nan s => .nan s
  | .inf _ => .inf false
  | .fin _ m e => .fin false m e

/-! ## One rounding (R99, R100) -/

/-- Whether a magnitude of `n` steps and a remainder is rounded away from zero: `half` compares the
remainder with half a step (less, equal, greater) and `exact` says that there is none. -/
def roundsUp (mode : Rnd) (neg : Bool) (n : Nat) (half : Ordering) (exact : Bool) : Bool :=
  if exact then false
  else
    match mode with
    | .tz => false
    | .up => !neg
    | .dn => neg
    | .ne =>
      match half with
      | .lt => false
      | .gt => true
      | .eq => n % 2 == 1

/-- The magnitude m × 2^e, and a little more where `sticky`, in steps of 2^q, rounded: the steps, and
whether nothing was lost. A sticky magnitude has bits below the step. -/
def roundSteps (mode : Rnd) (neg : Bool) (m : Nat) (e : Int) (sticky : Bool) (q : Int) : Nat × Bool :=
  if e ≥ q then
    let n := m * 2 ^ (e - q).toNat
    (if roundsUp mode neg n .lt (!sticky) then n + 1 else n, !sticky)
  else
    let d := (q - e).toNat
    let n := m / 2 ^ d
    let r := m % 2 ^ d
    let h := 2 ^ (d - 1)
    let half := if r < h then .lt else if r = h then (if sticky then .gt else .eq) else .gt
    let exact := r == 0 && !sticky
    (if roundsUp mode neg n half exact then n + 1 else n, exact)

/-- A result and the flags that its rounding raises. -/
structure Rounded where
  bits : Nat
  flags : Flags := 0#7
  deriving DecidableEq, Repr

/-- The exponent of the step of the subnormals of a format. -/
def minStep (f : FloatFmt) : Int := 1 - f.bias - f.fracBits

/-- The exponent of the step of a magnitude m × 2^e in an unbounded exponent range. -/
def freeStep (f : FloatFmt) (m : Nat) (e : Int) : Int := e + Nat.log2 m - f.fracBits

/-- The largest finite value or the infinity that an overflowed result becomes (R99), and whether it
is the infinity. -/
def overflowMag (f : FloatFmt) (mode : Rnd) (sat neg : Bool) : Nat × Bool :=
  if sat || !f.hasInf then (f.maxBits, false)
  else
    match mode with
    | .ne => (f.infBits, true)
    | .tz => (f.maxBits, false)
    | .up => if neg then (f.maxBits, false) else (f.infBits, true)
    | .dn => if neg then (f.infBits, true) else (f.maxBits, false)

/-- `round_fmt` of a finite nonzero magnitude (R99, R100, R103). -/
def roundFin (f : FloatFmt) (mode : Rnd) (sat neg : Bool) (m : Nat) (e : Int) (sticky : Bool) :
    Rounded :=
  let q := max (minStep f) (freeStep f m e)
  let (n, exact) := roundSteps mode neg m e sticky q
  let mag := (q - minStep f).toNat * 2 ^ f.fracBits + n
  if mag > f.maxBits then
    ⟨withSign f neg (overflowMag f mode sat neg).1, flOVF ||| flINX⟩
  else
    let q' := freeStep f m e
    let n' := (roundSteps mode neg m e sticky q').1
    let tiny := q' < minStep f && n' < 2 ^ (f.fracBits + (minStep f - q').toNat)
    ⟨withSign f neg mag, (if exact then 0#7 else flINX) ||| (if tiny && !exact then flUNF else 0#7)⟩

/-- `round_fmt(x, F, mode, sat)` (R119) of an exact value, which may be a little larger in magnitude
where `sticky`. A NaN becomes the canonical NaN (R101); an exact infinity delivered as the largest
finite value raises OVF, and INX, since the delivered result differs from the exact one (R99, R103). -/
def roundFV (f : FloatFmt) (mode : Rnd) (sat : Bool) (x : FV) (sticky : Bool := false) : Rounded :=
  match x with
  | .nan _ => ⟨f.nanBits, 0#7⟩
  | .inf neg =>
    if sat || !f.hasInf then ⟨withSign f neg f.maxBits, flOVF ||| flINX⟩
    else ⟨withSign f neg f.infBits, 0#7⟩
  | .fin neg m e => if m = 0 then ⟨withSign f neg 0, 0#7⟩ else roundFin f mode sat neg m e sticky

/-- An integer as a value. -/
def fvInt (x : Int) : FV := .fin (x < 0) x.natAbs 0

/-- The signed mantissa of a finite value at a lower exponent. -/
def signedAt (neg : Bool) (m : Nat) (e lo : Int) : Int :=
  let x : Int := (m * 2 ^ (e - lo).toNat : Nat)
  if neg then -x else x

/-! ## Exact arithmetic on values, with the invalid flag (R100, R103, R170) -/

/-- The sign of a zero sum: kept where both are of one sign, else + but for mode dn (R100). -/
def zeroSign (mode : Rnd) (n1 n2 : Bool) : Bool := if n1 = n2 then n1 else mode == .dn

/-- `exact(a + b)`. -/
def fvAdd (mode : Rnd) (a b : FV) : FV × Flags :=
  match a, b with
  | .nan s, .nan t => (.nan false, if s || t then flINV else 0#7)
  | .nan s, _ => (.nan false, if s then flINV else 0#7)
  | _, .nan t => (.nan false, if t then flINV else 0#7)
  | .inf n1, .inf n2 => if n1 = n2 then (.inf n1, 0#7) else (.nan false, flINV)
  | .inf n1, .fin .. => (.inf n1, 0#7)
  | .fin .., .inf n2 => (.inf n2, 0#7)
  | .fin n1 m1 e1, .fin n2 m2 e2 =>
    let lo := min e1 e2
    let x := signedAt n1 m1 e1 lo + signedAt n2 m2 e2 lo
    if x = 0 then
      (.fin (if m1 = 0 ∧ m2 = 0 then zeroSign mode n1 n2 else mode == .dn) 0 lo, 0#7)
    else (.fin (x < 0) x.natAbs lo, 0#7)

/-- `exact(a * b)`. -/
def fvMul (a b : FV) : FV × Flags :=
  match a, b with
  | .nan s, .nan t => (.nan false, if s || t then flINV else 0#7)
  | .nan s, _ => (.nan false, if s then flINV else 0#7)
  | _, .nan t => (.nan false, if t then flINV else 0#7)
  | .inf n1, .inf n2 => (.inf (n1 != n2), 0#7)
  | .inf n1, .fin n2 m _ => if m = 0 then (.nan false, flINV) else (.inf (n1 != n2), 0#7)
  | .fin n1 m _, .inf n2 => if m = 0 then (.nan false, flINV) else (.inf (n1 != n2), 0#7)
  | .fin n1 m1 e1, .fin n2 m2 e2 => (.fin (n1 != n2) (m1 * m2) (e1 + e2), 0#7)

/-- The order of two finite values. -/
def finLt (n1 : Bool) (m1 : Nat) (e1 : Int) (n2 : Bool) (m2 : Nat) (e2 : Int) : Bool :=
  let lo := min e1 e2
  signedAt n1 m1 e1 lo < signedAt n2 m2 e2 lo

/-- Whether one value lies below another; a NaN lies nowhere. -/
def fvLt (a b : FV) : Bool :=
  match a, b with
  | .nan _, _ => false
  | _, .nan _ => false
  | .inf n1, .inf n2 => n1 && !n2
  | .inf n1, .fin .. => n1
  | .fin .., .inf n2 => !n2
  | .fin n1 m1 e1, .fin n2 m2 e2 => finLt n1 m1 e1 n2 m2 e2

/-- Whether two values are equal; -0 equals +0, and a NaN equals nothing. -/
def fvEq (a b : FV) : Bool := !a.isNan && !b.isNan && !fvLt a b && !fvLt b a

/-- The invalid flag of reading signalling NaNs (R101). -/
def sigFlags (xs : List FV) : Flags := if xs.any FV.isSig then flINV else 0#7

/-! ## Rounding to an integer -/

/-- A finite value rounded to an integer, and whether nothing was lost. -/
def roundToInt (mode : Rnd) (neg : Bool) (m : Nat) (e : Int) : Int × Bool :=
  let (n, exact) := roundSteps mode neg m e false 0
  (if neg then -(n : Int) else n, exact)

/-! ## Elements of packed registers (R96, R98) -/

/-- Element `i` of a packed register. -/
def elemOf (t : Tag) (x i : Nat) : Nat := x / 2 ^ (elemWidth t * i) % 2 ^ elemWidth t

/-- A register made of elements, element 0 lowest. -/
def joinElems (w : Nat) : List Nat → Nat
  | [] => 0
  | e :: es => e % 2 ^ w + 2 ^ w * joinElems w es

/-- The elements of a register. -/
def elemsOf (t : Tag) (x : Nat) : List Nat := (List.range (elems t)).map (elemOf t x)

end Sys2Proof.Machine
end

