-- ==== Sys2Proof/Machine/Float.lean ====
section
/-! DEFINITION. Floating-point operations on the elements of registers: sums, products, minima,
comparisons, quotients, roots and conversions (R97..R103, R170..R181). -/

namespace Sys2Proof.Machine

/-- The element format of a float type; f32 for a type that has none. -/
def fmtOf (t : Tag) : FloatFmt := (floatElem t).getD .f32

/-- A rounded result with the flags found before the rounding. -/
def rounded (f : FloatFmt) (mode : Rnd) (sat : Bool) (x : FV × Flags) : Rounded :=
  let r := roundFV f mode sat x.1
  ⟨r.bits, r.flags ||| x.2⟩

/-- `FADD` of one element (R170). -/
def elAdd (f : FloatFmt) (mode : Rnd) (sat : Bool) (a b : Nat) : Rounded :=
  rounded f mode sat (fvAdd mode (valueOf f a) (valueOf f b))

/-- `FSUB` of one element (R170). -/
def elSub (f : FloatFmt) (mode : Rnd) (sat : Bool) (a b : Nat) : Rounded :=
  rounded f mode sat (fvAdd mode (valueOf f a) (valueOf f b).negate)

/-- `FMUL` of one element (R170). -/
def elMul (f : FloatFmt) (mode : Rnd) (sat : Bool) (a b : Nat) : Rounded :=
  rounded f mode sat (fvMul (valueOf f a) (valueOf f b))

/-- `exact(a * b + c)`: one rounding comes after it (R170). -/
def fvFma (mode : Rnd) (a b c : FV) : FV × Flags :=
  let (p, fp) := fvMul a b
  let (x, fx) := fvAdd mode p c
  (x, fp ||| fx)

/-- `FFMA` of one element (R170). -/
def elFma (f : FloatFmt) (mode : Rnd) (sat : Bool) (a b c : Nat) : Rounded :=
  rounded f mode sat (fvFma mode (valueOf f a) (valueOf f b) (valueOf f c))

/-- Whether one number lies below another with -0 below +0 (R171). -/
def below (a b : FV) : Bool :=
  if a.isZero && b.isZero then a.isNeg && !b.isNeg else fvLt a b

/-- `FMIN` and `FMAX` of one element (R171). -/
def elMinMax (f : FloatFmt) (isMax : Bool) (a b : Nat) : Rounded :=
  let x := valueOf f a
  let y := valueOf f b
  let fl := sigFlags [x, y]
  if x.isNan && y.isNan then ⟨f.nanBits, fl⟩
  else if x.isNan then ⟨b, fl⟩
  else if y.isNan then ⟨a, fl⟩
  else if isMax then ⟨if below x y then b else a, fl⟩
  else ⟨if below y x then b else a, fl⟩

/-- The comparison codes of `FCMP` (R172). -/
def fcmpHolds (cc : Nat) (x y : FV) : Bool :=
  match cc with
  | 0 => fvEq x y
  | 1 => !fvEq x y
  | 2 => fvLt x y
  | 3 => fvLt x y || fvEq x y
  | 4 => fvLt y x
  | 5 => fvLt y x || fvEq x y
  | 6 => !x.isNan && !y.isNan
  | _ => x.isNan || y.isNan

/-- The class mask of one element (R173). -/
def classMask (f : FloatFmt) (a : Nat) : Nat :=
  match valueOf f a with
  | .nan s => if s then 2 ^ 8 else 2 ^ 9
  | .inf n => if n then 2 ^ 0 else 2 ^ 7
  | .fin n m _ =>
    if m = 0 then (if n then 2 ^ 3 else 2 ^ 4)
    else if m < 2 ^ f.fracBits then (if n then 2 ^ 2 else 2 ^ 5)
    else (if n then 2 ^ 1 else 2 ^ 6)

/-- `FRND` of one element (R174): exact as a value of its format, so no INX. -/
def elRound (f : FloatFmt) (mode : Rnd) (a : Nat) : Rounded :=
  match valueOf f a with
  | .nan s => ⟨f.nanBits, if s then flINV else 0#7⟩
  | .inf n => ⟨withSign f n f.infBits, 0#7⟩
  | .fin n m e => ⟨(roundFV f .ne false (.fin n (roundToInt mode n m e).1.natAbs 0)).bits, 0#7⟩

/-! ## Quotients and roots -/

/-- The integer square root, by binary digits. -/
def isqrt (n : Nat) : Nat → Nat → Nat
  | 0, r => r
  | b + 1, r => isqrt n b (if (r + 2 ^ b) * (r + 2 ^ b) ≤ n then r + 2 ^ b else r)

/-- `FDIV` (R112, R175). -/
def divBits (mode : Rnd) (sat : Bool) (a b : Nat) : Rounded :=
  match valueOf .f32 a, valueOf .f32 b with
  | .nan s, y => ⟨FloatFmt.f32.nanBits, if s || y.isSig then flINV else 0#7⟩
  | _, .nan t => ⟨FloatFmt.f32.nanBits, if t then flINV else 0#7⟩
  | .inf _, .inf _ => ⟨FloatFmt.f32.nanBits, flINV⟩
  | .inf n1, .fin n2 _ _ => roundFV .f32 mode sat (.inf (n1 != n2))
  | .fin n1 _ _, .inf n2 => roundFV .f32 mode sat (.fin (n1 != n2) 0 0)
  | .fin n1 m1 e1, .fin n2 m2 e2 =>
    if m2 = 0 then
      if m1 = 0 then ⟨FloatFmt.f32.nanBits, flINV⟩
      else
        let r := roundFV .f32 mode sat (.inf (n1 != n2))
        ⟨r.bits, r.flags ||| flDZ⟩
    else
      let n := m1 * 2 ^ 64 / m2
      roundFV .f32 mode sat (.fin (n1 != n2) n (e1 - e2 - 64)) (m1 * 2 ^ 64 % m2 != 0)

/-- `FSQRT` (R112, R175). -/
def sqrtBits (mode : Rnd) (sat : Bool) (a : Nat) : Rounded :=
  match valueOf .f32 a with
  | .nan s => ⟨FloatFmt.f32.nanBits, if s then flINV else 0#7⟩
  | .inf n => if n then ⟨FloatFmt.f32.nanBits, flINV⟩ else roundFV .f32 mode sat (.inf false)
  | .fin n m e =>
    if m = 0 then ⟨withSign .f32 n 0, 0#7⟩
    else if n then ⟨FloatFmt.f32.nanBits, flINV⟩
    else
      let odd := e % 2
      let x := m * 2 ^ (80 + odd.toNat)
      let r := isqrt x 56 0
      roundFV .f32 mode sat (.fin false r ((e - odd) / 2 - 40)) (r * r != x)

/-! ## Conversions -/

/-- The least and greatest value of an integer type (R96). -/
def intRange : Tag → Int × Int
  | .s32 => (-2147483648, 2147483647)
  | .n32 | .b32 => (0, 4294967295)
  | .s64 => (-9223372036854775808, 9223372036854775807)
  | .n64 => (0, 18446744073709551615)
  | .s8x4 => (-128, 127)
  | .n8x4 => (0, 255)
  | _ => (0, 0)

/-- Whether an integer type is signed. -/
def isSigned : Tag → Bool
  | .s32 | .s64 | .s8x4 => true
  | _ => false

/-- The number that an element of an integer type holds (R96). -/
def intOf (t : Tag) (x : Nat) : Int :=
  let w := elemWidth t
  let x := x % 2 ^ w
  if isSigned t && x ≥ 2 ^ (w - 1) then (x : Int) - 2 ^ w else x

/-- An integer clamped to a type's range. -/
def clampInt (t : Tag) (x : Int) : Int := max (intRange t).1 (min (intRange t).2 x)

/-- An exact integer result in a type: clamped with `.sat`, else wrapped (R97). -/
def putInt (t : Tag) (sat : Bool) (x : Int) : Nat :=
  wrapInt (elemWidth t) (if sat then clampInt t x else x)

/-- f32 to an integer type (R177). -/
def cvtToInt (t : Tag) (mode : Rnd) (a : Nat) : Rounded :=
  let w := elemWidth t
  match valueOf .f32 a with
  | .nan _ => ⟨0, flINV⟩
  | .inf n => ⟨wrapInt w (if n then (intRange t).1 else (intRange t).2), flINV⟩
  | .fin n m e =>
    let (x, exact) := roundToInt mode n m e
    if clampInt t x = x then ⟨wrapInt w x, if exact then 0#7 else flINX⟩
    else ⟨wrapInt w (clampInt t x), flINV⟩

/-- `CVT` between scalar types (R177). -/
def cvtBits (src t : Tag) (mode : Rnd) (sat : Bool) (a : Nat) : Rounded :=
  if src = .f32 then cvtToInt t mode a
  else if t = .f32 then roundFV .f32 mode false (fvInt (intOf src a))
  else ⟨putInt t sat (intOf src a), 0#7⟩

/-- A float element converted to another format (R102, R103): a NaN converted to E4M3 raises INV, and
a signalling NaN is read as an operand. -/
def cvtFloat (src dst : FloatFmt) (mode : Rnd) (sat : Bool) (a : Nat) : Rounded :=
  let x := valueOf src a
  let r := roundFV dst mode sat x
  ⟨r.bits, r.flags ||| (if x.isSig || (x.isNan && dst = .e4m3) then flINV else 0#7)⟩

/-! ## Elementwise application -/

/-- One operation on every element of one, two or three registers of a packed or scalar type. -/
def mapElems (t : Tag) (op : Nat → Nat → Nat → Rounded) (a b c : Nat) : Rounded :=
  let rs := (List.range (elems t)).map (fun i => op (elemOf t a i) (elemOf t b i) (elemOf t c i))
  ⟨joinElems (elemWidth t) (rs.map (·.bits)), rs.foldl (fun fl r => fl ||| r.flags) 0#7⟩

/-- Deliver a rounded result: raise its flags and give its bits. -/
def delivered (r : Rounded) : Sem Nat := do
  raiseFlags r.flags
  pure r.bits

/-! ## Atomic operations (R266) -/

/-- The value an atomic leaves, or none where a compare-and-swap fails and writes nothing. -/
def atomNew (op : AtomOp) (t : Tag) (old b c : Nat) : Option Nat :=
  let w := elemWidth t
  match op with
  | .add => some ((old + b) % 2 ^ w)
  | .min => some (if intOf t b < intOf t old then b else old)
  | .max => some (if intOf t old < intOf t b then b else old)
  | .and => some (Nat.land old b)
  | .or => some (Nat.lor old b)
  | .xor => some (Nat.xor old b)
  | .exch => some b
  | .cas => if old = b then some c else none
  | .inc => some (if old ≥ b then 0 else old + 1)
  | .dec => some (if old = 0 ∨ old > b then b else old - 1)
  | .fadd => some (elAdd .f32 .ne false old b).bits
  | .fmin => some (elMinMax .f32 false old b).bits
  | .fmax => some (elMinMax .f32 true old b).bits
  | .bf16add => some (mapElems .bf16x2 (fun x y _ => elAdd .bf16 .ne false x y) old b 0).bits
  | .f16add => some (mapElems .f16x2 (fun x y _ => elAdd .f16 .ne false x y) old b 0).bits

/-- Bytes of an atomic's access (R259). -/
def atomSize (t : Tag) : Nat := if is64 t then 8 else 4

end Sys2Proof.Machine
end

