-- ==== Sys2Proof/Machine/Approx.lean ====
section
/-! DEFINITION. The approximated functions of f32 (R111, R112) and the outward roundings of the affine
functions: exact results from fixed-point enclosures, and the values that an implementation may
deliver within its bound. -/

namespace Sys2Proof.Machine

/-! ## Fixed-point enclosures: 320 binary places -/

/-- One in fixed point. -/
def fxOne : Nat := 2 ^ 320

/-- ln 2 in fixed point, truncated. -/
def fxLn2 : Nat :=
  0xb17217f7d1cf79abc9e3b39803f2f6af40f343267298b62d8a0d175b8baafa2be7b876206debac98

/-- π in fixed point, truncated. -/
def fxPi : Nat :=
  0x3243f6a8885a308d313198a2e03707344a4093822299f31d0082efa98ec4e6c89452821e638d01377

/-- The sum of x^k / k! from term `t` = x^k / k! on, for a fixed number of terms. -/
def expTail (x : Nat) : Nat → Nat → Nat → Nat
  | 0, _, _ => 0
  | fuel + 1, k, t => t + expTail x fuel (k + 1) (t * x / fxOne / (k + 1))

/-- e^x in fixed point for 0 ≤ x ≤ 1. -/
def fxExp (x : Nat) : Nat := expTail x 90 0 fxOne

/-- The alternating sums of x^k / k! over every second k: the sine from k = 1, the cosine from
k = 0; `x2` is the square. -/
def trigTail (x2 : Nat) : Nat → Nat → Nat → Int
  | 0, _, _ => 0
  | fuel + 1, k, t => (t : Int) - trigTail x2 fuel (k + 2) (t * x2 / fxOne / ((k + 1) * (k + 2)))

/-- sin x in fixed point for 0 ≤ x ≤ 4. -/
def fxSin (x : Nat) : Int := trigTail (x * x / fxOne) 70 1 x

/-- cos x in fixed point for 0 ≤ x ≤ 4. -/
def fxCos (x : Nat) : Int := trigTail (x * x / fxOne) 70 0 fxOne

/-- atanh z in fixed point for |z| < 1/2: the sum of z^k / k over odd k. -/
def atanhTail (z2 : Int) : Nat → Nat → Int → Int
  | 0, _, _ => 0
  | fuel + 1, k, t => t.tdiv k + atanhTail z2 fuel (k + 2) ((t * z2).tdiv fxOne)

/-- ln of the ratio m / 2^s, taken near 1, in fixed point. -/
def fxLnRatio (m s : Nat) : Int :=
  let one : Int := 2 ^ s
  let z : Int := (((m : Int) - one) * fxOne).tdiv ((m : Int) + one)
  2 * atanhTail ((z * z).tdiv fxOne) 170 1 z

/-- An enclosure of a real: between `lo` × 2^e and `hi` × 2^e, of one sign. -/
structure Encl where
  neg : Bool
  lo : Nat
  hi : Nat
  e : Int
  deriving DecidableEq, Repr

/-- The error that a fixed-point computation may have, in units of its last place. -/
def fxSlack : Nat := 2 ^ 24

/-- A signed fixed-point number with its slack as an enclosure. -/
def enclFx (x : Int) (e : Int) : Encl :=
  ⟨x < 0, x.natAbs - fxSlack, x.natAbs + fxSlack, e - 320⟩

/-- A magnitude m × 2^e in fixed point, truncated. -/
def toFx (m : Nat) (e : Int) : Nat :=
  if e + 320 ≥ 0 then m * 2 ^ (e + 320).toNat else m / 2 ^ (-(e + 320)).toNat

/-- 2^x for x = ±m × 2^e: the integer part of x goes to the exponent. -/
def enclExp2 (neg : Bool) (m : Nat) (e : Int) : Encl :=
  let x : Int := if neg then -(toFx m e : Int) else toFx m e
  let n := x.fdiv fxOne
  let f := (x - n * fxOne).toNat
  enclFx (fxExp (f * fxLn2 / fxOne)) n

/-- e^x for x = ±m × 2^e, |x| ≤ 1024. -/
def enclExp (neg : Bool) (m : Nat) (e : Int) : Encl :=
  let x : Int := if neg then -(toFx m e : Int) else toFx m e
  let n := x.fdiv fxLn2
  enclFx (fxExp (x - n * fxLn2).toNat) n

/-- log2 x for x = m × 2^e > 0, with the mantissa taken between 3/4 and 3/2. -/
def enclLog2 (m : Nat) (e : Int) : Encl :=
  let k := Nat.log2 m
  let big := decide (2 * m > 3 * 2 ^ k)
  let s := if big then k + 1 else k
  enclFx ((e + s) * (fxOne : Int) + (fxLnRatio m s * fxOne).tdiv fxLn2) 0

/-- sin x for x = ±m × 2^e, |x| ≤ 2^20. -/
def enclSin (neg : Bool) (m : Nat) (e : Int) : Encl :=
  let x := toFx m e
  let r := x % (2 * fxPi)
  let y := if r > fxPi then -fxSin (r - fxPi) else fxSin r
  enclFx (if neg then -y else y) 0

/-- cos x for x = m × 2^e, |x| ≤ 2^20. -/
def enclCos (m : Nat) (e : Int) : Encl :=
  let x := toFx m e
  let r := x % (2 * fxPi)
  enclFx (if r > fxPi then -fxCos (r - fxPi) else fxCos r) 0

/-- tanh x for x = ±m × 2^e, |x| < 10. -/
def enclTanh (neg : Bool) (m : Nat) (e : Int) : Encl :=
  let x := 2 * toFx m e
  let n := x / fxLn2
  let p := fxExp (x - n * fxLn2) * 2 ^ n
  enclFx ((if neg then -1 else 1) * (((p - fxOne) * fxOne / (p + fxOne) : Nat) : Int)) 0

/-- 1 / x for x = ±m × 2^e ≠ 0, to 128 places. -/
def enclRcp (neg : Bool) (m : Nat) (e : Int) : Encl :=
  let k := 128 + Nat.log2 m
  ⟨neg, 2 ^ k / m, 2 ^ k / m + 1, -e - k⟩

/-- 1 / √x for x = m × 2^e > 0, to about 128 places. -/
def enclRsq (m : Nat) (e : Int) : Encl :=
  let odd := e % 2
  let x := m * 2 ^ odd.toNat
  let r := isqrt (2 ^ 320 / x) 160 0
  ⟨false, r - 1, r + 2, -((e - odd) / 2) - 160⟩

/-- √x for x = m × 2^e ≥ 0, to about 128 places; exact where both ends agree. -/
def enclSqrt (m : Nat) (e : Int) : Encl :=
  let odd := e % 2
  let x := m * 2 ^ (256 + odd.toNat)
  let r := isqrt x 160 0
  ⟨false, r, if r * r = x then r else r + 1, (e - odd) / 2 - 128⟩

/-! ## Bounds (R111) -/

/-- The lesser of 2^k and 1 as a step: the exponent of ulp(y) for a magnitude `lo` × 2^e (R111). -/
def ulpExp (lo : Nat) (e : Int) : Int :=
  if lo = 0 then -149 else max (e + Nat.log2 lo) (-126) - 23

/-- Whether ±m × 2^e lies within `n` × 2^u of every real of an enclosure. -/
def within (neg : Bool) (m : Nat) (e : Int) (y : Encl) (n : Nat) (u : Int) : Bool :=
  let lo := min (min e y.e) u
  let z := signedAt neg m e lo
  let a := signedAt y.neg y.lo y.e lo
  let b := signedAt y.neg y.hi y.e lo
  let d := signedAt false n u lo
  z - a ≤ d && a - z ≤ d && z - b ≤ d && b - z ≤ d

/-- How far a delivered value may lie from the exact one. -/
inductive Bound
  | ulps (n : Nat)
  | absolute (e : Int)
  deriving DecidableEq, Repr

/-- Whether an f32 pattern is a finite value within a bound of an enclosed real. -/
def inBound (z : Nat) (y : Encl) (b : Bound) : Bool :=
  match valueOf .f32 z with
  | .fin n m e =>
    match b with
    | .ulps k => within n m e y k (ulpExp y.lo y.e)
    | .absolute x => within n m e y 1 x
  | _ => false

/-- An enclosed real rounded to f32. -/
def roundEncl (mode : Rnd) (y : Encl) : Rounded := roundFV .f32 mode false (.fin y.neg y.lo y.e) true

/-- The numbers of the approximated functions. -/
inductive ApproxFn
  | rcp | rsq | exp2 | log2 | sin | cos | tanh
  deriving DecidableEq, Repr

/-- The number by which a core's table names a function. -/
def ApproxFn.code : ApproxFn → Nat
  | .rcp => 0 | .rsq => 1 | .exp2 => 2 | .log2 => 3 | .sin => 4 | .cos => 5 | .tanh => 6

/-- The value a core of revision `rev` delivers (R111): its own choice where that lies within the
bound, else the nearest value, which does. INX is raised, and UNF or OVF by the delivered value
(log 44, DESIGN CHOICE). -/
def approximate (fn : ApproxFn) (rev : Word) (x : Nat) (y : Encl) (b : Bound) : Rounded :=
  let z := (Config.approx fn.code rev (BitVec.ofNat 32 x)).toNat
  if inBound z y b then
    ⟨z, flINX ||| (if z % 2 ^ 31 < 0x00800000 then flUNF else 0#7)⟩
  else
    let r := roundEncl .ne y
    ⟨r.bits, r.flags ||| flINX⟩

/-- A finite magnitude's only bit, where it is a power of two: its exponent. -/
def powerOfTwo (m : Nat) (e : Int) : Option Int :=
  if m = 2 ^ Nat.log2 m then some (e + Nat.log2 m) else none

/-- An exact result. -/
def exactFV (x : FV) : Rounded := roundFV .f32 .ne false x

/-- An integer as m × 2^e where ±m × 2^e is one. -/
def integerOf (neg : Bool) (m : Nat) (e : Int) : Option Int :=
  let (x, exact) := roundToInt .tz neg m e
  if exact then some x else none

/-- The NaN that an invalid operand gives. -/
def invalidF32 : Rounded := ⟨FloatFmt.f32.nanBits, flINV⟩

/-- A NaN operand (R101). -/
def nanF32 (sig : Bool) : Rounded := ⟨FloatFmt.f32.nanBits, if sig then flINV else 0#7⟩

/-- An infinite result that a zero operand gives. -/
def divByZero (neg : Bool) : Rounded := ⟨withSign .f32 neg FloatFmt.f32.infBits, flDZ⟩

/-- `FRCP` (R112). -/
def rcpBits (rev : Word) (x : Nat) : Rounded :=
  match valueOf .f32 x with
  | .nan s => nanF32 s
  | .inf n => ⟨withSign .f32 n 0, 0#7⟩
  | .fin n m e =>
    if m = 0 then divByZero n
    else
      match powerOfTwo m e with
      | some k =>
        if -149 ≤ -k ∧ -k ≤ 127 then exactFV (.fin n 1 (-k))
        else approximate .rcp rev x (enclRcp n m e) (.ulps 1)
      | none => approximate .rcp rev x (enclRcp n m e) (.ulps 1)

/-- `FRSQ` (R112). -/
def rsqBits (rev : Word) (x : Nat) : Rounded :=
  match valueOf .f32 x with
  | .nan s => nanF32 s
  | .inf n => if n then invalidF32 else ⟨0, 0#7⟩
  | .fin n m e =>
    if m = 0 then divByZero n
    else if n then invalidF32
    else
      match powerOfTwo m e with
      | some k =>
        if k % 2 = 0 then exactFV (.fin false 1 (-(k / 2)))
        else approximate .rsq rev x (enclRsq m e) (.ulps 1)
      | none => approximate .rsq rev x (enclRsq m e) (.ulps 1)

/-- `FEXP2` (R112). -/
def exp2Bits (rev : Word) (x : Nat) : Rounded :=
  match valueOf .f32 x with
  | .nan s => nanF32 s
  | .inf n => ⟨if n then 0 else FloatFmt.f32.infBits, 0#7⟩
  | .fin n m e =>
    if fvLt (.fin n m e) (.fin false 128 0) then
      if fvLt (.fin n m e) (.fin true 1000 0) then
        approximate .exp2 rev x ⟨false, 1, 1, -1000⟩ (.ulps 2)
      else
        match integerOf n m e with
        | some k =>
          if -149 ≤ k then exactFV (.fin false 1 k)
          else approximate .exp2 rev x (enclExp2 n m e) (.ulps 2)
        | none => approximate .exp2 rev x (enclExp2 n m e) (.ulps 2)
    else ⟨FloatFmt.f32.infBits, flOVF ||| flINX⟩

/-- `FLOG2` (R112). -/
def log2Bits (rev : Word) (x : Nat) : Rounded :=
  match valueOf .f32 x with
  | .nan s => nanF32 s
  | .inf n => if n then invalidF32 else ⟨FloatFmt.f32.infBits, 0#7⟩
  | .fin n m e =>
    if m = 0 then divByZero true
    else if n then invalidF32
    else
      match powerOfTwo m e with
      | some k => exactFV (fvInt k)
      | none =>
        let v : FV := .fin false m e
        let inside := !fvLt v (.fin false 3 (-2)) && !fvLt (.fin false 3 (-1)) v
        approximate .log2 rev x (enclLog2 m e) (if inside then .absolute (-22) else .ulps 2)

/-- The bound of `FSIN` and `FCOS` at a magnitude up to 2^20 (R112); 0x40490FDB is
round_ne32(π). -/
def trigBound (m : Nat) (e : Int) : Bound :=
  if fvLt (valueOf .f32 0x40490FDB) (.fin false m e) then .absolute (-21) else .ulps 2

/-- Beyond 2^20, a value in [-1, 1] (R112): the core's own, or 0 (log 44, DESIGN CHOICE). -/
def trigFar (fn : ApproxFn) (rev : Word) (x : Nat) : Rounded :=
  let z := (Config.approx fn.code rev (BitVec.ofNat 32 x)).toNat
  ⟨if z % 2 ^ 31 ≤ 0x3F800000 then z else 0, flINX⟩

/-- `FSIN` (R112). -/
def sinBits (rev : Word) (x : Nat) : Rounded :=
  match valueOf .f32 x with
  | .nan s => nanF32 s
  | .inf _ => invalidF32
  | .fin n m e =>
    if m = 0 then ⟨x, 0#7⟩
    else if fvLt (.fin false 1 20) (.fin false m e) then trigFar .sin rev x
    else approximate .sin rev x (enclSin n m e) (trigBound m e)

/-- `FCOS` (R112). -/
def cosBits (rev : Word) (x : Nat) : Rounded :=
  match valueOf .f32 x with
  | .nan s => nanF32 s
  | .inf _ => invalidF32
  | .fin _ m e =>
    if m = 0 then ⟨0x3F800000, 0#7⟩
    else if fvLt (.fin false 1 20) (.fin false m e) then trigFar .cos rev x
    else approximate .cos rev x (enclCos m e) (trigBound m e)

/-- `FTANH` (R112). -/
def tanhBits (rev : Word) (x : Nat) : Rounded :=
  match valueOf .f32 x with
  | .nan s => nanF32 s
  | .inf n => ⟨withSign .f32 n 0x3F800000, 0#7⟩
  | .fin n m e =>
    if m = 0 then ⟨x, 0#7⟩
    else if fvLt (.fin false m e) (.fin false 10 0) then
      approximate .tanh rev x (enclTanh n m e) (.ulps 2)
    else ⟨withSign .f32 n 0x3F800000, 0#7⟩

/-- With `.sat`, an infinite result becomes the largest finite value, and OVF is raised; INX too,
since the delivered result differs from the exact one (R103, R175) (log 48, DEDUCED). -/
def saturate (sat : Bool) (r : Rounded) : Rounded :=
  if sat && r.bits % 2 ^ 31 == 0x7F800000 then
    ⟨withSign .f32 (r.bits / 2 ^ 31 == 1) 0x7F7FFFFF, r.flags ||| flOVF ||| flINX⟩
  else r

end Sys2Proof.Machine
end

