-- ==== Sys2Proof/Machine/AffineVal.lean ====
section
/-! DEFINITION. Affine values: their layout, the exact arithmetic of their components, folding, and the
outward roundings of R184..R199. -/

namespace Sys2Proof.Machine

/-! ## Exact dyadic numbers -/

/-- The number m × 2^e. -/
structure Dy where
  m : Int := 0
  e : Int := 0
  deriving DecidableEq, Repr

/-- The mantissa of a dyadic at a lower exponent. -/
def Dy.scaled (x : Dy) (lo : Int) : Int := x.m * 2 ^ (x.e - lo).toNat

/-- Exact sum. -/
def Dy.add (x y : Dy) : Dy := let lo := min x.e y.e; ⟨x.scaled lo + y.scaled lo, lo⟩

/-- The number with its sign reversed. -/
def Dy.neg (x : Dy) : Dy := ⟨-x.m, x.e⟩

/-- Exact difference. -/
def Dy.sub (x y : Dy) : Dy := x.add y.neg

/-- Exact product. -/
def Dy.mul (x y : Dy) : Dy := ⟨x.m * y.m, x.e + y.e⟩

/-- Magnitude. -/
def Dy.abs (x : Dy) : Dy := ⟨x.m.natAbs, x.e⟩

/-- Half. -/
def Dy.half (x : Dy) : Dy := ⟨x.m, x.e - 1⟩

/-- Order. -/
def Dy.lt (x y : Dy) : Bool := let lo := min x.e y.e; x.scaled lo < y.scaled lo

/-- The larger. -/
def Dy.max (x y : Dy) : Dy := if x.lt y then y else x

/-- The number one, and two. -/
def dyOne : Dy := ⟨1, 0⟩
def dyTwo : Dy := ⟨2, 0⟩

/-- A finite f32 pattern as a dyadic. -/
def dyOf (bits : Nat) : Dy :=
  match valueOf .f32 bits with
  | .fin n m e => ⟨if n then -(m : Int) else m, e⟩
  | _ => {}

/-- A dyadic rounded to f32 (R99); a zero is +0 (log 36, DEDUCED). -/
def roundDy (mode : Rnd) (x : Dy) (sticky : Bool := false) : Nat :=
  if x.m = 0 then 0 else (roundFV .f32 mode false (.fin (x.m < 0) x.m.natAbs x.e) sticky).bits

/-- A quotient of dyadics rounded to f32, by 200 more places and a sticky bit. -/
def roundQuot (mode : Rnd) (x y : Dy) : Nat :=
  if x.m = 0 then 0
  else
    let k := 200 + Nat.log2 y.m.natAbs
    let n := x.m.natAbs * 2 ^ k
    let d := y.m.natAbs
    (roundFV .f32 mode false (.fin ((x.m < 0) != (y.m < 0)) (n / d) (x.e - y.e - k)) (n % d != 0)).bits

/-- Whether an f32 pattern is an infinity. -/
def isInf32 (b : Nat) : Bool := b % 2 ^ 31 == 0x7F800000

/-- Whether an f32 pattern is a NaN. -/
def isNan32 (b : Nat) : Bool := b % 2 ^ 31 > 0x7F800000

/-- Whether an f32 pattern is ±0. -/
def isZero32 (b : Nat) : Bool := b % 2 ^ 31 == 0

/-- Whether an f32 pattern is negative and not -0. -/
def isNeg32 (b : Nat) : Bool := b / 2 ^ 31 % 2 == 1 && !isZero32 b

/-! ## Affine values (R117, R118) -/

/-- An affine value by its components, as f32 patterns. -/
structure AfVal where
  c : Nat := 0
  r : Nat := 0
  terms : List (Nat × Nat) := []
  unb : Bool := false
  folded : Bool := false
  deriving DecidableEq, Repr

/-- The unbounded value: UNB = 1 and every other field 0 (R185). -/
def afUnbounded : AfVal := { unb := true }

/-- The id of term `j` (from 0) in a 512-bit value. -/
def afId (x j : Nat) : Nat := x / 2 ^ (384 + 12 * j) % 2 ^ 12

/-- The coefficient of term `j` (from 0). -/
def afCoef (x j : Nat) : Nat := x / 2 ^ (64 + 32 * j) % 2 ^ 32

/-- Whether ids ascend strictly from above a number. -/
def ascending : Nat → List Nat → Bool
  | _, [] => true
  | n, i :: is => n < i && ascending i is

/-- An affine value read from its 512 bits, or none where it is malformed (R118). -/
def afRead (x : Nat) : Option AfVal :=
  let n := x / 2 ^ 504 % 16
  if x / 2 ^ 508 % 2 = 1 then some { afUnbounded with folded := x / 2 ^ 509 % 2 == 1 }
  else
    let ids := (List.range n).map (afId x)
    let cs := (List.range n).map (afCoef x)
    let rest := (List.range 10).drop n
    let r := x / 2 ^ 32 % 2 ^ 32
    let c := x % 2 ^ 32
    let ok := n ≤ 10 && ascending 0 ids && rest.all (fun j => afId x j == 0 && afCoef x j == 0) &&
      !isNeg32 r && (c :: r :: cs).all (fun b => !isNan32 b && !isInf32 b) && x / 2 ^ 510 == 0
    if ok then some { c := c, r := r, terms := ids.zip cs, folded := x / 2 ^ 509 % 2 == 1 } else none

/-- Terms put into their places of a 512-bit value, from place `j` on. -/
def afTerms : Nat → List (Nat × Nat) → Nat
  | _, [] => 0
  | j, (i, a) :: ts => i * 2 ^ (384 + 12 * j) + a * 2 ^ (64 + 32 * j) + afTerms (j + 1) ts

/-- The 512 bits of an affine value. -/
def afBits (v : AfVal) : Nat :=
  if v.unb then 2 ^ 508
  else
    v.c + (if isZero32 v.r then 0 else v.r) * 2 ^ 32 + afTerms 0 v.terms +
      v.terms.length * 2 ^ 504 + (if v.folded then 2 ^ 509 else 0)

/-- The coefficient of an id; an absent term counts as 0. -/
def afCoefOf (v : AfVal) (id : Nat) : Nat := mget 0 v.terms id

/-- The ids of two values, ascending. -/
def afIds (x y : AfVal) : List Nat := sortNat (x.terms.map Prod.fst ++ y.terms.map Prod.fst)

/-! ## Folding and fresh terms (R187, R188) -/

/-- The term that folds out first: of smallest magnitude, the higher id among equals. -/
def foldsFirst (ts : List (Nat × Nat)) : Option (Nat × Nat) :=
  least (fun t => [t.2 % 2 ^ 31, 4096 - t.1]) ts

/-- The terms of smallest magnitude folded out until `n` remain: those kept, and those folded. -/
def foldOut (n : Nat) : Nat → List (Nat × Nat) → List (Nat × Nat) × List (Nat × Nat)
  | 0, ts => (ts, [])
  | fuel + 1, ts =>
    if ts.length ≤ n then (ts, [])
    else
      match foldsFirst ts with
      | none => (ts, [])
      | some t =>
        let (keep, out) := foldOut n fuel (ts.filter (fun u => u.1 ≠ t.1))
        (keep, t :: out)

/-- The exact sum of the magnitudes of some terms. -/
def sumAbs (ts : List (Nat × Nat)) : Dy := ts.foldl (fun s t => s.add (dyOf t.2).abs) {}

/-- Fold to ten terms (R188). -/
def foldTen (v : AfVal) : AfVal :=
  if v.terms.length ≤ 10 then v
  else
    let (keep, out) := foldOut 10 20 v.terms
    { v with terms := keep, r := roundDy .up ((dyOf v.r).add (sumAbs out)), folded := true }

/-- The result of an affine instruction before its fresh term: a bounded value or the unbounded one,
whether overflow caused that (R185), the fresh magnitude, and whether the whole result is reversed with its
fresh term (`AFRCP` below 0, R194). -/
structure AfPre where
  v : AfVal
  ovf : Bool := false
  fresh : Nat := 0
  neg : Bool := false
  deriving DecidableEq, Repr

/-- Whether a component of a value is infinite. -/
def afOverflows (v : AfVal) : Bool :=
  isInf32 v.c || isInf32 v.r || v.terms.any (fun t => isInf32 t.2)

/-- A result with its rounded components: unbounded with OVF where one overflows, and no ±0 terms
(R185). -/
def afResult (v : AfVal) (fresh : Nat) : AfPre :=
  if afOverflows v || isInf32 fresh then ⟨afUnbounded, true, 0, false⟩
  else ⟨{ v with terms := v.terms.filter (fun t => !isZero32 t.2) }, false, fresh, false⟩

/-- Whether a result needs an id (R187). -/
def afNeeds (p : AfPre) : Bool := !p.v.unb && !isZero32 p.fresh

/-- FRESH(E) and the fold to ten terms (R187, R188); `id` is none in fold mode (log 30, DEDUCED). -/
def afFinish (p : AfPre) (id : Option Nat) : AfPre :=
  let v := p.v
  if v.unb then p
  else
    let folded : AfVal :=
      { v with r := roundDy .up ((dyOf v.r).add (dyOf p.fresh)), folded := true }
    let w : AfVal :=
      if isZero32 p.fresh then v
      else
        match id with
        | none => folded
        | some i =>
          if (mfind v.terms i).isSome then folded
          else { v with terms := mput v.terms i (p.fresh + (if p.neg then 2 ^ 31 else 0)) }
    if isInf32 w.r then ⟨afUnbounded, true, 0, false⟩
    else
      let w := foldTen w
      if isInf32 w.r then ⟨afUnbounded, true, 0, false⟩ else ⟨w, false, 0, false⟩

/-! ## Linear operations (R192) -/

/-- A component rounded to nearest, and the exact error of the rounding. -/
def roundErr (e : Dy) : Nat × Dy :=
  let b := roundDy .ne e
  (b, if isInf32 b then {} else (e.sub (dyOf b)).abs)

/-- The terms of a result, given the exact coefficient of each id: rounded, with the sum of the
errors. -/
def roundTerms (ids : List Nat) (coef : Nat → Dy) : List (Nat × Nat) × Dy :=
  ids.foldr (fun i acc =>
    let (b, err) := roundErr (coef i)
    ((i, b) :: acc.1, acc.2.add err)) ([], {})

/-- s × x + sy × y + t (R192). -/
def afLinear (x y : AfVal) (s t : Nat) (sy : Int) : AfPre :=
  if x.unb || y.unb || isInf32 s || isInf32 t then ⟨afUnbounded, false, 0, false⟩
  else
    let ds := dyOf s
    let dsy : Dy := ⟨sy, 0⟩
    let (ts, e1) := roundTerms (afIds x y)
      (fun i => (ds.mul (dyOf (afCoefOf x i))).add (dsy.mul (dyOf (afCoefOf y i))))
    let (c, e2) := roundErr (((ds.mul (dyOf x.c)).add (dsy.mul (dyOf y.c))).add (dyOf t))
    let r := roundDy .up ((((ds.abs).mul (dyOf x.r)).add (dyOf y.r)).add (e1.add e2))
    afResult { c := c, r := r, terms := ts, folded := x.folded || y.folded } 0

/-- The value of a linear result, folded to ten terms: no linear operation mints. -/
def afLinearDone (p : AfPre) : AfPre := afFinish p none

/-! ## Ranges -/

/-- u(x): the exact deviation (R193). -/
def afDev (x : AfVal) : Dy := (sumAbs x.terms).add (dyOf x.r)

/-- lo of R193. -/
def afLo (x : AfVal) : Nat := roundDy .dn ((dyOf x.c).sub (afDev x))

/-- lo as `AFRNG` delivers it: c - u is -0 in mode dn where c and u are equal (R100, R119, R199). -/
def afLoOut (x : AfVal) : Nat :=
  let d := (dyOf x.c).sub (afDev x)
  if d.m = 0 then 2 ^ 31 else afLo x

/-- hi of R193. -/
def afHi (x : AfVal) : Nat := roundDy .up ((dyOf x.c).add (afDev x))

/-! ## Products (R193) -/

/-- `AFMUL`. -/
def afMulPre (x y : AfVal) : AfPre :=
  if x.unb || y.unb then ⟨afUnbounded, false, 0, false⟩
  else
    let cx := dyOf x.c
    let cy := dyOf y.c
    let (ts, e1) := roundTerms (afIds x y)
      (fun i => (cx.mul (dyOf (afCoefOf y i))).add (cy.mul (dyOf (afCoefOf x i))))
    let (c, e2) := roundErr (cx.mul cy)
    let r := roundDy .up (((cx.abs.mul (dyOf y.r)).add (cy.abs.mul (dyOf x.r))).add (e1.add e2))
    afResult { c := c, r := r, terms := ts, folded := x.folded || y.folded }
      (roundDy .up ((afDev x).mul (afDev y)))

/-- `AFSQR`. -/
def afSqrPre (x : AfVal) : AfPre :=
  if x.unb then ⟨afUnbounded, false, 0, false⟩
  else
    let cx := dyOf x.c
    let h := (afDev x).mul (afDev x)
    let (ts, e1) := roundTerms (x.terms.map Prod.fst)
      (fun i => (dyTwo.mul cx).mul (dyOf (afCoefOf x i)))
    let (c, e2) := roundErr ((cx.mul cx).add h.half)
    let r := roundDy .up ((dyTwo.mul (cx.abs.mul (dyOf x.r))).add (e1.add e2))
    afResult { c := c, r := r, terms := ts, folded := x.folded } (roundDy .up h.half)

/-! ## Min-range linearisations (R194) -/

/-- α·x + ζ with the half-width of g as the fresh magnitude, from the rounded ends of g. -/
def afRange (x : AfVal) (alpha gl gh : Nat) : AfPre :=
  if isInf32 gl || isInf32 gh || isInf32 alpha then ⟨afUnbounded, true, 0, false⟩
  else
    let z := roundDy .ne ((dyOf gl).add (dyOf gh)).half
    if isInf32 z then ⟨afUnbounded, true, 0, false⟩
    else
      let d := roundDy .up (((dyOf gh).sub (dyOf z)).max ((dyOf z).sub (dyOf gl)))
      let p := afLinear x {} alpha z 0
      if p.v.unb then p else if isInf32 d then ⟨afUnbounded, true, 0, false⟩ else { p with fresh := d }

/-- The value with every sign reversed, exactly. -/
def afNegate (v : AfVal) : AfVal :=
  let flip (b : Nat) : Nat := (b + 2 ^ 31) % 2 ^ 32
  if v.unb then v else { v with c := flip v.c, terms := v.terms.map (fun t => (t.1, flip t.2)) }

/-- `AFRCP` of a value with lo > 0; an infinite hi stands for its limits (log 30, DEDUCED). -/
def afRcpPos (x : AfVal) : AfPre :=
  let lo := dyOf (afLo x)
  let hiB := afHi x
  let hi := dyOf hiB
  let alpha := if isInf32 hiB then 2 ^ 31 else roundQuot .up ⟨-1, 0⟩ (hi.mul hi)
  let a := dyOf alpha
  let g (mode : Rnd) (z : Dy) : Nat := roundQuot mode (dyOne.sub (a.mul (z.mul z))) z
  afRange x alpha (if isInf32 hiB then 0 else g .dn hi) (g .up lo)

/-- `AFRCP` (R194), or none on an interval that contains 0 (R195). -/
def afRcpPre (x : AfVal) : Option AfPre :=
  if x.unb then some ⟨afUnbounded, false, 0, false⟩
  else if !isNeg32 (afLo x) && !isZero32 (afLo x) then some (afRcpPos x)
  else if isNeg32 (afHi x) then
    let p := afRcpPos (afNegate x)
    some { p with v := afNegate p.v, neg := true }
  else none

/-- The ends of √z - α·z, z ≥ 0, rounded outward. -/
def sqrtEnd (mode : Rnd) (a z : Dy) : Nat :=
  let y := enclSqrt z.m.natAbs z.e
  let az := a.mul z
  if y.lo = y.hi then roundDy mode ((Dy.mk y.lo y.e).sub az)
  else roundDy mode ((Dy.mk (if mode = .dn then y.lo else y.hi) y.e).sub az)

/-- round_dn32(1 / (2√h)) of a positive dyadic. -/
def halfRsqrt (h : Dy) : Nat :=
  let odd := h.e % 2
  let m := h.m.natAbs * 2 ^ odd.toNat
  let q := isqrt (2 ^ 320 / (4 * m)) 162 0
  (roundFV .f32 .dn false (.fin false q (-((h.e - odd) / 2) - 160)) (q * q * (4 * m) != 2 ^ 320)).bits

/-- `AFSQRT` (R194), or none where lo < 0 (R195) (log 30, DEDUCED). -/
def afSqrtPre (x : AfVal) : Option AfPre :=
  if x.unb then some ⟨afUnbounded, false, 0, false⟩
  else if isNeg32 (afLo x) then none
  else
    let lo := dyOf (afLo x)
    let hiB := afHi x
    if isInf32 hiB then some ⟨afUnbounded, true, 0, false⟩
    else
      let hi := dyOf hiB
      let alpha := if isZero32 hiB then 0 else halfRsqrt hi
      let a := dyOf alpha
      some (afRange x alpha (sqrtEnd .dn a lo) (sqrtEnd .up a hi))

/-- An enclosure of e^z for a small z: 1 + z + z²/2, with |z|³ to either side. -/
def enclExpSmall (z : Dy) : Encl :=
  let a := (dyOne.add z).add (z.mul z).half
  let d := (z.mul (z.mul z)).abs
  let lo := a.sub d
  let hi := a.add d
  let e := min lo.e hi.e
  ⟨false, (lo.scaled e).toNat, (hi.scaled e).toNat, e⟩

/-- An enclosure of e^z, exact at 0, for z < 128: near 0 it is narrow enough to round the sums of `AFEXP`. -/
def enclExpDy (z : Dy) : Encl :=
  if z.m = 0 then ⟨false, 1, 1, 0⟩
  else if z.abs.lt ⟨1, -40⟩ then enclExpSmall z
  else if z.lt ⟨-1000, 0⟩ then ⟨false, 0, 1, -1400⟩
  else enclExp (z.m < 0) z.m.natAbs z.e

/-- The ends of e^z - α·z, rounded outward. -/
def expEnd (mode : Rnd) (a z : Dy) : Nat :=
  let y := enclExpDy z
  roundDy mode ((Dy.mk (if mode = .dn then y.lo else y.hi) y.e).sub (a.mul z))

/-- round_dn32(e^z). -/
def expDown (z : Dy) : Nat :=
  let y := enclExpDy z
  if y.lo = 0 then 0 else roundDy .dn ⟨y.lo, y.e⟩

/-- `AFEXP` (R194). -/
def afExpPre (x : AfVal) : AfPre :=
  if x.unb then ⟨afUnbounded, false, 0, false⟩
  else
    let hiB := afHi x
    if isInf32 hiB || !(dyOf hiB).lt ⟨128, 0⟩ then ⟨afUnbounded, true, 0, false⟩
    else
      let loB := afLo x
      let hi := dyOf hiB
      if isInf32 loB then afRange x 0 0 (expEnd .up {} hi)
      else
        let lo := dyOf loB
        let alpha := expDown lo
        let a := dyOf alpha
        afRange x alpha (expEnd .dn a lo) (expEnd .up a hi)

/-! ## Construction and condensation (R196..R198) -/

/-- `AFNEW` of two scalars (R196), or none for the affine domain fault. -/
def afNewPre (cw : Bool) (a b : Nat) : Option AfPre :=
  if cw then
    if isNeg32 b then none
    else if isInf32 a || isInf32 b then some ⟨afUnbounded, false, 0, false⟩
    else some (afResult { c := a } b)
  else if fvLt (valueOf .f32 b) (valueOf .f32 a) then none
  else if isInf32 a || isInf32 b then some ⟨afUnbounded, false, 0, false⟩
  else
    let c := roundDy .ne ((dyOf a).add (dyOf b)).half
    some (afResult { c := c }
      (roundDy .up (((dyOf b).sub (dyOf c)).max ((dyOf c).sub (dyOf a)))))

/-- `AFCND` (R198). -/
def afCndPre (x : AfVal) (k : Nat) (tor : Bool) : AfPre :=
  if x.unb then ⟨afUnbounded, false, 0, false⟩
  else
    let (keep, out) := foldOut (min k 10) 20 x.terms
    if out.isEmpty then ⟨x, false, 0, false⟩
    else if tor then
      afResult { x with terms := keep, r := roundDy .up ((dyOf x.r).add (sumAbs out)), folded := true } 0
    else afResult { x with terms := keep } (roundDy .up (sumAbs out))

end Sys2Proof.Machine
end

