-- ==== Sys2Proof/Machine/Memory.lean ====
section
/-! DEFINITION. Memory: bytes, the writes that a core holds at a narrow scope, store buffers, page
tables and the decoding of generic addresses (R227..R241, R251, R252, R397). -/

namespace Sys2Proof.Machine

/-! ## Bytes -/

/-- What a byte of memory that nothing has written reads as (log 3, DESIGN CHOICE). -/
def memDefault : Byte := 0#8

/-- The bit of a key that marks a commons address (R234). -/
def commonsBit : Nat := 2 ^ 56

/-- Whether a physical key is a commons address. -/
def isCommons (pa : Nat) : Bool := pa / commonsBit % 2 == 1

/-- The 64-byte line of an address. -/
def lineOf (pa : Nat) : Nat := pa / 64

/-- A way of reading bytes. -/
abbrev Reader := Nat → Byte

/-- One byte of memory. -/
def readMem (s : State) (pa : Nat) : Byte := mget memDefault s.mem pa

/-- Consecutive bytes as one little-endian number. -/
def readN (rd : Reader) (pa : Nat) : Nat → Nat
  | 0 => 0
  | n + 1 => (rd pa).toNat + 256 * readN rd (pa + 1) n

/-- A number's bytes, least significant first. -/
def bytesOf : Nat → Nat → List Byte
  | 0, _ => []
  | n + 1, x => BitVec.ofNat 8 x :: bytesOf n (x / 256)

/-- Bytes put into a table of memory in its canonical form. -/
def putBytes (m : Map Byte) (pa : Nat) : List Byte → Map Byte
  | [] => m
  | b :: bs => putBytes (mset memDefault m pa b) (pa + 1) bs

/-- Bytes put into a table in which every listed byte counts. -/
def putHeld (m : Map Byte) (pa : Nat) : List Byte → Map Byte
  | [] => m
  | b :: bs => putHeld (mput m pa b) (pa + 1) bs

/-- The table without a run of addresses. -/
def delBytes (m : Map Byte) (pa : Nat) : Nat → Map Byte
  | 0 => m
  | n + 1 => delBytes (mdel m pa) (pa + 1) n

/-- The 64-bit word at a physical address. -/
def readWord64 (s : State) (pa : Nat) : DWord := BitVec.ofNat 64 (readN (readMem s) pa 8)

/-! ## Writes that reach memory -/

/-- The old contents of an instruction word that a write changes (R53) (log 45, DESIGN CHOICE). -/
def noteStale (s : State) (w : Nat) : State :=
  { s with stale := mput s.stale w ⟨readWord64 s (8 * w), s.now⟩ }

/-- The old contents of every 8-byte word that a write of `n` bytes touches. -/
def noteStales (s : State) (pa n : Nat) : State :=
  (List.range ((pa + n - 1) / 8 - pa / 8 + 1)).foldl (fun s i => noteStale s (pa / 8 + i)) s

/-- A wait-and-wake entry whose line was written is due to be evaluated (R359). -/
def markWake (line : Nat) (e : WakeEntry) : WakeEntry :=
  if e.pline = some line then { e with due := e.due ++ [false] } else e

/-- The wait-and-wake entries of the lines that a write of `n` bytes touches become due (R359). -/
def markWakes (s : State) (pa n : Nat) : State :=
  if s.parts.all (fun p => p.2.wakes.isEmpty) then s
  else
    let due (_ : Nat) (e : WakeEntry) :=
      (List.range (lineOf (pa + n - 1) - lineOf pa + 1)).foldl (fun e i => markWake (lineOf pa + i) e) e
    { s with parts := mmap (fun _ (p : Partition) => { p with wakes := mmap due p.wakes }) s.parts }

/-- Bytes written to memory, where every party of the partition sees them (R242). -/
def writeMem (s : State) (pa : Nat) (bs : List Byte) : State :=
  markWakes { s with mem := putBytes s.mem pa bs } pa bs.length

/-- The bytes of a run that a core holds at a narrow scope are replaced by a later write. -/
def dropHeld (s : State) (cores : List Nat) (pa n : Nat) : State :=
  cores.foldl (fun s c =>
    if (coreOf s c).held.isEmpty then s
    else modCore s c (fun k => { k with held := delBytes k.held pa n })) s

/-- A store by a core, or by an engine or bank unit for it, that reaches memory (log 8, DESIGN CHOICE). -/
def storeMem (s : State) (c pa : Nat) (bs : List Byte) : State :=
  dropHeld (writeMem (noteStales s pa bs.length) pa bs) (c :: quadCores s c) pa bs.length

/-- A narrow-scope store: the core holds it until it is promoted (R251, log 8, DESIGN CHOICE). -/
def holdStore (s : State) (c pa : Nat) (bs : List Byte) : State :=
  let s := dropHeld s (quadCores s c) pa bs.length
  modCore s c (fun k => { k with held := putHeld k.held pa bs })

/-- Bytes that a core has held reach memory: each of their lines is written once. -/
def writeHeld (s : State) (h : Map Byte) : State :=
  let s := h.foldl (fun s b => noteStale s (b.1 / 8)) s
  let s := { s with mem := h.foldl (fun m b => mset memDefault m b.1 b.2) s.mem }
  (sortNat (h.map (fun b => lineOf b.1))).foldl (fun s l => markWakes s (64 * l) 1) s

/-- Promotion of a core (R251): every write it holds at a narrow scope becomes visible at `.part`,
and every owner field that names it is cleared. -/
def promote (s : State) (c : Nat) : State :=
  let s := writeHeld s (coreOf s c).held
  let s := modCore s c (fun k => { k with held := [] })
  { s with owner := s.owner.filter (fun o => o.2 ≠ c) }

/-- Promotion of the core that a line's owner field names, where that is another core (R251, R252). -/
def promoteOwner (s : State) (c pa : Nat) : State :=
  match mfind s.owner (lineOf pa) with
  | some o => if o = c then s else promote s o
  | none => s

/-- The lines of a core written back (R273): the held bytes of one line reach memory. -/
def writeBackLine (s : State) (c line : Nat) : State :=
  let s := writeHeld s ((coreOf s c).held.filter (fun b => lineOf b.1 = line))
  modCore s c (fun k => { k with held := k.held.filter (fun b => lineOf b.1 ≠ line) })

/-! ## Reading as a core and as a block -/

/-- The byte of an address that one of the cores holds. -/
def heldByte (s : State) (cores : List Nat) (pa : Nat) : Option Byte :=
  match cores with
  | [] => none
  | c :: cs =>
    match mfind (coreOf s c).held pa with
    | some b => some b
    | none => heldByte s cs pa

/-- A byte as a core's threads read it: their quad's narrow-scope writes stand before memory. -/
def coreByte (s : State) (c : Nat) : Reader := fun pa =>
  (heldByte s (c :: quadCores s c) pa).getD (readMem s pa)

/-- One entry of a store buffer before the bytes behind it (R397). -/
def overEntry (e : Buffered) (rd : Reader) : Reader :=
  let x : Option Nat :=
    match e.red with
    | none => some e.data
    | some (op, t) => atomNew op t (readN rd e.pa e.size) e.data 0
  match x with
  | none => rd
  | some x => fun a =>
    if e.pa ≤ a ∧ a < e.pa + e.size then BitVec.ofNat 8 (x / 256 ^ (a - e.pa)) else rd a

/-- Memory read through a store buffer, the oldest entry first. -/
def overBuffer (b : List Buffered) (rd : Reader) : Reader := b.foldl (fun rd e => overEntry e rd) rd

/-- A byte as the threads of a group read it (R246, R397). -/
def groupByte (s : State) (g : Group) : Reader :=
  overBuffer (blockOf s g.block).buffer (coreByte s g.core)

/-- The line of a narrow-scope release records its core, after promotion of another owner (R251,
R252). -/
def recordOwner (s : State) (c pa : Nat) : State :=
  let s := promoteOwner s c pa
  { s with owner := mput s.owner (lineOf pa) c }

/-- One entry of a store buffer performed (R397). -/
def drainEntry (c : Nat) (s : State) (e : Buffered) : State :=
  let s := if e.rel then recordOwner s c e.pa else s
  let x : Option Nat :=
    match e.red with
    | none => some e.data
    | some (op, t) => atomNew op t (readN (coreByte s c) e.pa e.size) e.data 0
  match x with
  | none => s
  | some x =>
    if e.narrow then holdStore s c e.pa (bytesOf e.size x) else storeMem s c e.pa (bytesOf e.size x)

/-- A block's store buffer drains in program order; the block can no longer be relaunched (R397). -/
def drainBuffer (s : State) (bid : Nat) : State :=
  let b := blockOf s bid
  let s := b.buffer.foldl (drainEntry (b.cores.headD 0)) s
  modBlock s bid (fun b => { b with buffer := [], seen := true })

/-- A block passes a visibility point (R394, R397): its buffer drains before the access. -/
def visible (s : State) (bid : Nat) : State :=
  let s := if (blockOf s bid).buffer.isEmpty then s else drainBuffer s bid
  modBlock s bid (fun b => { b with seen := true })

/-! ## Scratchpad -/

/-- The key of a scratchpad byte: position × 2^19 + offset. -/
def scratchKey (pos off : Nat) : Nat := pos * 2 ^ 19 + off

/-- A byte of a block's scratchpad at a position; a byte never written reads zero (R47). -/
def scratchByte (s : State) (bid pos : Nat) : Reader := fun off =>
  mget 0#8 (blockOf s bid).scratch (scratchKey pos off)

/-- Bytes written to a block's scratchpad. -/
def writeScratch (s : State) (bid pos off : Nat) (bs : List Byte) : State :=
  modBlock s bid (fun b => { b with scratch := putBytes b.scratch (scratchKey pos off) bs })

/-! ## Page tables (R233..R235, R357) -/

/-- One bit of a page-table entry. -/
def pteBit (e : DWord) (i : Nat) : Bool := e.getLsbD i

/-- OUT of an entry: a physical address. -/
def pteOut (e : DWord) : Nat := e.toNat / 2 ^ 12 % 2 ^ 44 * 2 ^ 12

/-- The bits that must be zero in every entry. -/
def pteMbz (e : DWord) : Bool :=
  e &&& 0xD100000000000F06#64 == 0#64

/-- The page type that MTYPE names (R236). -/
def pteType (e : DWord) : PageType :=
  match e.toNat / 2 ^ 58 % 4 with
  | 0 => .normal
  | 1 => .writeCombining
  | 2 => .device
  | _ => .strong

/-- Whether a non-leaf entry is well-formed, with its table aligned to 2^`align` (R233, R234). -/
def pteTableOk (e : DWord) (align : Nat) : Bool :=
  e &&& 0xFF00000000000FFE#64 == 0#64 && pteOut e % 2 ^ align == 0

/-- Whether a leaf entry of a page of 2^`log` bytes is well-formed (R235). -/
def pteLeafOk (e : DWord) (log : Nat) : Bool :=
  pteMbz e && !(pteBit e 5 && !pteBit e 4) && !(pteBit e 6 && pteType e != .normal) &&
    pteOut e % 2 ^ log == 0

/-- A translation that a walk finds, or a translation fault. -/
inductive WalkRes
  | leaf (entry : DWord) (base log : Nat)
  | bad
  deriving DecidableEq, Repr

/-- A leaf of 2^`log` bytes. -/
def leafRes (e : DWord) (log : Nat) : WalkRes :=
  if pteLeafOk e log then
    .leaf e (pteOut e + (if pteBit e 61 then commonsBit else 0)) log
  else .bad

/-- A leaf of level 3: a 4 KiB page, or a sixteenth of a 64 KiB page whose sixteen entries agree
(R233). -/
def leaf3 (s : State) (table idx : Nat) (e : DWord) : WalkRes :=
  if pteBit e 57 then
    let first := idx / 16 * 16
    if (List.range 16).all (fun i => readWord64 s (table + 8 * (first + i)) == e) then leafRes e 16
    else .bad
  else leafRes e 12

/-- The walk of a partition's page table for an address (R233) (log 56, DESIGN CHOICE). -/
def walkTable (s : State) (part asid va : Nat) : WalkRes :=
  let a := mget 0#128 (partOf s part).asids asid
  let root := bitsOf a 127 64
  if bitsOf a 0 0 = 0 ∨ bitsOf a 31 1 ≠ 0 ∨ bitsOf a 63 40 ≠ 0 ∨ root % 2 ^ 16 ≠ 0 then .bad
  else
    let e0 := readWord64 s (root + 8 * (va / 2 ^ 43 % 2 ^ 13))
    if !pteBit e0 0 || !pteTableOk e0 16 then .bad
    else
      let e1 := readWord64 s (pteOut e0 + 8 * (va / 2 ^ 30 % 2 ^ 13))
      if !pteBit e1 0 then .bad
      else if pteBit e1 3 then (if pteBit e1 57 then .bad else leafRes e1 30)
      else if !pteTableOk e1 12 then .bad
      else
        let e2 := readWord64 s (pteOut e1 + 8 * (va / 2 ^ 21 % 2 ^ 9))
        if !pteBit e2 0 then .bad
        else if pteBit e2 3 then (if pteBit e2 57 then .bad else leafRes e2 21)
        else if !pteTableOk e2 12 then .bad
        else
          let idx := va / 2 ^ 12 % 2 ^ 9
          let e3 := readWord64 s (pteOut e2 + 8 * idx)
          if !pteBit e3 0 || !pteBit e3 3 then .bad else leaf3 s (pteOut e2) idx e3

/-- What an access does to its page (R234). -/
inductive PageUse
  | read | write | exec
  deriving DecidableEq, Repr

/-- Whether a leaf allows an access (R234, R235). -/
def pteAllows (e : DWord) (level : Nat) (u : PageUse) : Bool :=
  (level ≥ 1 || !pteBit e 7) &&
  (match u with
   | .read => pteBit e 4
   | .write => pteBit e 5
   | .exec => pteBit e 6)

/-- The translation of an access. -/
inductive Xlate
  | ok (pa : Nat) (pt : PageType)
  | fault
  | miss
  deriving DecidableEq, Repr

/-- A translation used for an address. -/
def useLeaf (entry : DWord) (base log level va : Nat) (u : PageUse) : Xlate :=
  if pteAllows entry level u then .ok (base + va % 2 ^ log) (pteType entry) else .fault

/-- A free choice of the current step (log 2, DESIGN CHOICE). -/
def freeChoice (s : State) (i : Nat) : Bool := Config.freeBool (s.fresh * 65536 + i)

/-- A free word of the current step (log 2, DESIGN CHOICE). -/
def freeNow (s : State) (i : Nat) : Word := Config.freeWord (s.fresh * 65536 + i)

/-- Whether a leaf translates an address of an address space. -/
def leafHolds (part asid va : Nat) (l : Leaf) : Bool :=
  l.part == part && l.asid == asid && va / 2 ^ l.log == l.page

/-- The leaf that the translation caches of a group hold for an address: its sub-core's, its core's and its
slice's are searched in that order (R238). -/
def findLeaf (s : State) (g : Group) (part asid va : Nat) : Option Leaf :=
  let k := coreOf s g.core
  match (mget [] k.utlbs g.sub).find? (leafHolds part asid va) with
  | some l => some l
  | none =>
    match k.tlb.find? (leafHolds part asid va) with
    | some l => some l
    | none => (sliceOf s (coreSlice g.core)).tlb.find? (leafHolds part asid va)

/-- The translation of an address by the caches that serve a group (R238). Where the page table now says
otherwise, the access translates by the old entry or the new one (R241) (log 46, DESIGN CHOICE). -/
def xlateCached (s : State) (g : Group) (part asid level va : Nat) (u : PageUse) (i : Nat) : Xlate :=
  match findLeaf s g part asid va with
  | none => .miss
  | some l =>
    match walkTable s part asid va with
    | .leaf e b k =>
      if (e = l.entry ∧ b = l.base ∧ k = l.log) ∨ freeChoice s i = true then
        useLeaf l.entry l.base l.log level va u
      else useLeaf e b k level va u
    | .bad => if freeChoice s i = true then useLeaf l.entry l.base l.log level va u else .fault

/-- The translation of an address for a thread: by what a walk has answered it with, where that covers the
address, so that every request of one walk sees one translation (R239); else by the caches. -/
def xlate (s : State) (g : Group) (walked : Option Leaf) (part asid level va : Nat) (u : PageUse) (i : Nat) : Xlate :=
  match walked with
  | some l =>
    if leafHolds part asid va l then useLeaf l.entry l.base l.log level va u
    else xlateCached s g part asid level va u i
  | none => xlateCached s g part asid level va u i

/-- A translation outside any cache: by a unit that walks for itself (the distributor, the queue
processor, the window and network engines). -/
def xlateDirect (s : State) (part asid level va : Nat) (u : PageUse) : Option (Nat × PageType) :=
  if va ≥ 2 ^ 56 then none
  else
    match walkTable s part asid va with
    | .leaf e b g => if pteAllows e level u then some (b + va % 2 ^ g, pteType e) else none
    | .bad => none

/-! ## Generic addresses (R229..R232) -/

/-- Where an access of a lane goes, or why it cannot go. -/
inductive Locate
  | at (place : Place) (pt : PageType) (commons : Bool)
  | bad (c : Cause)
  | miss (va : Nat)
  | fault (va : Nat)
  deriving DecidableEq, Repr

/-- The private index of a group (R232). -/
def privateIndex (s : State) (g : Group) : Nat :=
  let l := launchOf s g.launch
  match g.actIdx with
  | some h => lrBlocks l.rcd * lrGroups l.rcd + h
  | none => (blockOf s g.block).idx * lrGroups l.rcd + g.idx

/-- The global address of a byte of a lane's private memory (R232). -/
def privateVa (s : State) (g : Group) (lane o : Nat) : Nat :=
  let r := (launchOf s g.launch).rcd
  (lrPrivBase r + privateIndex s g * 128 * lrPriv r + o / 4 * 512 + lane * 4 + o % 4) % 2 ^ 64

/-- The pieces of a private datum: whole words of four bytes, or one smaller piece (R232). -/
def privatePieces (s : State) (g : Group) (lane o size : Nat) : List (Nat × Nat) :=
  if size ≤ 4 then [(privateVa s g lane o, size)]
  else (List.range (size / 4)).map (fun i => (privateVa s g lane (o + 4 * i), 4))

/-- The physical addresses of the words of a lane's private memory that its page tables map. -/
def privateWords (s : State) (g : Group) (lane : Nat) : List Nat :=
  let l := launchOf s g.launch
  (List.range (lrPriv l.rcd / 4)).filterMap (fun w =>
    (xlateDirect s l.part l.asid l.level (privateVa s g lane (4 * w)) .read).map Prod.fst)

/-- One word that becomes a free value; no core holds an older write of it. -/
def discardWord (s : State) (pa : Nat) : State :=
  dropHeld { s with mem := putBytes s.mem pa (bytesOf 4 (Config.discarded s.fresh pa).toNat) } (s.cores.map Prod.fst) pa 4

/-- The private memory of activations that some lanes have run, discarded (R161, R232). -/
def discardPrivate (s : State) (g : Group) (lanes : List Nat) : State :=
  (lanes.flatMap (privateWords s g)).foldl discardWord s

/-- The translations of several pieces, in order: all of them, or the first that is none. -/
def locatePieces (s : State) (g : Group) (u : PageUse) (i : Nat) :
    List (Nat × Nat) → List (Nat × Nat) → PageType → Bool → Locate
  | [], done, pt, cm => .at (.phys done.reverse) pt cm
  | (va, n) :: rest, done, _, _ =>
    let l := launchOf s g.launch
    if va ≥ 2 ^ 56 then .fault va
    else
      match xlate s g (threadOf g i).walked l.part l.asid l.level va u i with
      | .ok pa pt => locatePieces s g u i rest ((pa, n) :: done) pt (isCommons pa)
      | .fault => .fault va
      | .miss => .miss va

/-- The place of a quad position among a block's cores (R231). -/
def blockPos (s : State) (b : Block) (qp : Nat) : Option Nat :=
  findIdx (fun c => quadPos s c == qp) b.cores 0

/-- The scratchpad place of an offset on the core of a quad position (R230, R231). -/
def locateScratch (s : State) (g : Group) (va : DWord) (qp off size : Nat) : Locate :=
  match blockPos s (blockOf s g.block) qp with
  | none => .bad (cAbsent va)
  | some pos =>
    if off < lrShared (launchOf s g.launch).rcd then .at (.scratch g.block pos off size) .normal false
    else .bad (cGrant va)

/-- The decoding of a generic address for a lane (R229..R232); a uniform access has no private
memory (R264). The address has been checked to be aligned to `size`. -/
def locate (s : State) (g : Group) (lane : Nat) (uniform : Bool) (va : DWord) (size : Nat)
    (u : PageUse) : Locate :=
  let a := va.toNat
  let o := a % 2 ^ 56
  if a / 2 ^ 56 = 0 then locatePieces s g u lane [(a, size)] [] .normal false
  else if a / 2 ^ 56 = 0xFD then
    if uniform then .bad (cWindow va)
    else if o + size > lrPriv (launchOf s g.launch).rcd then .bad (cGrant va)
    else
      match locatePieces s g u lane (privatePieces s g lane o size) [] .normal false with
      | .at p _ _ => .at p .normal false
      | r => r
  else if a / 2 ^ 56 = 0xFE then
    if o / 2 ^ 21 ≠ 0 then .bad (cWindow va)
    else locateScratch s g va (o / 2 ^ 17 % 4) (o / 2 ^ 19 % 4 * 2 ^ 17 + o % 2 ^ 17) size
  else .bad (cWindow va)

/-- An offset of the block's grant on the issuing core: `LDS`, `STS`, `ATOMS` (R258). -/
def locateOffset (s : State) (g : Group) (off size : Nat) : Locate :=
  locateScratch s g (BitVec.ofNat 64 off) (quadPos s g.core) off size

/-! ## Reading and writing a place -/

/-- Pieces read in order as one little-endian number. -/
def readPieces (rd : Reader) : List (Nat × Nat) → Nat
  | [] => 0
  | (pa, n) :: rest => readN rd pa n + 256 ^ n * readPieces rd rest

/-- The datum at a place as a group reads it. -/
def readPlace (s : State) (g : Group) (p : Place) (size : Nat) : Nat :=
  match p with
  | .phys ps => readPieces (groupByte s g) ps
  | .scratch b pos off _ => readN (scratchByte s b pos) off size

/-- Whether a store waits in its block's store buffer (R397): in a contained launch, on a normal page
that is not private (log 20, DEDUCED). -/
def buffers (s : State) (g : Group) (pt : PageType) (priv : Bool) : Bool :=
  lrCont (launchOf s g.launch).rcd && pt == .normal && !priv && !(blockOf s g.block).isAct

/-- The bytes a block's store buffer holds. -/
def bufferBytes (b : Block) : Nat := b.buffer.foldl (fun n e => n + e.size) 0

/-- One entry put into a block's store buffer, which drains first when it would pass 256 KiB. -/
def bufferPut (s : State) (bid : Nat) (e : Buffered) : State :=
  let s := if bufferBytes (blockOf s bid) + e.size > 262144 then drainBuffer s bid else s
  modBlock s bid (fun b => { b with buffer := b.buffer ++ [e] })

/-- Whether a scope is narrower than the partition. -/
def isNarrow : Scope → Bool
  | .blk | .core | .quad => true
  | _ => false

/-- The pieces of a store, each with its part of the data. -/
def pieceData : List (Nat × Nat) → Nat → List (Nat × Nat × Nat)
  | [], _ => []
  | (pa, n) :: rest, x => (pa, n, x % 256 ^ n) :: pieceData rest (x / 256 ^ n)

/-- One piece of a store; `rel` says that it is a release at a narrow scope. -/
def storePiece (g : Group) (pt : PageType) (priv narrow rel : Bool) (s : State)
    (p : Nat × Nat × Nat) : State :=
  if buffers s g pt priv then
    bufferPut s g.block { pa := p.1, size := p.2.1, data := p.2.2, narrow := narrow, rel := rel }
  else
    let s := if rel then recordOwner s g.core p.1 else s
    if narrow then holdStore s g.core p.1 (bytesOf p.2.1 p.2.2)
    else storeMem s g.core p.1 (bytesOf p.2.1 p.2.2)

/-- A store of a group to a place (R262, R263, R265). Scratchpad and private stores are performed at
`.blk` (R242); a page that is not normal, and commons, hold nothing back. -/
def storePlace (s : State) (g : Group) (p : Place) (pt : PageType) (priv commons : Bool) (sc : Scope)
    (rel : Bool) (size data : Nat) : State :=
  match p with
  | .scratch b pos off _ => writeScratch s b pos off (bytesOf size data)
  | .phys ps =>
    let narrow := (isNarrow sc || priv) && pt == .normal && !commons
    (pieceData ps data).foldl (storePiece g pt priv narrow (rel && (isNarrow sc || priv))) s

/-- The canonical form of memory: addresses strictly ascending, and no byte listed that reads as an
unlisted one. -/
abbrev Memory.wf (m : Map Byte) : Bool := msorted memDefault m

end Sys2Proof.Machine
end

