-- ==== Sys2Proof/Machine/Finish.lean ====
section
/-! DEFINITION. How a launch ends: its status word, its completion counter, and the removal of its
blocks (R43, R314, R315, R381, R398); and the slice error queues (R306). -/

namespace Sys2Proof.Machine

/-- A record put into a slice error queue; beyond 256 it is dropped and OVERFLOW is set (R306). -/
def errorRecord (s : State) (slice : Nat) (cause : ErrCause) (a : Nat := 0) (b : Nat := 0)
    (c : Nat := 0) : State :=
  modSlice s slice (fun x =>
    if x.errs.length < 256 then { x with errs := x.errs ++ [⟨cause, a, b, c⟩] }
    else { x with errOverflow := true })

/-- A write by a unit of the device at a virtual address, as a release at `.part` (R253); an address
that does not translate receives nothing. -/
def unitWrite (s : State) (part asid level va : Nat) (bs : List Byte) : State :=
  match xlateDirect s part asid level va .write with
  | some (pa, _) => writeMem s pa bs
  | none => s

/-- A read by a unit of the device at a virtual address, of `n` bytes within one page. -/
def unitRead (s : State) (part asid level va n : Nat) : Option Nat :=
  match xlateDirect s part asid level va .read with
  | some (pa, _) => some (readN (readMem s) pa n)
  | none => none

/-- A 64-bit atomic add by a unit of the device (R43, R326): where the address translates
(log 58, DESIGN CHOICE). -/
def unitAdd (s : State) (part asid level va n : Nat) : State :=
  match xlateDirect s part asid level va .write with
  | some (pa, _) => writeMem s pa (bytesOf 8 ((readN (readMem s) pa 8 + n) % 2 ^ 64))
  | none => s

/-- The codes of a launch's status word (R315). -/
def statusCode : LStatus → Nat
  | .done => 0x00 | .running => 0x01 | .badVersion => 0x10 | .badField => 0x11
  | .oversize => 0x12 | .badMap => 0x13 | .badEntry => 0x14 | .timeout => 0x20
  | .coopUnplaceable => 0x21 | .failed => 0x22 | .killed => 0x23

/-- The status word of a launch written (R315): DETAIL above CODE. -/
def writeStatus (s : State) (lid : Nat) (st : LStatus) (detail : Nat) : State :=
  let l := launchOf s lid
  let s := modLaunch s lid (fun l => { l with status := st, detail := detail })
  let a := lrStatus l.rcd
  if a = 0 ∨ a % 8 ≠ 0 then s
  else unitWrite s l.part l.asid l.level a (bytesOf 8 (statusCode st + detail % 2 ^ 32 * 2 ^ 32))

/-- The completion counter of a launch raised by 1, once (R43). -/
def raiseCounter (s : State) (lid : Nat) : State :=
  let l := launchOf s lid
  let a := lrCounter l.rcd
  let s := modLaunch s lid (fun l => { l with raised := true })
  if l.raised ∨ a = 0 ∨ a % 8 ≠ 0 then s else unitAdd s l.part l.asid l.level a 1

/-- The groups of a block, by key. -/
def blockGroups (s : State) (bid : Nat) : List Nat :=
  (s.groups.filter (fun g => g.2.block == bid)).map Prod.fst

/-- The blocks of a launch that are there, by key; activation groups hold grants of their own. -/
def launchBlocks (s : State) (lid : Nat) : List Nat :=
  (s.blocks.filter (fun b => b.2.launch == lid)).map Prod.fst

/-- The line of a virtual address: its bits [55:6] (R358). -/
def wakeLine (va : DWord) : Nat := va.toNat % 2 ^ 56 / 64

/-- The entry of a line in a wait-and-wake table, with its number. -/
def findWake (p : Partition) (asid line : Nat) : Option (Nat × WakeEntry) :=
  p.wakes.find? (fun w => w.2.asid == asid && w.2.line == line)

/-- A wait-and-wake entry freed (R358): its place keeps WAKESEQ, which only evaluations change (R369). -/
def freeWake (n : Nat) (e : WakeEntry) (p : Partition) : Partition :=
  { p with wakes := mdel p.wakes n, wakeseqs := mset 0#32 p.wakeseqs n e.wakeseq }

/-- A free place of the wait-and-wake table taken for a line. -/
def takeWake (n : Nat) (e : WakeEntry) (p : Partition) : Partition :=
  { p with wakes := mput p.wakes n { e with wakeseq := mget 0#32 p.wakeseqs n } }

/-- One waiter's registration taken back (R358): an entry without waiters is freed. -/
def leaveWake (s : State) (part asid line : Nat) : State :=
  modPart s part (fun p =>
    match findWake p asid line with
    | none => p
    | some (n, e) =>
      if e.waiters ≤ 1 ∧ e.host = false then freeWake n e p
      else { p with wakes := mput p.wakes n { e with waiters := e.waiters - 1 } })

/-- A waiter's registration taken back where it holds one. -/
def leaveWait (s : State) (l : Launch) (w : Option WaitReg) : State :=
  match w with
  | some w => if w.registered then leaveWake s l.part l.asid (wakeLine w.addr) else s
  | none => s

/-- Every registration of a group's threads taken back. -/
def leaveWakes (s : State) (g : Group) : State :=
  g.threads.foldl (fun s t => leaveWait s (launchOf s g.launch) t.2.wwait) s

/-- One core's engines without the work of a block (R398). -/
def dropCoreWork (bid : Nat) (gids : List Nat) (k : Core) : Core :=
  { k with
    sweeps := k.sweeps.filter (fun w => w.cap.block ≠ bid)
    bops := k.bops.filter (fun w => w.cap.block ≠ bid)
    matrix := k.matrix.filter (fun w => w.cap.block ≠ bid)
    copies := k.copies.filter (fun w => w.cap.block ≠ bid)
    acc := k.acc.filter (fun a => !gids.contains a.group) }

/-- One core image without the work of a block. -/
def dropImageWork (bid : Nat) (gids : List Nat) (im : Image) : Image :=
  { im with
    groups := im.groups.filter (fun i => !gids.contains i)
    blocks := im.blocks.filter (fun i => i ≠ bid)
    core := dropCoreWork bid gids im.core }

/-- A slice without what it keeps of a block: service requests, images and portable contexts. -/
def dropSliceWork (bid : Nat) (gids : List Nat) (x : Slice) : Slice :=
  { x with
    reqs := x.reqs.filter (fun r => !gids.contains r.group)
    images := mmap (fun _ im => dropImageWork bid gids im) x.images
    portable := x.portable.filter (fun e => e.1 ≠ bid && !gids.contains e.1) }

/-- A partition without what its stores keep of a block. -/
def dropPartWork (bid : Nat) (gids : List Nat) (p : Partition) : Partition :=
  { p with
    store := mmap (fun _ im => dropImageWork bid gids im) p.store
    overflowUsed := p.overflowUsed.filter (fun e => e.1 ≠ bid && !gids.contains e.1) }

/-- A block removed with its groups, its engines' work and what it held (R315, R398). What it has
written to memory stays; its store buffer is discarded. -/
def removeBlock (s : State) (bid : Nat) : State :=
  let gids := blockGroups s bid
  let s := gids.foldl (fun s i => leaveWakes s (groupOf s i)) s
  { s with
    cores := mmap (fun _ k => dropCoreWork bid gids k) s.cores
    slices := mmap (fun _ x => dropSliceWork bid gids x) s.slices
    parts := mmap (fun _ p => dropPartWork bid gids p) s.parts
    groups := s.groups.filter (fun g => g.2.block ≠ bid)
    blocks := mdel s.blocks bid }

/-- A launch brought to a final status (R43, R315): every block stops, the status is written and
then the counter is raised. -/
def finishLaunch (s : State) (lid : Nat) (st : LStatus) (detail : Nat) : State :=
  if (launchOf s lid).final then s
  else
    let s := (launchBlocks s lid).foldl removeBlock s
    let s := modLaunch s lid (fun l => { l with final := true })
    let s := writeStatus s lid st detail
    raiseCounter s lid

end Sys2Proof.Machine
end

