-- ==== Sys2Proof/Machine/Ops.lean ====
section
/-! DEFINITION. The shared operations of the machine: the issuing gang, outstanding accesses, taking a
trap (R379..R385), and the one way in which a register instruction runs for its gang (R34, R78, R79). -/

namespace Sys2Proof.Machine

/-- An event that cannot happen in the state in which it is named. -/
def notEnabled : Out := .refused .notEnabled

/-! ## The issuing gang -/

/-- The gang that issues: its group, its lanes in ascending order and its PC (R32). -/
structure Ctx where
  gid : Nat
  g : Group
  gang : List Nat
  pc : DWord

/-- Registers overlaid by the source values that a frame holds. -/
def overlayRegs (m lent : Map Val) : Map Val := lent.foldl (fun m w => mset {} m w.1 w.2) m

/-- A thread as an instruction issued again reads it (R385). -/
def overlayThread (lent : Map Val) (t : Thread) : Thread :=
  { t with
    rf := { t.rf with v := overlayRegs t.rf.v lent }
    shadow := t.shadow.map (fun r => { r with v := overlayRegs r.v lent }) }

/-- A group as an instruction issued again reads it; without captured values, the group itself. -/
def overlayGroup (is : Issue) (g : Group) : Group :=
  if is.lent.isEmpty && is.lentK.isEmpty then g
  else
    { mapThreads g (fun l t => overlayThread (mget [] is.lent l) t) with
      uni := { g.uni with k := overlayRegs g.uni.k is.lentK }
      uniShadow := { g.uniShadow with k := overlayRegs g.uniShadow.k is.lentK } }

/-- The issuing gang, where there is one. -/
def ctxOf (s : State) : Option Ctx :=
  match s.issue with
  | none => none
  | some is =>
    match mfind s.groups is.gid with
    | none => none
    | some g => some ⟨is.gid, overlayGroup is g, is.gang, is.pc⟩

/-- The lowest lane of a gang. -/
def lowest (gang : List Nat) : Nat := gang.headD 0

/-- The launch of a gang. -/
def Ctx.launch (c : Ctx) (s : State) : Launch := launchOf s c.g.launch

/-- The lanes of a gang whose p predicate is true (R65). -/
def activeLanes (c : Ctx) (p : Pred) : List Nat :=
  c.gang.filter (fun l => predVal (threadOf c.g l).rf.p p)

/-- What a lane of the gang sees. -/
def viewOf (c : Ctx) (s : State) (active : List Nat) (lane : Nat) : View :=
  ⟨s, c.gid, c.g, c.gang, active, lane, (threadOf c.g lane).rf, c.g.uni, false⟩

/-- What the shadow of a lane sees (R399). -/
def shadowOf (v : View) : View :=
  { v with rf := ((threadOf v.g v.lane).shadow).getD v.rf, uni := v.g.uniShadow, sh := true }

/-- The gang goes on to the next word. -/
def advanceLanes (g : Group) (lanes : List Nat) : Group :=
  modThreads g lanes (fun t => { t with pc := t.pc + 8#64 })

/-- The state in which some lanes of the gang have gone on to the next word (R34). -/
def advance (c : Ctx) (s : State) (lanes : List Nat) : State :=
  modGroup s c.gid (fun g => advanceLanes g lanes)

/-- Lanes blocked at their instruction (R31). -/
def blockLanes (c : Ctx) (s : State) (lanes : List Nat) (w : Wait) : State :=
  modGroup s c.gid (fun g => modThreads g lanes (fun t => { t with run := .blocked w }))

/-- Lanes made ready again. -/
def readyLanes (s : State) (gid : Nat) (lanes : List Nat) : State :=
  modGroup s gid (fun g => modThreads g lanes (fun t => { t with run := .ready }))

/-- The effects that the spin detector counts (R38). -/
def markEffects (c : Ctx) (s : State) (lanes : List Nat) : State :=
  modGroup s c.gid (fun g => modThreads g lanes (fun t =>
    { t with spin := t.spin.map (fun e => { e with effect := true }) }))

/-- Idempotent regions closed (R396). -/
def closeRegions (c : Ctx) (s : State) (lanes : List Nat) : State :=
  modGroup s c.gid (fun g => modThreads g lanes (fun t => { t with region := none }))

/-! ## Outstanding accesses -/

/-- The value a load of an 8 or 16-bit type delivers (R106, R261). -/
def extendLoad (mt : MemType) (x : Nat) : Nat :=
  match mt with
  | .s8 => if x ≥ 2 ^ 7 then x + (2 ^ 32 - 2 ^ 8) else x
  | .s16 => if x ≥ 2 ^ 15 then x + (2 ^ 32 - 2 ^ 16) else x
  | _ => x

/-- The tag a load writes (R106). -/
def loadTag : MemType → Tag
  | .n8 | .n16 | .n32 => .n32
  | .s8 | .s16 | .s32 => .s32
  | .b32 | .b64 | .b128 => .b32
  | .f32 => .f32
  | .bf16x2 => .bf16x2
  | .f16x2 => .f16x2
  | .e4m3x4 => .e4m3x4
  | .e5m2x4 => .e5m2x4
  | .s64 => .s64
  | .n64 => .n64

/-- The 32-bit words of a datum, lowest first. -/
def wordsOf : Nat → Nat → List Nat
  | 0, _ => []
  | n + 1, x => x % 2 ^ 32 :: wordsOf n (x / 2 ^ 32)

/-- The registers that a load's data fills (R106, R261, R264, R200). -/
def loadRegs (a : Access) (data : Nat) : List (Nat × Val) :=
  if a.af then writeRun a.dest .af (wordsOf 4 data)
  else if a.size ≤ 4 then [(a.dest, ⟨BitVec.ofNat 32 (extendLoad a.mt data), loadTag a.mt⟩)]
  else writeRun a.dest (loadTag a.mt) (wordsOf (a.size / 4) data)

/-- Registers written for a thread from outside its issue: the data of an access. -/
def deliverRegs (s : State) (a : Access) (ws : List (Nat × Val)) : State :=
  modGroup s a.group (fun g =>
    if a.uniform then
      { g with
        uni := { g.uni with k := putRegs g.uni.k ws }
        uniShadow := { g.uniShadow with k := putRegs g.uniShadow.k ws } }
    else
      modThread g a.lane (fun t =>
        { t with
          rf := { t.rf with v := putRegs t.rf.v ws }
          shadow := t.shadow.map (fun r => { r with v := putRegs r.v ws }) }))

/-- Whether an order acquires. -/
def acquires : Order → Bool
  | .acq | .ar => true
  | _ => false

/-- Whether an order releases. -/
def releases : Order → Bool
  | .rel | .ar => true
  | _ => false

/-- The physical addresses a place begins its pieces at. -/
def placePas : Place → List Nat
  | .phys ps => ps.map Prod.fst
  | .scratch .. => []

/-- An acquire at `.part` or `.sys` promotes the owners of the lines it reads (R251). -/
def acquirePromote (s : State) (c : Nat) (p : Place) (sc : Scope) (o : Order) : State :=
  if acquires o && !isNarrow sc then (placePas p).foldl (fun s pa => promoteOwner s c pa) s else s

/-- A release at a narrow scope promotes another owner of its lines (R251, R252). -/
def releasePromote (s : State) (c : Nat) (p : Place) (sc : Scope) (o : Order) : State :=
  if releases o && isNarrow sc then (placePas p).foldl (fun s pa => promoteOwner s c pa) s else s

/-- A release at a narrow scope promotes another owner of its lines and records its own core (R251,
R252). -/
def releaseOwner (s : State) (c : Nat) (p : Place) (sc : Scope) (o : Order) : State :=
  if releases o && isNarrow sc then (placePas p).foldl (fun s pa => recordOwner s c pa) s else s

/-- The bytes an atomic leaves at its place (R266, R268). -/
def atomStore (s : State) (c : Nat) (p : Place) (size data : Nat) : State :=
  match p with
  | .scratch b pos off _ => writeScratch s b pos off (bytesOf size data)
  | .phys ps => (pieceData ps data).foldl (fun s x => storeMem s c x.1 (bytesOf x.2.1 x.2.2)) s

/-- An atomic read-modify-write performed at a place (R249, R266): the old value, and the state. One that
writes nothing is a read (R266); one that writes and releases at a narrow scope reads what another owner of
its lines has released there (R251, R252). -/
def atomPerform (s : State) (gid c : Nat) (p : Place) (sc : Scope) (o : Order) (op : AtomOp) (t : Tag)
    (b cc : Nat) : Nat × State :=
  let s := acquirePromote s c p sc o
  let old := readPlace s (groupOf s gid) p (atomSize t)
  if (atomNew op t old b cc).isNone then (old, s)
  else
    let s := releasePromote s c p sc o
    let old := readPlace s (groupOf s gid) p (atomSize t)
    match atomNew op t old b cc with
    | none => (old, s)
    | some x => (old, atomStore (releaseOwner s c p sc o) c p (atomSize t) x)

/-- One outstanding access performed, its data delivered to its registers (R122, R261, R266). -/
def performAccess (s : State) (c : Nat) (a : Access) : State :=
  match a.kind with
  | .load =>
    let s := acquirePromote s c a.place a.scope a.order
    let data := a.captured.getD (readPlace s (groupOf s a.group) a.place a.size)
    deliverRegs s a (loadRegs a data)
  | .atomic =>
    let (old, s) :=
      match a.captured with
      | some old => (old, s)
      | none => atomPerform s a.group c a.place a.scope a.order a.aop a.t a.b a.c
    deliverRegs s a (writeRun a.dest a.t (wordsOf (tagRegs a.t) old))

/-- Whether an access reads a line marked poisoned (R395). -/
def readsPoison (s : State) (a : Access) : Bool :=
  (placePas a.place).any (fun pa => s.poison.contains (lineOf pa))

/-- Whether an access would consume an uncorrectable error: what has been captured has been read. -/
def consumes (s : State) (a : Access) : Bool := a.captured.isNone && readsPoison s a

/-- The consumption of a poisoned line by an access: an uncorrectable error of the memory that holds it
(R380, R395). Which memory reported it is not recorded (log 23, DESIGN CHOICE). -/
def poisonFault (s : State) (a : Access) : FaultInfo :=
  { cls := 0x12, sub := if freeChoice s 2048 then 2 else 3, lanes := maskOfLanes [a.lane],
    gang := maskOfLanes [a.lane], addr := a.va, late := true }

/-- The outstanding accesses of a group, the oldest first. -/
def groupAccesses (s : State) (gid : Nat) : List Access :=
  (coreOf s (groupOf s gid).core).acc.filter (fun a => a.group == gid)

/-- Every outstanding access of a group ended, the oldest first: it is performed, or it faults (R382 step 2,
R388) (log 11, DEDUCED). -/
def completeOlder (s : State) (gid : Nat) : State :=
  let c := (groupOf s gid).core
  let s := (groupAccesses s gid).foldl (fun s a => if consumes s a then s else performAccess s c a) s
  modCore s c (fun k => { k with acc := k.acc.filter (fun a => a.group ≠ gid) })

/-- The oldest fault of a group's outstanding accesses (R382 step 2). -/
def olderFault (s : State) (gid : Nat) : Option FaultInfo :=
  ((groupAccesses s gid).find? (consumes s)).map (poisonFault s)

/-! ## Causes, and parking for Mbotum (R379, R380, R240) -/

/-- The cause code of a fault (R379). -/
def causeCode (f : FaultInfo) : Nat :=
  f.cls % 256 * 2 ^ 24 + f.sub % 256 * 2 ^ 16 + f.detail % 2 ^ 16

/-- A fault of some lanes of the gang as it is delivered (R379, R384) (log 15, DEDUCED). -/
def faultInfo (c : Ctx) (x : Cause) (lanes : List Nat) (skip : Bool) : FaultInfo :=
  { cls := x.cls, sub := x.sub, detail := x.detail.getD (lowest lanes), lanes := maskOfLanes lanes,
    gang := maskOfLanes c.gang, pc := c.pc, addr := x.addr, poisoner := x.poisoner, skip := skip,
    kill := x.kill }

/-- A group put into the entry of its page in a translation fault queue (R240); a full queue leaves
it parked, to be queued when an entry frees. -/
def queueFault (s : State) (slice part asid page gid : Nat) : State :=
  modSlice s slice (fun x =>
    let same (e : TransFault) := e.part == part && e.asid == asid && e.page == page
    if x.faultq.any same then
      { x with faultq := modFirst same (fun e => { e with groups := e.groups ++ [gid] }) x.faultq }
    else if x.faultq.length < 1024 then
      { x with faultq := x.faultq ++ [⟨part, asid, page, [gid]⟩] }
    else x)

/-- A translation fault parks the group whole and queues its page to the launch's home slice
(R240). -/
def parkTranslation (s : State) (gid : Nat) (f : FaultInfo) : State :=
  let g := groupOf s gid
  let l := launchOf s g.launch
  let s := modGroup s gid (fun g => { g with park := .translation, fault := some f })
  queueFault s l.slice l.part l.asid (f.addr.toNat / 4096) gid

/-! ## The trap frame (R383, R384) -/

/-- The bytes of a trap frame. -/
def frameBytes : Nat := 229376

/-- The address of a group's trap frame (R383). -/
def frameBase (s : State) (g : Group) : Nat :=
  let r := (launchOf s g.launch).rcd
  (lrPrivBase r + (privateIndex s g + 1) * 128 * lrPriv r - frameBytes) % 2 ^ 64

/-- The tag codes of eight registers from a number on, four bits each. -/
def tagWord (m : Map Val) (first : Nat) : Nat :=
  (List.range 8).foldl (fun x i => x + tagCode (mget {} m (first + i)).tag * 16 ^ i) 0

/-- The words of one lane's rows: byte offset in the frame, and word. -/
def laneCells (f : FaultInfo) (lane : Nat) (t : Thread) : List (Nat × Nat) :=
  let at_ (row x : Nat) : Nat × Nat := (row * 512 + 4 * lane, x)
  let pc := if f.skip && f.lanes.getLsbD lane then t.pc + 8#64 else t.pc
  let status := t.rf.p.toNat + (if t.run = .ended then 128 else 0) +
    (if f.lanes.getLsbD lane then 256 else 0) + (if f.gang.getLsbD lane then 512 else 0)
  let sp := t.split.getD {}
  t.rf.v.map (fun r => at_ r.1 r.2.bits.toNat) ++
  (List.range 32).map (fun j => at_ (256 + j) (tagWord t.rf.v (8 * j))) ++
  [at_ 288 (pc.toNat % 2 ^ 32), at_ 289 (pc.toNat / 2 ^ 32), at_ 290 status,
   at_ 291 (t.rf.ix0.toNat + t.rf.ix1.toNat * 2 ^ 16),
   at_ 292 (t.rf.ix2.toNat + t.rf.ix3.toNat * 2 ^ 16), at_ 293 t.rf.fp.toNat,
   at_ 294 (sp.hdr.toNat % 2 ^ 32), at_ 295 (sp.hdr.toNat / 2 ^ 32)] ++
  (List.range 4).map (fun i => at_ (296 + i) (sp.set.toNat / 2 ^ (32 * i) % 2 ^ 32))

/-- The words of the group's rows (R383, R384). -/
def groupCells (g : Group) (f : FaultInfo) : List (Nat × Nat) :=
  let row := 309 * 512
  g.uni.k.map (fun r => (300 * 512 + 4 * r.1, r.2.bits.toNat)) ++
  (List.range 128).map (fun w => (308 * 512 + 4 * w, tagWord g.uni.k (8 * w))) ++
  [(row, g.uni.q.toNat), (row + 4, g.afmode), (row + 8, g.afnext), (row + 12, g.progress),
   (row + 16, causeCode f), (row + 24, f.pc.toNat % 2 ^ 32), (row + 28, f.pc.toNat / 2 ^ 32),
   (row + 32, f.addr.toNat % 2 ^ 32), (row + 36, f.addr.toNat / 2 ^ 32)] ++
  (List.range 4).map (fun i => (row + 48 + 4 * i, f.gang.toNat / 2 ^ (32 * i) % 2 ^ 32)) ++
  (List.range 4).map (fun i => (row + 64 + 4 * i, f.lanes.toNat / 2 ^ (32 * i) % 2 ^ 32)) ++
  [(row + 80, f.poisoner.toNat % 2 ^ 32), (row + 84, f.poisoner.toNat / 2 ^ 32)]

/-- The words of one replay entry (R383, R385): its header, and its operand rows. -/
def replayCells (e : Nat × Replay) : List (Nat × Nat) :=
  let a := 310 * 512 + 64 * e.1
  let r := e.2
  (List.range 2).map (fun i => (a + 4 * i, r.word.toNat / 2 ^ (32 * i) % 2 ^ 32)) ++
  (List.range 2).map (fun i => (a + 8 + 4 * i, r.pc.toNat / 2 ^ (32 * i) % 2 ^ 32)) ++
  (List.range 4).map (fun i => (a + 16 + 4 * i, r.gang.toNat / 2 ^ (32 * i) % 2 ^ 32)) ++
  (List.range 4).map (fun i => (a + 32 + 4 * i, r.mask.toNat / 2 ^ (32 * i) % 2 ^ 32)) ++
  [(a + 48, r.state.toNat)] ++
  r.operands.flatMap (fun o => (List.zip (List.range 8) o.2).map (fun w =>
    ((312 + 8 * e.1 + w.1) * 512 + 4 * o.1, w.2.toNat)))

/-- The replay entries of a frame (R385). No instruction is in flight when this model takes a trap: what
stands here is what an earlier `ERET` had still to issue again (log 11, DEDUCED). -/
def replaysCells (l : List Replay) : List (Nat × Nat) :=
  (309 * 512 + 40, l.length) :: (List.zip (List.range 16) l).flatMap replayCells

/-- Every word of a group's trap frame that may be nonzero. A slot without a thread is ENDED. -/
def frameCells (g : Group) (f : FaultInfo) : List (Nat × Nat) :=
  replaysCells g.replay ++
  g.threads.flatMap (fun t => laneCells f t.1 t.2) ++
  ((List.range 128).filter (fun l => (mfind g.threads l).isNone)).map
    (fun l => (290 * 512 + 4 * l, 128)) ++ groupCells g f

/-- The physical pages of a run of virtual addresses, or none where one does not translate. -/
def mapPages (s : State) (part asid level : Nat) (u : PageUse) : List Nat → Option (List (Nat × Nat))
  | [] => some []
  | p :: ps =>
    match xlateDirect s part asid level (p * 4096) u, mapPages s part asid level u ps with
    | some (pa, _), some rest => some ((p, pa) :: rest)
    | _, _ => none

/-- The virtual page numbers that a run of bytes touches. -/
def pagesOf (va n : Nat) : List Nat :=
  (List.range ((va + n - 1) / 4096 - va / 4096 + 1)).map (fun i => va / 4096 + i)

/-- A byte table without the addresses from `lo` up to `hi`. -/
def clearRange (m : Map Byte) (lo hi : Nat) : Map Byte :=
  mfilter (fun a _ => a < lo || hi ≤ a) m

/-- A run of bytes on mapped pages cleared in memory and in what the quad's cores hold. -/
def clearPages (s : State) (cores : List Nat) (va n : Nat) (pages : List (Nat × Nat)) : State :=
  pages.foldl (fun s p =>
    let lo := p.2 + (max va (p.1 * 4096) - p.1 * 4096)
    let hi := p.2 + (min (va + n) (p.1 * 4096 + 4096) - p.1 * 4096)
    let s := { s with mem := clearRange s.mem lo hi }
    cores.foldl (fun s c =>
      if (coreOf s c).held.isEmpty then s
      else modCore s c (fun k => { k with held := clearRange k.held lo hi })) s) s

/-- One word of a trap frame written, through the pages that its addresses map to. -/
def writeCell (base : Nat) (pages : List (Nat × Nat)) (s : State) (c : Nat × Nat) : State :=
  if c.2 = 0 then s
  else writeMem s (mget 0 pages ((base + c.1) / 4096) + (base + c.1) % 4096) (bytesOf 4 c.2)

/-- The trap frame of a group written where its pages are: cleared, and then the words that are not
zero (R383, R384). -/
def writeFrameAt (s : State) (gid : Nat) (f : FaultInfo) (pages : List (Nat × Nat)) : State :=
  let g := groupOf s gid
  let base := frameBase s g
  (frameCells g f).foldl (writeCell base pages)
    (clearPages s (g.core :: quadCores s g.core) base frameBytes pages)

/-- The pages of a group's trap frame, or none where one does not translate (R383). -/
def framePages (s : State) (gid : Nat) : Option (List (Nat × Nat)) :=
  let g := groupOf s gid
  let l := launchOf s g.launch
  mapPages s l.part l.asid l.level .write (pagesOf (frameBase s g) frameBytes)

/-- The trap frame of a group written to its private backing (R382 step 4, R383), or none where one
of its pages does not translate. -/
def writeFrame (s : State) (gid : Nat) (f : FaultInfo) : Option State :=
  (framePages s gid).map (writeFrameAt s gid f)

/-- The first page of a group's frame that does not translate. -/
def framePage (s : State) (g : Group) : Nat :=
  let l := launchOf s g.launch
  ((pagesOf (frameBase s g) frameBytes).find? (fun p =>
    (xlateDirect s l.part l.asid l.level (p * 4096) .write).isNone)).getD 0

/-! ## Headers (R54, R56, R57) -/

/-- Fields of a header word (R54). -/
def hdrLen (w : DWord) : Nat := bitsOf w 55 48
def hdrLive (w : DWord) : Nat := if bitsOf w 47 40 = 255 then 256 else bitsOf w 47 40
def hdrReg (w : DWord) : Bool := w.getLsbD 39
def hdrHnd (w : DWord) : Bool := w.getLsbD 38
def hdrDiv (w : DWord) : Bool := w.getLsbD 37
def hdrRcv (w : DWord) : Int := (BitVec.ofNat 17 (bitsOf w 36 20)).toInt
def hdrMbz (w : DWord) : Nat := bitsOf w 3 0

/-- Whether a word is a header: OP = 0xFF (R54). -/
def isHeader (w : DWord) : Bool := bitsOf w 63 56 == 0xFF

/-- Whether a header's own fields are legal (R54). -/
def hdrOk (w : DWord) : Bool := hdrLen w ≥ 1 && hdrLen w ≤ 250 && hdrMbz w == 0

/-- The word at a virtual address as a unit of the device reads it for execution: none where the
address is no instruction address or its page does not allow it. -/
def unitFetch (s : State) (part asid level : Nat) (va : DWord) : Option DWord :=
  if va.toNat % 8 ≠ 0 then none
  else
    match xlateDirect s part asid level va.toNat .exec with
    | some (pa, _) => some (readWord64 s pa)
    | none => none

/-- Whether a header at `TRAPBASE` can be entered by a group (R381). A page that does not translate decides
nothing yet: its fetch parks the group (R52, R240). -/
def handlerOk (s : State) (g : Group) : Bool :=
  let l := launchOf s g.launch
  match unitFetch s l.part l.asid l.level l.trapbase with
  | none => l.trapbase.toNat % 8 == 0 && l.trapbase.toNat < 2 ^ 56
  | some w => isHeader w && hdrOk w && !hdrHnd w && hdrLive w ≤ declaredV s g

/-! ## The recovery ladder (R395..R398) -/

/-- A register file rolled back to a checkpoint: v0..v(LIVE-1), the p and ix registers and
`s.fpstat` (R396). -/
def rollRegs (live : Nat) (saved now : RegFile) : RegFile :=
  { saved with v := mfilter (fun n _ => n < live) saved.v ++ mfilter (fun n _ => live ≤ n) now.v }

/-- A thread in an open region rolled back to its region entry (R396). -/
def rollThread (t : Thread) : Thread :=
  match t.region with
  | none => t
  | some r =>
    { t with
      pc := r.hdr, hdr := r.hdr, hword := 1#64, run := .ready, spin := none, region := none
      wwait := none, await := none
      rf := rollRegs r.live r.rf t.rf
      shadow := t.shadow.map (fun x => rollRegs r.live (r.shadow.getD r.rf) x) }

/-- `s.afnext` after a rollback: as the earliest of the checkpoints has it (R204). Ids rise through a chunk,
and 0 follows its end. -/
def entryAfnext (now : Nat) (saved : List Nat) : Nat :=
  match saved.filter (fun n => n != 0) with
  | [] => if saved.isEmpty then now else 0
  | n :: ns => ns.foldl min n

/-- A group rolled back: every thread in an open region, with `s.afnext` as the earliest of their
checkpoints has it (R204, R396); what those threads had outstanding is issued again. -/
def rollBack (s : State) (gid : Nat) : State :=
  let g := groupOf s gid
  let lanes := lanesWhere g (fun t => t.region.isSome && t.run ≠ .ended)
  let af := (lanes.filterMap (fun l => (threadOf g l).region)).map (·.afnext)
  let s := lanes.foldl (fun s l => leaveWait s (launchOf s g.launch) (threadOf g l).wwait) s
  let s := modCore s g.core (fun k =>
    { k with acc := k.acc.filter (fun a => !(a.group == gid && lanes.contains a.lane)) })
  modGroup s gid (fun g =>
    { modThreads g lanes rollThread with afnext := entryAfnext g.afnext af })

/-- An activation as it is queued again: it leaves no trace. -/
def freshActivation (a : Activation) : Activation :=
  { a with emits := [], panes := [], closeFlag := false, begun := false }

/-- Activations given back to their window engines to be run again (R45): their private memory is discarded
(R232), and they leave no trace. -/
def rerunActivations (s : State) (g : Group) : State :=
  g.threads.foldr (fun t s =>
    match t.2.act with
    | some a =>
      if t.2.run = .ended then s
      else modSlice s a.slice (fun x => { x with actq := freshActivation a :: x.actq })
    | none => s) (discardPrivate s g (liveLanes g))

/-- A block killed and put up to be placed again with the same index, on another cluster where one has
room (R398). -/
def relaunchBlock (s : State) (bid slice : Nat) : State :=
  let b := blockOf s bid
  let s := if b.isAct then (blockGroups s bid).foldl (fun s i => rerunActivations s (groupOf s i)) s
    else modLaunch s b.launch (fun l => { l with relaunch := l.relaunch ++ [(b.idx, b.relaunches + 1, slice)] })
  removeBlock s bid

/-- THE RECOVERY LADDER (R395): rollback where every thread that consumed the error is in an open
region, relaunch where the block has passed no visibility point, and failure otherwise. A mismatch that
kills its block is not rolled back (R274, R290, R305, R375) (log 53, DEDUCED). -/
def recover (s : State) (gid : Nat) (f : FaultInfo) : State :=
  let g := groupOf s gid
  let b := blockOf s g.block
  if !f.kill && (lanesOfMask f.lanes).all (fun l => (threadOf g l).region.isSome) then rollBack s gid
  else if (!b.seen || b.isAct) && b.relaunches < 3 then relaunchBlock s g.block (coreSlice g.core)
  else finishLaunch s g.launch .failed (causeCode f)

/-- The ladder for an error that an engine has consumed for a block (R395): no thread's region can undo
it. -/
def recoverBlock (s : State) (bid core : Nat) (f : FaultInfo) : State :=
  let b := blockOf s bid
  if (!b.seen || b.isAct) && b.relaunches < 3 then relaunchBlock s bid (coreSlice core)
  else finishLaunch s b.launch .failed (causeCode f)

/-! ## Taking a trap -/

/-- A thread transferred to an address: it stands at the entry of a block that it has still to enter, even
where the block that it leaves contains that address (R55). -/
def transferTo (a : DWord) (t : Thread) : Thread := { t with pc := a, hdr := a, hword := 1#64 }

/-- A group's threads at the handler (R382 step 6): every thread that has not ended stands at
`TRAPBASE`. -/
def threadAtHandler (base : DWord) (t : Thread) : Thread :=
  if t.run = .ended then t
  else { transferTo base t with run := .ready, demote := 0, wwait := none, await := none }

/-- Trap entry once the frame is written (R382 steps 4 to 6). -/
def enterHandler (s : State) (gid : Nat) (f : FaultInfo) : State :=
  let g := groupOf s gid
  let base := (launchOf s g.launch).trapbase
  let s := leaveWakes s g
  modGroup s gid (fun g =>
    { mapThreads g (fun _ t => threadAtHandler base t) with
      trapframe := BitVec.ofNat 64 (frameBase s g)
      trapcause := BitVec.ofNat 32 (causeCode f)
      park := .none, fault := none, replay := [] })

/-- A `BKPT` of a launch without a handler parks its group and is recorded (R387). -/
def parkBkpt (s : State) (gid : Nat) (f : FaultInfo) : State :=
  let g := groupOf s gid
  let s := modGroup s gid (fun g => { g with park := .bkpt, fault := some f })
  errorRecord s (launchOf s g.launch).slice .bkpt gid f.pc.toNat f.detail

/-- A group parked because its trap frame cannot be written yet: the page goes to Mbotum (R383). -/
def parkFrame (s : State) (gid : Nat) (f : FaultInfo) : State :=
  let g := groupOf s gid
  let l := launchOf s g.launch
  let s := modGroup s gid (fun g => { g with park := .frame, fault := some f })
  queueFault s l.slice l.part l.asid (framePage s g) gid

/-- Trap entry with the frame written, where the handler's header lets the group enter; the launch fails
where it does not (R381) (log 22, DEDUCED). -/
def frameWritten (gid : Nat) (f : FaultInfo) (s : State) : State :=
  let g := groupOf s gid
  if handlerOk s g then enterHandler s gid f
  else finishLaunch s g.launch .failed (causeCode f)

/-- Trap entry once the older accesses have completed (R381, R382): the frame is written, `s.trapframe` and `s.trapcause` are set and every thread goes to `TRAPBASE`; or the launch fails, in
the four cases of R381; or the group parks because its frame cannot be written yet (R383)
(log 22, DEDUCED). -/
def enterTrap (s : State) (gid : Nat) (f : FaultInfo) : State :=
  let g := groupOf s gid
  let l := launchOf s g.launch
  if l.trapbase = 0#64 then
    if f.cls = 0x10 then parkBkpt s gid f
    else finishLaunch s g.launch .failed (causeCode f)
  else if g.trapframe ≠ 0#64 then finishLaunch s g.launch .failed (causeCode f)
  else (writeFrame s gid f).elim (parkFrame s gid f) (frameWritten gid f)

/-- TAKING A TRAP (R381, R382): the group's older accesses complete; where one of them faults, that older
fault is delivered instead (log 22, DEDUCED). -/
def takeTrap (s : State) (gid : Nat) (f : FaultInfo) : State :=
  match olderFault s gid with
  | some x => recover (completeOlder s gid) gid x
  | none => enterTrap (completeOlder s gid) gid f

/-- The accesses of a group brought to their end where no trap is taken: an older fault goes to the recovery
ladder. -/
def settleOlder (s : State) (gid : Nat) : State :=
  match olderFault s gid with
  | some x => recover (completeOlder s gid) gid x
  | none => completeOlder s gid

/-- A fault delivered where R380 sends it: class 0x09 parks the group for Mbotum, 0x12 and 0x13 go to
the recovery ladder, and every other class that an instruction raises goes to the handler. -/
def deliverFault (s : State) (gid : Nat) (f : FaultInfo) : State :=
  if f.cls = 9 then parkTranslation s gid f
  else if f.cls = 0x12 ∨ f.cls = 0x13 then recover s gid f
  else takeTrap s gid f

/-- A fault of some lanes of the issuing gang, taken (log 15, DEDUCED). -/
def trapLanes (c : Ctx) (s : State) (x : Cause) (lanes : List Nat) (skip : Bool := false) : State :=
  deliverFault s c.gid (faultInfo c x lanes skip)

/-! ## Checks of the word (R78, R79) -/

/-- A register run within the registers that a group's class declares (R28, R60). -/
def useOk (s : State) (g : Group) (u : RegUse) : Bool :=
  u.base + u.len ≤ (if u.isK then declaredK s g else declaredV s g)

/-- Whether every register that a word names is declared. -/
def usesOk (s : State) (g : Group) (us : List RegUse) : Bool := us.all (useOk s g)

/-- The common beginning of every instruction: an issuing gang, and a word whose fields take only
accepted values (R78); every gang that reaches another word traps as a whole (log 16, DEDUCED). -/
def withGang (i : Instr) (s : State) (k : Ctx → Out) : Out :=
  match ctxOf s with
  | none => .refused .noIssuingGang
  | some c => if wfInstr i then k c else .next (trapLanes c s cIllegal c.gang)

/-! ## Running a register instruction -/

/-- The result of a thread and of its shadow. -/
structure LaneRes where
  eff : Eff
  fl : Flags
  seff : Eff
  sfl : Flags

/-- A computation run in one lane, and in its shadow in a protected launch: a shadow that alone finds
a fault is a mismatch of the pair (R399) (log 53, DEDUCED). -/
def runLane (prot : Bool) (f : View → Sem Eff) (v : View) : Except Cause LaneRes :=
  match f v 0#7 with
  | .error e => .error e
  | .ok (e, fl) =>
    if prot then
      match f (shadowOf v) 0#7 with
      | .error _ => .error (cMismatch)
      | .ok (e', fl') => .ok ⟨e, fl, e', fl'⟩
    else .ok ⟨e, fl, e, fl⟩

/-- The lanes that find a fault, with their causes. -/
def faultsOf {α : Type} (rs : List (Nat × Except Cause α)) : List (Nat × Cause) :=
  rs.filterMap (fun r =>
    match r.2 with
    | .error e => some (r.1, e)
    | .ok _ => none)

/-- The lanes' results where none finds a fault. -/
def resultsOf {α : Type} (rs : List (Nat × Except Cause α)) : Map α :=
  rs.filterMap (fun r =>
    match r.2 with
    | .error _ => none
    | .ok a => some (r.1, a))

/-- A thread after its result. -/
def commitThread (r : LaneRes) (t : Thread) : Thread :=
  { t with rf := applyEff t.rf r.eff r.fl, shadow := t.shadow.map (fun x => applyEff x r.seff r.sfl) }

/-- A thread of the gang after the instruction: its result, and the next word. -/
def stepThread (gang : List Nat) (rs : Map LaneRes) (lane : Nat) (t : Thread) : Thread :=
  let t := match mfind rs lane with
    | some r => commitThread r t
    | none => t
  if gang.contains lane then { t with pc := t.pc + 8#64 } else t

/-- The results of a per-thread instruction committed for its gang. -/
def commitLanes (c : Ctx) (s : State) (rs : Map LaneRes) : State :=
  modGroup s c.gid (fun g => mapThreads g (stepThread c.gang rs))

/-- The k and q registers that a path writes, noted for the spin detector (R38). -/
def noteUni (e : Eff) (r : SpinRef) : SpinRef :=
  { r with
    kSet := e.regs.foldl (fun m w => insertNat w.1 m) r.kSet
    qSet := e.preds.foldl (fun m w => if w.1 = 7 then m else insertNat w.1 m) r.qSet }

/-- A thread of the gang after a uniform instruction: its flags are raised (R167), its region is
closed by the write (R396), and it goes on. -/
def stepUniThread (gang : List Nat) (r : LaneRes) (lane : Nat) (t : Thread) : Thread :=
  if gang.contains lane then
    { t with
      pc := t.pc + 8#64
      rf := { t.rf with fp := (t.rf.fp ||| r.fl) &&& ~~~r.eff.clear }
      shadow := t.shadow.map (fun x => { x with fp := (x.fp ||| r.sfl) &&& ~~~r.seff.clear })
      region := if r.eff.regs.isEmpty && r.eff.preds.all (fun w => w.1 == 7) then t.region else none
      spin := t.spin.map (noteUni r.eff) }
  else t

/-- The k registers that a gang's load will write, noted for the spin detector (R38). -/
def noteLoads (c : Ctx) (s : State) (ws : List (Nat × Val)) : State :=
  modGroup s c.gid (fun g => modThreads g c.gang (fun t => { t with spin := t.spin.map (noteUni { regs := ws }) }))

/-- The result of a uniform instruction committed for its group. -/
def commitUni (c : Ctx) (s : State) (r : LaneRes) : State :=
  modGroup s c.gid (fun g =>
    { mapThreads g (stepUniThread c.gang r) with
      uni := applyUni g.uni r.eff
      uniShadow := applyUni g.uniShadow r.seff })

/-- A per-thread register instruction (R34, R78, R79): every lane whose predicate is true is checked
before any has an effect. -/
def runThreads (c : Ctx) (s : State) (p : Pred) (us : List RegUse) (f : View → Sem Eff) : State :=
  let act := activeLanes c p
  if !act.isEmpty && !usesOk s c.g us then trapLanes c s cRange act
  else
    let rs := act.map (fun l => (l, runLane (isProt s c.g) f (viewOf c s act l)))
    match faultsOf rs with
    | [] => commitLanes c s (resultsOf rs)
    | (l, x) :: rest => trapLanes c s x (l :: rest.map Prod.fst)

/-- A uniform register instruction: once for the gang, under its q predicate (R35, R63). -/
def runUniform (c : Ctx) (s : State) (p : Pred) (us : List RegUse) (f : View → Sem Eff) : State :=
  if predVal c.g.uni.q p then
    if !usesOk s c.g us then trapLanes c s cRange c.gang
    else
      match runLane (isProt s c.g) f (viewOf c s c.gang (lowest c.gang)) with
      | .ok r => commitUni c s r
      | .error x => trapLanes c s x c.gang
  else advance c s c.gang

/-- An instruction that reads and writes registers only: per-thread with a v destination, uniform
with a k destination (R63). -/
def runRegs (i : Instr) (uniform : Bool) (p : Pred) (us : List RegUse) (f : View → Sem Eff)
    (s : State) : Out :=
  withGang i s (fun c => .next (if uniform then runUniform c s p us f else runThreads c s p us f))

/-! ## Instructions with effects beside registers -/

/-- What a protected launch does with the operands of a lane and of its shadow (R399): nothing that it names
is compared; they are compared; or a mismatch also kills the block (R274, R290, R305, R375). -/
inductive Pairing
  | free | compare | kill
  deriving DecidableEq, Repr

/-- A lane's operands read, and compared with its shadow's in a protected launch before they take
effect (R399) (log 53, DEDUCED). -/
def runPair {α : Type} [DecidableEq α] (prot : Bool) (m : Pairing) (f : View → Sem α) (v : View) :
    Except Cause (α × Flags × Flags) :=
  match f v 0#7 with
  | .error e => .error e
  | .ok (a, fl) =>
    if prot then
      match f (shadowOf v) 0#7 with
      | .error _ => if m = .free then .ok (a, fl, fl) else .error (cMismatch (m == .kill))
      | .ok (b, fl') => if a = b ∨ m = .free then .ok (a, fl, fl') else .error (cMismatch (m == .kill))
    else .ok (a, fl, fl)

/-- The operands of some lanes of the gang. -/
def readLanes {α : Type} [DecidableEq α] (c : Ctx) (s : State) (m : Pairing) (act lanes : List Nat)
    (f : View → Sem α) : List (Nat × Except Cause (α × Flags × Flags)) :=
  lanes.map (fun l => (l, runPair (isProt s c.g) m f (viewOf c s act l)))

/-- The flags that reading operands has raised, as results of the lanes. -/
def flagsOnly {α : Type} (rs : Map (α × Flags × Flags)) : Map LaneRes :=
  mmap (fun _ r => ⟨{}, r.2.1, {}, r.2.2⟩) rs

/-- A per-thread instruction whose operands are read and checked in every lane whose predicate is true
before it has any effect (R78, R79): `k` continues with the operands. -/
def withOperands {α : Type} [DecidableEq α] (c : Ctx) (s : State) (p : Pred) (us : List RegUse)
    (f : View → Sem α) (k : Map (α × Flags × Flags) → State) (m : Pairing := .compare) : State :=
  let act := activeLanes c p
  if act.isEmpty then advance c s c.gang
  else if !usesOk s c.g us then trapLanes c s cRange act
  else
    let rs := readLanes c s m act act f
    match faultsOf rs with
    | [] => k (resultsOf rs)
    | (l, x) :: rest => trapLanes c s x (l :: rest.map Prod.fst)

/-- The same for an instruction that executes once for its gang, under its q predicate. -/
def withUniform {α : Type} [DecidableEq α] (c : Ctx) (s : State) (p : Pred) (us : List RegUse)
    (f : View → Sem α) (k : α × Flags × Flags → State) (m : Pairing := .compare) : State :=
  if !predVal c.g.uni.q p then advance c s c.gang
  else if !usesOk s c.g us then trapLanes c s cRange c.gang
  else
    match runPair (isProt s c.g) m f (viewOf c s c.gang (lowest c.gang)) with
    | .error x => trapLanes c s x c.gang
    | .ok r => k r

/-- Whether a thread waits for a draw. -/
def drawing (t : Thread) : Bool := t.run == .blocked (.draw true) || t.run == .blocked (.draw false)

/-! ## Instructions that wait with what they captured (R217, R372) -/

/-- A gang that begins to wait: what it captured, and the flags that reading its operands raised. -/
def beginAwait (c : Ctx) (s : State) (a : Await) (fl : Flags × Flags) : State :=
  modGroup s c.gid (fun g => modThreads g c.gang (fun t =>
    { t with
      await := some a
      rf := { t.rf with fp := t.rf.fp ||| fl.1 }
      shadow := t.shadow.map (fun x => { x with fp := x.fp ||| fl.2 }) }))

/-- A gang whose wait is over. -/
def endAwait (c : Ctx) (s : State) : State :=
  modGroup s c.gid (fun g => modThreads g c.gang (fun t => { t with await := none }))

/-- What a lane of the gang captured at this instruction, where it waits at it already. -/
def awaitOf (c : Ctx) (l : Nat) : Option Await := (threadOf c.g l).await.filter (fun a => a.pc == c.pc)

/-- The threads of a gang that wait at their instruction already, with what they captured when they issued it
together. -/
def awaiting (c : Ctx) : List (Ctx × Await) :=
  (c.gang.filterMap (awaitOf c)).eraseDups.map (fun a =>
    ({ c with gang := c.gang.filter (fun l => awaitOf c l == some a) }, a))

/-- The threads of a gang that issue their instruction for the first time. -/
def arriving (c : Ctx) : Ctx := { c with gang := c.gang.filter (fun l => awaitOf c l == none) }

/-- An instruction that captures its operands when it first issues: those that wait try it again, each with what
it captured, and the others issue it. -/
def withAwait (c : Ctx) (s : State) (again : Ctx → State → Await → State) (first : Ctx → State → State) : State :=
  let s := (awaiting c).foldl (fun s x => again x.1 s x.2) s
  if (arriving c).gang.isEmpty then s else first (arriving c) s

/-! ## Waiting for earlier accesses -/

/-- The lanes of a group that an outstanding access belongs to: a uniform one belongs to all. -/
def accOf (gid lane : Nat) (a : Access) : Bool := a.group == gid && (a.uniform || a.lane == lane)

/-- Whether a lane has an outstanding acquire: a later access waits for it (R247). -/
def acquiring (s : State) (g : Group) (gid lane : Nat) : Bool :=
  (coreOf s g.core).acc.any (fun a => accOf gid lane a && acquires a.order)

/-- Whether everything a group has issued before is performed for some lanes: stores acknowledged,
their loads and atomics returned, its sweeps and `BOP`s finished (R250, R404). -/
def quiet (s : State) (gid : Nat) (g : Group) (lanes : List Nat) : Bool :=
  let k := coreOf s g.core
  k.stPend == 0 && k.acc.all (fun a => !(lanes.any (fun l => accOf gid l a))) &&
    s.cores.all (fun k =>
      k.2.sweeps.all (fun w => w.cap.group ≠ gid) && k.2.bops.all (fun w => w.cap.group ≠ gid))

/-- What a `FENCE`, a release and a `BAR` do first: a marked sweep raises the format fault (R285), and
the gang waits until what was issued before is performed (R250); then `k`. -/
def whenQuiet (c : Ctx) (s : State) (lanes : List Nat) (k : State → State) : State :=
  match c.g.sweepMark with
  | some a =>
    trapLanes c (modGroup s c.gid (fun g => { g with sweepMark := none })) (cMarked a) lanes
  | none => if quiet s c.gid c.g lanes then k s else blockLanes c s c.gang .retry

/-- The issue point of an engine (R253): the gang's earlier accesses have returned, and then `k`. -/
def whenPerformed (c : Ctx) (s : State) (k : State → State) : State :=
  if (coreOf s c.g.core).acc.any (fun a => c.gang.any (fun l => accOf c.gid l a)) then
    blockLanes c s c.gang .retry
  else k s

/-- Whether two places share a byte. -/
def overlap : Place → Place → Bool
  | .phys ps, .phys qs =>
    ps.any (fun p => qs.any (fun q => p.1 < q.1 + q.2 && q.1 < p.1 + p.2))
  | .scratch b p o n, .scratch b' p' o' n' => b == b' && p == p' && o < o' + n' && o' < o + n
  | _, _ => false

/-- Whether an outstanding access of the lane meets a place (R246). -/
def meets (s : State) (g : Group) (gid lane : Nat) (p : Place) : Bool :=
  (coreOf s g.core).acc.any (fun a => accOf gid lane a && overlap a.place p)

end Sys2Proof.Machine
end

