-- ==== Sys2Proof/Machine/Affine.lean ====
section
/-! DEFINITION. Affine instructions on registers and the symbol allocator (R183..R199, R202..R204). -/

namespace Sys2Proof.Machine

/-! ## Reading and writing affine registers -/

/-- The v register that is word `w` of an affine register (R64, R123). -/
def afReg (r : Fin 4) (w : Nat) : Reg := .v (finOf 256 (192 + 16 * r.val + w))

/-- The words of an affine operand, each read by R105, from word `w` on. -/
def readAfWords (v : View) (r : Fin 4) (raw : Bool) : Nat → Nat → Sem Nat
  | 0, _ => pure 0
  | n + 1, w => do
    let x ← readVal (readReg v (afReg r w)) .af raw
    let rest ← readAfWords v r raw n (w + 1)
    pure (x + rest * 2 ^ 32)

/-- An affine operand: its 16 registers by R105, and then R118 (R190). -/
def readAf (v : View) (r : Fin 4) (raw : Bool) : Sem AfVal := do
  let x ← readAfWords v r raw 16 0
  match afRead x with
  | some a => pure a
  | none => faulting cMalformed

/-- A scalar operand under f32, with `.raw` whatever its tag; a NaN raises the affine domain fault (R105,
R189, R190). -/
def readScalar (v : View) (s : Src) (raw : Bool := false) : Sem Nat := do
  let x ← readSrc v s .f32 raw
  check (!isNan32 x) cAffine
  pure x

/-- The effect of writing an affine register: tag af in all 16 registers (R106). -/
def writeAf (d : Fin 4) (a : AfVal) : Eff :=
  { regs := writeRun (192 + 16 * d.val) .af (wordsOf 16 (afBits a)) }

/-- Deliver a finished affine result: OVF where overflow made it unbounded (R185). -/
def afDeliver (d : Fin 4) (p : AfPre) : Sem Eff := do
  if p.ovf then raiseFlags flOVF
  pure (writeAf d p.v)

/-- A result or the affine domain fault (R195). -/
def orDomain (p : Option AfPre) : Sem AfPre :=
  match p with
  | some x => pure x
  | none => faulting cAffine

/-! ## Minting (R186, R187) -/

/-- The value of `s.afnext` after a mint takes id `i`: 0 where `i` was its chunk's end, against the
current S (R186). -/
def afterMint (i s : Nat) : Nat :=
  if i = min (32 * ((i - 1) / 32) + 32) s then 0 else i + 1

/-- A result before its fresh term, with the flags raised so far. -/
structure PreRes where
  p : AfPre
  fl : Flags
  sp : AfPre
  sfl : Flags

/-- A minting computation in one lane, and in its shadow in a protected launch (R204). -/
def runPre (prot : Bool) (f : View → Sem AfPre) (v : View) : Except Cause PreRes :=
  match f v 0#7 with
  | .error e => .error e
  | .ok (p, fl) =>
    if prot then
      match f (shadowOf v) 0#7 with
      | .error _ => .error (cMismatch)
      | .ok (p', fl') => .ok ⟨p, fl, p', fl'⟩
    else .ok ⟨p, fl, p, fl⟩

/-- A lane's finished result, given the gang's id (R187). -/
def finishPre (d : Fin 4) (id : Option Nat) (r : PreRes) : LaneRes :=
  let one (p : AfPre) (fl : Flags) : Eff × Flags :=
    let q := afFinish p id
    (writeAf d q.v, fl ||| (if q.ovf then flOVF else 0#7))
  ⟨(one r.p r.fl).1, (one r.p r.fl).2, (one r.sp r.sfl).1, (one r.sp r.sfl).2⟩

/-- The results of a minting instruction committed with the gang's id. -/
def commitMint (c : Ctx) (s : State) (d : Fin 4) (rs : Map PreRes) (id : Option Nat) : State :=
  commitLanes c s (mmap (fun _ r => finishPre d id r) rs)

/-- A minting instruction (R187): the domain checks of every lane first, then at most one id for the
gang, drawn where the group holds none, and then the results. -/
def runMint (i : Instr) (d : Fin 4) (p : Pred) (us : List RegUse) (f : View → Sem AfPre)
    (s : State) : Out :=
  withGang i s (fun c => .next (
    let act := activeLanes c p
    if !act.isEmpty && !usesOk s c.g us then trapLanes c s cRange act
    else
      let rs := act.map (fun l => (l, runPre (isProt s c.g) f (viewOf c s act l)))
      match faultsOf rs with
      | (l, x) :: rest => trapLanes c s x (l :: rest.map Prod.fst)
      | [] =>
        let rs := resultsOf rs
        let need := mkeys (mfilter (fun _ r => afNeeds r.p) rs)
        if c.g.afmode = 1 ∨ need.isEmpty then commitMint c s d rs none
        else if c.g.afnext = 0 then
          blockLanes c (blockLanes c s c.gang (.draw false)) need (.draw true)
        else
          let id := c.g.afnext
          let s := commitMint c s d rs (some id)
          modGroup s c.gid (fun g => { g with afnext := afterMint id (launchOf s g.launch).symS })))

/-- The registers of an affine instruction: D, and its affine operands. -/
def useAfs (rs : List (Fin 4)) : List RegUse := rs.flatMap useAf

/-! ## Instructions -/

/-- `AFNEW` (R196). -/
def execAfnew (o : OpAfNew) (s : State) : Out :=
  runMint (.afnew o) o.d o.pred (useAf o.d ++ useSrc o.a ++ useSrc o.b)
    (fun v => do
      let a ← readScalar v o.a
      let b ← readScalar v o.b
      orDomain (afNewPre o.cw a b)) s

/-- `AFCST` of its scalar (R197). -/
def semAfcst (o : OpAfCst) (v : View) : Sem Eff := do
  let a ← readScalar v o.a
  pure (writeAf o.d (if isInf32 a then afUnbounded else { c := a }))

/-- `AFCST` (R197). -/
def execAfcst (o : OpAfCst) (s : State) : Out :=
  runRegs (.afcst o) false o.pred (useAf o.d ++ useSrc o.a) (semAfcst o) s

/-- A sum or difference of affine operands (R192). -/
def semAfBin (sy : Int) (o : OpAfBin) (v : View) : Sem Eff := do
  let x ← readAf v o.a o.raw
  let y ← readAf v o.b o.raw
  afDeliver o.d (afLinearDone (afLinear x y 0x3F800000 0 sy))

/-- `AFADD` (R192). -/
def execAfadd (o : OpAfBin) (s : State) : Out :=
  runRegs (.afadd o) false o.pred (useAfs [o.d, o.a, o.b]) (semAfBin 1 o) s

/-- `AFSUB` (R192). -/
def execAfsub (o : OpAfBin) (s : State) : Out :=
  runRegs (.afsub o) false o.pred (useAfs [o.d, o.a, o.b]) (semAfBin (-1) o) s

/-- `AFSCL` of its operands (R192). -/
def semAfscl (o : OpAfScl) (v : View) : Sem Eff := do
  let x ← readAf v o.a o.raw
  let a ← readScalar v o.s o.raw
  let b ← readScalar v o.t o.raw
  afDeliver o.d (afLinearDone (afLinear x {} a b 0))

/-- `AFSCL` (R192). -/
def execAfscl (o : OpAfScl) (s : State) : Out :=
  runRegs (.afscl o) false o.pred (useAfs [o.d, o.a] ++ useSrc o.s ++ useSrc o.t) (semAfscl o) s

/-- `AFMUL` (R193). -/
def execAfmul (o : OpAfBin) (s : State) : Out :=
  runMint (.afmul o) o.d o.pred (useAfs [o.d, o.a, o.b])
    (fun v => do
      let x ← readAf v o.a o.raw
      let y ← readAf v o.b o.raw
      pure (afMulPre x y)) s

/-- `AFSQR` (R193). -/
def execAfsqr (o : OpAfUn) (s : State) : Out :=
  runMint (.afsqr o) o.d o.pred (useAfs [o.d, o.a])
    (fun v => do
      let x ← readAf v o.a o.raw
      pure (afSqrPre x)) s

/-- `AFRCP` (R194, R195). -/
def execAfrcp (o : OpAfUn) (s : State) : Out :=
  runMint (.afrcp o) o.d o.pred (useAfs [o.d, o.a])
    (fun v => do
      let x ← readAf v o.a o.raw
      orDomain (afRcpPre x)) s

/-- `AFSQRT` (R194, R195). -/
def execAfsqrt (o : OpAfUn) (s : State) : Out :=
  runMint (.afsqrt o) o.d o.pred (useAfs [o.d, o.a])
    (fun v => do
      let x ← readAf v o.a o.raw
      orDomain (afSqrtPre x)) s

/-- `AFEXP` (R194). -/
def execAfexp (o : OpAfUn) (s : State) : Out :=
  runMint (.afexp o) o.d o.pred (useAfs [o.d, o.a])
    (fun v => do
      let x ← readAf v o.a o.raw
      pure (afExpPre x)) s

/-- `AFCND` (R198): with TOR = 1 nothing is ever minted. -/
def execAfcnd (o : OpAfCnd) (s : State) : Out :=
  runMint (.afcnd o) o.d o.pred (useAfs [o.d, o.a] ++ useSrc o.k)
    (fun v => do
      let x ← readAf v o.a o.raw
      let k ← readSrc v o.k .n32 o.raw
      pure (afCndPre x k o.tor)) s

/-- `AFRNG` of its operand (R199). -/
def semAfrng (o : OpAfRng) (v : View) : Sem Eff := do
  let x ← readAf v o.a o.raw
  let lo := if x.unb then 0xFF800000 else afLoOut x
  let hi := if x.unb then 0x7F800000 else afHi x
  pure { regs := writeRun (regNum o.d) .f32 [lo, hi] }

/-- `AFRNG` (R199). -/
def execAfrng (o : OpAfRng) (s : State) : Out :=
  runRegs (.afrng o) false o.pred (useReg o.d 2 ++ useAf o.a) (semAfrng o) s

/-- The field that `AFGET` delivers, and its flag (R199). -/
def afField (x : AfVal) (selg id : Nat) : Rounded :=
  match selg with
  | 0 => if x.unb then ⟨0x7FC00000, flINV⟩ else ⟨x.c, 0#7⟩
  | 1 => ⟨if x.unb then 0x7F800000 else x.r, 0#7⟩
  | 2 => if x.unb then ⟨0x7FC00000, flINV⟩ else ⟨if id = 0 then 0 else afCoefOf x id, 0#7⟩
  | _ => ⟨if x.unb then 0x10 else x.terms.length + (if x.folded then 32 else 0), 0#7⟩

/-- `AFGET` of its operands (R199). -/
def semAfget (o : OpAfGet) (v : View) : Sem Eff := do
  let x ← readAf v o.a o.raw
  let id ← if o.selg = 2 then readSrc v o.b .n32 o.raw else pure 0
  let r ← delivered (afField x o.selg.val id)
  pure (writeEff o.d (if o.selg = 3 then .n32 else .f32) r)

/-- `AFGET` (R199). -/
def execAfget (o : OpAfGet) (s : State) : Out :=
  runRegs (.afget o) false o.pred
    (useReg o.d ++ useAf o.a ++ (if o.selg = 2 then useSrc o.b else [])) (semAfget o) s

/-! ## The symbol allocator (R186, R202) -/

/-- A chunk drawn for a launch: its first id, or none where the draw fails (R186). -/
def drawChunk (l : Launch) : Option Nat × Launch :=
  if l.symNext > l.symS then (none, l) else (some l.symNext, { l with symNext := l.symNext + 32 })

/-- The end of the last chunk drawn, or 0 (R202). -/
def lastChunkEnd (l : Launch) : Nat := if l.symNext = 1 then 0 else min (l.symNext - 1) l.symS

/-- What `AFSYM` answers and does: D, the launch, and the group's afnext and afmode; or the
illegal-operation fault (R202). -/
def afsymStep (sop a : Nat) (l : Launch) (g : Group) : Option (Nat × Launch × Nat × Nat) :=
  match sop with
  | 0 =>
    if a < 1 ∨ a > 4095 ∨ a < lastChunkEnd l then none
    else some (l.symS, { l with symS := a }, g.afnext, g.afmode)
  | 1 =>
    let (d, l') := drawChunk l
    some (d.getD 0, l', d.getD 0, g.afmode)
  | 2 => if a > 1 then none else some (g.afmode, l, g.afnext, a)
  | _ => some (l.symS - (l.symNext - 1), l, g.afnext, g.afmode)

/-- `AFSYM` (R202): uniform; it closes an idempotent region (R204). -/
def execAfsym (o : OpAfSym) (s : State) : Out :=
  withGang (.afsym o) s (fun c => .next (
    if !predVal c.g.uni.q o.pred then advance c s c.gang
    else if !usesOk s c.g (useReg o.d ++ useSrc o.a) then trapLanes c s cRange c.gang
    else
      let rd (v : View) : Sem Nat :=
        if o.sop = 0 ∨ o.sop = 2 then readSrc v o.a .n32 else pure 0
      match rd (viewOf c s c.gang (lowest c.gang)) 0#7 with
      | .error x => trapLanes c s x c.gang
      | .ok (a, fl) =>
        match afsymStep o.sop.val a (launchOf s c.g.launch) c.g with
        | none => trapLanes c s cIllegalOp c.gang
        | some (d, l, afnext, afmode) =>
          let e := writeEff o.d .n32 d
          let s := setLaunch s c.g.launch l
          let s := commitUni c s ⟨e, fl, e, fl⟩
          let s := closeRegions c s c.gang
          modGroup s c.gid (fun g => { g with afnext := afnext, afmode := afmode })))

/-! ## SYMBOL_DRAW (R186, R187) -/

/-- The lanes of a group's lowest gang that waits for a draw. -/
def drawingGang (g : Group) : List Nat :=
  let ls := lanesWhere g drawing
  match least (fun l => [(threadOf g l).pc.toNat]) ls with
  | none => []
  | some l => ls.filter (fun k => (threadOf g k).pc == (threadOf g l).pc)

/-- The allocator serves a group's draw: the chunk's first id, and the gang issues again; a failed
draw raises the symbol-exhaustion trap at the minting instruction (R187). A group that has come to
hold ids meanwhile draws nothing, and one that is not on a running core waits (R191, R403). -/
def execSymbolDraw (gid : Nat) (s : State) : Out :=
  match mfind s.groups gid with
  | none => .refused .notEnabled
  | some g =>
    let lanes := drawingGang g
    let c : Ctx := ⟨gid, g, lanes, (threadOf g (lowest lanes)).pc⟩
    if lanes.isEmpty || g.where_ != .resident || (coreOf s g.core).stopped then .refused .notEnabled
    else if g.afnext ≠ 0 then .next (readyLanes s gid lanes)
    else
      match drawChunk (launchOf s g.launch) with
      | (none, _) =>
        let need := lanes.filter (fun l => (threadOf g l).run == .blocked (.draw true))
        .next (trapLanes c (readyLanes s gid lanes) cSymbols need)
      | (some n, l) =>
        let s := setLaunch s g.launch l
        let s := modGroup s gid (fun g => { g with afnext := n })
        let s := closeRegions c s lanes
        .next (readyLanes s gid lanes)

end Sys2Proof.Machine
end

