-- ==== Sys2Proof/Machine/Header.lean ====
section
/-! DEFINITION. Fetching instruction words, entering blocks by their headers, reconvergence and the spin
detector (R36..R39, R52..R59, R396). -/

namespace Sys2Proof.Machine

/-! ## Translation misses (R239) -/

/-- The requests that wait for walks in a slice. -/
def walkRequests (x : Slice) : Nat :=
  (x.walks ++ x.waiting).foldl (fun n w => n + w.groups.length) 0

/-- A miss joined to the walk of its page, or a new walk; beyond 32 running walks it waits, and
beyond 4,096 requests none is taken (R239). -/
def requestWalk (s : State) (slice part asid page gid : Nat) : State :=
  modSlice s slice (fun x =>
    let same (w : Walk) := w.part == part && w.asid == asid && w.page == page
    let join (w : Walk) : Walk :=
      if w.groups.contains gid then w else { w with groups := w.groups ++ [gid] }
    if walkRequests x ≥ 4096 then x
    else if x.walks.any same then { x with walks := modFirst same join x.walks }
    else if x.waiting.any same then { x with waiting := modFirst same join x.waiting }
    else if x.walks.length < 32 then { x with walks := x.walks ++ [⟨part, asid, page, [gid]⟩] }
    else { x with waiting := x.waiting ++ [⟨part, asid, page, [gid]⟩] })

/-- A miss of a gang: the walk is requested and the lanes wait for it; where the request places are
full they wait and try again (R239). `vas` names the lanes that need the page, each with its
address. -/
def missLanes (c : Ctx) (s : State) (lanes : List Nat) (page : Nat) (vas : Map DWord) : State :=
  let l := launchOf s c.g.launch
  let full := walkRequests (sliceOf s (coreSlice c.g.core)) ≥ 4096
  let s := requestWalk s (coreSlice c.g.core) l.part l.asid page c.gid
  if full then blockLanes c s lanes .retry
  else
    modGroup s c.gid (fun g => mapThreads g (fun l t =>
      if lanes.contains l then { t with run := .blocked (.walk page (mfind vas l)) } else t))

/-! ## Fetching (R52, R53) -/

/-- What a fetch gives. -/
inductive Fetch
  | word (w : DWord)
  | miss (page : Nat)
  | fault
  deriving DecidableEq, Repr

/-- The word a gang fetches at a physical address: where a store has changed it, the new word is
certain only after an instruction invalidation by the core and then a branch by every lane, and it stays
so; else it is the old word or the new one (R53). -/
def fetchedWord (s : State) (c : Ctx) (pa : Nat) : DWord :=
  let cur := readWord64 s pa
  match mfind s.stale (pa / 8) with
  | none => cur
  | some o =>
    if c.gang.all (fun l => (threadOf c.g l).sureAt > o.time) then cur
    else if freeChoice s 1024 then cur else o.old

/-- The fetch of a word for a gang (R52). -/
def fetchCode (s : State) (c : Ctx) (va : DWord) : Fetch :=
  let l := launchOf s c.g.launch
  match xlate s c.g (threadOf c.g (lowest c.gang)).walked l.part l.asid l.level va.toNat .exec 512 with
  | .ok pa _ => .word (fetchedWord s c pa)
  | .miss => .miss (va.toNat / 4096)
  | .fault => .fault

/-- Whether a PC lies in the global window at an instruction address (R52). -/
def pcOk (pc : DWord) : Bool := pc.toNat < 2 ^ 56 && pc.toNat % 8 == 0

/-- Whether a thread's PC lies at an instruction of the block it has entered (R55). -/
def inBlock (t : Thread) : Bool :=
  t.hdr.toNat < t.pc.toNat && t.pc.toNat ≤ t.hdr.toNat + 8 * hdrLen t.hword

/-- Whether a thread stands at the last word of its block (R55). -/
def atLast (t : Thread) : Bool := t.pc.toNat == t.hdr.toNat + 8 * hdrLen t.hword

/-! ## Reconvergence (R36, R37) -/

/-- Whether a held lane's promise is met: every thread of its split has ended or is held at the same
header. -/
def promiseMet (g : Group) (sp : Split) : Bool :=
  (lanesOfMask sp.set).all (fun l =>
    let t := threadOf g l
    t.run == .ended || (t.run == .held && t.split == some sp && t.pc == sp.hdr))

/-- A held thread released: it enters the header without a further hold. -/
def releaseThread (t : Thread) : Thread :=
  if t.run = .held then { t with run := .ready, split := none } else { t with split := none }

/-- The promise of a split lapses for the whole split (R37). -/
def lapse (g : Group) (sp : Split) : Group :=
  mapThreads g (fun _ t => if t.split = some sp then releaseThread t else t)

/-- The promises of some lanes' splits lapse (R37). -/
def lapseLanes (g : Group) (lanes : List Nat) : Group :=
  lanes.foldl (fun g l =>
    match (threadOf g l).split with
    | some sp => lapse g sp
    | none => g) g

/-- Held threads whose promise is met are released together (R37). -/
def releaseMet (g : Group) : Group :=
  mapThreads g (fun _ t =>
    match t.split with
    | some sp => if t.run = .held ∧ promiseMet g sp = true then releaseThread t else t
    | none => t)

/-! ## The spin detector (R38) -/

/-- The registers of a reference entry compared with those of now: v, p and ix of the thread, and the
k and q registers that its path has written. -/
def sameRegs (g : Group) (t : Thread) (r : SpinRef) : Bool :=
  t.rf.v == r.rf.v && t.rf.p == r.rf.p && t.rf.ix0 == r.rf.ix0 && t.rf.ix1 == r.rf.ix1 &&
  t.rf.ix2 == r.rf.ix2 && t.rf.ix3 == r.rf.ix3 &&
  r.kSet.all (fun n => mget {} g.uni.k n == mget {} r.uni.k n) &&
  r.qSet.all (fun n => predBit g.uni.q n == predBit r.uni.q n)

/-- Whether a path that enters a header spins there. -/
def spins (g : Group) (lanes : List Nat) (hdr : DWord) : Bool :=
  lanes.all (fun l =>
    let t := threadOf g l
    match t.spin with
    | some r => r.hdr == hdr && !r.effect && sameRegs g t r
    | none => false)

/-- A thread's count at the beginning of a demotion: it falls by 1 at each of 256 issue opportunities of
its group, and the demotion ends from 1 (R38). -/
def demotion : Nat := 257

/-- The spin test of a path that enters a header: a spinning path is demoted, and its split's promise
lapses; another entry becomes the reference (log 38, DEDUCED). -/
def spinTest (g : Group) (lanes : List Nat) (hdr : DWord) : Group :=
  if lanes.any (fun l => (threadOf g l).demote > 0) then g
  else if spins g lanes hdr then
    lapseLanes (modThreads g lanes (fun t => { t with demote := demotion, spin := none })) lanes
  else modThreads g lanes (fun t => { t with spin := some { hdr := hdr, rf := t.rf, uni := g.uni } })

/-! ## Entering a block -/

/-- The checkpoint of a region entry (R396). -/
def openRegion (g : Group) (hdr w : DWord) (t : Thread) : Thread :=
  if hdrReg w then
    { t with region := some { hdr := hdr, live := hdrLive w, rf := t.rf, shadow := t.shadow,
                              afnext := g.afnext } }
  else t

/-- A thread inside the block whose header it has consumed. -/
def enterThread (hdr w : DWord) (t : Thread) : Thread :=
  { t with hdr := hdr, hword := w, pc := hdr + 8#64, split := if t.split.any (fun sp => sp.hdr == hdr)
      then none else t.split }

/-- Lanes that are past every check enter the block: the spin test, the region entry, and the first
instruction. -/
def enterLanes (s : State) (gid : Nat) (lanes : List Nat) (hdr w : DWord) : State :=
  modGroup s gid (fun g =>
    let g := spinTest g lanes hdr
    modThreads g lanes (fun t => enterThread hdr w (openRegion g hdr w t)))

/-- Lanes that reach a header: those whose split reconverges here are held until the promise is met
(R37), the others enter. -/
def arriveLanes (s : State) (gid : Nat) (lanes : List Nat) (hdr w : DWord) : State :=
  let g := groupOf s gid
  let hold := lanes.filter (fun l => (threadOf g l).split.any (fun sp => sp.hdr == hdr))
  let go := lanes.filter (fun l => !hold.contains l)
  let g := releaseMet (modThreads g hold (fun t => { t with run := .held }))
  let s := modGroup s gid (fun _ => g)
  let freed := hold.filter (fun l => (threadOf g l).run == .ready)
  let others := lanesWhere g (fun t => t.run == .ready && t.pc == hdr && !inBlock t)
  let all := sortNat (go ++ freed ++ others)
  if all.isEmpty then s else enterLanes s gid all hdr w

/-- Whether a thread may enter a window handler: the window engine's own entry (R57). -/
def handlerStart (t : Thread) : Bool := t.act.isSome && t.hword == 0#64

/-- Whether no access of a gang is outstanding: a region's checkpoint holds what its older loads deliver
(R396). -/
def quietLoads (s : State) (c : Ctx) : Bool :=
  !(coreOf s c.g.core).acc.any (fun a => c.gang.any (fun l => accOf c.gid l a))

/-- The block that holds an instruction address: its header, which stands at most 250 words before it
(R54, R55). -/
def blockOfPc (rd : DWord → Option DWord) (pc : DWord) : Nat → Option (DWord × DWord)
  | 0 => none
  | n + 1 =>
    match blockOfPc rd pc n with
    | some b => some b
    | none =>
      let h := pc - BitVec.ofNat 64 (8 * (n + 1))
      if 8 * (n + 1) ≤ pc.toNat then
        (match rd h with
         | some w => if isHeader w then some (h, w) else none
         | none => none)
      else none

/-- The word of a thread whose place in its block is not known yet, because the page of its PC did not
translate when it resumed (R388). -/
def resumeMark : DWord := 2#64

/-- Where a thread stands that resumes at an address: at a header, which it then enters, inside a block,
or nowhere, which is a control-target fault when it is next fetched (R388). -/
def resumeAt (rd : DWord → Option DWord) (pc : DWord) (t : Thread) : Thread :=
  let out : Thread := { t with pc := pc, hdr := pc, hword := 1#64 }
  match rd pc with
  | none => { out with hword := resumeMark }
  | some w =>
    if isHeader w then out
    else
      match blockOfPc rd pc 250 with
      | some (h, hw) =>
        if hdrOk hw && pc.toNat ≤ h.toNat + 8 * hdrLen hw then { t with pc := pc, hdr := h, hword := hw }
        else out
      | none => out

/-- A path at a word that is no header: it goes on inside a block where it resumes (R388), and else it raises
the control-target fault (R57). -/
def midBlock (s : State) (c : Ctx) : State :=
  let l := launchOf s c.g.launch
  let back (t : Thread) : Thread := resumeAt (unitFetch s l.part l.asid l.level) c.pc t
  if c.gang.all (fun l => (threadOf c.g l).hword == resumeMark) &&
      c.gang.all (fun l => inBlock (back (threadOf c.g l))) then
    modGroup s c.gid (fun g => modThreads g c.gang back)
  else trapLanes c s (cTarget c.pc) c.gang

/-- A path of ready threads at a word outside their block enters it as a header (R54..R59), with the
faults in the order of R79. -/
def enterPath (s : State) (c : Ctx) : State :=
  if !pcOk c.pc then trapLanes c s (cTarget c.pc) c.gang
  else
    match fetchCode s c c.pc with
    | .miss page => missLanes c s c.gang page (c.gang.map (fun l => (l, c.pc)))
    | .fault => trapLanes c s (cTranslation c.pc) c.gang
    | .word w =>
      if !isHeader w then midBlock s c
      else if hdrHnd w && !c.gang.all (fun l => handlerStart (threadOf c.g l)) then
        trapLanes c s (cTarget c.pc) c.gang
      else if !hdrOk w then trapLanes c s cIllegal c.gang
      else if hdrLive w > declaredV s c.g then trapLanes c s cRange c.gang
      else if hdrReg w && !quietLoads s c then blockLanes c s c.gang .retry
      else arriveLanes s c.gid c.gang c.pc w

/-- The lanes of a group's lowest path that is ready to enter a block. -/
def enteringPath (g : Group) : List Nat :=
  let ls := lanesWhere g (fun t => t.run == .ready && !inBlock t)
  match least (fun l => [(threadOf g l).pc.toNat]) ls with
  | none => []
  | some l => ls.filter (fun k => (threadOf g k).pc == (threadOf g l).pc)

/-- Whether a group runs: resident and not parked. -/
def running (g : Group) : Bool := g.where_ == .resident && g.park == .none

/-- The paths of a group that stand at a block's entry enter it, one after another. A header takes no
issue slot (R54) (log 18, DEDUCED). -/
def settle (s : State) (gid : Nat) : Nat → State
  | 0 => s
  | fuel + 1 =>
    match mfind s.groups gid with
    | none => s
    | some g =>
      if !running g then s
      else
        let g' := releaseMet g
        let ls := enteringPath g'
        if ls.isEmpty then modGroup s gid (fun _ => g')
        else
          let s := modGroup s gid (fun _ => g')
          settle (enterPath s ⟨gid, g', ls, (threadOf g' (lowest ls)).pc⟩) gid fuel

end Sys2Proof.Machine
end

