-- ==== Sys2Proof/Machine/Access.lean ====
section
/-! DEFINITION. Where the lanes of a memory instruction go: addresses checked and translated for the
whole gang before any access is performed (R229..R232, R258..R260). -/

namespace Sys2Proof.Machine

/-- A resolved access of one lane. -/
structure Spot where
  lane : Nat
  va : DWord
  place : Place
  pt : PageType
  commons : Bool
  deriving DecidableEq, Repr

/-- The accesses of a gang: every one resolved, a translation missing, or a fault of some lanes. -/
inductive Resolved
  | spots (l : List Spot)
  | miss (page : Nat) (vas : Map DWord)
  | trap (x : Cause) (lanes : List Nat)

/-- An address checked for its window and its alignment, and translated: the address-space fault comes
before the alignment fault (R79). -/
def locateAligned (s : State) (g : Group) (lane : Nat) (uniform : Bool) (va : DWord) (size : Nat)
    (u : PageUse) : Locate :=
  match locate s g lane uniform (BitVec.ofNat 64 (va.toNat / size * size)) size u with
  | .bad x => .bad { x with addr := va }
  | r => if va.toNat % size = 0 then r else .bad (cAlign va)

/-- The same for an offset of the block's grant on the issuing core (R258). -/
def locateGrant (s : State) (g : Group) (off size : Nat) : Locate :=
  match locateOffset s g (off / size * size) size with
  | .bad x => .bad { x with addr := BitVec.ofNat 64 off }
  | r => if off % size = 0 then r else .bad (cAlign (BitVec.ofNat 64 off))

/-- The outcomes of a gang's lanes put together: value faults first, then translation faults, then
misses (log 16, DEDUCED). -/
def gather (rs : List (Nat × DWord × Locate)) : Resolved :=
  let bads := rs.filterMap (fun r => match r.2.2 with | .bad x => some (r.1, x) | _ => none)
  let faults := rs.filterMap (fun r => match r.2.2 with | .fault a => some (r.1, a) | _ => none)
  let misses := rs.filterMap (fun r => match r.2.2 with | .miss a => some (r.1, a) | _ => none)
  let spots := rs.filterMap (fun r =>
    match r.2.2 with
    | .at p pt cm => some ⟨r.1, r.2.1, p, pt, cm⟩
    | _ => none)
  match bads, faults, misses with
  | (_, x) :: _, _, _ => .trap x (bads.map Prod.fst)
  | [], (_, a) :: _, _ => .trap (cTranslation (BitVec.ofNat 64 a)) (faults.map Prod.fst)
  | [], [], (_, a) :: _ =>
    .miss (a / 4096) ((misses.filter (fun x => x.2 / 4096 == a / 4096)).map
      (fun x => (x.1, BitVec.ofNat 64 x.2)))
  | [], [], [] => .spots spots

/-- The accesses of some lanes at generic addresses. -/
def resolve (s : State) (c : Ctx) (uniform : Bool) (size : Nat) (u : PageUse)
    (vas : List (Nat × DWord)) : Resolved :=
  gather (vas.map (fun x => (x.1, x.2, locateAligned s c.g x.1 uniform x.2 size u)))

/-- The accesses of some lanes at offsets of their block's grant. -/
def resolveGrant (s : State) (c : Ctx) (size : Nat) (offs : List (Nat × Nat)) : Resolved :=
  gather (offs.map (fun x => (x.1, BitVec.ofNat 64 x.2, locateGrant s c.g x.2 size)))

/-- A gang's accesses resolved: a miss waits for its walk, a fault is delivered, and `k` continues. -/
def withSpots (c : Ctx) (s : State) (r : Resolved) (k : List Spot → State) : State :=
  match r with
  | .miss page vas => missLanes c s c.gang page vas
  | .trap x lanes => trapLanes c s x lanes
  | .spots l => k l

/-- Whether an access waits at issue: for an outstanding acquire of its thread (R247), for an
outstanding access of its thread to the same bytes (R246), or, on a device or strongly ordered page, for
every earlier access of its thread, which may yet fault (R236, R265). -/
def mustWait (s : State) (c : Ctx) (x : Spot) : Bool :=
  acquiring s c.g c.gid x.lane || meets s c.g c.gid x.lane x.place ||
  ((x.pt == .strong || x.pt == .device) && (coreOf s c.g.core).acc.any (accOf c.gid x.lane))

/-- The accesses of a gang's lanes: a uniform one acts for every lane of the gang. -/
def actingSpots (c : Ctx) (uniform : Bool) (xs : List Spot) : List Spot :=
  if uniform then xs.flatMap (fun x => c.gang.map (fun l => { x with lane := l })) else xs

/-- The accesses of a gang held at issue while one of them must wait. -/
def whenFree (c : Ctx) (s : State) (xs : List Spot) (k : State → State) (uniform : Bool := false) : State :=
  if (actingSpots c uniform xs).any (mustWait s c) then blockLanes c s c.gang .retry else k s

/-- The lines that a place touches. -/
def placeLines : Place → List Nat
  | .phys ps => ps.flatMap (fun p =>
      (List.range (lineOf (p.1 + p.2 - 1) - lineOf p.1 + 1)).map (fun i => lineOf p.1 + i))
  | .scratch .. => []

/-- Reads that are performed at once: where they would read lines marked poisoned, their lanes consume
the error (R395). Which memory reported it is not recorded. -/
def unpoisoned (c : Ctx) (s : State) (xs : List Spot) (k : State → State) : State :=
  match xs.filter (fun x => (placeLines x.place).any s.poison.contains) with
  | [] => k s
  | x :: rest =>
    trapLanes c s { cls := 0x12, sub := if freeChoice s 2048 then 2 else 3, addr := x.va, detail := some 0 }
      (x.lane :: rest.map (fun y => y.lane))

/-- Whether an address lies in the private window. -/
def isPrivate (va : DWord) : Bool := va.toNat / 2 ^ 56 == 0xFD

/-- Whether an address lies in the global window. -/
def isGlobal (va : DWord) : Bool := va.toNat / 2 ^ 56 == 0

end Sys2Proof.Machine
end

