-- ==== Sys2Proof/Machine/Control.lean ====
section
/-! DEFINITION. Branches, calls, returns, yields and barriers (R159..R164, R376..R378). -/

namespace Sys2Proof.Machine

/-! ## Targets (R57, R59, R160) -/

/-- Whether an address may be branched to. -/
inductive Target
  | ok
  | bad
  | fault
  | miss (page : Nat)
  deriving DecidableEq, Repr

/-- The check of a branch target: a header word that is no handler entry, in the global window. -/
def targetOf (s : State) (c : Ctx) (a : DWord) : Target :=
  if !pcOk a then .bad
  else
    match fetchCode s c a with
    | .miss page => .miss page
    | .fault => .fault
    | .word w => if isHeader w && !hdrHnd w then .ok else .bad

/-- Whether the word at an address is a header, for the reconvergence block of a divergent branch. -/
def reconvergeOf (s : State) (c : Ctx) (a : DWord) : Target :=
  if !pcOk a then .bad
  else
    match fetchCode s c a with
    | .miss page => .miss page
    | .fault => .fault
    | .word w => if isHeader w then .ok else .bad

/-- The targets of some lanes checked before any thread changes its PC (R160) (log 18, DEDUCED). -/
def withTargets (c : Ctx) (s : State) (dest : Map DWord) (k : State → State) : State :=
  let rs := dest.map (fun d => (d.1, d.2, targetOf s c d.2))
  let pick (t : Target) := rs.filter (fun r => r.2.2 == t)
  let miss := rs.filterMap (fun r => match r.2.2 with | .miss p => some (r.1, p, r.2.1) | _ => none)
  match pick .fault, pick .bad, miss with
  | (l, a, _) :: rest, _, _ => trapLanes c s (cTranslation a) (l :: rest.map Prod.fst)
  | [], (l, a, _) :: rest, _ => trapLanes c s (cTarget a) (l :: rest.map Prod.fst)
  | [], [], (_, page, _) :: _ =>
    missLanes c s c.gang page ((miss.filter (fun m => m.2.1 == page)).map (fun m => (m.1, m.2.2)))
  | [], [], [] => k s

/-- The PC of a lane after a branch. -/
def nextPc (c : Ctx) (dest : Map DWord) (lane : Nat) : DWord := (mfind dest lane).getD (c.pc + 8#64)

/-- Whether a branch diverges: the gang's threads reach more than one PC (R160). -/
def diverges (c : Ctx) (dest : Map DWord) : Bool :=
  match c.gang with
  | [] => false
  | l :: ls => ls.any (fun k => nextPc c dest k != nextPc c dest l)

/-- The threads of the gang at their next PCs (R53, R160). -/
def moveLanes (c : Ctx) (s : State) (dest : Map DWord) : State :=
  modGroup s c.gid (fun g => mapThreads g (fun l t =>
    if c.gang.contains l then
      match mfind dest l with
      | some a => { transferTo a t with sureAt := (coreOf s g.core).iinvAt }
      | none => { t with pc := nextPc c dest l }
    else t))

/-- The split records of a divergent branch: earlier ones lapse (R36, R37). -/
def splitLanes (c : Ctx) (s : State) (sp : Option Split) : State :=
  modGroup s c.gid (fun g =>
    modThreads (lapseLanes g c.gang) c.gang (fun t => { t with split := sp }))

/-- The DIV bit and the reconvergence block of a branch that diverges checked (R36, R57, R160): `k` goes on
with the split that the branch makes, where it makes one. -/
def withSplit (c : Ctx) (s : State) (dest : Map DWord) (k : Option (Option Split) → State) : State :=
  if !diverges c dest then k none
  else
    let t := threadOf c.g (lowest c.gang)
    let rcv := t.hdr + BitVec.ofInt 64 (8 * hdrRcv t.hword)
    if !hdrDiv t.hword then trapLanes c s (cTarget c.pc) c.gang
    else if hdrRcv t.hword = 0 then k (some none)
    else
      match reconvergeOf s c rcv with
      | .miss page => missLanes c s c.gang page (c.gang.map (fun l => (l, rcv)))
      | .fault => trapLanes c s (cTranslation rcv) c.gang
      | .bad => trapLanes c s (cTarget rcv) c.gang
      | .ok => k (some (some ⟨rcv, maskOfLanes c.gang⟩))

/-- The state with the split that a branch makes. -/
def makeSplit (c : Ctx) (s : State) : Option (Option Split) → State
  | none => s
  | some sp => splitLanes c s sp

/-- A branch of the gang past its own checks: the targets, the DIV bit and the reconvergence block are
checked (R36, R57, R160), then `k` has the instruction's other effects and every thread moves. -/
def jump (c : Ctx) (s : State) (dest : Map DWord) (k : State → State) : State :=
  withTargets c s dest (fun s =>
    withSplit c s dest (fun sp => moveLanes c (k (makeSplit c s sp)) dest))

/-- The targets of a branch that is not the last word of its block: one that may not be branched to is
reported before the misplaced word is (R55, R79) (log 16, DEDUCED). -/
def misplaced (c : Ctx) (s : State) (dest : Map DWord) : State :=
  match dest.filter (fun d => targetOf s c d.2 == .bad) with
  | [] => trapLanes c s cIllegal c.gang
  | (l, a) :: rest => trapLanes c s (cTarget a) (l :: rest.map Prod.fst)

/-- A branch instruction: it may stand only as the last word of its block (R55). `tg` gives the targets that
its lanes name. -/
def withBranch (i : Instr) (s : State) (tg : Ctx → Map DWord) (k : Ctx → State) : Out :=
  withGang i s (fun c => .next (
    if atLast (threadOf c.g (lowest c.gang)) then k c else misplaced c s (tg c)))

/-- The value of a branch's predicate (R65, R159). -/
def branchPred (qpred : Bool) (p : Pred) (v : View) : Bool :=
  if qpred then predVal v.uni.q p else predVal v.rf.p p

/-- The lanes of the gang whose branch predicate is true. -/
def branchLanes (c : Ctx) (s : State) (f : View → Bool) : List Nat :=
  c.gang.filter (fun l => f (viewOf c s c.gang l))

/-- A branch of the gang: `f` reads a lane's target where it transfers. Targets are checked before
value faults are reported (R79). -/
def branch (c : Ctx) (s : State) (us : List RegUse) (taken : View → Bool)
    (f : View → Sem DWord) : State :=
  let act := branchLanes c s taken
  if !act.isEmpty && !usesOk s c.g us then trapLanes c s cRange act
  else
    let g (v : View) : Sem (Option DWord) :=
      if taken v then do
        let a ← f v
        pure (some a)
      else pure none
    let rs := readLanes c s .compare act c.gang g
    let ok := resultsOf rs
    let dest := ok.filterMap (fun r => r.2.1.map (fun a => (r.1, a)))
    match faultsOf rs with
    | [] => jump c s dest (fun s => commitLanes c s (flagsOnly ok))
    | (l, x) :: rest => withTargets c s dest (fun s => trapLanes c s x (l :: rest.map Prod.fst))

/-- The targets that the transferring lanes of a gang name, where their registers can be read. -/
def namedTargets (c : Ctx) (s : State) (us : List RegUse) (lanes : List Nat) (f : View → Sem DWord) : Map DWord :=
  if usesOk s c.g us then
    lanes.filterMap (fun l =>
      match f (viewOf c s lanes l) 0#7 with
      | .ok (a, _) => some (l, a)
      | .error _ => none)
  else []

/-- A displacement in words from the instruction's own address (R159). -/
def dispTarget (c : Ctx) (disp : BitVec 32) : DWord := c.pc + (disp.signExtend 64) * 8#64

/-- `BRA` (R159, R160). -/
def execBra (o : OpBra) (s : State) : Out :=
  withBranch (.bra o) s
    (fun c => namedTargets c s [] (branchLanes c s (branchPred o.qpred o.pred)) (fun _ => pure (dispTarget c o.disp)))
    (fun c =>
    branch c s [] (branchPred o.qpred o.pred) (fun _ => pure (dispTarget c o.disp)))

/-- `BRI` (R159, R160). -/
def execBri (o : OpBri) (s : State) : Out :=
  withBranch (.bri o) s
    (fun c => namedTargets c s (useReg o.a 2) (branchLanes c s (branchPred o.qpred o.pred)) (fun v => readPair v o.a))
    (fun c =>
    branch c s (useReg o.a 2) (branchPred o.qpred o.pred) (fun v => readPair v o.a))

/-! ## The call stack (R161) -/

/-- A stack address: the private window, its bounds and its alignment, before its translation. -/
def stackSpots (s : State) (c : Ctx) (u : PageUse) (vas : List (Nat × DWord)) : Resolved :=
  match vas.filter (fun x => !isPrivate x.2) with
  | (l, a) :: rest => .trap (cWindow a) (l :: rest.map Prod.fst)
  | [] => resolve s c false 8 u vas

/-- The stack pointer written by a call or a return, with the flags of reading it. -/
def stackRes (sp : Reg) (rs : Map ((DWord × DWord) × Flags × Flags)) (delta : DWord) : Map LaneRes :=
  mmap (fun _ r =>
    let e := writeEff sp .n64 (r.1.2 + delta).toNat
    ⟨e, r.2.1, e, r.2.2⟩) rs

/-- The return address pushed by each calling lane: a private store (R161, R242). -/
def pushReturn (c : Ctx) (ret : DWord) (s : State) (xs : List Spot) : State :=
  let s := xs.foldl (fun s x =>
    storePlace s (groupOf s c.gid) x.place x.pt true x.commons .blk false 8 ret.toNat) s
  modCore s c.g.core (fun k => { k with stPend := k.stPend + xs.length })

/-- The target of a `CALL`. -/
def readTarget (c : Ctx) (o : OpCall) (v : View) : Sem DWord :=
  match o.target with
  | .direct d => pure (dispTarget c d)
  | .indirect r => readPair v r

/-- `CALL` of its operands: the target and the stack pointer. -/
def readCall (c : Ctx) (o : OpCall) (v : View) : Sem (DWord × DWord) := do
  let a ← readTarget c o v
  let sp ← readPair v o.sp
  pure (a, sp)

/-- The registers that the target of a `CALL` names. -/
def useTarget (o : OpCall) : List RegUse :=
  match o.target with
  | .direct _ => []
  | .indirect r => useReg r 2

/-- The registers that `CALL` names. -/
def useCall (o : OpCall) : List RegUse := useReg o.sp 2 ++ useTarget o

/-- Whether the outcomes of a branch agree between the pairs of lanes (R399). -/
def outcomesAgree (c : Ctx) (s : State) (p : Pred) : List Nat :=
  if isProt s c.g then
    c.gang.filter (fun l =>
      let v := viewOf c s c.gang l
      predVal v.rf.p p != predVal (shadowOf v).rf.p p)
  else []

/-- The control-target faults of a `CALL`, which come before every fault of its stack pointer and of its stack
(R79): its targets, and, where every lane's target can be read, its divergence. -/
def callTargets (c : Ctx) (o : OpCall) (s : State) (k : Option (Option Split) → State) : State :=
  let act := activeLanes c o.pred
  let dest := namedTargets c s (useTarget o) act (readTarget c o)
  withTargets c s dest (fun s =>
    if dest.length = act.length then withSplit c s dest k else k none)

/-- `CALL` (R159, R161). -/
def execCall (o : OpCall) (s : State) : Out :=
  withBranch (.call o) s
    (fun c => namedTargets c s (useTarget o) (activeLanes c o.pred) (readTarget c o))
    (fun c =>
    match outcomesAgree c s o.pred with
    | l :: ls => trapLanes c s (cMismatch) (l :: ls)
    | [] =>
      callTargets c o s (fun sp =>
        withOperands c s o.pred (useCall o) (readCall c o) (fun rs =>
          withSpots c s (stackSpots s c .write (rs.map (fun r => (r.1, r.2.1.2 - 8#64)))) (fun xs =>
            whenFree c s xs (fun s =>
              let s := commitLanes c (pushReturn c (c.pc + 8#64) (makeSplit c s sp) xs) (stackRes o.sp rs (-8#64))
              moveLanes c s (mmap (fun _ r => r.1.1) rs))))))

/-- `RET` of its operands: the stack pointer, twice. -/
def readRet (o : OpR) (v : View) : Sem (DWord × DWord) := do
  let sp ← readPair v o.a
  pure (sp, sp)

/-- `RET` (R159, R161). -/
def execRet (o : OpR) (s : State) : Out :=
  withBranch (.ret o) s (fun _ => []) (fun c =>
    match outcomesAgree c s o.pred with
    | l :: ls => trapLanes c s (cMismatch) (l :: ls)
    | [] =>
      withOperands c s o.pred (useReg o.a 2) (readRet o) (fun rs =>
        withSpots c s (stackSpots s c .read (rs.map (fun r => (r.1, r.2.1.1)))) (fun xs =>
          whenFree c s xs (fun s => unpoisoned c s xs (fun s =>
            let dest := xs.map (fun x =>
              (x.lane, BitVec.ofNat 64 (readPlace s (groupOf s c.gid) x.place 8)))
            jump c s dest (fun s => commitLanes c s (stackRes o.a rs 8#64)))))))

/-! ## YIELD (R163) -/

/-- A path demoted: its spin record starts afresh. -/
def demoteThread (t : Thread) : Thread := { t with demote := demotion, spin := none }

/-- `YIELD` (R163): the threads whose predicate is true are demoted and their splits lapse. -/
def execYield (o : Pred) (s : State) : Out :=
  withGang (.yield o) s (fun c =>
    let act := activeLanes c o
    .next (modGroup s c.gid (fun g =>
      advanceLanes (modThreads (lapseLanes g act) act demoteThread) c.gang)))

/-! ## Barriers (R376..R378) -/

/-- Whether every thread of a group that has not ended stands at a barrier or has arrived there. -/
def groupArrived (g : Group) (n : Nat) : Bool :=
  let live := liveLanes g
  !live.isEmpty && live.all (fun l =>
    let t := threadOf g l
    t.run == .blocked (.bar n) || t.arrived.getLsbD n)

/-- The groups of a block that have a thread that has not ended. -/
def liveGroups (s : State) (bid : Nat) : List Nat :=
  (blockGroups s bid).filter (fun i => !(liveLanes (groupOf s i)).isEmpty)

/-- A thread released from a barrier that completes: it goes on to the next word. -/
def releaseBar (n : Nat) (t : Thread) : Thread :=
  let t := { t with arrived := t.arrived &&& ~~~(1#16 <<< n) }
  if t.run = .blocked (.bar n) then { t with run := .ready, pc := t.pc + 8#64 } else t

/-- A barrier completes: every waiting thread is released, ARRIVED is 0 and PHASE flips (R377). -/
def completeBar (s : State) (bid n : Nat) : State :=
  let s := (blockGroups s bid).foldl (fun s i =>
    modGroup s i (fun g => mapThreads g (fun _ => releaseBar n))) s
  modBlock s bid (fun b =>
    let x := mget {} b.bars n
    { b with bars := mset {} b.bars n { x with arrived := [], phase := !x.phase } })

/-- The groups newly arrived at a barrier are counted, and a barrier whose count equals the number of
the block's live groups completes (R377) (log 17, DESIGN CHOICE). -/
def updateBar (s : State) (bid n : Nat) : State :=
  let live := liveGroups s bid
  let x := mget {} (blockOf s bid).bars n
  let fresh := live.filter (fun i => groupArrived (groupOf s i) n && !x.arrived.contains i)
  let all := x.arrived ++ fresh
  if all.isEmpty then s
  else
    let s := modBlock s bid (fun b => { b with bars := mset {} b.bars n { x with arrived := all } })
    if all.length = live.length then completeBar s bid n else s

/-- Every barrier of a block brought up to date, after a thread has ended (R377). -/
def updateBars (s : State) (bid : Nat) : State :=
  (List.range 16).foldl (fun s n => updateBar s bid n) s

/-- `BAR` (R376..R378): after the group's earlier accesses, the threads whose predicate is true arrive,
and with `.arrive` go on. -/
def execBar (o : OpBar) (s : State) : Out :=
  withGang (.bar o) s (fun c =>
    let act := activeLanes c o.pred
    let rest := c.gang.filter (fun l => !act.contains l)
    .next (
      if act.isEmpty then advance c s c.gang
      else if c.g.activation then trapLanes c s cMisuse act
      else
        whenQuiet c s act (fun s =>
          let s := advance c s rest
          let s :=
            if o.arrive then
              modGroup s c.gid (fun g => advanceLanes (modThreads g act (fun t =>
                { t with arrived := t.arrived ||| (1#16 <<< o.n.val) })) act)
            else
              blockLanes c (modGroup s c.gid (fun g => lapseLanes g act)) act (.bar o.n.val)
          updateBar s c.g.block o.n.val)))

end Sys2Proof.Machine
end

