-- ==== Sys2Proof/Machine/Budget.lean ====
section
/-! DEFINITION. Budgets: the limits of an entry, what is charged to it, and whether it holds an
activity (R21, R320, R321, R366, R367). -/

namespace Sys2Proof.Machine

/-- What an entry limits (R320). -/
inductive Charge
  | issue | hbm | net | copy | test
  deriving DecidableEq, Repr

/-- The limit of an entry for a period, in instructions, bytes or microseconds; 0 is no limit. An
entry whose MBZ bits are nonzero has no limits (R366, R367). -/
def budgetLimit (e : BitVec 512) (k : Charge) : Nat :=
  if bitsOf e 367 352 ≠ 0 ∨ bitsOf e 207 192 ≠ 0 ∨ bitsOf e 159 0 ≠ 0 then 0
  else
    match k with
    | .issue => bitsOf e 511 480 * 65536
    | .hbm => bitsOf e 479 448 * 1024
    | .net => bitsOf e 447 416 * 1024
    | .copy => bitsOf e 415 384 * 1024
    | .test => bitsOf e 383 368

/-- The running use of an entry. -/
def budgetUse (b : Budget) (k : Charge) : Nat :=
  match k with
  | .issue => b.issue
  | .hbm => b.hbm
  | .net => b.net
  | .copy => b.copy
  | .test => b.test

/-- An entry's use raised. -/
def addUse (b : Budget) (k : Charge) (n : Nat) : Budget :=
  match k with
  | .issue => { b with issue := b.issue + n }
  | .hbm => { b with hbm := b.hbm + n }
  | .net => { b with net := b.net + n }
  | .copy => { b with copy := b.copy + n }
  | .test => { b with test := b.test + n }

/-- Whether an entry's use has reached its limit (R320). -/
def exhausted (b : Budget) (k : Charge) : Bool :=
  budgetLimit b.bound k != 0 && budgetUse b k ≥ budgetLimit b.bound k

/-- The budget entry of a partition. -/
def budgetOf (s : State) (part n : Nat) : Budget := mget {} (partOf s part).budgets n

/-- Whether an activity of a launch is held until the next period (R320). -/
def held (s : State) (lid : Nat) (k : Charge) : Bool :=
  let l := launchOf s lid
  exhausted (budgetOf s l.part l.budget) k

/-- Use charged to an entry of a partition. -/
def chargeEntry (s : State) (part entry : Nat) (k : Charge) (n : Nat) : State :=
  modPart s part (fun p =>
    { p with budgets := mset {} p.budgets entry (addUse (mget {} p.budgets entry) k n) })

/-- Use charged to a launch's entry (R320). -/
def charge (s : State) (lid : Nat) (k : Charge) (n : Nat) : State :=
  let l := launchOf s lid
  chargeEntry s l.part l.budget k n

/-- Bytes of HBM charged for an activity that touches some 64-byte lines: how many of them are served by HBM and not
by a cache is free (R320) (log 39, DESIGN CHOICE). -/
def chargeLines (s : State) (part entry lines : Nat) : State :=
  chargeEntry s part entry .hbm (Config.freeNat (s.fresh * 65536 + 60002) % (lines + 1) * 64)

/-- Whether the HBM budget of a launch holds a request of it: one of an exhausted entry that is not served by a cache
(log 39, DESIGN CHOICE). -/
def hbmHeld (s : State) (lid : Nat) : Bool := held s lid .hbm && freeChoice s 60003

/-- An entry that has held an activity in this period (R366). -/
def noteEntry (s : State) (part entry : Nat) : State :=
  modPart s part (fun p =>
    { p with budgets := mset {} p.budgets entry { mget {} p.budgets entry with heldAny := true } })

/-- The entry of a launch has held an activity in this period. -/
def noteHeld (s : State) (lid : Nat) : State := noteEntry s (launchOf s lid).part (launchOf s lid).budget

end Sys2Proof.Machine
end

