-- ==== Sys2Proof/Machine/Electrum.lean ====
section
/-! DEFINITION. The Electrum block formats DX8 and DX4: decoding and encoding (R107..R110). -/

namespace Sys2Proof.Machine

/-- The exponent bias of a format's values (R108): `eight` selects DX8. -/
def dxBias (eight : Bool) : Int := if eight then 132 else 128

/-- The largest magnitude code (R110). -/
def dxMax (eight : Bool) : Nat := if eight then 63 else 3

/-- The exponents of a pair (R107). -/
def pairE0 (p : Nat) : Nat := p % 256
def pairE1 (p : Nat) : Nat := p / 256 % 256

/-- The spread limit (R109). -/
def spreadOk (p : Nat) : Bool :=
  pairE1 p ≤ pairE0 p && pairE0 p - pairE1 p ≤ 15 && pairE0 p ≠ 255 && pairE1 p ≠ 255

/-- The fields of an element: SIGN, SEL and MAG (R107). -/
def dxSign (eight : Bool) (x : Nat) : Bool := x / (if eight then 128 else 8) % 2 == 1
def dxSel (eight : Bool) (x : Nat) : Bool := x / (if eight then 64 else 4) % 2 == 1
def dxMag (eight : Bool) (x : Nat) : Nat := x % (if eight then 64 else 4)

/-- The value of an element of a block with an exponent pair (R108). -/
def dxValue (eight : Bool) (p x : Nat) : FV :=
  .fin (dxSign eight x) (dxMag eight x)
    ((if dxSel eight x then pairE1 p else pairE0 p : Nat) - dxBias eight)

/-- The magnitude of an input, none for an infinity or a NaN. -/
def magnitude : FV → Option (Nat × Int)
  | .fin _ m e => some (m, e)
  | _ => none

/-- The magnitude code of an input under an exponent, before the limit (R110). -/
def dxCodeRaw (eight : Bool) (x : FV) (e : Nat) : Option Nat :=
  (magnitude x).map (fun v => (roundToInt .ne false v.1 (v.2 + dxBias eight - e)).1.natAbs)

/-- The magnitude code q(v, e) (R110). -/
def dxCode (eight : Bool) (x : FV) (e : Nat) : Nat :=
  match dxCodeRaw eight x e with
  | some q => min q (dxMax eight)
  | none => dxMax eight

/-- The error err(v, e) of a finite input (R110). -/
def dxErr (eight : Bool) (x : FV) (e : Nat) : Dy :=
  match magnitude x with
  | some v => (Dy.sub ⟨v.1, v.2⟩ ⟨dxCode eight x e, e - dxBias eight⟩).abs
  | none => {}

/-- Whether an exponent holds every input of a block without the limit. -/
def dxHolds (eight : Bool) (xs : List FV) (e : Nat) : Bool :=
  xs.all (fun x =>
    match dxCodeRaw eight x e with
    | some q => q ≤ dxMax eight
    | none => false)

/-- Whether an input selects the second exponent; ties go to the first (R110). -/
def dxPicks (eight : Bool) (x : FV) (e0 e1 : Nat) : Bool :=
  (magnitude x).isSome && (dxErr eight x e1).lt (dxErr eight x e0)

/-- The sum of squared errors of a block under two exponents. -/
def dxSse (eight : Bool) (xs : List FV) (e0 e1 : Nat) : Dy :=
  xs.foldl (fun a x =>
    let d := dxErr eight x (if dxPicks eight x e0 e1 then e1 else e0)
    a.add (d.mul d)) {}

/-- The candidate of least error, the first among equals. -/
def leastErr (best : Nat × Dy) : List (Nat × Dy) → Nat
  | [] => best.1
  | x :: rest => leastErr (if x.2.lt best.2 then x else best) rest

/-- The second exponent of a block (R110). -/
def dxSecond (eight : Bool) (xs : List FV) (e0 : Nat) : Nat :=
  if e0 = 0 then 0
  else
    let cands := (List.range (min 15 e0)).map (fun d => e0 - (d + 1))
    if xs.all (fun x => (magnitude x).isSome) then
      let sse (e : Nat) : Nat × Dy := (e, dxSse eight xs e0 e)
      leastErr (sse (e0 - 1)) ((cands.drop 1).map sse)
    else e0 - 1

/-- One encoded element (R110). -/
def dxElem (eight : Bool) (e0 e1 : Nat) (x : FV) : Nat :=
  let sel := dxPicks eight x e0 e1
  let mag := dxCode eight x (if sel then e1 else e0)
  let sign := x.isNeg && !x.isNan && mag ≠ 0
  mag + (if sel then (if eight then 64 else 4) else 0) + (if sign then (if eight then 128 else 8) else 0)

/-- The encoder (R110): the elements and the exponent pair of a block of 32 inputs. -/
def dxEncode (eight : Bool) (xs : List FV) : List Nat × Nat :=
  let e0 := ((List.range 255).find? (dxHolds eight xs)).getD 254
  let e1 := dxSecond eight xs e0
  (xs.map (dxElem eight e0 e1), e0 + 256 * e1)

end Sys2Proof.Machine
end

