-- ==== Sys2Proof/Machine/Integer.lean ====
section
/-! DEFINITION. Integer, logic, address and move instructions (R130..R149). -/

namespace Sys2Proof.Machine

/-- `NOP`: it issues with no effect (R135). -/
def execNop (s : State) : Out := withGang .nop s (fun c => .next (advance c s c.gang))

/-! ## Arithmetic (R136, R137) -/

/-- An integer operation on every element of T: exact, then clamped or wrapped (R97, R136). -/
def intElems (t : Tag) (sat : Bool) (op : Int → Int → Int → Int) (a b c : Nat) : Nat :=
  joinElems (elemWidth t) ((List.range (elems t)).map (fun i =>
    putInt t sat (op (intOf t (elemOf t a i)) (intOf t (elemOf t b i)) (intOf t (elemOf t c i)))))

/-- The sources of a format A row, all of type T; an operand the row does not use reads 0. -/
def readA (v : View) (o : OpA) (n : Nat) (raw : Bool) : Sem (Nat × Nat × Nat) := do
  let a ← readSrc v o.a o.t raw
  let b ← if n ≥ 2 then readSrc v o.b o.t raw else pure 0
  let c ← if n ≥ 3 then readSrc v o.c o.t raw else pure 0
  pure (a, b, c)

/-- An arithmetic row of one to three sources (R136). -/
def semInt (n : Nat) (op : Int → Int → Int → Int) (o : OpA) (v : View) : Sem Eff := do
  let (a, b, c) ← readA v o n false
  pure (writeEff o.d o.t (intElems o.t o.sat op a b c))

/-- `IDIV` of two values (R137). -/
def idivOp (t : Tag) (a b : Int) : Int :=
  if b = 0 then (if isSigned t then -1 else 2 ^ elemWidth t - 1) else a.tdiv b

/-- `IREM` of two values (R137). -/
def iremOp (a b : Int) : Int := if b = 0 then a else a - b * a.tdiv b

/-- `IADD` (R136). -/
def execIadd (o : OpA) (s : State) : Out :=
  runRegs (.iadd o) (isK o.d) o.pred (useA o 2) (semInt 2 (fun a b _ => a + b) o) s

/-- `ISUB` (R136). -/
def execIsub (o : OpA) (s : State) : Out :=
  runRegs (.isub o) (isK o.d) o.pred (useA o 2) (semInt 2 (fun a b _ => a - b) o) s

/-- `IMUL` (R136). -/
def execImul (o : OpA) (s : State) : Out :=
  runRegs (.imul o) (isK o.d) o.pred (useA o 2) (semInt 2 (fun a b _ => a * b) o) s

/-- `IMULH`: the high half of the exact product (R136). -/
def execImulh (o : OpA) (s : State) : Out :=
  runRegs (.imulh o) (isK o.d) o.pred (useA o 2)
    (semInt 2 (fun a b _ => (a * b).fdiv (2 ^ elemWidth o.t)) o) s

/-- `IMAD`: one wrap or clamp of the exact sum (R136). -/
def execImad (o : OpA) (s : State) : Out :=
  runRegs (.imad o) (isK o.d) o.pred (useA o 3) (semInt 3 (fun a b c => a * b + c) o) s

/-- `IDIV` (R137). -/
def execIdiv (o : OpA) (s : State) : Out :=
  runRegs (.idiv o) (isK o.d) o.pred (useA o 2) (semInt 2 (fun a b _ => idivOp o.t a b) o) s

/-- `IREM` (R137). -/
def execIrem (o : OpA) (s : State) : Out :=
  runRegs (.irem o) (isK o.d) o.pred (useA o 2) (semInt 2 (fun a b _ => iremOp a b) o) s

/-- `IMIN` (R136). -/
def execImin (o : OpA) (s : State) : Out :=
  runRegs (.imin o) (isK o.d) o.pred (useA o 2) (semInt 2 (fun a b _ => min a b) o) s

/-- `IMAX` (R136). -/
def execImax (o : OpA) (s : State) : Out :=
  runRegs (.imax o) (isK o.d) o.pred (useA o 2) (semInt 2 (fun a b _ => max a b) o) s

/-- `IABS` (R136). -/
def execIabs (o : OpA) (s : State) : Out :=
  runRegs (.iabs o) (isK o.d) o.pred (useA o 1) (semInt 1 (fun a _ _ => a.natAbs) o) s

/-! ## Logic and shifts (R138) -/

/-- A logic row: bit by bit, so each half of a pair takes its operation independently (R138). -/
def semLogic (op : Nat → Nat → Nat) (o : OpA) (v : View) : Sem Eff := do
  let (a, b, _) ← readA v o 2 false
  pure (writeEff o.d o.t (op a b))

/-- a AND (NOT b) in a width. -/
def andnBits (w a b : Nat) : Nat := Nat.land a (2 ^ w - 1 - b % 2 ^ w)

/-- `AND` (R138). -/
def execAnd (o : OpA) (s : State) : Out :=
  runRegs (.and o) (isK o.d) o.pred (useA o 2) (semLogic Nat.land o) s

/-- `OR` (R138). -/
def execOr (o : OpA) (s : State) : Out :=
  runRegs (.or o) (isK o.d) o.pred (useA o 2) (semLogic Nat.lor o) s

/-- `XOR` (R138). -/
def execXor (o : OpA) (s : State) : Out :=
  runRegs (.xor o) (isK o.d) o.pred (useA o 2) (semLogic Nat.xor o) s

/-- `ANDN` (R138). -/
def execAndn (o : OpA) (s : State) : Out :=
  runRegs (.andn o) (isK o.d) o.pred (useA o 2) (semLogic (andnBits (elemWidth o.t)) o) s

/-- The registers of a shift: its count is one register (R131). -/
def useShift (o : OpA) : List RegUse :=
  useReg o.d (tagRegs o.t) ++ useSrc o.a (tagRegs o.t) ++ useSrc o.b

/-- A shift of width `w` by a count operand (R131, R138). -/
def semShift (op : Nat → Nat → Nat → Nat) (o : OpA) (v : View) : Sem Eff := do
  let a ← readSrc v o.a o.t
  let n ← readN32 v o.b
  pure (writeEff o.d o.t (op (elemWidth o.t) a n))

/-- Left by `n`; 0 at or beyond the width. -/
def shlBits (w a n : Nat) : Nat := if n ≥ w then 0 else a * 2 ^ n % 2 ^ w

/-- Right by `n` with zeros; 0 at or beyond the width. -/
def shrBits (w a n : Nat) : Nat := if n ≥ w then 0 else a / 2 ^ n

/-- Right by `n`, filling with the top bit. -/
def shraBits (w a n : Nat) : Nat :=
  let n := min n w
  if a ≥ 2 ^ (w - 1) then a / 2 ^ n + (2 ^ w - 2 ^ (w - n)) else a / 2 ^ n

/-- Left rotation by `n` mod `w`. -/
def rotlBits (w a n : Nat) : Nat := a * 2 ^ (n % w) % 2 ^ w + a / 2 ^ (w - n % w)

/-- `SHL` (R138). -/
def execShl (o : OpA) (s : State) : Out :=
  runRegs (.shl o) (isK o.d) o.pred (useShift o) (semShift shlBits o) s

/-- `SHR` (R138). -/
def execShr (o : OpA) (s : State) : Out :=
  runRegs (.shr o) (isK o.d) o.pred (useShift o) (semShift shrBits o) s

/-- `SHRA` (R138). -/
def execShra (o : OpA) (s : State) : Out :=
  runRegs (.shra o) (isK o.d) o.pred (useShift o) (semShift shraBits o) s

/-- `ROTL` (R138). -/
def execRotl (o : OpA) (s : State) : Out :=
  runRegs (.rotl o) (isK o.d) o.pred (useShift o) (semShift rotlBits o) s

/-! ## Bit counts and bit fields (R139, R140) -/

/-- The number of one bits among the lowest `w`. -/
def popBits : Nat → Nat → Nat
  | 0, _ => 0
  | w + 1, a => a % 2 + popBits w (a / 2)

/-- Bits in reverse order within a width. -/
def revBits : Nat → Nat → Nat
  | 0, _ => 0
  | w + 1, a => a % 2 * 2 ^ w + revBits w (a / 2)

/-- The zero bits above the highest one bit of a width. -/
def clzBits (w a : Nat) : Nat := if a = 0 then w else w - 1 - Nat.log2 a

/-- The registers of a bit count: D is one register. -/
def useCount (o : OpA) : List RegUse := useReg o.d ++ useSrc o.a (tagRegs o.t)

/-- A bit count, tagged n32 (R139). -/
def semCount (op : Nat → Nat → Nat) (o : OpA) (v : View) : Sem Eff := do
  let a ← readSrc v o.a o.t
  pure (writeEff o.d .n32 (op (elemWidth o.t) a))

/-- `POPC` (R139). -/
def execPopc (o : OpA) (s : State) : Out :=
  runRegs (.popc o) (isK o.d) o.pred (useCount o) (semCount popBits o) s

/-- `CLZ` (R139). -/
def execClz (o : OpA) (s : State) : Out :=
  runRegs (.clz o) (isK o.d) o.pred (useCount o) (semCount clzBits o) s

/-- `BREV` of one operand (R139). -/
def semBrev (o : OpA) (v : View) : Sem Eff := do
  let a ← readSrc v o.a o.t
  pure (writeEff o.d o.t (revBits (elemWidth o.t) a))

/-- `BREV` (R139). -/
def execBrev (o : OpA) (s : State) : Out :=
  runRegs (.brev o) (isK o.d) o.pred (useA o 1) (semBrev o) s

/-- The registers of a bit field: position and width are one register each. -/
def useField (o : OpA) : List RegUse := useShift o ++ useSrc o.c

/-- The field of `BFX` (R140). -/
def bfxBits (t : Tag) (a pos c : Nat) : Nat :=
  let w := elemWidth t
  let wid := min c w
  let f := (if pos ≥ w then 0 else a / 2 ^ pos) % 2 ^ wid
  if isSigned t && wid > 0 && f ≥ 2 ^ (wid - 1) then f + (2 ^ w - 2 ^ wid) else f

/-- `BFX` of its operands (R140). -/
def semBfx (o : OpA) (v : View) : Sem Eff := do
  let a ← readSrc v o.a o.t
  let pos ← readN32 v o.b
  let c ← readN32 v o.c
  pure (writeEff o.d o.t (bfxBits o.t a pos c))

/-- `BFX` (R140). -/
def execBfx (o : OpA) (s : State) : Out :=
  runRegs (.bfx o) (isK o.d) o.pred (useField o) (semBfx o) s

/-- D of `BFI`: bits pos .. pos+wid-1 below the width come from A (R140). -/
def bfiBits (w d a pos c : Nat) : Nat :=
  if pos ≥ w then d
  else
    let n := min (min c w) (w - pos)
    d % 2 ^ pos + a % 2 ^ n * 2 ^ pos + d / 2 ^ (pos + n) * 2 ^ (pos + n)

/-- `BFI` of its operands; D is a source too (R140). -/
def semBfi (o : OpA) (v : View) : Sem Eff := do
  let d ← readTyped v o.d o.t false
  let a ← readSrc v o.a o.t
  let pos ← readN32 v o.b
  let c ← readN32 v o.c
  pure (writeEff o.d o.t (bfiBits (elemWidth o.t) d a pos c))

/-- `BFI` (R140). -/
def execBfi (o : OpA) (s : State) : Out :=
  runRegs (.bfi o) (isK o.d) o.pred (useField o) (semBfi o) s

/-! ## Address arithmetic (R141) -/

/-- The address of `LEA`: the window byte stays (R141). -/
def leaAddr (base : Nat) (idx : Int) (c : Nat) : Nat :=
  base / 2 ^ 56 * 2 ^ 56 + (base % 2 ^ 56 + wrapInt 56 (idx * 2 ^ (c % 64))) % 2 ^ 56

/-- A pair source read as an address: a register pair, or a constant under n64. -/
def readAddr (v : View) (a : Src) : Sem Nat :=
  match a with
  | .reg r => do
    let x ← readPair v r
    pure x.toNat
  | _ => readSrc v a .n64

/-- `LEA` of its operands (R141). -/
def semLea (o : OpA) (v : View) : Sem Eff := do
  let base ← readAddr v o.a
  let b ← readSrc v o.b o.t
  let c ← readN32 v o.c
  pure (writeEff o.d .n64 (leaAddr base (intOf o.t b) c))

/-- `LEA` (R141). -/
def execLea (o : OpA) (s : State) : Out :=
  runRegs (.lea o) (isK o.d) o.pred
    (useReg o.d 2 ++ useSrc o.a 2 ++ useSrc o.b ++ useSrc o.c) (semLea o) s

/-! ## Comparison, selection and moves (R142..R146) -/

/-- The predicate bit that a selector or source field names: of the thread, or of the group in a
uniform instruction. -/
def selBit (v : View) (uniform : Bool) (n : Nat) : Bool :=
  predBit (if uniform then v.uni.q else v.rf.p) n

/-- The conditions of `ICMP` (R142). -/
def icmpHolds (t : Tag) (cc a b : Nat) : Bool :=
  let x := intOf t a
  let y := intOf t b
  match cc with
  | 0 => x == y
  | 1 => x != y
  | 2 => x < y
  | 3 => x ≤ y
  | 4 => x > y
  | 5 => x ≥ y
  | 6 => Nat.land a b != 0
  | _ => Nat.land a b == 0

/-- A mask of all ones or zero. -/
def boolMask (b : Bool) : Nat := if b then 0xFFFFFFFF else 0

/-- `ICMP` of its operands (R142). -/
def semIcmp (o : OpCmp) (v : View) : Sem Eff := do
  let a ← readSrc v o.a o.t
  let b ← readSrc v o.b o.t
  let r := icmpHolds o.t o.cc.val a b
  pure { regs := writeVal o.d .b32 (boolMask r), preds := [(o.pd.val, r)] }

/-- `ICMP` (R142). -/
def execIcmp (o : OpCmp) (s : State) : Out :=
  runRegs (.icmp o) (isK o.d) o.pred
    (useReg o.d ++ useSrc o.a (tagRegs o.t) ++ useSrc o.b (tagRegs o.t)) (semIcmp o) s

/-- A register source's bits and tag unchanged; a void one gives 0 with tag void (R143, R144). -/
def rawVal (v : View) (a : Src) : Val :=
  match a with
  | .reg r => if (readReg v r).tag = .void then {} else readReg v r
  | _ => {}

/-- The flag that reading a register with its tag raises (R103). -/
def voidFlag (x : Val) : Flags := if x.tag = .void then flVOID else 0#7

/-- `SEL` of its operands (R143). The raw form reads both registers: R103 raises VOID for a void one, and
only `MOV.raw` and `SHFL` are exempt (log 43, DEDUCED). -/
def semSel (o : OpSel) (v : View) : Sem Eff :=
  let pick := selBit v (isK o.d) o.psel.val != o.inv
  if o.raw then do
    raiseFlags (voidFlag (rawVal v o.a) ||| voidFlag (rawVal v o.b))
    pure { regs := [(regNum o.d, rawVal v (if pick then o.a else o.b))] }
  else do
    let a ← readSrc v o.a o.t
    let b ← readSrc v o.b o.t
    pure (writeEff o.d o.t (if pick then a else b))

/-- `SEL` (R143). -/
def execSel (o : OpSel) (s : State) : Out :=
  runRegs (.sel o) (isK o.d) o.pred
    (useReg o.d (tagRegs o.t) ++ useSrc o.a (tagRegs o.t) ++ useSrc o.b (tagRegs o.t)) (semSel o) s

/-- `MOV` of its operand (R144). -/
def semMov (o : OpA) (v : View) : Sem Eff :=
  if o.x then pure { regs := [(regNum o.d, rawVal v o.a)] }
  else do
    let a ← readSrc v o.a o.t
    pure (writeEff o.d o.t a)

/-- `MOV` (R144). -/
def execMov (o : OpA) (s : State) : Out :=
  runRegs (.mov o) (isK o.d) o.pred (useA o 1) (semMov o) s

/-- The value `MOVI` places: the raw bits, extended for a pair (R145). -/
def moviVal (t : Tag) (imm : BitVec 32) : Nat :=
  if t = .s64 then (imm.signExtend 64).toNat else imm.toNat

/-- `MOVI` (R145). -/
def execMovi (o : OpL) (s : State) : Out :=
  runRegs (.movi o) (isK o.d) o.pred (useReg o.d (tagRegs o.t))
    (fun _ => pure (writeEff o.d o.t (moviVal o.t o.imm))) s

/-- Nanoseconds since a partition was created, at 850 MHz (R124, log 10, DESIGN CHOICE). -/
def timeNs (s : State) (p : Partition) : Nat := (s.now - p.created) * 20 / 17

/-- The block index that a group's identity registers give (R124). -/
def blockIndex (v : View) : Nat :=
  match v.g.actIdx with
  | some h => (lrBlocks (launchOf v.s v.g.launch).rcd + h) % 2 ^ 32
  | none => (blockOf v.s v.g.block).idx

/-- The derived indices of a block (R29, R124). -/
def blockXyz (v : View) : Nat × Nat × Nat :=
  let i := blockIndex v
  if v.g.activation then (i, 0, 0)
  else
    let (x, y, _) := lrDim (launchOf v.s v.g.launch).rcd
    (i % x, i / x % y, i / (x * y))

/-- The value of a special register (R124). -/
def srValue (v : View) (sr : SpecialReg) : Nat :=
  let l := launchOf v.s v.g.launch
  let act := ((threadOf v.g v.lane).act).getD {}
  match sr with
  | .lane => v.lane
  | .group => v.g.idx
  | .block => blockIndex v
  | .blockdim => if v.g.activation then 1 else lrGroups l.rcd
  | .blkx => (blockXyz v).1
  | .blky => (blockXyz v).2.1
  | .blkz => (blockXyz v).2.2
  | .launch => l.number
  | .core => logicalId v.s v.g.core
  | .pairpos => pairPos v.g.core
  | .quadpos => quadPos v.s v.g.core
  | .gang => (maskOfLanes v.gang).toNat
  | .active => (maskOfLanes v.active).toNat
  | .clock => v.s.now
  | .time => timeNs v.s (partOf v.s l.part)
  | .winid => act.win
  | .winstart => act.winStart.toNat
  | .winend => act.winEnd.toNat
  | .reckey => act.recKey.toNat
  | .rectime => act.recTime.toNat
  | .watermark => act.watermark.toNat
  | .progress => v.g.progress
  | .fpstat => v.rf.fp.toNat
  | .afnext => v.g.afnext
  | .afmode => v.g.afmode
  | .trapcause => v.g.trapcause.toNat
  | .rev => (coreRev v.s v.g.core).toNat

/-- The tag that `MOVS` writes (R124). -/
def srTag : SpecialReg → Tag
  | .gang | .active | .fpstat | .trapcause | .rev | .reckey => .b32
  | .clock | .time | .winid => .n64
  | .winstart | .winend | .rectime | .watermark => .s64
  | _ => .n32

/-- `MOVS` (R124, R146): the word at the lowest register is the lowest. -/
def execMovs (o : OpMovs) (s : State) : Out :=
  runRegs (.movs o) (isK o.d) o.pred (useReg o.d (srWidth o.sr / 32))
    (fun v => pure
      { regs := writeRun (regNum o.d) (srTag o.sr) (wordsOf (srWidth o.sr / 32) (srValue v o.sr)) }) s

/-! ## Immediates (R147, R148) -/

/-- `IADDI` of its operand (R147). -/
def semIaddi (o : OpI) (v : View) : Sem Eff := do
  let a ← readSrc v o.a o.t
  pure (writeEff o.d o.t (wrapInt (elemWidth o.t) ((a : Int) + o.imm.toInt)))

/-- `IADDI` (R147). -/
def execIaddi (o : OpI) (s : State) : Out :=
  runRegs (.iaddi o) (isK o.d) o.pred
    (useReg o.d (tagRegs o.t) ++ useSrc o.a (tagRegs o.t)) (semIaddi o) s

/-- The operation of `LOPI` (R148). -/
def lopiBits (w lop a b : Nat) : Nat :=
  match lop with
  | 0 => Nat.land a b
  | 1 => Nat.lor a b
  | 2 => Nat.xor a b
  | _ => andnBits w a b

/-- `LOPI` of its operand (R148). -/
def semLopi (o : OpLopi) (v : View) : Sem Eff := do
  let a ← readSrc v o.a o.t
  let w := elemWidth o.t
  pure (writeEff o.d o.t (lopiBits w o.lop.val a (wrapInt w o.val.toInt)))

/-- `LOPI` (R148). -/
def execLopi (o : OpLopi) (s : State) : Out :=
  runRegs (.lopi o) (isK o.d) o.pred
    (useReg o.d (tagRegs o.t) ++ useSrc o.a (tagRegs o.t)) (semLopi o) s

end Sys2Proof.Machine
end

