-- ==== Sys2Proof/Machine/Lanes.lean ====
section
/-! DEFINITION. Predicate instructions and the cross-lane instructions (R150..R158). -/

namespace Sys2Proof.Machine

/-! ## Predicates (R150, R151) -/

/-- The predicate file an instruction of the form reads. -/
def predFile (uni : Bool) (v : View) : BitVec 7 := if uni then v.uni.q else v.rf.p

/-- `PLOP`: one bit of the truth table (R150). -/
def semPlop (o : OpPlop) (v : View) : Sem Eff := do
  let p := predFile o.uni v
  let bit (n : Fin 8) : Nat := (predBit p n.val).toNat
  let i := 4 * bit o.pa + 2 * bit o.pb + bit o.pc
  pure { preds := [(o.pd.val, o.lut.getLsbD i)] }

/-- `PLOP` (R150). -/
def execPlop (o : OpPlop) (s : State) : Out := runRegs (.plop o) o.uni o.pred [] (semPlop o) s

/-- The get form of `PMOV`: predicate 7 reads 1 (R151). -/
def semPmovGet (d : Reg) (v : View) : Sem Eff :=
  pure (writeEff d .b32 ((predFile (isK d) v).toNat + 128))

/-- The set form of `PMOV` (R151). -/
def semPmovSet (a : Src) (mask : Fin 128) (v : View) : Sem Eff := do
  let x ← readSrc v a .b32
  let ns := (List.range 7).filter (fun i => mask.val.testBit i)
  pure { preds := ns.map (fun i => (i, x.testBit i)) }

/-- `PMOV` (R151). -/
def execPmov (o : OpPmov) (s : State) : Out :=
  match o with
  | .get p d => runRegs (.pmov o) (isK d) p (useReg d) (semPmovGet d) s
  | .set p uni a mask => runRegs (.pmov o) uni p (useSrc a) (semPmovSet a mask) s

/-! ## Participation (R152, R153) -/

/-- Whether a lane is named by a mask held in four k registers from 4n on, read raw; a void one reads 0
(R104, R152). -/
def maskHas (u : UniFile) (n lane : Nat) : Bool :=
  let x := mget {} u.k (4 * n + lane / 32)
  x.tag != .void && x.bits.getLsbD (lane % 32)

/-- The flag that reading a mask raises: VOID where one of its registers is void (R103). -/
def maskFlags (u : UniFile) : LaneMask → Flags
  | .kregs n => if (List.range 4).any (fun i => (mget {} u.k (4 * n.val + i)).tag == .void) then flVOID else 0#7
  | _ => 0#7

/-- A computation that reads a mask beside its operands. -/
def withMask {α : Type} (mask : LaneMask) (f : View → Sem α) (v : View) : Sem α := do
  raiseFlags (maskFlags v.uni mask)
  f v

/-- The lanes of a participation mask that have not ended (R152, R153). -/
def participants (g : Group) (gang : List Nat) : LaneMask → List Nat
  | .gang => gang
  | .all => liveLanes g
  | .kregs n => (liveLanes g).filter (maskHas g.uni n.val)

/-- A gang that waits for the lanes of its mask: a blocked path, whose splits lapse (R37, R40)
(log 17, DESIGN CHOICE). -/
def awaitLanes (c : Ctx) (s : State) : State :=
  blockLanes c (modGroup s c.gid (fun g => lapseLanes g c.gang)) c.gang .retry

/-- The contributors that a lane executes with: those of the mask, or itself alone where the mask
does not name it (R153). -/
def contributors (m act : List Nat) (lane : Nat) : List Nat :=
  if m.contains lane then act.filter m.contains else [lane]

/-- A cross-lane instruction (R153): the gang waits until every lane of the mask has reached it, and
executes as one. `f` gives a contributor's result from the contributors and its own view. -/
def runCross (i : Instr) (wait : Bool) (p : Pred) (mask : LaneMask) (us : List RegUse)
    (f : List Nat → View → Sem Eff) (s : State) : Out :=
  withGang i s (fun c => .next (
    let act := activeLanes c p
    let m := participants c.g c.gang mask
    if !act.isEmpty && !usesOk s c.g (us ++ useMask mask) then trapLanes c s cRange act
    else if wait && !m.all c.gang.contains then awaitLanes c s
    else
      let rs := act.map (fun l =>
        (l, runLane (isProt s c.g) (withMask mask (f (contributors m act l))) (viewOf c s act l)))
      match faultsOf rs with
      | [] => commitLanes c s (resultsOf rs)
      | (l, x) :: rest => trapLanes c s x (l :: rest.map Prod.fst)))

/-- A mask of lanes in four registers from a number on, tagged b32. -/
def maskRegs (d : Reg) (lanes : List Nat) : List (Nat × Val) :=
  let m := (maskOfLanes lanes).toNat
  writeRun (regNum d) .b32 ((List.range 4).map (fun i => m / 2 ^ (32 * i) % 2 ^ 32))

/-! ## VOTE and SHFL (R154, R155) -/

/-- `VOTE` in one contributor (R154). -/
def semVote (o : OpVote) (cs : List Nat) (v : View) : Sem Eff :=
  let vote (l : Nat) : Bool := predBit (v.peer l).rf.p o.psrc.val != o.neg
  if o.mode = 3 then pure { regs := maskRegs o.d (cs.filter vote) }
  else
    let r :=
      match o.mode.val with
      | 0 => cs.any vote
      | 1 => cs.all vote
      | _ => cs.all vote || cs.all (fun l => !vote l)
    pure { regs := writeVal o.d .b32 (if r then 0xFFFFFFFF else 0), preds := [(o.pd.val, r)] }

/-- `VOTE` (R154). -/
def execVote (o : OpVote) (s : State) : Out :=
  runCross (.vote o) true o.pred o.mask (useReg o.d (if o.mode = 3 then 4 else 1)) (semVote o) s

/-- The lane that `SHFL` reads, before the range check (R155). -/
def shflSrc (mode lane b : Nat) : Int :=
  match mode with
  | 0 => b
  | 1 => (lane : Int) - b
  | 2 => lane + b
  | _ => Nat.xor lane b

/-- A register copied with its tag. -/
def copyReg (d : Reg) (x : Val) : Eff := { regs := [(regNum d, x)] }

/-- The register that an operand names. -/
def srcReg (s : Src) : Reg :=
  match s with
  | .reg r => r
  | _ => .v 0

/-- `SHFL` in one contributor (R155). -/
def semShfl (o : OpShfl) (cs : List Nat) (v : View) : Sem Eff := do
  let b ← readSrc v o.b .n32
  let src := shflSrc o.mode.val v.lane b
  let own := readReg v (srcReg o.a)
  if src < 0 ∨ src ≥ (if isProt v.s v.g then 64 else 128) then pure (copyReg o.d own)
  else if cs.contains src.toNat then pure (copyReg o.d (readReg (v.peer src.toNat) (srcReg o.a)))
  else do
    raiseFlags flXLANE
    pure (copyReg o.d own)

/-- `SHFL` (R155). -/
def execShfl (o : OpShfl) (s : State) : Out :=
  runCross (.shfl o) true o.pred o.mask (useReg o.d ++ useSrc o.a ++ useSrc o.b) (semShfl o) s

/-! ## GRED and GSCAN (R156) -/

/-- One step of a reduction: the result, and the flags of its rounding. -/
def groupStep (o : OpGroup) (a b : Nat) : Rounded :=
  match o.op with
  | .add =>
    if o.t = .f32 then elAdd .f32 o.rm false a b else ⟨putInt o.t o.sat (intOf o.t a + intOf o.t b), 0#7⟩
  | .min =>
    if o.t = .f32 then elMinMax .f32 false a b
    else ⟨putInt o.t false (min (intOf o.t a) (intOf o.t b)), 0#7⟩
  | .max =>
    if o.t = .f32 then elMinMax .f32 true a b
    else ⟨putInt o.t false (max (intOf o.t a) (intOf o.t b)), 0#7⟩
  | .and => ⟨Nat.land a b, 0#7⟩
  | .or => ⟨Nat.lor a b, 0#7⟩
  | .xor => ⟨Nat.xor a b, 0#7⟩

/-- The first value of a reduction: an f32 NaN is delivered as the canonical one, and a signalling one
raises INV (R101, R103, R156) (log 43, DEDUCED). -/
def groupFirst (o : OpGroup) (a : Nat) : Rounded :=
  if o.t = .f32 then elMinMax .f32 (o.op == .max) a a else ⟨a, 0#7⟩

/-- The running results of a reduction in lane order: the value and the flags so far. -/
def groupScan (o : OpGroup) : Option Rounded → List Nat → List Rounded
  | _, [] => []
  | none, x :: xs =>
    let r := groupFirst o x
    r :: groupScan o (some r) xs
  | some acc, x :: xs =>
    let r := groupStep o acc.bits x
    let r : Rounded := ⟨r.bits, acc.flags ||| r.flags⟩
    r :: groupScan o (some r) xs

/-- The identity of a reduction (R156). -/
def groupIdentity (o : OpGroup) : Nat :=
  match o.op with
  | .min => if o.t = .f32 then 0x7F800000 else putInt o.t false (intRange o.t).2
  | .max => if o.t = .f32 then 0xFF800000 else putInt o.t false (intRange o.t).1
  | .and => 2 ^ elemWidth o.t - 1
  | _ => 0

/-- A source operand of another contributor; its flags and faults are that contributor's own. -/
def peerSrc (v : View) (a : Src) (t : Tag) (lane : Nat) : Nat :=
  match readSrc (v.peer lane) a t false 0#7 with
  | .ok (x, _) => x
  | .error _ => 0

/-- The running results up to a contributor, in lane order. -/
def scanned (o : OpGroup) (cs : List Nat) (v : View) : List Rounded :=
  groupScan o none (cs.map (peerSrc v o.a o.t))

/-- `GRED` in one contributor (R156). -/
def semGred (o : OpGroup) (cs : List Nat) (v : View) : Sem Eff := do
  let _ ← readSrc v o.a o.t
  let r := (scanned o cs v).getLast?.getD ⟨0, 0#7⟩
  raiseFlags r.flags
  pure (writeEff o.d o.t r.bits)

/-- `GRED` (R156). -/
def execGred (o : OpGroup) (s : State) : Out :=
  runCross (.gred o) true o.pred o.mask (useReg o.d (tagRegs o.t) ++ useSrc o.a (tagRegs o.t))
    (semGred o) s

/-- `GSCAN` in one contributor (R156). -/
def semGscan (o : OpGroup) (cs : List Nat) (v : View) : Sem Eff := do
  let _ ← readSrc v o.a o.t
  let n := (cs.filter (fun l => if o.exc then l < v.lane else l ≤ v.lane)).length
  if n = 0 then pure (writeEff o.d o.t (groupIdentity o))
  else do
    let r := ((scanned o cs v)[n - 1]?).getD ⟨0, 0#7⟩
    raiseFlags r.flags
    pure (writeEff o.d o.t r.bits)

/-- `GSCAN` (R156). -/
def execGscan (o : OpGroup) (s : State) : Out :=
  runCross (.gscan o) true o.pred o.mask (useReg o.d (tagRegs o.t) ++ useSrc o.a (tagRegs o.t))
    (semGscan o) s

/-! ## ELECT and MATCH (R157, R158) -/

/-- `MATCH` in one contributor (R157). -/
def semMatch (o : OpMatch) (cs : List Nat) (v : View) : Sem Eff := do
  let x ← readSrc v o.a o.t
  let same := cs.filter (fun l => peerSrc v o.a o.t l == x)
  pure { regs := maskRegs o.d same, preds := [(o.pd.val, same == cs)] }

/-- `MATCH` (R157). -/
def execMatchLanes (o : OpMatch) (s : State) : Out :=
  runCross (.matchLanes o) true o.pred o.mask (useReg o.d 4 ++ useSrc o.a (tagRegs o.t)) (semMatch o) s

/-- What an election writes: its lane, or all ones, and whether the holder won (R158). -/
def electEff (o : OpElect) (e : Option Nat) (won : Nat → Bool) : Eff :=
  { regs := writeVal o.d .n32 (e.getD 0xFFFFFFFF), preds := [(o.pd.val, e.any won)] }

/-- The uniform form of `ELECT`: the lowest lane of the mask wins for its gang (R158). -/
def semElectUni (o : OpElect) (v : View) : Sem Eff :=
  pure (electEff o (participants v.g v.gang o.mask).head? v.gang.contains)

/-- The per-thread form of `ELECT`: the lowest contributor wins (R158). -/
def semElect (o : OpElect) (cs : List Nat) (v : View) : Sem Eff :=
  pure (electEff o cs.head? (· == v.lane))

/-- `ELECT` (R158): it never waits. -/
def execElect (o : OpElect) (s : State) : Out :=
  if isK o.d then runRegs (.elect o) true o.pred (useReg o.d ++ useMask o.mask) (withMask o.mask (semElectUni o)) s
  else runCross (.elect o) false o.pred o.mask (useReg o.d) (semElect o) s

end Sys2Proof.Machine
end

