-- ==== Sys2Proof/Machine/Sweeps.lean ====
section
/-! DEFINITION. Sweeps over scratchpad and commons: operands, checks, the arithmetic of one iteration,
and the sweep engine (R276..R294). -/

namespace Sys2Proof.Machine

/-! ## Operations and operands -/

/-- What a sweep does (R280, R293). -/
inductive SweepOp
  | add | sub | mul | fma | min | max | exp | rsq | rcp | tanh | cvt | red | scan | gth | sct | mov
  | sel | cmp | lrec | and | or | xor
  deriving DecidableEq, Repr

/-- The sweeps by the low five bits of their opcodes, from 0xA0 on. -/
def sweepOps : List SweepOp :=
  [.add, .sub, .mul, .fma, .min, .max, .exp, .rsq, .rcp, .tanh, .cvt, .red, .scan, .gth, .sct, .mov,
   .sel, .cmp, .lrec]

/-- The operations of `BOP` by its MOD field (R293). -/
def bopOps : List SweepOp := [.add, .sub, .mul, .fma, .min, .max, .mov, .and, .or, .xor]

/-- The operation of a captured sweep: an opcode 0xA0..0xB2, or `BOP`. -/
def sweepOpOf (code mod : Nat) : SweepOp :=
  if code = 0x7E then (bopOps[mod]?).getD .mov else (sweepOps[code - 0xA0]?).getD .mov

/-- The value of a step code, given the step register (R70). -/
def stepValue (code : Nat) (reg : Word) : Int :=
  match code with
  | 0 => 0 | 1 => 512 | 2 => 1024 | 3 => 2048 | 4 => -512 | 5 => 128 | 6 => 64
  | _ => reg.toInt

/-- One operand of a sweep: its first address, its step, and the bytes each iteration accesses. -/
structure Span where
  base : Int
  step : Int
  bytes : Nat
  align : Nat
  deriving DecidableEq, Repr

/-- A captured k register. -/
def capReg (r : Map Word) (n : Nat) : Word := mget 0#32 r n

/-- The operand that an index and a step code name, accessing `bytes` in each iteration. -/
def spanOf (r : Map Word) (n st bytes : Nat) : Span :=
  { base := (capReg r (2 * n)).toNat, step := stepValue st (capReg r (2 * n + 1)), bytes := bytes,
    align := min 64 bytes }

/-- The destination type of `VCVT` (R284). -/
def cvtDst (o : OpV) : Tag := tagOf o.mod.val

/-- Elements in each iteration: 512 bytes of the widest element format (R277). -/
def sweepE (op : SweepOp) (o : OpV) : Nat :=
  match op with
  | .cvt => 4096 / max (elemWidth o.t) (elemWidth (cvtDst o))
  | .gth | .sct => 128
  | _ => 4096 / elemWidth o.t

/-- The element size of `VGTH` and `VSCT` (R287). -/
def tableSize (o : OpV) : Nat :=
  match o.mod.val % 4 with
  | 0 => 4 | 1 => 2 | _ => 1

/-- A run of bytes that stands still: a table, a carry word. -/
def fixedSpan (r : Map Word) (n bytes align : Nat) : Span :=
  { base := (capReg r (2 * n)).toNat, step := 0, bytes := bytes, align := align }

/-- The operands of a sweep in the order destination, first source, second source, and beyond them
the b operand of `VLREC` (R276..R288). -/
def spansOf (op : SweepOp) (o : OpV) (r : Map Word) : List Span :=
  let e := sweepE op o
  let kd := o.kd.val
  let k1 := o.ks1.val
  let k2 := o.ks2.val
  let dst (n : Nat) := spanOf r kd o.std.val n
  let src1 (n : Nat) := spanOf r k1 o.st1.val n
  let src2 (n : Nat) := spanOf r k2 o.st2.val n
  match op with
  | .exp | .rsq | .rcp | .tanh | .mov => [dst 512, src1 512]
  | .cvt =>
    [dst (e * elemWidth (cvtDst o) / 8), src1 (e * elemWidth o.t / 8)] ++
      (if isElectrum o.t || isElectrum (cvtDst o) then [src2 (e / 16)] else [])
  | .red => [dst (if o.mod.val / 8 = 1 then 4 else 512), src1 512]
  | .scan => [dst 512, src1 512, src2 4]
  | .gth =>
    [dst (128 * tableSize o), src1 512,
     fixedSpan r k2 ((capReg r (2 * k2 + 1)).toNat * tableSize o) (tableSize o)]
  | .sct =>
    [fixedSpan r kd ((capReg r (2 * kd + 1)).toNat * tableSize o) (tableSize o), src1 512,
     src2 (128 * tableSize o)]
  | .lrec =>
    let step := stepValue o.st1.val 0#32
    [dst 512, { base := (capReg r (2 * k1)).toNat, step := step, bytes := 512, align := 64 },
     src2 512, { base := (capReg r (2 * k1 + 1)).toNat, step := step, bytes := 512, align := 64 }]
  | _ => [dst 512, src1 512, src2 512]

/-- The address of an operand in an iteration (R277). -/
def Span.at (x : Span) (i : Nat) : Int := x.base + i * x.step

/-- Whether the first and last iterations of an operand lie inside a size (R278). -/
def Span.inside (x : Span) (cnt size : Nat) : Bool :=
  0 ≤ x.base && x.base + x.bytes ≤ size && 0 ≤ x.at (cnt - 1) && x.at (cnt - 1) + x.bytes ≤ size

/-- Whether an operand's base and step are aligned (R278). -/
def Span.aligned (x : Span) : Bool := x.base % x.align == 0 && x.step % x.align == 0

/-- The registers a sweep reads at issue, by operand: the base, and the step register where it is
used, with whether it is read as a base (R276). -/
def sweepReads (op : SweepOp) (o : OpV) : List (Nat × Bool) :=
  let reg (n st : Nat) (extra : Bool) : List (Nat × Bool) :=
    (2 * n, true) :: (if st = 7 then [(2 * n + 1, false)] else if extra then [(2 * n + 1, true)] else [])
  reg o.kd.val o.std.val (op == .sct) ++ reg o.ks1.val o.st1.val (op == .lrec) ++
  (match op with
   | .exp | .rsq | .rcp | .tanh | .mov | .red => []
   | .cvt => if isElectrum o.t || isElectrum (cvtDst o) then reg o.ks2.val o.st2.val false else []
   | _ => reg o.ks2.val o.st2.val (op == .gth))

/-- The k registers a sweep reads, captured (R276): n32, s32 by its bit pattern, b32 and void. -/
def readCaptured (v : View) : List Nat → Sem (Map Word)
  | [] => pure []
  | n :: ns => do
    let x ← readTags v (.k (finOf 1024 n)) [.n32, .s32]
    let m ← readCaptured v ns
    pure (mput m n (BitVec.ofNat 32 x))

/-! ## Elements -/

/-- Element `k` of an operand in memory: little-endian, DX4 two to a byte (R107, R277). -/
def memElem (rd : Reader) (a w k : Nat) : Nat :=
  if w = 4 then (rd (a + k / 2)).toNat / 16 ^ (k % 2) % 16 else readN rd (a + k * (w / 8)) (w / 8)

/-- The elements of an operand in memory. -/
def memElems (rd : Reader) (a : Int) (w n : Nat) : List Nat :=
  (List.range n).map (memElem rd a.toNat w)

/-- Four-bit elements two to a byte, the first in the low half (R107). -/
def packNibbles : List Nat → List Byte
  | [] => []
  | [x] => [BitVec.ofNat 8 x]
  | x :: y :: rest => BitVec.ofNat 8 (x + 16 * y) :: packNibbles rest

/-- The bytes of elements in order. -/
def elemBytes (w : Nat) (xs : List Nat) : List Byte :=
  if w = 4 then packNibbles xs else xs.flatMap (bytesOf (w / 8))

/-- The value of an element of a sweep's source type; an Electrum one is given with its pair. -/
def sweepValue (t : Tag) (x : Nat) : FV :=
  match floatElem t with
  | some f => valueOf f x
  | none => fvInt (intOf t x)

/-- An element computed by a function of f32 (R282). -/
def viaF32 (t : Tag) (sat : Bool) (f : Nat → Rounded) (x : Nat) : Nat :=
  let y := (f (roundFV .f32 .ne false (valueOf (fmtOf t) x)).bits).bits
  if t = .f32 then (saturate sat ⟨y, 0#7⟩).bits
  else (roundFV (fmtOf t) .ne sat (valueOf .f32 y)).bits

/-- A float operation, or an exact integer one (R281). -/
def arith (t : Tag) (sat : Bool) (fl : FloatFmt → Rounded) (int : Int) : Nat :=
  match floatElem t with
  | some f => (fl f).bits
  | none => putInt t sat int

/-- One element of a sweep of one to three operands (R281..R283, R293): `c` is the destination. -/
def sweepElem (op : SweepOp) (t : Tag) (mod : Nat) (rev : Word) (a b c : Nat) : Nat :=
  let sat := mod % 2 == 1
  let ia := intOf t a
  let ib := intOf t b
  match op with
  | .add => arith t sat (fun f => elAdd f .ne sat a b) (ia + ib)
  | .sub => arith t sat (fun f => elSub f .ne sat a b) (ia - ib)
  | .mul => arith t sat (fun f => elMul f .ne sat a b) (ia * ib)
  | .fma => arith t sat (fun f => elFma f .ne sat a b c) (intOf t c + ia * ib)
  | .min => arith t false (fun f => elMinMax f false a b) (Min.min ia ib)
  | .max => arith t false (fun f => elMinMax f true a b) (Max.max ia ib)
  | .exp => viaF32 t sat (exp2Bits rev) a
  | .rsq => viaF32 t sat (rsqBits rev) a
  | .rcp => viaF32 t sat (rcpBits rev) a
  | .tanh => viaF32 t sat (tanhBits rev) a
  | .sel => Nat.lor (Nat.land c a) (Nat.land (2 ^ 32 - 1 - c) b)
  | .cmp =>
    let r := match floatElem t with
      | some f => fcmpHolds (mod % 8) (valueOf f a) (valueOf f b)
      | none => icmpHolds t (mod % 8) a b
    if r then 2 ^ elemWidth t - 1 else 0
  | .and => Nat.land a b
  | .or => Nat.lor a b
  | .xor => Nat.xor a b
  | _ => a

/-- A value converted to the destination format of `VCVT` (R284). -/
def cvtValue (t : Tag) (x : FV) : Nat :=
  match floatElem t with
  | some f => (roundFV f .ne false x).bits
  | none =>
    match x with
    | .nan _ => 0
    | .inf n => putInt t false (if n then (intRange t).1 else (intRange t).2)
    | .fin n m e => putInt t true (roundToInt .ne n m e).1

/-- Lists cut into runs of 32. -/
def blocks32 {α : Type} : Nat → List α → List (List α)
  | 0, _ => []
  | n + 1, xs => xs.take 32 :: blocks32 n (xs.drop 32)

/-- One step of a reduction or a scan (R286), with its identity. -/
def redOp (o : OpV) : OpGroup :=
  { pred := ⟨false, 7⟩, d := .v 0, a := .const .zero,
    op := match o.mod.val % 4 with
      | 0 => .add
      | 1 => .min
      | _ => .max,
    exc := false, mask := .gang, t := o.t, rm := .ne, sat := false }

/-- The running results of a scan: before or after each element, and the last one. -/
def scanElems (o : OpV) (exc : Bool) : Nat → List Nat → List Nat × Nat
  | acc, [] => ([], acc)
  | acc, x :: xs =>
    let next := (groupStep (redOp o) acc x).bits
    let (ys, last) := scanElems o exc next xs
    ((if exc then acc else next) :: ys, last)

/-! ## One iteration (R279) -/

/-- What one iteration does: the bytes it writes, the accumulators, and whether a source block broke
the spread limit. -/
structure IterRes where
  writes : List (Int × List Byte)
  acc : List Nat
  bad : Bool

/-- `VCVT` in one iteration (R284, R285). -/
def cvtIter (o : OpV) (rd : Reader) (e : Nat) (dst src plane : Int) : IterRes :=
  let dt := cvtDst o
  let xs := memElems rd src (elemWidth o.t) e
  let out (ys : List Nat) : Int × List Byte := (dst, elemBytes (elemWidth dt) ys)
  if isElectrum o.t then
    let ps := (List.range (e / 32)).map (fun b => readN rd (plane.toNat + 2 * b) 2)
    let ys := List.zipWith (fun p b =>
      if spreadOk p then b.map (fun x => cvtValue dt (dxValue (o.t == .dx8x4) p x))
      else b.map (fun _ => 0)) ps (blocks32 (e / 32) xs)
    ⟨[out ys.flatten], [], !ps.all spreadOk⟩
  else if isElectrum dt then
    let bs := (blocks32 (e / 32) xs).map (fun b => dxEncode (dt == .dx8x4) (b.map (sweepValue o.t)))
    ⟨[out (bs.flatMap Prod.fst), (plane, elemBytes 16 (bs.map Prod.snd))], [], false⟩
  else ⟨[out (xs.map (fun x => cvtValue dt (sweepValue o.t x)))], [], false⟩

/-- The writes of a scatter: each index inside the table, the highest element last (R287). -/
def scatterWrites (table : Int) (size len : Nat) : List Nat → List Nat → List (Int × List Byte)
  | i :: is, x :: xs =>
    (if i < len then [(table + i * size, bytesOf size x)] else []) ++ scatterWrites table size len is xs
  | _, _ => []

/-- One iteration of a sweep: every read happens before any write (R279). -/
def sweepIter (op : SweepOp) (o : OpV) (r : Map Word) (rev : Word) (rd : Reader) (i : Nat)
    (acc : List Nat) : IterRes :=
  let e := sweepE op o
  let w := elemWidth o.t
  let ats := (spansOf op o r).map (fun x => x.at i)
  let at_ (n : Nat) : Int := (ats[n]?).getD 0
  let dst := at_ 0
  let src1 := memElems rd (at_ 1) w e
  match op with
  | .cvt => cvtIter o rd e dst (at_ 1) (at_ 2)
  | .red => ⟨[], List.zipWith (fun a x => (groupStep (redOp o) a x).bits) acc src1, false⟩
  | .scan =>
    let (ys, last) := scanElems o (o.mod.val / 4 % 2 == 1) (acc.headD 0) src1
    ⟨[(dst, elemBytes w ys)], [last], false⟩
  | .gth =>
    let size := tableSize o
    let len := (capReg r (2 * o.ks2.val + 1)).toNat
    let ys := src1.map (fun i => if i < len then readN rd ((at_ 2).toNat + i * size) size else 0)
    ⟨[(dst, elemBytes (8 * size) ys)], [], false⟩
  | .sct =>
    let size := tableSize o
    let len := (capReg r (2 * o.kd.val + 1)).toNat
    ⟨scatterWrites dst size len src1 (memElems rd (at_ 2) (8 * size) 128), [], false⟩
  | .lrec =>
    let b := memElems rd (at_ 3) w e
    let h := List.zipWith (fun ah b => (elFma .f32 .ne false ah.1 ah.2 b).bits) (src1.zip acc) b
    ⟨[(dst, elemBytes w h)], h, false⟩
  | .exp | .rsq | .rcp | .tanh | .mov =>
    ⟨[(dst, elemBytes w (src1.map (fun a => sweepElem op o.t o.mod.val rev a 0 0)))], [], false⟩
  | _ =>
    let src2 := memElems rd (at_ 2) w e
    let old := memElems rd dst w e
    let ys := List.zipWith (fun ab c => sweepElem op o.t o.mod.val rev ab.1 ab.2 c) (src1.zip src2) old
    ⟨[(dst, elemBytes w ys)], [], false⟩

/-- The accumulators that a sweep starts or continues with (R286, R288): from memory, or the partials
of a `VRED` with ALL. -/
def sweepInit (op : SweepOp) (o : OpV) (r : Map Word) (rd : Reader) (partials : List Nat) : List Nat :=
  let sp := spansOf op o r
  let base (n : Nat) : Int := ((sp[n]?).map Span.base).getD 0
  match op with
  | .red =>
    if o.mod.val / 8 = 1 then
      (if partials.isEmpty then List.replicate (sweepE op o) (groupIdentity (redOp o)) else partials)
    else memElems rd (base 0) 32 (sweepE op o)
  | .scan => (memElems rd (base 2) 32 1).map (fun x => (groupFirst (redOp o) x).bits)
  | .lrec => memElems rd (base 2) 32 128
  | _ => []

/-- What a sweep writes from its accumulators at completion, and, unless it is a `VRED` with ALL, at a
stop (R286, R288, R291): `VRED` its destination, `VSCAN` its carry word, `VLREC` its state segment. -/
def sweepFlush (op : SweepOp) (o : OpV) (r : Map Word) (acc : List Nat) : List (Int × List Byte) :=
  let sp := spansOf op o r
  let base (n : Nat) : Int := ((sp[n]?).map Span.base).getD 0
  match op with
  | .red => if o.mod.val / 8 = 1 then [] else [(base 0, elemBytes 32 acc)]
  | .scan | .lrec => [(base 2, elemBytes 32 acc)]
  | _ => []

/-- The final write of a `VRED` with ALL: every accumulator folded into one element (R286). -/
def sweepFold (op : SweepOp) (o : OpV) (r : Map Word) (rd : Reader) (acc : List Nat) :
    List (Int × List Byte) :=
  if op = .red ∧ o.mod.val / 8 = 1 then
    let base := (((spansOf op o r)[0]?).map Span.base).getD 0
    let x := acc.foldl (fun a x => (groupStep (redOp o) a x).bits) (readN rd base.toNat 4)
    [(base, bytesOf 4 x)]
  else []

/-! ## The sweep engine -/

/-- Bytes written to a block's scratchpad at offsets. -/
def scratchWrites (bid pos : Nat) (s : State) (ws : List (Int × List Byte)) : State :=
  ws.foldl (fun s w => writeScratch s bid pos w.1.toNat w.2) s

/-- `n` iterations of a sweep from iteration `i` on: the state, the accumulators, and whether a block
broke the spread limit. -/
def sweepRun (w : Sweep) (rev : Word) : Nat → Nat → State → List Nat → Bool → State × List Nat × Bool
  | 0, _, s, acc, bad => (s, acc, bad)
  | n + 1, i, s, acc, bad =>
    let op := sweepOpOf w.cap.op w.word.mod.val
    let x := sweepIter op w.word w.cap.regs rev (scratchByte s w.cap.block w.cap.pos) i acc
    sweepRun w rev n (i + 1) (scratchWrites w.cap.block w.cap.pos s x.writes) x.acc (bad || x.bad)

/-- The group marked with the address of a sweep that met a bad block (R285). -/
def markSweep (s : State) (w : Sweep) (bad : Bool) : State :=
  if bad then modGroup s w.cap.group (fun g => { g with sweepMark := some w.cap.pc }) else s

/-- A sweep advanced by some iterations and stopped there (R291): what it has accumulated is written
back, or kept as partials. -/
def sweepAdvance (s : State) (n : Nat) (w : Sweep) : State × Sweep :=
  let op := sweepOpOf w.cap.op w.word.mod.val
  let rd := scratchByte s w.cap.block w.cap.pos
  let acc := sweepInit op w.word w.cap.regs rd w.partials
  let (s, acc, bad) := sweepRun w w.rev n w.done s acc false
  let s := scratchWrites w.cap.block w.cap.pos s (sweepFlush op w.word w.cap.regs acc)
  let keep := if op = .red ∧ w.word.mod.val / 8 = 1 then acc else []
  (markSweep s w bad, { w with done := w.done + n, partials := keep })

/-- A sweep run to completion (R279, R286, R288) (log 24, DEDUCED). -/
def sweepFinish (s : State) (w : Sweep) : State :=
  let op := sweepOpOf w.cap.op w.word.mod.val
  let (s, w') := sweepAdvance s (w.word.cnt.val - w.done) w
  let rd := scratchByte s w.cap.block w.cap.pos
  scratchWrites w.cap.block w.cap.pos s (sweepFold op w.word w.cap.regs rd w'.partials)

/-- Where a core stands among its block's cores. -/
def corePlace (s : State) (bid core : Nat) : Nat := (findIdx (fun c => c == core) (blockOf s bid).cores 0).getD 0

/-- What an engine captures of the instruction that it accepts (R215, R276, R297). -/
def capture (c : Ctx) (s : State) (op : Nat) (regs : Map Word) : Captured :=
  { id := s.nextId, group := c.gid, block := c.g.block, pos := corePlace s c.g.block c.g.core, pc := c.pc,
    op := op, regs := regs }

/-- What every sweep, `BOP` and copy does beside entering its engine: it is an effect for the spin
detector, it closes an idempotent region, and its gang goes on (R290, R294, R305). -/
def afterEngine (c : Ctx) (s : State) (fl : Flags × Flags) : State :=
  let s := { s with nextId := s.nextId + 1 }
  let s := commitUni c s ⟨{}, fl.1, {}, fl.2⟩
  closeRegions c (markEffects c s c.gang) c.gang

/-- The always true q predicate of an instruction that carries none (R74). -/
def noPred : Pred := ⟨false, 7⟩

/-- The registers a sweep names. -/
def useSweep (op : SweepOp) (o : OpV) : List RegUse :=
  useK (2 * o.kd.val) 2 ++ useK (2 * o.ks1.val) 2 ++
  (match op with
   | .exp | .rsq | .rcp | .tanh | .mov | .red => []
   | .cvt => if isElectrum o.t || isElectrum (cvtDst o) then useK (2 * o.ks2.val) 2 else []
   | _ => useK (2 * o.ks2.val) 2)

/-- A marked sweep raises the format fault at the next sweep issue too (R285). -/
def unlessMarked (c : Ctx) (s : State) (k : State → State) : State :=
  match c.g.sweepMark with
  | some a =>
    trapLanes c (modGroup s c.gid (fun g => { g with sweepMark := none })) (cMarked a) c.gang
  | none => k s

/-- The address that an operand's range fault names. -/
def spanAddr (x : Span) : DWord := BitVec.ofInt 64 x.base

/-- A sweep issued (R276..R279): its registers are captured, its ranges and alignments checked, and the
engine accepts it, or it waits for one of the eight places. -/
def issueSweep (i : Instr) (code : Nat) (o : OpV) (s : State) : Out :=
  let op := sweepOpOf code o.mod.val
  withGang i s (fun c => .next (unlessMarked c s (fun s =>
    withUniform c s noPred (useSweep op o) (fun v => readCaptured v ((sweepReads op o).map Prod.fst))
      (fun r =>
        let spans := spansOf op o r.1
        let size := lrShared (c.launch s).rcd
        match spans.find? (fun x => !x.inside o.cnt.val size), spans.find? (fun x => !x.aligned) with
        | some x, _ => trapLanes c s (cGrant (spanAddr x)) c.gang
        | none, some x => trapLanes c s (cAlign (spanAddr x)) c.gang
        | none, none =>
          whenPerformed c s (fun s =>
            if (coreOf s c.g.core).sweeps.length ≥ 8 then blockLanes c s c.gang .retry
            else
              let w : Sweep := { cap := capture c s code r.1, word := o, rev := coreRev s c.g.core }
              let s := afterEngine c s (0#7, 0#7)
              modCore s c.g.core (fun k => { k with sweeps := k.sweeps ++ [w] }))))))

/-- `VADD` (R281). -/
def execVadd (o : OpV) (s : State) : Out := issueSweep (.vadd o) 0xA0 o s

/-- `VSUB` (R281). -/
def execVsub (o : OpV) (s : State) : Out := issueSweep (.vsub o) 0xA1 o s

/-- `VMUL` (R281). -/
def execVmul (o : OpV) (s : State) : Out := issueSweep (.vmul o) 0xA2 o s

/-- `VFMA` (R281). -/
def execVfma (o : OpV) (s : State) : Out := issueSweep (.vfma o) 0xA3 o s

/-- `VMIN` (R281). -/
def execVmin (o : OpV) (s : State) : Out := issueSweep (.vmin o) 0xA4 o s

/-- `VMAX` (R281). -/
def execVmax (o : OpV) (s : State) : Out := issueSweep (.vmax o) 0xA5 o s

/-- `VEXP` (R282). -/
def execVexp (o : OpV) (s : State) : Out := issueSweep (.vexp o) 0xA6 o s

/-- `VRSQ` (R282). -/
def execVrsq (o : OpV) (s : State) : Out := issueSweep (.vrsq o) 0xA7 o s

/-- `VRCP` (R282). -/
def execVrcp (o : OpV) (s : State) : Out := issueSweep (.vrcp o) 0xA8 o s

/-- `VTANH` (R282). -/
def execVtanh (o : OpV) (s : State) : Out := issueSweep (.vtanh o) 0xA9 o s

/-- `VCVT` (R284, R285). -/
def execVcvt (o : OpV) (s : State) : Out := issueSweep (.vcvt o) 0xAA o s

/-- `VRED` (R286). -/
def execVred (o : OpV) (s : State) : Out := issueSweep (.vred o) 0xAB o s

/-- `VSCAN` (R286). -/
def execVscan (o : OpV) (s : State) : Out := issueSweep (.vscan o) 0xAC o s

/-- `VGTH` (R287). -/
def execVgth (o : OpV) (s : State) : Out := issueSweep (.vgth o) 0xAD o s

/-- `VSCT` (R287). -/
def execVsct (o : OpV) (s : State) : Out := issueSweep (.vsct o) 0xAE o s

/-- `VMOV` (R283). -/
def execVmov (o : OpV) (s : State) : Out := issueSweep (.vmov o) 0xAF o s

/-- `VSEL` (R283). -/
def execVsel (o : OpV) (s : State) : Out := issueSweep (.vsel o) 0xB0 o s

/-- `VCMP` (R283). -/
def execVcmp (o : OpV) (s : State) : Out := issueSweep (.vcmp o) 0xB1 o s

/-- `VLREC` (R288). -/
def execVlrec (o : OpV) (s : State) : Out := issueSweep (.vlrec o) 0xB2 o s

/-- `SWEEP_START` (R279): the engine begins the oldest accepted sweep once the one before it has
completed. -/
def execSweepStart (core : Nat) (s : State) : Out :=
  match (coreOf s core).sweeps with
  | [] => notEnabled
  | w :: ws =>
    if w.started ∨ (coreOf s core).stopped = true then notEnabled
    else .next (modCore s core (fun k => { k with sweeps := { w with started := true } :: ws }))

/-- `SWEEP_COMPLETE` (R279, R289): the running sweep completes its last iteration. -/
def execSweepComplete (core : Nat) (s : State) : Out :=
  match (coreOf s core).sweeps with
  | [] => notEnabled
  | w :: ws =>
    if !w.started ∨ (coreOf s core).stopped = true then notEnabled
    else .next (modCore (sweepFinish s w) core (fun k => { k with sweeps := ws }))

/-! ## BOP (R292..R294) -/

/-- Whether an operand of `BOP` is read and whether it is written: the destination of a fused
multiply-add is both. -/
def bopUses (op : SweepOp) (n : Nat) : List PageUse :=
  if n = 0 then (if op = .fma then [.write, .read] else [.write]) else [.read]

/-- The virtual pages that an operand touches in any iteration, from a base. -/
def spanPages (base : Nat) (x : Span) (cnt : Nat) : List Nat :=
  ((List.range cnt).flatMap (fun i => pagesOf (base + (x.at i).toNat) x.bytes)).eraseDups

/-- The translation of a page for a gang, at the base of the page. -/
inductive PageAt
  | ok (pa : Nat) (pt : PageType)
  | miss
  | fault
  deriving DecidableEq, Repr

/-- The translation of a page for the uses made of it. -/
def pageAt (s : State) (c : Ctx) (page : Nat) (us : List PageUse) (i : Nat) : PageAt :=
  let l := launchOf s c.g.launch
  us.foldl (fun r u =>
    match r with
    | .ok _ _ =>
      (match xlate s c.g (threadOf c.g (lowest c.gang)).walked l.part l.asid l.level (page * 4096) u i with
       | .ok pa pt => .ok pa pt
       | .miss => .miss
       | .fault => .fault)
    | r => r) (.ok 0 .normal)

/-- The pages of a captured operation translated for its gang, or what stops it: a page of the wrong
type is found before a translation that is missing. -/
inductive PagesAt
  | ok (m : Map Nat)
  | stop (x : Cause)
  | miss (page : Nat)

/-- Several pages translated, each with its uses; `bad` says that a page's type is refused. -/
def pagesAt (s : State) (c : Ctx) (ps : List (Nat × List PageUse)) (bad : Nat → PageType → Bool) :
    PagesAt :=
  let rs := ps.map (fun p => (p.1, pageAt s c p.1 p.2 1536))
  let types := rs.find? (fun r => match r.2 with | .ok pa pt => bad pa pt | _ => false)
  let faults := rs.find? (fun r => r.2 == .fault)
  let misses := rs.find? (fun r => r.2 == .miss)
  match types, faults, misses with
  | some r, _, _ => .stop (cPageType (BitVec.ofNat 64 (r.1 * 4096)))
  | none, some r, _ => .stop (cTranslation (BitVec.ofNat 64 (r.1 * 4096)))
  | none, none, some r => .miss r.1
  | none, none, none => .ok (rs.foldl (fun m r =>
      match r.2 with
      | .ok pa _ => mput m r.1 pa
      | _ => m) [])

/-- The pages of an operation translated, or the gang stopped or waiting. -/
def withPages (c : Ctx) (s : State) (r : PagesAt) (k : Map Nat → State) : State :=
  match r with
  | .ok m => k m
  | .stop x => trapLanes c s x c.gang
  | .miss page => missLanes c s c.gang page [(lowest c.gang, BitVec.ofNat 64 (page * 4096))]

/-- The physical address of a byte on captured pages. -/
def pageByte (m : Map Nat) (va : Nat) : Nat := mget 0 m (va / 4096) + va % 4096

/-- `BOP` (R292..R294): its pages are translated and captured, and the bank units accept it. -/
def execBop (o : OpV) (s : State) : Out :=
  let op := sweepOpOf 0x7E o.mod.val
  withGang (.bop o) s (fun c => .next (unlessMarked c s (fun s =>
    withUniform c s noPred (useSweep op o) (fun v => readCaptured v ((sweepReads op o).map Prod.fst))
      (fun r =>
        let spans := spansOf op o r.1
        let base := lrCbase (c.launch s).rcd
        match spans.find? (fun x => !x.inside o.cnt.val (2 ^ 32)), spans.find? (fun x => !x.aligned) with
        | some x, _ => trapLanes c s (cGrant (BitVec.ofInt 64 (base + x.base))) c.gang
        | none, some x => trapLanes c s (cAlign (BitVec.ofInt 64 (base + x.base))) c.gang
        | none, none =>
          let ps := (spans.zip (List.range spans.length)).flatMap (fun x =>
            (spanPages base x.1 o.cnt.val).map (fun p => (p, bopUses op x.2)))
          withPages c s (pagesAt s c ps (fun pa pt => !isCommons pa || pt != .normal)) (fun m =>
            whenPerformed c s (fun s =>
              let s := visible s c.g.block
              let w : Sweep :=
                { cap := capture c s 0x7E r.1, word := o, rev := coreRev s c.g.core, pages := m, started := true }
              let s := afterEngine c s (0#7, 0#7)
              modCore s c.g.core (fun k => { k with bops := k.bops ++ [w] })))))))

/-- The bank units' iterations of a `BOP`: each element is read and written in place. -/
def bopRun (core : Nat) (w : Sweep) (base : Nat) (rev : Word) : Nat → Nat → State → State
  | 0, _, s => s
  | n + 1, i, s =>
    let op := sweepOpOf 0x7E w.word.mod.val
    let rd : Reader := fun o => coreByte s core (pageByte w.pages (base + o))
    let word := { w.word with mod := 0 }
    let x := sweepIter op word w.cap.regs rev rd i []
    let put (s : State) (a : Int) (bs : List Byte) : State :=
      ((bs.zip (List.range bs.length)).foldl (fun s b =>
        storeMem s core (pageByte w.pages (base + a.toNat + b.2)) [b.1]) s)
    bopRun core w base rev n (i + 1) (x.writes.foldl (fun s y => put s y.1 y.2) s)

/-- Whether a `BOP` reads a line marked poisoned (R395). -/
def bopPoison (s : State) (w : Sweep) (base : Nat) : Bool :=
  let op := sweepOpOf 0x7E w.word.mod.val
  let spans := spansOf op w.word w.cap.regs
  !s.poison.isEmpty && (spans.zip (List.range spans.length)).any (fun x =>
    (bopUses op x.2).contains .read && (List.range w.word.cnt.val).any (fun i =>
      (List.range (x.1.bytes / 64 + 1)).any (fun k =>
        s.poison.contains (lineOf (pageByte w.pages (base + (x.1.at i).toNat + 64 * k))))))

/-- The bank units finish a `BOP`: its elements are written, or a line marked poisoned is consumed. -/
def bopFinish (s : State) (core : Nat) (w : Sweep) : State :=
  let base := lrCbase (launchOf s (groupOf s w.cap.group).launch).rcd
  if bopPoison s w base then
    recoverBlock s w.cap.block core
      { cls := 0x12, sub := if freeChoice s 2048 then 2 else 3, pc := w.cap.pc }
  else bopRun core w base w.rev w.word.cnt.val 0 s

/-- The 64-byte lines that a `BOP` reads or writes, counted once for each use. -/
def bopLines (w : Sweep) : Nat :=
  let op := sweepOpOf 0x7E w.word.mod.val
  let spans := spansOf op w.word w.cap.regs
  (spans.zip (List.range spans.length)).foldl (fun n x =>
    n + (bopUses op x.2).length * (w.word.cnt.val * ((x.1.bytes + 63) / 64))) 0

/-- The core without a `BOP` that has finished. -/
def dropBop (id : Nat) (k : Core) : Core := { k with bops := k.bops.filter (fun x => x.cap.id ≠ id) }

/-- `BOP_COMPLETE` (R293, R294): the bank units finish, and the result is visible at `.part`. -/
def execBopComplete (core id : Nat) (s : State) : Out :=
  match (coreOf s core).bops.find? (fun w => w.cap.id == id) with
  | none => notEnabled
  | some w =>
    let lid := (groupOf s w.cap.group).launch
    if (coreOf s core).stopped ∨ hbmHeld s lid = true then notEnabled
    else
      let s := chargeLines s (launchOf s lid).part (launchOf s lid).budget (bopLines w)
      .next (modCore (bopFinish s core w) core (dropBop id))

end Sys2Proof.Machine
end

