-- ==== Sys2Proof/Machine/Shapes.lean ====
section
/-! DEFINITION. Shape records and their handles (R354..R356), and sync words with their instructions
(R370..R375). -/

namespace Sys2Proof.Machine

/-! ## Shape records (R354) -/

/-- The fields of a shape record, by name. -/
def shScale (r : BitVec 512) : Nat := bitsOf r 511 448
def shBase1 (r : BitVec 512) : Nat := bitsOf r 447 384
def shBase0 (r : BitVec 512) : Nat := bitsOf r 383 320
def shCmp (r : BitVec 512) : Bool := bitsOf r 23 23 == 1
def shNdim (r : BitVec 512) : Nat := bitsOf r 22 20
def shFmt (r : BitVec 512) : Nat := bitsOf r 19 16

/-- The stored field of dimension `d`: n_d, b_d - 1, or the stride in units of 16 bytes. -/
def shDimField (r : BitVec 512) (d : Nat) : Nat := bitsOf r (95 + 24 * d) (72 + 24 * d)
def shBoxField (r : BitVec 512) (d : Nat) : Nat := bitsOf r (39 + 8 * d) (32 + 8 * d)
def shStrideField (r : BitVec 512) (d : Nat) : Nat := bitsOf r (191 + 32 * d) (160 + 32 * d)

/-- The dimension n_d; above NDIM it reads 1. -/
def shDim (r : BitVec 512) (d : Nat) : Nat := if d < shNdim r then shDimField r d else 1

/-- The box dimension b_d; above NDIM it reads 1. -/
def shBox (r : BitVec 512) (d : Nat) : Nat := if d < shNdim r then shBoxField r d + 1 else 1

/-- The byte stride of dimension `d` ≥ 1. -/
def shStride (r : BitVec 512) (d : Nat) : Nat := shStrideField r d * 16

/-- Twice the element size in bytes (R354): DX4 elements are half a byte. -/
def fmtSize2 (fmt : Nat) : Nat :=
  match fmt with
  | 0 | 1 | 9 => 4
  | 5 => 1
  | 6 | 10 => 8
  | 11 => 16
  | _ => 2

/-- Whether a format code is an Electrum format. -/
def fmtElectrum (fmt : Nat) : Bool := fmt == 4 || fmt == 5

/-- The record of a handle, or none where the handle is stale (R356). -/
def shapeOf (s : State) (g : Group) (h : Word) : Option (BitVec 512) :=
  let l := launchOf s g.launch
  let x := mget {} (partOf s l.part).shapes (h.toNat / 4096)
  let gen := h.toNat % 4096
  if gen = 0 ∨ gen ≠ x.gen ∨ x.tenant ≠ l.tenant then none else some x.rcd

/-! ## Boxes (R296) -/

/-- Boxes along dimension `d`. -/
def boxTiles (r : BitVec 512) (d : Nat) : Nat := (shDim r d + shBox r d - 1) / shBox r d

/-- Boxes of the whole tensor. -/
def boxCount (r : BitVec 512) : Nat := (List.range 5).foldl (fun n d => n * boxTiles r d) 1

/-- The origin of box `i` along dimension `d`: dimension 0 varies fastest. -/
def boxOrigin (r : BitVec 512) (i d : Nat) : Nat :=
  i / ((List.range d).foldl (fun n e => n * boxTiles r e) 1) % boxTiles r d * shBox r d

/-- Rows of a box. -/
def boxRows (r : BitVec 512) : Nat := shBox r 1 * shBox r 2 * shBox r 3 * shBox r 4

/-- The tensor coordinate of row `row` of box `i` along dimension `d` ≥ 1. -/
def rowCoord (r : BitVec 512) (i row d : Nat) : Nat :=
  boxOrigin r i d + row / ((List.range (d - 1)).foldl (fun n e => n * shBox r (e + 1)) 1) % shBox r d

/-- Whether a row of a box lies inside the tensor. -/
def rowInside (r : BitVec 512) (i row : Nat) : Bool :=
  (List.range 4).all (fun d => rowCoord r i row (d + 1) < shDim r (d + 1))

/-- The address of a row of a box at dimension 0's origin. -/
def rowAddr (r : BitVec 512) (i row : Nat) : Nat :=
  shBase0 r + boxOrigin r i 0 * fmtSize2 (shFmt r) / 2 +
    (List.range 4).foldl (fun n d => n + rowCoord r i row (d + 1) * shStride r (d + 1)) 0

/-- The number of a row among the tensor's rows, dimension 1 fastest. -/
def rowNumber (r : BitVec 512) (i row : Nat) : Nat :=
  rowCoord r i row 1 + shDim r 1 * (rowCoord r i row 2 + shDim r 2 *
    (rowCoord r i row 3 + shDim r 3 * rowCoord r i row 4))

/-- Kept elements that share an exponent pair: 16 in a compressed record, else 32 (R213, R354). -/
def pairSpan (r : BitVec 512) : Nat := if shCmp r then 16 else 32

/-- Exponent pairs of one row of a box, 0 for a format without (R296). -/
def boxPairs (r : BitVec 512) : Nat := if fmtElectrum (shFmt r) then shBox r 0 / pairSpan r else 0

/-- The address of exponent pair `q` of a row of a box: pairs are numbered along the tensor's rows. -/
def pairAddr (r : BitVec 512) (i row q : Nat) : Nat :=
  let perRow := (shDim r 0 + pairSpan r - 1) / pairSpan r
  shBase1 r + 2 * (rowNumber r i row * perRow + boxOrigin r i 0 / pairSpan r + q)

/-- Whether exponent pair `q` of a row of a box belongs to the tensor. -/
def pairInside (r : BitVec 512) (i row q : Nat) : Bool :=
  rowInside r i row && boxOrigin r i 0 + q * pairSpan r < shDim r 0

/-! ## Sync words (R370, R371) -/

/-- The fields of a sync word. -/
def swTarget (w : Nat) : Nat := w / 2 ^ 40 % 2 ^ 24
def swCount (w : Nat) : Nat := w / 2 ^ 16 % 2 ^ 24
def swGen (w : Nat) : Nat := w / 2 % 2 ^ 15
def swOvr (w : Nat) : Nat := w % 2

/-- A sync word from its fields. -/
def swMake (target count gen ovr : Nat) : Nat :=
  target % 2 ^ 24 * 2 ^ 40 + count % 2 ^ 24 * 2 ^ 16 + gen % 2 ^ 15 * 2 + ovr % 2

/-- A sync word after an arrival of `n` bytes (R371). -/
def swArrive (w n : Nat) : Nat :=
  let t := swTarget w
  let x := swCount w + n
  let gen := if t = 0 then swGen w else swGen w + x / t
  let x := if t = 0 then x else x % t
  if x > 2 ^ 24 - 1 then swMake t (2 ^ 24 - 1) gen 1 else swMake t x gen (swOvr w)

/-- The sync word at an offset of a block's scratchpad on one of its cores. -/
def readSync (s : State) (bid pos off : Nat) : Nat := readN (scratchByte s bid pos) off 8

/-- A sync word written. -/
def writeSync (s : State) (bid pos off w : Nat) : State := writeScratch s bid pos off (bytesOf 8 w)

/-- An arrival at a sync word (R371). -/
def arrive (s : State) (bid pos off n : Nat) : State :=
  writeSync s bid pos off (swArrive (readSync s bid pos off) n)

/-! ## Sync instructions (R372..R375) -/

/-- Whether a run of bytes lies inside the block's grant. -/
def inGrant (s : State) (g : Group) (off n : Nat) : Bool := off + n ≤ lrShared (launchOf s g.launch).rcd

/-- The operands of a sync instruction, captured: k(KY) and k(KS), read under n32 (R372). -/
def readSyncOps (o : OpQ) (useKs : Bool) (v : View) : Sem (Nat × Nat) := do
  let y ← readTyped v (.k o.ky) .n32 false
  let x ← if useKs then readTyped v (.k o.ks) .n32 false else pure 0
  pure (y, x)

/-- The registers of a sync instruction. -/
def useSync (o : OpQ) (nd : Nat) (useKs : Bool) : List RegUse :=
  useK o.ky.val 1 ++ (if useKs then useK o.ks.val 1 else []) ++ (if nd = 0 then [] else useK o.kd.val nd)

/-- The places among a block's cores that a mask of quad positions names, or none where the block does
not hold one of them (R231, R299, R374). -/
def maskPlaces (s : State) (g : Group) (mask : Nat) : Option (List Nat) :=
  let ps := ((List.range 4).filter (fun p => mask.testBit p)).map (blockPos s (blockOf s g.block))
  if ps.all Option.isSome then some (ps.filterMap id) else none

/-- The checks of a sync word's place on every core addressed, in the order of R79 (R374) (log 16, DEDUCED). -/
def syncCheck (s : State) (g : Group) (mask off : Nat) : Option Cause :=
  if !inGrant s g off 8 then some (cGrant (BitVec.ofNat 64 off))
  else if (maskPlaces s g mask).isNone then some (cAbsent (BitVec.ofNat 64 off))
  else if off % 8 ≠ 0 then some (cAlign (BitVec.ofNat 64 off))
  else none

/-- A sync instruction of a gang past its operands and its place: `k` has the word's offset and the value of
k(KS). -/
def syncGang (c : Ctx) (o : OpQ) (nd : Nat) (useKs : Bool) (limit : Nat) (s : State) (m : Pairing)
    (k : Ctx → State → Nat → Nat → Flags × Flags → State) : State :=
  withUniform c s o.pred (useSync o nd useKs) (readSyncOps o useKs) (fun r =>
    match syncCheck s c.g o.mask.val r.1.1 with
    | some x => trapLanes c s x c.gang
    | none =>
      if r.1.2 > limit then trapLanes c s cIllegalOp c.gang else k c s r.1.1 r.1.2 r.2) m

/-- A sync instruction of the gang past its operands and its place: `k` has the word's offset and the
value of k(KS). -/
def withSync (i : Instr) (o : OpQ) (nd : Nat) (useKs : Bool) (limit : Nat) (s : State)
    (m : Pairing) (k : Ctx → State → Nat → Nat → Flags × Flags → State) : Out :=
  withGang i s (fun c => .next (syncGang c o nd useKs limit s m k))

/-- The registers a uniform instruction writes, committed with the flags of its operands. -/
def commitKs (c : Ctx) (s : State) (ws : List (Nat × Val)) (fl : Flags × Flags) : State :=
  commitUni c s ⟨{ regs := ws }, fl.1, { regs := ws }, fl.2⟩

/-- `SYNCI` (R373): GEN is read, and the word is armed. -/
def execSynci (o : OpQ) (s : State) : Out :=
  withSync (.synci o) o 1 true (2 ^ 24 - 1) s .kill (fun c s off x fl =>
    let pos := corePlace s c.g.block c.g.core
    let w := readSync s c.g.block pos off
    let s := writeSync s c.g.block pos off (swMake x 0 (swGen w) 0)
    let s := commitKs c s [(o.kd.val, ⟨BitVec.ofNat 32 (swGen w), .n32⟩)] fl
    closeRegions c (markEffects c s c.gang) c.gang)

/-- `SYNCA` (R373): arrivals at the word of every quad position in MASK, after the group's earlier
accesses. -/
def execSynca (o : OpQ) (s : State) : Out :=
  withSync (.synca o) o 0 true (2 ^ 24 - 1) s .kill (fun c s off n fl =>
    let own := corePlace s c.g.block c.g.core
    match (if o.mask.val = 0 then some [own] else maskPlaces s c.g o.mask.val) with
    | none => trapLanes c s (cAbsent (BitVec.ofNat 64 off)) c.gang
    | some ps =>
      whenQuiet c s c.gang (fun s =>
        let s := ps.foldl (fun s p => arrive s c.g.block p off n) s
        let s := commitKs c s [] fl
        closeRegions c (markEffects c s c.gang) c.gang))

/-- A `SYNCW` that looks at its word: while GEN equals the value to leave, the gang waits with the operands
that it has captured (R372, R373). -/
def trySyncw (o : OpQ) (c : Ctx) (s : State) (off x : Nat) (fl : Flags × Flags) : State :=
  let w := readSync s c.g.block (corePlace s c.g.block c.g.core) off
  if swGen w = x then
    let s := modGroup s c.gid (fun g => lapseLanes g c.gang)
    blockLanes c (beginAwait c s { pc := c.pc, vals := [off, x] } fl) c.gang .retry
  else endAwait c (commitKs c s [(o.kd.val, ⟨BitVec.ofNat 32 (swGen w), .n32⟩)] fl)

/-- `SYNCW` (R373): the gang waits until GEN differs from k(KS), and then receives it. -/
def execSyncw (o : OpQ) (s : State) : Out :=
  withGang (.syncw o) s (fun c => .next (
    withAwait c s
      (fun c s a => trySyncw o c s ((a.vals[0]?).getD 0) ((a.vals[1]?).getD 0) (0#7, 0#7))
      (fun c s => syncGang c o 1 true (2 ^ 15 - 1) s .free (trySyncw o))))

/-- `SYNCT` (R373): the word in a pair. -/
def execSynct (o : OpQ) (s : State) : Out :=
  withSync (.synct o) o 2 false 0 s .free (fun c s off _ fl =>
    let w := readSync s c.g.block (corePlace s c.g.block c.g.core) off
    commitKs c s (writeRun o.kd.val .b32 [w % 2 ^ 32, w / 2 ^ 32]) fl)

end Sys2Proof.Machine
end

