-- ==== Sys2Proof/Machine/Matrix.lean ====
section
/-! DEFINITION. Accumulator tiles, the weight buffer and the matrix instructions (R205..R226), with the
order of sums of R113..R115. -/

namespace Sys2Proof.Machine

/-! ## Formats -/

/-- The code of a matrix format, as shape records and slots give it (R75, R354). -/
def matCode : MatFmt → Nat
  | .bf16 => 0 | .f16 => 1 | .e4m3 => 2 | .e5m2 => 3 | .dx8 => 4 | .dx4 => 5

/-- The format of a code. -/
def matOfCode (n : Nat) : MatFmt :=
  match n with
  | 0 => .bf16 | 1 => .f16 | 2 => .e4m3 | 3 => .e5m2 | 4 => .dx8 | _ => .dx4

/-- The float format of a code that is not Electrum. -/
def matFloat : MatFmt → FloatFmt
  | .bf16 => .bf16 | .f16 => .f16 | .e4m3 => .e4m3 | _ => .e5m2

/-- The number of an element as bits: an Electrum one with its exponent pair. -/
def matValue (f : MatFmt) (pair x : Nat) : FV :=
  match f with
  | .dx8 => dxValue true pair x
  | .dx4 => dxValue false pair x
  | f => valueOf (matFloat f) x

/-- An element of a run of elements at a byte address. -/
def runElem (rd : Reader) (size2 base k : Nat) : Nat :=
  if size2 = 1 then (rd (base + k / 2)).toNat / 16 ^ (k % 2) % 16
  else readN rd (base + k * (size2 / 2)) (size2 / 2)

/-! ## Weight slots (R206..R208) -/

/-- Bytes of one row of a slot's element plane (R207). -/
def slotRowBytes (f : MatFmt) : Nat := 64 * fmtSize2 (matCode f) / 2

/-- The most rows of a slot (R207). -/
def slotMaxRows : MatFmt → Nat
  | .bf16 | .f16 => 512
  | .e4m3 | .e5m2 => 1024
  | .dx8 => 960
  | .dx4 => 1792

/-- The slot of a block on one of its cores. -/
def slotOf (b : Block) (pos n : Nat) : Slot := mget {} b.slots (pos * 8 + n)

/-- A change of a slot. -/
def modSlot (s : State) (bid pos n : Nat) (f : Slot → Slot) : State :=
  modBlock s bid (fun b => { b with slots := mset {} b.slots (pos * 8 + n) (f (slotOf b pos n)) })

/-- A byte of a slot's uncompressed image; a byte not listed is 0 (R206). -/
def slotByte (x : Slot) : Reader := fun a => mget 0#8 x.bytes a

/-- The element B[k][j] of a slot; one without rows reads as zeros (R208). -/
def slotElem (x : Slot) (f : MatFmt) (k j : Nat) : Nat :=
  if x.rows = 0 then 0 else runElem (slotByte x) (fmtSize2 (matCode f)) (k * slotRowBytes f) j

/-- The exponent pair of the 32 rows of block `b` in column `j` (R207). -/
def slotPair (x : Slot) (f : MatFmt) (b j : Nat) : Nat :=
  if x.rows = 0 then 0 else readN (slotByte x) (x.rows * slotRowBytes f + 2 * (64 * b + j)) 2

/-- The column scale of a slot, 1.0 where none is held (R208). -/
def slotScale (x : Slot) (j : Nat) : Nat := (mget 0x3F800000#32 x.scales j).toNat

/-! ## Tiles (R205) -/

/-- The tile of a block on one of its cores. -/
def tileOf (b : Block) (pos n : Nat) : Tile := mget {} b.tiles (pos * 32 + n)

/-- A tile replaced. -/
def setTile (s : State) (bid pos n : Nat) (x : Tile) : State :=
  modBlock s bid (fun b => { b with tiles := mset {} b.tiles (pos * 32 + n) x })

/-- A tile's element, an f32 value in every tag. -/
def tileElem (x : Tile) (i j : Nat) : Nat := (mget 0#32 x.elems (i * 64 + j)).toNat

/-- A tile's elements from a function of row and column. -/
def tileFrom (f : Nat → Nat → Nat) : Map Word :=
  (List.range 4096).filterMap (fun n =>
    let x := BitVec.ofNat 32 (f (n / 64) (n % 64))
    if x = 0#32 then none else some (n, x))

/-! ## Locations of scratchpad operands (R210) -/

/-- The grant offset of a base in the issuing core's own scratchpad window, or none (log 47, DEDUCED). -/
def ownOffset (s : State) (core base : Nat) : Option Nat :=
  if base / 2 ^ 56 = 0xFE ∧ base % 2 ^ 56 / 2 ^ 21 = 0 ∧ base / 2 ^ 17 % 4 = quadPos s core then
    some (base / 2 ^ 19 % 4 * 2 ^ 17 + base % 2 ^ 17)
  else none

/-- Whether a base lies in the own window at a multiple of `align`, with `n` bytes from it inside the
grant and inside one 128 KiB quarter of the window (R230). -/
def baseOk (s : State) (g : Group) (base align n : Nat) : Bool :=
  match ownOffset s g.core base with
  | some o => o % align == 0 && inGrant s g o n && o % 2 ^ 17 + n ≤ 2 ^ 17
  | none => false

/-- The grant offset of a base that has been checked. -/
def offsetOf (base : Nat) : Nat := base / 2 ^ 19 % 4 * 2 ^ 17 + base % 2 ^ 17

/-- The bytes of a region of `rows` rows of `rowBytes` at a stride. -/
def regionBytes (rows stride rowBytes : Nat) : Nat := (rows - 1) * stride + rowBytes

/-- Whether a record names a 64 × 64 scratchpad region by the location rules (R210, R220, R221). -/
def squareOk (s : State) (g : Group) (r : BitVec 512) : Bool :=
  let row := 64 * fmtSize2 (shFmt r) / 2
  shNdim r == 2 && shDim r 0 == 64 && shDim r 1 == 64 && shStride r 1 % 64 == 0 &&
  baseOk s g (shBase0 r) 64 (regionBytes 64 (shStride r 1) row) &&
  (!fmtElectrum (shFmt r) || baseOk s g (shBase1 r) 64 256)

/-! ## The operands of a multiply (R210..R213, R222) -/

/-- Whether an operation is `MMAS`, and whether it is `MMAP`. -/
def isSparse (op : Nat) : Bool := op == 0xC2
def isPaired (op : Nat) : Bool := op == 0xC1

/-- The K of a multiply before its range check (R210). -/
def matK (op : Nat) (o : OpX) (r : BitVec 512) : Nat :=
  if o.kn.val ≠ 0 then 32 * o.kn.val
  else (if o.ta && !isPaired op then shDim r 1 else shDim r 0) * (if isSparse op then 2 else 1)

/-- Whether the A record of a multiply is one that R210 and R213 accept for a K. -/
def recordAOk (s : State) (g : Group) (op : Nat) (o : OpX) (r : BitVec 512) (k : Nat) : Bool :=
  let n := if isSparse op then k / 2 else k
  let size2 := fmtSize2 (shFmt r)
  let square := isPaired op && o.ta
  let rowDim := if o.ta && !isPaired op then shDim r 0 else shDim r 1
  let kDim := if o.ta && !isPaired op then shDim r 1 else shDim r 0
  let region :=
    if o.ta && !isPaired op then regionBytes n (shStride r 1) (64 * size2 / 2)
    else regionBytes 64 (shStride r 1) (n * size2 / 2)
  k % 32 == 0 && 32 ≤ k && k ≤ 2016 && shFmt r == matCode o.fa && shNdim r == 2 &&
  rowDim == 64 && n ≤ kDim && (!square || (shDim r 0 == 64 && k ≤ 64)) &&
  shStride r 1 % 64 == 0 && baseOk s g (shBase0 r) 64 region &&
  (if matElectrum o.fa then
     shCmp r == isSparse op && (!isSparse op || k % 64 == 0) &&
       baseOk s g (shBase1 r) 64 (64 * (k / 32) * 2)
   else !shCmp r)

/-- The elements that a record's used dimensions hold. -/
def recordSize (r : BitVec 512) : Nat := (List.range (shNdim r)).foldl (fun n d => n * shDim r d) 1

/-- Whether a metadata record is accepted (R211): it holds enough bytes, and its strides are multiples of 64 (R210)
(log 47, DEDUCED). -/
def metaOk (s : State) (g : Group) (r : BitVec 512) (k : Nat) : Bool :=
  shFmt r == 7 && 64 * (k / 8) ≤ recordSize r &&
  ((List.range (shNdim r)).all (fun d => d == 0 || shStride r d % 64 == 0)) &&
  baseOk s g (shBase0 r) 256 (64 * (k / 8))

/-- Whether a slot fits a multiply (R222). -/
def slotOk (x : Slot) (f : MatFmt) (k : Nat) : Bool := x.rows == 0 || (x.fmt == f && k ≤ x.rows)

/-! ## The arithmetic (R113..R115, R218) -/

/-- A multiply as its arrays see it: the operation, the A record, the metadata, the slot, K and the
row scales. -/
structure MatRun where
  op : Nat
  word : OpX
  shape : BitVec 512
  meta_ : BitVec 512
  slot : Slot
  k : Nat
  ta : Bool
  scales : Map Word

/-- The kept element of a sparse row at a dense position, by its index in the row, or none where the
metadata drops it (R211). -/
def keptAt (rd : Reader) (base i kTotal k : Nat) : Option Nat :=
  let g := k / 4
  let b := (rd (base + i * (kTotal / 8) + g / 2)).toNat
  let nib := if g % 2 = 0 then b % 16 else b / 16
  if k % 4 = nib / 4 then some (2 * g + 1) else if k % 4 = nib % 4 then some (2 * g) else none

/-- The bits of A[i][k]. -/
def elemA (m : MatRun) (rd : Reader) (i k : Nat) : Nat :=
  let size2 := fmtSize2 (matCode m.word.fa)
  let base := offsetOf (shBase0 m.shape)
  if isSparse m.op then
    match keptAt rd (offsetOf (shBase0 m.meta_)) i m.k k with
    | some e => runElem rd size2 (base + i * shStride m.shape 1) e
    | none => 0
  else if m.ta then runElem rd size2 (base + k * shStride m.shape 1) i
  else runElem rd size2 (base + i * shStride m.shape 1) k

/-- The exponent pair of row `i`, block `b` of A (R210, R213). -/
def pairA (m : MatRun) (rd : Reader) (i b : Nat) : Nat :=
  readN rd (offsetOf (shBase1 m.shape) + 2 * (i * (m.k / 32) + b)) 2

/-- K positions in one chunk (R113, R115). -/
def chunkLen (f : MatFmt) : Nat :=
  match f with
  | .bf16 | .f16 => 4
  | .e4m3 | .e5m2 => 8
  | _ => 32

/-- The exact sum of products, with the special values of R113. -/
def dotFV (ps : List (FV × FV)) : FV :=
  match ps.map (fun p => (fvMul p.1 p.2).1) with
  | [] => .fin false 0 0
  | x :: xs => xs.foldl (fun a b => (fvAdd .ne a b).1) x

/-- Round an exact f32 sum or product to nearest (R113). -/
def ne32 (x : FV) : Nat := (roundFV .f32 .ne false x).bits

/-- Whether the blocks of a chunk keep the spread limit: always, outside the Electrum formats. -/
def chunkOk (m : MatRun) (rd : Reader) (i j b : Nat) : Bool :=
  !matElectrum m.word.fa || (spreadOk (pairA m rd i b) && spreadOk (slotPair m.slot m.word.fb b j))

/-- One chunk added to an accumulator (R113, R115); a chunk of a bad block is left out (R223)
(log 43, DEDUCED). -/
def chunkStep (m : MatRun) (rd : Reader) (i j : Nat) (acc b : Nat) : Nat :=
  let c := chunkLen m.word.fa
  let x := valueOf .f32 acc
  let pa := if matElectrum m.word.fa then pairA m rd i b else 0
  let pb := if matElectrum m.word.fa then slotPair m.slot m.word.fb b j else 0
  let ps := (List.range c).map (fun n =>
    (matValue m.word.fa pa (elemA m rd i (c * b + n)),
     matValue m.word.fb pb (slotElem m.slot m.word.fb (c * b + n) j)))
  if !chunkOk m rd i j b then acc
  else if matElectrum m.word.fa then
    let sa := (mget 0x3F800000#32 m.scales i).toNat
    let sc := ne32 (fvMul (valueOf .f32 sa) (valueOf .f32 (slotScale m.slot j))).1
    let p := ne32 (fvMul (dotFV ps) (valueOf .f32 sc)).1
    ne32 (fvAdd .ne x (valueOf .f32 p)).1
  else ne32 (fvAdd .ne x (dotFV ps)).1

/-- An element of the result over the chunks from `first` on (R218). -/
def mulElem (m : MatRun) (rd : Reader) (t : Tile) (first n i j : Nat) : Nat :=
  let acc := if m.word.zero && first = 0 then 0 else tileElem t i j
  (List.range n).foldl (fun a b => chunkStep m rd i j a (first + b)) acc

/-- Whether any block that the chunks read breaks the spread limit. -/
def mulBad (m : MatRun) (rd : Reader) (first n : Nat) : Bool :=
  matElectrum m.word.fa && (List.range n).any (fun b =>
    (List.range 64).any (fun i =>
      !spreadOk (pairA m rd i (first + b)) || !spreadOk (slotPair m.slot m.word.fb (first + b) i)))

/-- The tile after some chunks of a multiply (R218, R223): tag f32, and poisoned by the operation where
a block was bad; in a protected launch the shadow accumulates from its own elements (R226). -/
def mulTile (m : MatRun) (rd : Reader) (t : Tile) (first n : Nat) (pc : DWord) (prot : Bool) : Tile :=
  let old := if m.word.zero && first = 0 then none else t.poison
  { elems := tileFrom (mulElem m rd t first n), tag := .f32
    poison := if mulBad m rd first n then some pc else old
    shadow := if prot then tileFrom (mulElem m rd { t with elems := t.shadow } first n) else [] }

/-! ## MZERO, MLDC and MSTC (R220, R221) -/

/-- The tile that `MLDC` leaves. -/
def loadTile (r : BitVec 512) (rd : Reader) (prot : Bool) : Tile :=
  let base := offsetOf (shBase0 r)
  let at_ (i j : Nat) : Nat :=
    if shFmt r = 6 then runElem rd 8 (base + i * shStride r 1) j
    else runElem rd 4 (base + i * shStride r 1) j * 2 ^ 16
  let elems := tileFrom at_
  { elems := elems, tag := if shFmt r = 6 then .f32 else .bf16x2, shadow := if prot then elems else [] }

/-- A zeroed tile (R220). -/
def zeroTile : Tile := { tag := .f32 }

/-- The epilogue of `MSTC` for one element: the f32 value y (R221). -/
def epilogue (t : Tile) (scale : Nat) (bias : Option (Nat → Nat)) (i j : Nat) : Nat :=
  let y := ne32 (fvMul (valueOf .f32 (tileElem t i j)) (valueOf .f32 scale)).1
  match bias with
  | some f => ne32 (fvAdd .ne (valueOf .f32 y) (valueOf .f32 (f j))).1
  | none => y

/-- One row of the output of `MSTC`: its elements, and for an Electrum format its two exponent pairs. -/
def storeRow (fmt : Nat) (sat : Bool) (ys : List Nat) : List Nat × List Nat :=
  if fmt = 6 then (ys.map (fun y => (saturate sat ⟨y, 0#7⟩).bits), [])
  else if fmtElectrum fmt then
    let bs := (blocks32 2 ys).map (fun b => dxEncode (fmt == 4) (b.map (valueOf .f32)))
    (bs.flatMap Prod.fst, bs.map Prod.snd)
  else (ys.map (fun y => (roundFV (matFloat (matOfCode fmt)) .ne sat (valueOf .f32 y)).bits), [])

/-- The bytes that `MSTC` writes, by grant offset (R221). -/
def storeTile (r : BitVec 512) (o : OpX) (t : Tile) (scale : Nat) (bias : Option (Nat → Nat)) :
    Map Byte :=
  let base := offsetOf (shBase0 r)
  let w := 4 * fmtSize2 (shFmt r)
  (List.range 64).foldl (fun m i =>
    let (xs, ps) := storeRow (shFmt r) (o.kn.val % 2 == 1) ((List.range 64).map (epilogue t scale bias i))
    let m := putHeld m (base + i * shStride r 1) (elemBytes w xs)
    if ps.isEmpty then m else putHeld m (offsetOf (shBase1 r) + 4 * i) (elemBytes 16 ps)) []

/-! ## Issue (R214, R215, R222) -/

/-- The checks of an array operation that depend on its operands, in order; none where it is
accepted. -/
structure MatIn where
  handle : Word
  b : Word
  meta_ : Word
  deriving DecidableEq, Repr

/-- The k operands of an array operation: handles and slot numbers under n32, the scale of `MSTC`
under f32 (R214). -/
def readMat (op : Nat) (o : OpX) (v : View) : Sem MatIn := do
  let rd (n : Fin 1024) (t : Tag) : Sem Word := do
    let x ← readTyped v (.k n) t false
    pure (BitVec.ofNat 32 x)
  let h ← if op = 0xC5 then pure 0#32 else rd o.ka .n32
  let b ← if op = 0xC0 ∨ op = 0xC1 ∨ op = 0xC2 then rd o.kb .n32
    else if op = 0xC7 then rd o.kb .f32 else pure 0#32
  let m ← if op = 0xC2 ∨ (op = 0xC7 ∧ o.kn.val / 2 = 1) then rd o.km .n32 else pure 0#32
  pure ⟨h, b, m⟩

/-- The k registers of an array operation. -/
def useMat (op : Nat) (o : OpX) : List RegUse :=
  (if op = 0xC5 then [] else useK o.ka.val 1) ++
  (if op = 0xC5 ∨ op = 0xC6 then [] else useK o.kb.val 1) ++
  (if op = 0xC2 ∨ (op = 0xC7 ∧ o.kn.val / 2 = 1) then useK o.km.val 1 else [])

/-- Whether a bias record is accepted (R221). -/
def biasOk (s : State) (g : Group) (r : BitVec 512) : Bool :=
  shFmt r == 6 && shNdim r == 1 && shDim r 0 == 64 && shScale r == 0 && baseOk s g (shBase0 r) 64 256

/-- The checks of a multiply: the K it computes, or its fault. -/
def checkMul (s : State) (c : Ctx) (op : Nat) (o : OpX) (x : MatIn) : Except Cause (Nat × List (BitVec 512)) :=
  match shapeOf s c.g x.handle with
  | none => .error cShape
  | some r =>
    let k := matK op o r
    let slot := slotOf (blockOf s c.g.block) (corePlace s c.g.block c.g.core) x.b.toNat
    let m := if isSparse op then shapeOf s c.g x.meta_ else some 0#512
    if !recordAOk s c.g op o r k then .error cShape
    else if isSparse op && !m.any (fun r => metaOk s c.g r k) then .error cShape
    else if !slotOk slot o.fb k then .error cShape
    else .ok (k, [r, m.getD 0#512])

/-- The checks of an array operation past its tags (R222): K and the captured records. -/
def checkMat (s : State) (c : Ctx) (op : Nat) (o : OpX) (x : MatIn) :
    Except Cause (Nat × List (BitVec 512)) :=
  if op = 0xC0 ∨ op = 0xC1 ∨ op = 0xC2 then
    if x.b.toNat ≥ lrSlots (c.launch s).rcd then .error cRange
    else if isPaired op && (pairPos c.g.core = 1 ||
        !(pairCores c.g.core).all (blockOf s c.g.block).cores.contains) then .error cMisuse
    else checkMul s c op o x
  else if op = 0xC6 then
    match shapeOf s c.g x.handle with
    | some r => if (shFmt r = 6 ∨ shFmt r = 0) ∧ squareOk s c.g r = true then .ok (0, [r]) else .error cShape
    | none => .error cShape
  else if op = 0xC7 then
    match shapeOf s c.g x.handle with
    | none => .error cShape
    | some r =>
      let b := if o.kn.val / 2 = 1 then shapeOf s c.g x.meta_ else some 0#512
      if !(shFmt r ≤ 6 && squareOk s c.g r) then .error cShape
      else if o.kn.val / 2 = 1 && !b.any (biasOk s c.g) then .error cShape
      else .ok (0, [r, b.getD 0#512])
  else .ok (0, [])

/-- Whether an operation reads or discards the poison of its tile: `MZERO`, and a multiply with ZERO,
discard it (R223). -/
def meetsPoison (op : Nat) (o : OpX) : Bool :=
  op == 0xC6 || op == 0xC7 || ((op == 0xC0 || op == 0xC1 || op == 0xC2) && !o.zero)

/-- Where a scale vector is read: nowhere, or at a place with the translations captured for it; or what stops it. -/
inductive ScaleAt
  | ok (p : Option Place) (pages : Map Nat)
  | stop (x : Cause)
  | miss (page : Nat)

/-- The pieces of `n` bytes on captured pages: those of each page. -/
def pagePieces (m : Map Nat) (va n : Nat) : List (Nat × Nat) :=
  (pagesOf va n).map (fun p =>
    let lo := max va (p * 4096)
    (pageByte m lo, min (va + n) ((p + 1) * 4096) - lo))

/-- The place of a scale vector at a generic address, checked and translated at issue (R210, R230, R231, R301); 64
words that cross a quarter make a shape fault (log 47, DEDUCED). -/
def scaleAt (s : State) (c : Ctx) (scale : Nat) : ScaleAt :=
  let va := BitVec.ofNat 64 scale
  if scale = 0 then .ok none []
  else if scale / 2 ^ 56 = 0xFE then
    if scale % 2 ^ 56 / 2 ^ 21 ≠ 0 then .stop (cWindow va)
    else if scale % 2 ^ 17 + 256 > 2 ^ 17 then .stop cShape
    else
      match blockPos s (blockOf s c.g.block) (scale / 2 ^ 17 % 4) with
      | none => .stop (cAbsent va)
      | some pos =>
        if !inGrant s c.g (offsetOf scale) 256 then .stop (cGrant va)
        else if scale % 4 ≠ 0 then .stop (cAlign va)
        else .ok (some (.scratch c.g.block pos (offsetOf scale) 256)) []
  else if scale ≥ 2 ^ 56 then .stop (cWindow va)
  else if scale % 4 ≠ 0 then .stop (cAlign va)
  else
    match pagesAt s c ((pagesOf scale 256).map (fun p => (p, [.read])))
        (fun _ pt => pt == .device || pt == .strong) with
    | .ok m => .ok (some (.phys (pagePieces m scale 256))) m
    | .stop x => .stop x
    | .miss page => .miss page

/-- The physical address of byte `k` of a run of pieces. -/
def pieceAt : List (Nat × Nat) → Nat → Nat
  | [], _ => 0
  | (pa, n) :: rest, k => if k < n then pa + k else pieceAt rest (k - n)

/-- Sixty-four words at a place, 1.0 not listed: by a reader of global memory and one of the scratchpads. -/
def words64 (rd : Reader) (sp : Nat → Reader) (p : Option Place) : Map Word :=
  let word (i : Nat) : Nat :=
    match p with
    | none => 0x3F800000
    | some (.phys ps) => readN (fun k => rd (pieceAt ps k)) (4 * i) 4
    | some (.scratch _ pos off _) => readN (sp pos) (off + 4 * i) 4
  (List.range 64).filterMap (fun i =>
    let x := BitVec.ofNat 32 (word i)
    if x = 0x3F800000#32 then none else some (i, x))

/-- The scale vector at a place as the group reads it now. -/
def readScales (s : State) (g : Group) (p : Option Place) : Map Word :=
  words64 (groupByte s g) (scratchByte s g.block) p

/-- The captured registers of an array operation: 0 the handle, 1 B or the scale, 2 the third. -/
def matRegs (x : MatIn) : Map Word := [(0, x.handle), (1, x.b), (2, x.meta_)]

/-- An accepted operation put at the end of a core's queue. -/
def acceptMat (s : State) (core : Nat) (w : MatOp) : State :=
  modCore s core (fun k => { k with matrix := k.matrix ++ [w] })

/-- The gang of a matrix instruction goes on. -/
def afterMat (c : Ctx) (s : State) (fl : Flags × Flags) : State := commitUni c s ⟨{}, fl.1, {}, fl.2⟩

/-- Whether the operands of an accepted operation need the row scales of its record (R210). -/
def needsScales (op : Nat) (o : OpX) : Bool :=
  (op == 0xC0 || op == 0xC1 || op == 0xC2) && matElectrum o.fa

/-- The place of the row scales on the follower of an `MMAP`: a vector in the leader's own scratchpad is read at the
same offsets of the follower's, as A is (R219) (log 47, DEDUCED). -/
def followerScale (pos peerPos : Nat) : Option Place → Option Place
  | some (.scratch b p off n) => some (.scratch b (if p = pos then peerPos else p) off n)
  | p => p

/-- An array operation accepted, on the follower too for `MMAP` (R215, R219). -/
def acceptOp (c : Ctx) (s : State) (op : Nat) (o : OpX) (x : MatIn) (k : Nat)
    (shapes : List (BitVec 512)) (scale : Option Place) (pages : Map Nat) (fl : Flags × Flags) : State :=
  let pos := corePlace s c.g.block c.g.core
  let peer := pairPeer c.g.core
  let peerPos := corePlace s c.g.block peer
  let cap := capture c s op (matRegs x)
  let w : MatOp := { cap := cap, word := o, shapes := shapes, k := k, scale := scale, pages := pages,
                     old := (blockOf s c.g.block).scratch,
                     peerCore := if isPaired op then some peer else none }
  let s := afterMat c { s with nextId := s.nextId + 2 } fl
  let s := acceptMat s c.g.core w
  if isPaired op then
    acceptMat s peer { w with
      cap := { cap with id := cap.id + 1, pos := peerPos }
      scale := followerScale pos peerPos scale
      peerCore := some c.g.core, follower := true }
  else s

/-- Whether an accepted operation discards its tile's contents, poison included: `MZERO`, and a multiply with ZERO
(R223). -/
def discards (w : MatOp) : Bool :=
  w.cap.op == 0xC5 || ((w.cap.op == 0xC0 || w.cap.op == 0xC1 || w.cap.op == 0xC2) && w.word.zero)

/-- The poison that an instruction finds on a tile of a core, unless an operation accepted there discards it
(R223). -/
def tilePoison (s : State) (bid core n : Nat) : Option DWord :=
  if (coreOf s core).matrix.any (fun w => w.cap.block == bid && w.word.mt.val == n && discards w) then none
  else (tileOf (blockOf s bid) (corePlace s bid core) n).poison

/-- The poison that an array operation finds, on the follower too for `MMAP`. -/
def opPoison (s : State) (c : Ctx) (op n : Nat) : Option DWord :=
  (tilePoison s c.g.block c.g.core n).or
    (if isPaired op then tilePoison s c.g.block (pairPeer c.g.core) n else none)

/-- An array operation issued (R215, R222): every check, then the waits for a filling slot and for room
in the array's queue, then acceptance. -/
def issueMat (i : Instr) (op : Nat) (o : OpX) (s : State) : Out :=
  withGang i s (fun c => .next (
    if o.mt.val ≥ lrTiles (c.launch s).rcd then trapLanes c s cRange c.gang
    else
      withUniform c s noPred (useMat op o) (readMat op o) (fun r =>
        match checkMat s c op o r.1 with
        | .error x => trapLanes c s x c.gang
        | .ok (k, shapes) =>
          let pos := corePlace s c.g.block c.g.core
          let peer := pairPeer c.g.core
          let scale := if needsScales op o then shScale (shapes.headD 0#512) else 0
          match opPoison s c op o.mt.val, meetsPoison op o with
          | some a, true => trapLanes c s (cPoison a) c.gang
          | _, _ =>
            match scaleAt s c scale with
            | .stop x => trapLanes c s x c.gang
            | .miss page => missLanes c s c.gang page [(lowest c.gang, BitVec.ofNat 64 (page * 4096))]
            | .ok p pages =>
              let filling := (op = 0xC0 || op = 0xC1 || op = 0xC2) &&
                (slotOf (blockOf s c.g.block) pos r.1.b.toNat).filling
              let full := (coreOf s c.g.core).matrix.length ≥ 4 ||
                (isPaired op && (coreOf s peer).matrix.length ≥ 4)
              if filling || full then blockLanes c s c.gang .retry
              else whenPerformed c s (fun s => acceptOp c s op o r.1 k shapes p pages r.2)) (m := .free)))

/-- `MMA` (R218). -/
def execMma (o : OpX) (s : State) : Out := issueMat (.mma o) 0xC0 o s

/-- `MMAP` (R219). -/
def execMmap (o : OpX) (s : State) : Out := issueMat (.mmap o) 0xC1 o s

/-- `MMAS` (R213, R218). -/
def execMmas (o : OpX) (s : State) : Out := issueMat (.mmas o) 0xC2 o s

/-- `MZERO` (R220). -/
def execMzero (o : OpX) (s : State) : Out := issueMat (.mzero o) 0xC5 o s

/-- `MLDC` (R220). -/
def execMldc (o : OpX) (s : State) : Out := issueMat (.mldc o) 0xC6 o s

/-- `MSTC` (R221). -/
def execMstc (o : OpX) (s : State) : Out := issueMat (.mstc o) 0xC7 o s

/-- Whether a core's queue holds an unretired operation of a block that was accepted before a bound, naming a tile
where one is given. -/
def matPending (s : State) (core bid bound : Nat) (tile : Option Nat) : Bool :=
  (coreOf s core).matrix.any (fun w =>
    w.cap.block == bid && w.cap.id < bound && tile.all (fun n => w.word.mt.val == n))

/-- The tiles an `MWAIT` names: one, or every declared one. -/
def waitTiles (s : State) (c : Ctx) (o : OpX) : List Nat :=
  if o.zero then List.range (lrTiles (c.launch s).rcd) else [o.mt.val]

/-- An `MWAIT` that looks at the array, for the operations accepted before a bound (R217, R223, R226). -/
def tryMwait (o : OpX) (bound : Nat) (c : Ctx) (s : State) : State :=
  let t := tileOf (blockOf s c.g.block) (corePlace s c.g.block c.g.core)
  let ts := waitTiles s c o
  match ts.findSome? (tilePoison s c.g.block c.g.core) with
  | some a => trapLanes c s (cPoison a) c.gang
  | none =>
    if matPending s c.g.core c.g.block bound (if o.zero then none else some o.mt.val) then
      blockLanes c (beginAwait c s { pc := c.pc, bound := bound } (0#7, 0#7)) c.gang .retry
    else if isProt s c.g && ts.any (fun n => (t n).shadow != (t n).elems) then
      trapLanes c s (cMismatch true) c.gang
    else endAwait c (advance c s c.gang)

/-- `MWAIT` (R217, R223): a poisoned tile raises the format fault; else the gang waits until every operation accepted
before the `MWAIT` issued that names the tile has retired. -/
def execMwait (o : OpX) (s : State) : Out :=
  withGang (.mwait o) s (fun c => .next (
    withAwait c s (fun c s a => tryMwait o a.bound c s)
      (fun c s =>
        if !o.zero && o.mt.val ≥ lrTiles (c.launch s).rcd then trapLanes c s cRange c.gang
        else tryMwait o s.nextId c s)))

/-- A `MOPR` that looks at the arrays, for the group's operations accepted before a bound. -/
def tryMopr (bound : Nat) (c : Ctx) (s : State) : State :=
  if s.cores.any (fun k => k.2.matrix.any (fun w => w.cap.group == c.gid && w.cap.id < bound && !w.released)) then
    blockLanes c (beginAwait c s { pc := c.pc, bound := bound } (0#7, 0#7)) c.gang .retry
  else endAwait c (advance c s c.gang)

/-- `MOPR` (R217): the gang waits until the group's operations accepted before it issued have released their
operands. -/
def execMopr (o : OpX) (s : State) : Out :=
  withGang (.mopr o) s (fun c => .next (
    withAwait c s (fun c s a => tryMopr a.bound c s) (fun c s => tryMopr s.nextId c s)))

/-! ## The array (R215, R216, R219) -/

/-- An operation of a core by its id. -/
def matOf (s : State) (core id : Nat) : Option MatOp :=
  (coreOf s core).matrix.find? (fun w => w.cap.id == id)

/-- A change of an operation of a core. -/
def modMat (s : State) (core id : Nat) (f : MatOp → MatOp) : State :=
  modCore s core (fun k => { k with matrix := modFirst (fun w => w.cap.id == id) f k.matrix })

/-- Whether an operation writes its tile: all but an `MSTC` without ZERO. -/
def writesTile (w : MatOp) : Bool := w.cap.op != 0xC7 || w.word.zero

/-- Whether two operations name the same tile. -/
def sameTile (w e : MatOp) : Bool := e.cap.block == w.cap.block && e.word.mt == w.word.mt

/-- Whether an operation waits until an earlier one has retired (R216): every writer of its tile, and for one that
only reads the tile, those of its own group. -/
def waitsFor (w e : MatOp) : Bool :=
  sameTile w e && writesTile e && (writesTile w || e.cap.group == w.cap.group)

/-- Whether an operation may pass an earlier one that has not started: that one waits for another of `before`, and
names another tile; a paired half on the follower passes none (R17, R216, R219). -/
def mayPass (before : List MatOp) (w e : MatOp) : Bool :=
  e.started || e.released || (before.any (waitsFor e) && !sameTile w e && !w.follower)

/-- Whether the operations accepted before one, in order, let it start; those after the follower's half of an
`MMAP` wait until it retires. -/
def passes (w : MatOp) : List MatOp → List MatOp → Bool
  | _, [] => true
  | before, e :: rest => mayPass before w e && !waitsFor w e && !e.follower && passes w (before ++ [e]) rest

/-- Whether the array of a core may start an operation: it runs one at a time, in acceptance order except where an
operation waits for an earlier one (R216). -/
def mayStart (s : State) (core : Nat) (w : MatOp) : Bool :=
  let ws := (coreOf s core).matrix
  let earlier := ws.takeWhile (fun e => e.cap.id != w.cap.id)
  !w.started && !w.released && !(coreOf s core).stopped && ws.all (fun e => !e.started || e.released) &&
    passes w [] earlier

/-- The id of the other half of a paired operation. -/
def peerId (w : MatOp) : Nat := if w.follower then w.cap.id - 1 else w.cap.id + 1

/-- `MATRIX_OP_START` (R216, R219): an operation that may start begins; the two halves of an `MMAP` begin
together. -/
def execMatrixOpStart (core id : Nat) (s : State) : Out :=
  match matOf s core id with
  | none => notEnabled
  | some w =>
    let go (w : MatOp) : MatOp := { w with started := true }
    if !mayStart s core w || w.follower then notEnabled
    else
      match w.peerCore with
      | none => .next (modMat s core id go)
      | some p =>
        match matOf s p (peerId w) with
        | none => notEnabled
        | some x =>
          if mayStart s p x then .next (modMat (modMat s core id go) p (peerId w) go) else notEnabled

/-- A byte of scratchpad as an operation reads it: in each 64-byte segment, what stood there when it was accepted, or
what stands there now (R224). -/
def operandByte (s : State) (w : MatOp) (pos : Nat) : Reader := fun off =>
  if freeChoice s (16384 + pos * 8192 + off / 64) then mget 0#8 w.old (scratchKey pos off)
  else scratchByte s w.cap.block pos off

/-- A tile as an operation reads it: where an earlier operation has formed its result and not retired, each 64-byte
segment of a row is old or new (R224). -/
def operandTile (s : State) (core : Nat) (w : MatOp) : Tile :=
  let t := tileOf (blockOf s w.cap.block) w.cap.pos w.word.mt.val
  let earlier := (coreOf s core).matrix.takeWhile (fun e => e.cap.id != w.cap.id)
  match (earlier.filter (sameTile w)).findSome? (fun e => e.result) with
  | none => t
  | some z =>
    let mix (old new : Tile) : Map Word := tileFrom (fun i j =>
      if freeChoice s (4096 + (i * 64 + j) / 16) then tileElem old i j else tileElem new i j)
    let twin (y : Tile) : Tile := { y with elems := y.shadow }
    { t with elems := mix t z, shadow := if t.shadow.isEmpty && z.shadow.isEmpty then [] else mix (twin t) (twin z) }

/-- The multiply of an operation, from the block's state. -/
def runOf (s : State) (core : Nat) (w : MatOp) : MatRun :=
  let b := blockOf s w.cap.block
  let leader := match w.follower, w.peerCore with
    | true, some p => corePlace s w.cap.block p
    | _, _ => w.cap.pos
  { op := w.cap.op, word := w.word, shape := w.shapes.headD 0#512, meta_ := (w.shapes[1]?).getD 0#512,
    slot := slotOf b leader (capReg w.cap.regs 1).toNat, k := w.k,
    ta := w.word.ta && (!isPaired w.cap.op || w.follower),
    scales := words64 (overBuffer b.buffer (coreByte s core)) (operandByte s w) w.scale }

/-- Whether a block belongs to a protected launch. -/
def blockProt (s : State) (bid : Nat) : Bool := lrProt (launchOf s (blockOf s bid).launch).rcd

/-- The chunks of an operation. -/
def chunksOf (w : MatOp) : Nat :=
  if w.cap.op = 0xC0 ∨ w.cap.op = 0xC1 ∨ w.cap.op = 0xC2 then w.k / chunkLen w.word.fa else 0

/-- The chunks an operation has still to do. -/
def chunksLeft (w : MatOp) : Nat := chunksOf w - w.chunks

/-- The operands of an operation read and its result formed (R215, R218..R221) (log 24, DEDUCED). -/
def computeMat (s : State) (core : Nat) (w : MatOp) : MatOp :=
  let t := operandTile s core w
  let rd := operandByte s w w.cap.pos
  let prot := blockProt s w.cap.block
  let r0 := w.shapes.headD 0#512
  match w.cap.op with
  | 0xC5 => { w with released := true, result := some zeroTile }
  | 0xC6 => { w with released := true, result := some (loadTile r0 rd prot) }
  | 0xC7 =>
    let b := (w.shapes[1]?).getD 0#512
    let bias := if w.word.kn.val / 2 = 1 then some (fun j => readN rd (offsetOf (shBase0 b) + 4 * j) 4)
      else none
    { w with
      released := true
      out := storeTile r0 w.word t (capReg w.cap.regs 1).toNat bias
      result := if w.word.zero then some zeroTile else none }
  | _ =>
    { w with
      released := true
      result := some (mulTile (runOf s core w) rd t w.chunks (chunksLeft w) w.cap.pc prot) }

/-- Bytes of scratchpad written for an operation. -/
def writeOut (s : State) (w : MatOp) (out : Map Byte) : State :=
  out.foldl (fun s b => writeScratch s w.cap.block w.cap.pos b.1 [b.2]) s

/-- The 64-byte segments of its output that an operation has written when it releases its operands; the others follow
when it retires (R224). -/
def earlySegments (s : State) (out : Map Byte) : Map Byte :=
  mfilter (fun a _ => freeChoice s (8192 + a / 64)) out

/-- `MATRIX_OPERAND_RELEASE` (R215): a running operation has read its last operand byte. In a protected launch an
`MSTC` compares its tile with the shadow (R226). -/
def execMatrixOperandRelease (core id : Nat) (s : State) : Out :=
  match matOf s core id with
  | none => notEnabled
  | some w =>
    let t := operandTile s core w
    let x := computeMat s core w
    if !w.started ∨ w.released = true ∨ (coreOf s core).stopped = true then notEnabled
    else if w.cap.op = 0xC7 ∧ blockProt s w.cap.block = true ∧ t.shadow ≠ t.elems then
      .next (recoverBlock s w.cap.block core { cls := 0x13, pc := w.cap.pc, kill := true })
    else
      let rest := mfilter (fun a _ => !freeChoice s (8192 + a / 64)) x.out
      .next (writeOut (modMat s core id (fun _ => { x with out := rest })) w (earlySegments s x.out))

/-- The writes of an operation (R215, R220, R221). -/
def commitMat (s : State) (w : MatOp) : State :=
  let s := match w.result with
    | some t => setTile s w.cap.block w.cap.pos w.word.mt.val t
    | none => s
  writeOut s w w.out

/-- An operation leaves its core's queue. -/
def dropMat (s : State) (core id : Nat) : State :=
  modCore s core (fun k => { k with matrix := k.matrix.filter (fun w => w.cap.id ≠ id) })

/-- `MATRIX_OP_RETIRE` (R215, R219): the last write of an operation is done; both halves of an `MMAP`
retire together. -/
def execMatrixOpRetire (core id : Nat) (s : State) : Out :=
  match matOf s core id with
  | none => notEnabled
  | some w =>
    if !w.released ∨ w.follower = true ∨ (coreOf s core).stopped = true then notEnabled
    else
      match w.peerCore with
      | none => .next (dropMat (commitMat s w) core id)
      | some p =>
        match matOf s p (peerId w) with
        | none => notEnabled
        | some x =>
          if !x.released ∨ (coreOf s p).stopped = true then notEnabled
          else .next (dropMat (dropMat (commitMat (commitMat s w) x) core id) p (peerId w))

/-- Whether the other half of an `MMAP` has still to release its operands. -/
def peerReads (s : State) (w : MatOp) : Bool :=
  match w.peerCore with
  | some p => (matOf s p (peerId w)).any (fun x => !x.released)
  | none => false

/-- An operation stopped at a chunk boundary (R225): the tile holds the accumulator through the last
completed chunk. An operation that has released its operands completes; one whose other half has not waits for it
with all its chunks done. -/
def stopMat (s : State) (core n : Nat) (w : MatOp) : State :=
  if w.released && peerReads s w then
    modMat (commitMat s w) core w.cap.id (fun w =>
      { w with started := false, released := false, chunks := chunksOf w, result := none })
  else if w.released then dropMat (commitMat s w) core w.cap.id
  else if !w.started ∨ chunksLeft w = 0 then modMat s core w.cap.id (fun w => { w with started := false })
  else
    let n := n % (chunksLeft w + 1)
    let t := mulTile (runOf s core w) (operandByte s w w.cap.pos) (operandTile s core w) w.chunks n w.cap.pc
      (blockProt s w.cap.block)
    let s := if n = 0 then s else setTile s w.cap.block w.cap.pos w.word.mt.val t
    modMat s core w.cap.id (fun w => { w with started := false, chunks := w.chunks + n })

end Sys2Proof.Machine
end

