-- ==== Sys2Proof/Machine/Copies.lean ====
section
/-! DEFINITION. The copy engine: `CPY`, `CPYM`, `CPYX`, `CPYW` and their landings (R295..R305). -/

namespace Sys2Proof.Machine

/-! ## Geometry (R296, R300, R301) -/

/-- The instructions by their opcodes. -/
def isExpand (op : Nat) : Bool := op == 0x92
def isFill (op : Nat) : Bool := op == 0x93

/-- Twice the element size of a record. -/
def copySize2 (r : BitVec 512) : Nat := fmtSize2 (shFmt r)

/-- Elements of a row of the box as it lands. -/
def copyB0 (op : Nat) (r : BitVec 512) : Nat := if isExpand op then 2 * shBox r 0 else shBox r 0

/-- Bytes of a row of the box as it lands, without its exponent pairs. -/
def copyRowBytes (op : Nat) (r : BitVec 512) : Nat := copyB0 op r * copySize2 r / 2

/-- The row pitch P. -/
def copyPitch (op : Nat) (o : OpQ) (r : BitVec 512) : Nat :=
  if isFill op then copyRowBytes op r
  else if o.seg.val ≠ 0 then 64 * o.seg.val
  else (copyRowBytes op r + 63) / 64 * 64

/-- Bytes of exponent pairs of a row. -/
def copyPairBytes (r : BitVec 512) : Nat := 2 * boxPairs r

/-- The byte count N of a box. -/
def copyCount (op : Nat) (r : BitVec 512) : Nat :=
  boxRows r * (copyRowBytes op r + copyPairBytes r)

/-- The scratchpad bytes from D to the end of the box. -/
def copyExtent (op : Nat) (o : OpQ) (r : BitVec 512) : Nat :=
  if copyPairBytes r = 0 then (boxRows r - 1) * copyPitch op o r + copyRowBytes op r
  else boxRows r * (copyPitch op o r + copyPairBytes r)

/-- One landing (R298): bytes `off`.. of a row, of its exponent pairs where `pairs` says so, and its
first destination byte: a grant offset, a byte of a slot's image, or a global address. -/
structure Landing where
  pairs : Bool
  row : Nat
  off : Nat
  n : Nat
  dst : Nat
  deriving DecidableEq, Repr

/-- A run of `n` bytes from a destination cut at the 64-byte boundaries: offset and length. -/
def cutRun (a n : Nat) : List (Nat × Nat) :=
  (List.range ((a % 64 + n + 63) / 64)).map (fun q =>
    let lo := 64 * q - a % 64
    (lo, min n (64 * (q + 1) - a % 64) - lo))

/-- The landings of one row. -/
def rowLandings (pairs : Bool) (row a n : Nat) : List Landing :=
  (cutRun a n).map (fun x => ⟨pairs, row, x.1, x.2, a + x.1⟩)

/-- The landings of a copy, numbered by their place in this list. A landing of `CPYW` is 64 bytes of
the slot's image. -/
def landings (op : Nat) (o : OpQ) (r : BitVec 512) (d i : Nat) : List Landing :=
  let rows := List.range (boxRows r)
  let nb := copyRowBytes op r
  let np := copyPairBytes r
  if isFill op then
    (cutRun 0 (copyCount op r)).map (fun x => ⟨false, 0, x.1, x.2, x.1⟩)
  else if o.dir.val = 1 then
    rows.flatMap (fun row => rowLandings false row (rowAddr r i row) nb) ++
      (if np = 0 then [] else rows.flatMap (fun row => rowLandings true row (pairAddr r i row 0) np))
  else
    let p := copyPitch op o r
    rows.flatMap (fun row => rowLandings false row (d + row * p) nb) ++
      (if np = 0 then []
       else rows.flatMap (fun row => rowLandings true row (d + boxRows r * p + row * np) np))

/-- The half bytes of a row of a box that lie inside the tensor, from its first. -/
def rowHalvesInside (r : BitVec 512) (i row : Nat) : Nat :=
  if rowInside r i row then min (shBox r 0) (shDim r 0 - boxOrigin r i 0) * copySize2 r else 0

/-- The bytes of a row of a box that lie inside the tensor, in whole or in half. -/
def rowBytesInside (r : BitVec 512) (i row : Nat) : Nat := (rowHalvesInside r i row + 1) / 2

/-- Whether only the low half of byte `k` of a row lies inside the tensor: DX4 elements are half a byte. -/
def halfInside (r : BitVec 512) (i row k : Nat) : Bool := rowHalvesInside r i row == 2 * k + 1

/-- The bytes of exponent pairs of a row of a box that belong to the tensor. -/
def pairBytesInside (r : BitVec 512) (i row : Nat) : Nat :=
  2 * ((List.range (boxPairs r)).filter (pairInside r i row)).length

/-- The runs of global memory that one row of a box touches: address and length. -/
def rowRuns (r : BitVec 512) (i row : Nat) : List (Nat × Nat) :=
  [(rowAddr r i row, rowBytesInside r i row), (pairAddr r i row 0, pairBytesInside r i row)].filter
    (fun x => x.2 ≠ 0)

/-- The global pages that a box touches. -/
def boxPages (r : BitVec 512) (i : Nat) : List Nat :=
  ((List.range (boxRows r)).flatMap (fun row =>
    (rowRuns r i row).flatMap (fun x => pagesOf x.1 x.2))).eraseDups

/-! ## Source bytes -/

/-- Byte `k` of a row of a box, zero outside the tensor. -/
def rowByte (rd : Reader) (r : BitVec 512) (i row k : Nat) : Byte :=
  if k < rowBytesInside r i row then
    if halfInside r i row k then rd (rowAddr r i row + k) &&& 0x0F#8 else rd (rowAddr r i row + k)
  else 0#8

/-- Byte `k` of the exponent pairs of a row of a box, zero outside the tensor. -/
def pairRowByte (rd : Reader) (r : BitVec 512) (i row k : Nat) : Byte :=
  if k < pairBytesInside r i row then rd (pairAddr r i row 0 + k) else 0#8

/-- The dense element at position `k` of a row that `CPYX` expands (R211, R300). -/
def expandElem (rd : Reader) (r md : BitVec 512) (i row k : Nat) : Nat :=
  let b := (rowByte rd md i row (k / 8)).toNat
  let nib := if k / 4 % 2 = 0 then b % 16 else b / 16
  let kept (e : Nat) : Nat := runElem (rowByte rd r i row) (copySize2 r) 0 e
  if k % 4 = nib / 4 then kept (k / 4 * 2 + 1) else if k % 4 = nib % 4 then kept (k / 4 * 2) else 0

/-- Byte `k` of a row as it lands. -/
def landByte (op : Nat) (rd : Reader) (r md : BitVec 512) (i row k : Nat) : Byte :=
  if isExpand op then
    if copySize2 r = 1 then
      BitVec.ofNat 8 (expandElem rd r md i row (2 * k) + 16 * expandElem rd r md i row (2 * k + 1))
    else
      let z := copySize2 r / 2
      BitVec.ofNat 8 (expandElem rd r md i row (k / z) / 256 ^ (k % z))
  else rowByte rd r i row k

/-- Byte `a` of the image that `CPYW` fills: the element plane, then the exponent plane (R207). -/
def imageByte (rd : Reader) (r : BitVec 512) (i a : Nat) : Byte :=
  let nb := copyRowBytes 0x93 r
  let np := copyPairBytes r
  if a < boxRows r * nb then rowByte rd r i (a / nb) (a % nb)
  else pairRowByte rd r i ((a - boxRows r * nb) / np) ((a - boxRows r * nb) % np)

/-- The bytes of a landing of a load. -/
def landBytes (op : Nat) (rd : Reader) (r md : BitVec 512) (i : Nat) (x : Landing) : List Byte :=
  (List.range x.n).map (fun k =>
    if isFill op then imageByte rd r i (x.off + k)
    else if x.pairs then pairRowByte rd r i x.row (x.off + k)
    else landByte op rd r md i x.row (x.off + k))

/-! ## Issue (R295, R297) -/

/-- The operands of a copy: the offset or slot, the handle, the box index, the metadata handle and the
sync word's offset. -/
structure CopyIn where
  d : Nat
  h : Nat
  i : Nat
  m : Nat
  y : Nat
  deriving DecidableEq, Repr

/-- The operands read under n32. -/
def readCopy (op : Nat) (o : OpQ) (v : View) : Sem CopyIn := do
  let rd (n : Nat) : Sem Nat := readTyped v (.k (finOf 1024 n)) .n32 false
  let d ← rd o.kd.val
  let h ← rd o.ks.val
  let i ← rd (o.ks.val + 1)
  let m ← if isExpand op then rd (o.ks.val + 2) else pure 0
  let y ← rd o.ky.val
  pure ⟨d, h, i, m, y⟩

/-- The k registers of a copy. -/
def useCopy (op : Nat) (o : OpQ) : List RegUse :=
  useK o.kd.val 1 ++ useK o.ks.val (if isExpand op then 3 else 2) ++ useK o.ky.val 1

/-- Whether a record's format suits an instruction (R297, R212, R300). -/
def copyFmtOk (op : Nat) (r : BitVec 512) : Bool :=
  if isExpand op then shFmt r ≤ 5 && (shCmp r == fmtElectrum (shFmt r))
  else if isFill op then shFmt r ≤ 5 && !shCmp r
  else shFmt r ≤ 11

/-- Whether a record and a box index suit an instruction: the shape fault where not. -/
def copyShapeOk (op : Nat) (o : OpQ) (r : BitVec 512) (i : Nat) : Bool :=
  copyFmtOk op r && i < boxCount r && (!fmtElectrum (shFmt r) || shBox r 0 % 32 == 0) &&
  (o.seg.val == 0 || 64 * o.seg.val ≥ copyRowBytes op r) &&
  (!isFill op || (shBox r 0 == 64 && boxRows r ≤ slotMaxRows (matOfCode (shFmt r))))

/-- Whether a global-side record's bases lie in the global window (R297). -/
def globalBases (r : BitVec 512) : Bool :=
  shBase0 r < 2 ^ 56 && (!fmtElectrum (shFmt r) || shBase1 r < 2 ^ 56)

/-- The checks of a copy, with its records and its receivers by their places among the block's cores
(R297, R299). -/
def checkCopy (s : State) (c : Ctx) (op : Nat) (o : OpQ) (x : CopyIn) :
    Except Cause (BitVec 512 × BitVec 512 × List Nat) :=
  if isFill op ∧ x.d ≥ lrSlots (c.launch s).rcd then .error cRange
  else
    let md := if isExpand op then shapeOf s c.g (BitVec.ofNat 32 x.m) else some 0#512
    let own := corePlace s c.g.block c.g.core
    let places := if o.mask.val = 0 then some [own] else maskPlaces s c.g o.mask.val
    match shapeOf s c.g (BitVec.ofNat 32 x.h), md with
    | some r, some md =>
      if !copyShapeOk op o r x.i then .error cShape
      else if isExpand op ∧ (shFmt md ≠ 7 ∨ x.i ≥ boxCount md) then .error cShape
      else if !globalBases r then .error (cWindow (BitVec.ofNat 64 (shBase0 r)))
      else if !globalBases md then .error (cWindow (BitVec.ofNat 64 (shBase0 md)))
      else if !isFill op ∧ !inGrant s c.g x.d (copyExtent op o r) then
        .error (cGrant (BitVec.ofNat 64 x.d))
      else if !inGrant s c.g x.y 8 then .error (cGrant (BitVec.ofNat 64 x.y))
      else
        match places with
        | none => .error (cAbsent (BitVec.ofNat 64 x.d))
        | some ps =>
          if !isFill op ∧ x.d % 64 ≠ 0 then .error (cAlign (BitVec.ofNat 64 x.d))
          else if x.y % 8 ≠ 0 then .error (cAlign (BitVec.ofNat 64 x.y))
          else .ok (r, md, ps)
    | _, _ => .error cShape

/-- The pages of a copy with their uses. -/
def copyPages (op : Nat) (o : OpQ) (r md : BitVec 512) (i : Nat) : List (Nat × List PageUse) :=
  let u : PageUse := if o.dir.val = 1 then .write else .read
  (boxPages r i).map (fun p => (p, [u])) ++
    (if isExpand op then (boxPages md i).map (fun p => (p, [.read])) else [])

/-- Whether an accepted multiply of a core still reads a slot of a block (R209); the follower of an
`MMAP` reads its leader's slot. -/
def readsSlot (s : State) (bid core slot : Nat) : Bool :=
  (pairCores core).any (fun k => (coreOf s k).matrix.any (fun w =>
    w.cap.block == bid && !w.released &&
    (w.cap.op == 0xC0 || w.cap.op == 0xC1 || w.cap.op == 0xC2) &&
    (capReg w.cap.regs 1).toNat == slot && (k == core || w.follower)))

/-- Whether a slot may not be filled yet (R209, R301). -/
def slotBusy (s : State) (c : Ctx) (slot : Nat) : Bool :=
  (slotOf (blockOf s c.g.block) (corePlace s c.g.block c.g.core) slot).filling ||
    readsSlot s c.g.block c.g.core slot

/-- The captured operands of a copy: 0 D or the slot, 1 the sync word's offset, 2 the box index, 3 the
set of receiving places. -/
def copyRegs (x : CopyIn) (ps : List Nat) : Map Word :=
  [(0, BitVec.ofNat 32 x.d), (1, BitVec.ofNat 32 x.y), (2, BitVec.ofNat 32 x.i),
   (3, BitVec.ofNat 32 (ps.foldl (fun n p => n + 2 ^ p) 0))]

/-- The receivers of an accepted copy. -/
def receivers (w : Copy) : List Nat :=
  (List.range 4).filter (fun p => (capReg w.cap.regs 3).toNat.testBit p)

/-- A copy accepted (R295, R301, R305). -/
def acceptCopy (c : Ctx) (s : State) (op : Nat) (o : OpQ) (x : CopyIn) (r md : BitVec 512)
    (ps : List Nat) (pages : Map Nat) (scales : Map Word) (fl : Flags × Flags) : State :=
  let n := (landings op o r x.d x.i).length
  let w : Copy := { cap := capture c s op (copyRegs x ps), word := o, shapes := [r, md], pages := pages,
                    total := n * ps.length }
  let s := if o.dir.val = 1 then visible s c.g.block else s
  let s := if isFill op then
      modSlot s c.g.block (corePlace s c.g.block c.g.core) x.d (fun z =>
        { z with fmt := matOfCode (shFmt r), rows := boxRows r, filling := true, scales := scales })
    else s
  let s := afterEngine c s fl
  modCore s c.g.core (fun k => { k with copies := k.copies ++ [w] })

/-- A copy issued: its checks, its translations, the waits of R295 and R301, and its acceptance. -/
def issueCopy (i : Instr) (op : Nat) (o : OpQ) (s : State) : Out :=
  withGang i s (fun c => .next (
    withUniform c s o.pred (useCopy op o) (readCopy op o) (fun x =>
      match checkCopy s c op o x.1 with
      | .error e => trapLanes c s e c.gang
      | .ok (r, md, ps) =>
        withPages c s (pagesAt s c (copyPages op o r md x.1.i)
            (fun _ pt => pt == .device || pt == .strong)) (fun pages =>
          let scale := if isFill op && fmtElectrum (shFmt r) then shScale r else 0
          match scaleAt s c scale with
          | .stop e => trapLanes c s e c.gang
          | .miss page => missLanes c s c.gang page [(lowest c.gang, BitVec.ofNat 64 (page * 4096))]
          | .ok p _ =>
            whenPerformed c s (fun s =>
              if (coreOf s c.g.core).copies.length ≥ 64 || (isFill op && slotBusy s c x.1.d) then
                blockLanes c s c.gang .retry
              else acceptCopy c s op o x.1 r md ps pages (readScales s c.g p) x.2))) (m := .kill)))

/-- `CPY` (R295). -/
def execCpy (o : OpQ) (s : State) : Out := issueCopy (.cpy o) 0x90 o s

/-- `CPYM` (R299). -/
def execCpym (o : OpQ) (s : State) : Out := issueCopy (.cpym o) 0x91 o s

/-- `CPYX` (R300). -/
def execCpyx (o : OpQ) (s : State) : Out := issueCopy (.cpyx o) 0x92 o s

/-- `CPYW` (R301). -/
def execCpyw (o : OpQ) (s : State) : Out := issueCopy (.cpyw o) 0x93 o s

/-! ## Landings (R298) -/

/-- A byte of global memory as a copy of a block reads it, on its captured pages. -/
def copyReader (s : State) (core : Nat) (w : Copy) : Reader := fun va =>
  overBuffer (blockOf s w.cap.block).buffer (coreByte s core) (pageByte w.pages va)

/-- A landing of a load written at one receiver. -/
def landLoad (s : State) (core : Nat) (w : Copy) (x : Landing) (place : Nat) : State :=
  let r := w.shapes.headD 0#512
  let md := (w.shapes[1]?).getD 0#512
  let i := (capReg w.cap.regs 2).toNat
  let bs := landBytes w.cap.op (copyReader s core w) r md i x
  if isFill w.cap.op then
    modSlot s w.cap.block place (capReg w.cap.regs 0).toNat (fun z =>
      { z with bytes := putBytes z.bytes x.dst bs })
  else writeScratch s w.cap.block place x.dst bs

/-- The byte that a store leaves where it writes a byte of a row: an element outside the tensor is skipped
(log 43, DEDUCED). -/
def storedRowByte (half : Bool) (old new : Byte) : Byte := if half then old &&& 0xF0#8 ||| new &&& 0x0F#8 else new

/-- A landing of a store: the bytes inside the tensor go from the scratchpad to memory. -/
def landStore (s : State) (core : Nat) (w : Copy) (x : Landing) (place : Nat) : State :=
  let r := w.shapes.headD 0#512
  let i := (capReg w.cap.regs 2).toNat
  let d := (capReg w.cap.regs 0).toNat
  let p := copyPitch w.cap.op w.word r
  let src := if x.pairs then d + boxRows r * p + x.row * copyPairBytes r else d + x.row * p
  let inside := if x.pairs then pairBytesInside r i x.row else rowBytesInside r i x.row
  let n := min x.n (inside - x.off)
  if n = 0 then s
  else storeMem s core (pageByte w.pages x.dst)
    ((List.range n).map (fun k =>
      storedRowByte (!x.pairs && halfInside r i x.row (x.off + k)) (coreByte s core (pageByte w.pages x.dst + k))
        (scratchByte s w.cap.block place (src + x.off + k))))

/-- The physical lines that a landing of a load reads, by the rows it is taken from. -/
def landLines (w : Copy) (x : Landing) : List Nat :=
  let i := (capReg w.cap.regs 2).toNat
  let rows := if isFill w.cap.op then List.range (boxRows (w.shapes.headD 0#512)) else [x.row]
  let runs := w.shapes.flatMap (fun r => rows.flatMap (fun row => rowRuns r i row))
  runs.flatMap (fun y => (cutRun y.1 y.2).map (fun z => lineOf (pageByte w.pages (y.1 + z.1))))

/-- Whether a landing consumes a line marked poisoned (R395). -/
def landPoison (s : State) (w : Copy) (x : Landing) : Bool :=
  !s.poison.isEmpty && w.word.dir.val == 0 && (landLines w x).any s.poison.contains

/-- A copy with one more landing done; it leaves the engine with the last one, and a slot's FILLING
clears then (R301). -/
def noteLanding (s : State) (core : Nat) (w : Copy) (n : Nat) : State :=
  if w.done.length + 1 ≥ w.total then
    let s := modCore s core (fun k => { k with copies := k.copies.filter (fun y => y.cap.id ≠ w.cap.id) })
    if isFill w.cap.op then
      modSlot s w.cap.block w.cap.pos (capReg w.cap.regs 0).toNat (fun z => { z with filling := false })
    else s
  else
    let note (y : Copy) : Copy := { y with done := insertNat n y.done }
    modCore s core (fun k => { k with copies := modFirst (fun y => y.cap.id == w.cap.id) note k.copies })

/-- `COPY_LANDING` (R298): landing `n` of a copy is written and counted at its receiver. Landings of
several receivers are numbered receiver after receiver; only the first one's bytes are charged, to the copy budget
and to that of HBM (R299, R305, R320). -/
def execCopyLanding (core id n : Nat) (s : State) : Out :=
  match (coreOf s core).copies.find? (fun w => w.cap.id == id) with
  | none => notEnabled
  | some w =>
    let ls := landings w.cap.op w.word (w.shapes.headD 0#512) (capReg w.cap.regs 0).toNat
      (capReg w.cap.regs 2).toNat
    let lid := (blockOf s w.cap.block).launch
    match ls[n % ls.length]?, (receivers w)[n / ls.length]? with
    | some x, some place =>
      let first := n / ls.length = 0
      if w.done.contains n ∨ (coreOf s core).stopped = true ∨ held s lid .copy = true ∨
          (first ∧ hbmHeld s lid = true) then notEnabled
      else if landPoison s w x then
        .next (recoverBlock s w.cap.block core
          { cls := 0x12, sub := if freeChoice s 2048 then 2 else 3, pc := w.cap.pc })
      else
        let s := if w.word.dir.val = 1 then landStore s core w x place else landLoad s core w x place
        let s := if first then
            chargeLines (charge s lid .copy x.n) (launchOf s lid).part (launchOf s lid).budget (landLines w x).length
          else s
        let s := noteLanding s core w n
        .next (arrive s w.cap.block place (capReg w.cap.regs 1).toNat x.n)
    | _, _ => notEnabled

end Sys2Proof.Machine
end

