-- ==== Sys2Proof/Machine/Posts.lean ====
section
/-! DEFINITION. What `LNCH`, `NSEND` and `NRECV` have in common: addresses in the global window, and
threads that post in ascending lane order until a queue is full (R34, R41, R322, R324). -/

namespace Sys2Proof.Machine

/-- The places of some lanes in the global window, each of `size` bytes and aligned to it. -/
def resolveGlobal (s : State) (c : Ctx) (uniform : Bool) (size : Nat) (u : PageUse)
    (vas : List (Nat × DWord)) : Resolved :=
  gather (vas.map (fun x => (x.1, x.2,
    if isGlobal x.2 then locateAligned s c.g x.1 uniform x.2 size u else .bad (cWindow x.2))))

/-- A lane that has completed: the flags of its operands are raised, and it goes on (R34). -/
def finishLane {α : Type} (c : Ctx) (s : State) (rs : Map (α × Flags × Flags)) (lane : Nat) : State :=
  let (fl, sfl) := ((mfind rs lane).map (fun r => r.2)).getD (0#7, 0#7)
  modGroup s c.gid (fun g => advanceLanes (modThread g lane (commitThread ⟨{}, fl, {}, sfl⟩)) [lane])

/-- The lanes post one after another; from the first that finds the queue full on, they wait. -/
def postLanes {α : Type} (c : Ctx) (rs : Map (α × Flags × Flags)) (full : State → Spot → Bool)
    (post : State → Spot → State) : List Spot → State → State
  | [], s => s
  | x :: xs, s =>
    if full s x then blockLanes c s (x.lane :: xs.map (fun y => y.lane)) .retry
    else
      let s := finishLane c (post s x) rs x.lane
      postLanes c rs full post xs (closeRegions c (markEffects c s [x.lane]) [x.lane])

/-- The lanes of the gang whose predicate is false go on at once. -/
def passLanes (c : Ctx) (s : State) (p : Pred) : State :=
  advance c s (c.gang.filter (fun l => !(activeLanes c p).contains l))

end Sys2Proof.Machine
end

