-- ==== Sys2Proof/Machine/Gang.lean ====
section
/-! DEFINITION. The gang that a group would issue, and whether its sub-core ranks the group (R32, R33, R319,
R385). -/

namespace Sys2Proof.Machine

/-! ## The gang of a group (R32, R33) -/

/-- Whether a thread may issue its next word. -/
def threadReady (t : Thread) : Bool := t.run == .ready && inBlock t

/-- The lowest PC of a group's ready threads that meet a condition. -/
def lowestPc (g : Group) (p : Thread → Bool) : Option DWord :=
  (least (fun (e : Nat × Thread) => [e.2.pc.toNat])
    (g.threads.filter (fun e => threadReady e.2 && p e.2))).map (fun e => e.2.pc)

/-- The issue PC of a group: its lowest ready PC that is not demoted, else its lowest demoted one
(R32). -/
def issuePc (g : Group) : Option DWord :=
  match lowestPc g (fun t => t.demote == 0) with
  | some pc => some pc
  | none => lowestPc g (fun _ => true)

/-- The gang at a PC: every thread there that is not blocked (R32). -/
def gangAt (g : Group) (pc : DWord) : List Nat := lanesWhere g (fun t => threadReady t && t.pc == pc)

/-- The lanes that still owe a replay entry. -/
def replayLanes (g : Group) (r : Replay) : List Nat :=
  (lanesOfMask r.mask).filter (fun l => (threadOf g l).run != .ended)

/-- Whether a group has a gang to issue: a replay before anything else, where its lanes are ready. -/
def hasGang (g : Group) : Bool :=
  match g.replay with
  | r :: _ => (replayLanes g r).all (fun l => (threadOf g l).run == .ready)
  | [] => (issuePc g).isSome

/-! ## The choice between groups (R48, R319) -/

/-- Whether a group stands still for a pre-emption of its block that a region had deferred (R393). -/
def yields (s : State) (g : Group) : Bool :=
  (blockOf s g.block).preempt && (blockGroups s g.block).all (fun i => (groupOf s i).nopre.isNone)

/-- Whether a group is ranked: it runs, its core runs, it has a ready gang, its budget has issues left, and no
pre-emption of its block is due. -/
def ranked (s : State) (g : Group) : Bool :=
  running g && !yields s g && !(coreOf s g.core).stopped && !held s g.launch .issue && hasGang g

end Sys2Proof.Machine
end

