-- ==== Sys2Proof/Machine/Launch.lean ====
section
/-! DEFINITION. Launches: the checks of a launch record, its acceptance, the placement of blocks, their
fresh state, retirement, timeouts and kills; and `LNCH` (R22..R30, R41..R43, R47, R313..R318, R322). -/

namespace Sys2Proof.Machine

/-! ## Reading by the distributor -/

/-- Bytes of an address space as a unit of the device reads them: none where a page does not allow it. -/
def unitBytes (s : State) (part asid level va n : Nat) : Option Nat :=
  (mapPages s part asid level .read (pagesOf va n)).map
    (fun m => readN (fun a => readMem s (pageByte m a)) va n)

/-! ## What a block needs of its cores (R12, R26, R28, R226, R399) -/

/-- What a set of groups of a block and the block's grants take on one core. -/
structure Need where
  groups : Nat := 0
  vwords : Nat := 0
  kwords : Nat := 0
  scratch : Nat := 0
  tiles : Nat := 0
  slots : Nat := 0
  deriving DecidableEq, Repr

/-- Two needs together. -/
def Need.plus (a b : Need) : Need :=
  ⟨a.groups + b.groups, a.vwords + b.vwords, a.kwords + b.kwords, a.scratch + b.scratch,
   a.tiles + b.tiles, a.slots + b.slots⟩

/-- The storage of one core (R12). -/
def coreStorage : Need := ⟨96, 786432, 98304, 524288, 32, 8⟩

/-- Whether a need fits into what there is. -/
def Need.fits (a b : Need) : Bool :=
  a.groups ≤ b.groups && a.vwords ≤ b.vwords && a.kwords ≤ b.kwords && a.scratch ≤ b.scratch &&
    a.tiles ≤ b.tiles && a.slots ≤ b.slots

/-- The grants of a block on each of its cores; a protected launch's tiles are held twice (R226). -/
def grantNeed (r : BitVec 1024) : Need :=
  { scratch := lrShared r, tiles := if lrProt r then 2 * lrTiles r else lrTiles r, slots := lrSlots r }

/-- The registers of one group (R28). -/
def groupNeed (r : BitVec 1024) (g : Nat) : Need :=
  { groups := 1, vwords := 128 * lrRegs r (groupClass r g), kwords := lrUregs r (groupClass r g) }

/-- What the listed groups of a block and its grants take on one core. -/
def blockNeed (r : BitVec 1024) (gs : List Nat) : Need :=
  gs.foldl (fun n g => n.plus (groupNeed r g)) (grantNeed r)

/-- The kinds of placement (R26). -/
inductive Spread
  | single | pair | quad
  deriving DecidableEq, Repr

/-- The kind of placement that a record's blocks take (R26). -/
def spreadOf (r : BitVec 1024) : Spread :=
  if lrCoop r then .quad
  else if lrPair r then .pair
  else if (blockNeed r (List.range (lrGroups r))).fits coreStorage then .single
  else .quad

/-- The number of cores of a placement. -/
def spreadCores : Spread → Nat
  | .single => 1 | .pair => 2 | .quad => 4

/-- The groups of a block on the core at a place of its unit. -/
def groupsAt (r : BitVec 1024) (n place : Nat) : List Nat :=
  (List.range (lrGroups r)).filter (fun g => g % n == place)

/-- What a block takes on each core of its unit. -/
def unitNeeds (r : BitVec 1024) : List Need :=
  let n := spreadCores (spreadOf r)
  (List.range n).map (fun i => blockNeed r (groupsAt r n i))

/-- Whether a record is oversize: its blocks fit no placement that it allows. -/
def oversize (r : BitVec 1024) : Bool := !(unitNeeds r).all (fun n => n.fits coreStorage)

/-! ## Checks of the record (R313, R314) -/

/-- The bits of a launch record that must be zero. -/
def lrMbz (r : BitVec 1024) : Nat :=
  bitsOf r 1023 960 + bitsOf r 895 869 + bitsOf r 383 366 + bitsOf r 319 305 + bitsOf r 63 48 +
    bitsOf r 39 35 + bitsOf r 31 21

/-- The fields of a class: in range where groups use it, zero where none do (R28, R313). -/
def classOk (r : BitVec 1024) (cls : Nat) (used : Bool) : Bool :=
  let v := lrRegs r cls / 8
  let k := lrUregs r cls / 64
  if used then 2 ≤ v && v ≤ 32 && 1 ≤ k && k ≤ 16 else v == 0 && k == 0

/-- The classes of a record: they sum to its groups (R28). -/
def classesOk (r : BitVec 1024) : Bool :=
  if lrC0 r = 0 then lrC1 r == 0 && classOk r 0 true && classOk r 1 false && classOk r 2 false
  else
    lrC0 r + lrC1 r ≤ lrGroups r && classOk r 0 true && classOk r 1 (lrC1 r != 0) &&
      classOk r 2 (lrC0 r + lrC1 r != lrGroups r)

/-- The dimensions of a record (R29). -/
def dimsOk (r : BitVec 1024) : Bool :=
  if bitsOf r 191 160 = 0 then bitsOf r 255 192 == 0
  else bitsOf r 191 160 * bitsOf r 223 192 * bitsOf r 255 224 == lrBlocks r

/-- The alignments of a record's addresses (R313). -/
def lrAligned (r : BitVec 1024) : Bool :=
  lrStatus r % 8 == 0 && lrCounter r % 8 == 0 && lrMap r % 8 == 0 && lrCbase r % 65536 == 0 &&
    lrArgs r % 4 == 0 && lrPrivBase r % 64 == 0

/-- Whether every field of a record is accepted; the reverse is BADFIELD. -/
def fieldsOk (r : BitVec 1024) : Bool :=
  lrMbz r == 0 && lrKpre r ≤ 16 && 1 ≤ lrGroups r && lrGroups r ≤ 128 && classesOk r && dimsOk r &&
    lrShared r ≤ 524288 && lrTiles r ≤ (if lrProt r then 16 else 32) && lrSlots r ≤ 8 &&
    lrPriv r ≤ 65536 && !(lrPair r && lrCoop r) && (!lrPair r || lrGroups r % 2 == 0) && lrAligned r &&
    (lrTrapbase r == 0 || lrPriv r ≥ 1792)

/-- The words preloaded into k registers (R313, R314), or none where they cannot be read. -/
def readKpre (s : State) (part asid level : Nat) (r : BitVec 1024) : Option (List Word) :=
  if lrKpre r = 0 then some []
  else (unitBytes s part asid level (lrKpreAddr r) (4 * lrKpre r)).map
    (fun x => (wordsOf (lrKpre r) x).map (BitVec.ofNat 32))

/-- Whether a record's ENTRY is refused: not a header, a handler entry, or not translatable (R315). -/
def badEntry (s : State) (part asid level : Nat) (r : BitVec 1024) : Bool :=
  match unitFetch s part asid level (lrEntry r) with
  | none => true
  | some w => !isHeader w || hdrHnd w

/-! ## Units and placement maps (R316, R317) -/

/-- The slices of a partition, ascending. -/
def partSlices (s : State) (part : Nat) : List Nat :=
  (List.range 16).filter (fun i => (partOf s part).slices.getLsbD i)

/-- The units of a kind in a slice. -/
def sliceUnits (s : State) (k : Spread) (slice : Nat) : List (List Nat) :=
  match k with
  | .single => (sliceCores s slice).map (fun c => [c])
  | .pair => (slicePairs s slice).map (fun p => [slice * 16 + 2 * p, slice * 16 + 2 * p + 1])
  | .quad => (List.range ((slicePairs s slice).length / 2)).map (fun q =>
      ((slicePairs s slice).drop (2 * q) |>.take 2).flatMap
        (fun p => [slice * 16 + 2 * p, slice * 16 + 2 * p + 1]))

/-- The units of a kind in a partition. -/
def partUnits (s : State) (part : Nat) (k : Spread) : List (List Nat) :=
  (partSlices s part).flatMap (sliceUnits s k)

/-- A placement map as the distributor captures it (R316): its PIN bit and the cores it names, or the number of the
first entry with a nonzero MBZ, 0 where the map cannot be read (log 26, DEDUCED). -/
def readMap (s : State) (part asid level va : Nat) : Except Nat (List Nat) :=
  match unitBytes s part asid level va 8 with
  | none => .error 0
  | some h =>
    let n := h / 2 ^ 16 % 256 + 1
    if h % 2 ^ 16 ≠ 0x0100 ∨ h / 2 ^ 25 ≠ 0 then .error 0
    else
      match unitBytes s part asid level (va + 8) (2 * n) with
      | none => .error 0
      | some x =>
        let es := (List.range n).map (fun i => x / 2 ^ (16 * i) % 2 ^ 16)
        match findIdx (fun e => e % 256 != 0) es 0 with
        | some i => .error i
        | none => .ok (h / 2 ^ 24 % 2 :: es.map (· / 256))

/-- The unit of a kind that holds a core. -/
def unitOf (s : State) (part : Nat) (k : Spread) (core : Nat) : Option (List Nat) :=
  (partUnits s part k).find? (fun u => u.contains core)

/-- The entry at which a map is refused, none where it stands (R317). -/
def badMapEntry (s : State) (part : Nat) (k : Spread) : List Nat → Option Nat
  | [] => none
  | pin :: cores =>
    match findIdx (fun c => !(partSlices s part).contains (c / 16)) cores 0 with
    | some i => some i
    | none =>
      if pin = 1 then findIdx (fun c => (unitOf s part k c).isNone) cores 0
      else if cores.all (fun c => (unitOf s part k c).isNone) then some 0
      else none

/-- The code with which a record is refused, with its DETAIL; none where it is accepted. The first
that applies is written (R314) (log 26, DEDUCED). -/
def refusalOf (s : State) (part asid level : Nat) (r : BitVec 1024) : Option (LStatus × Nat) :=
  let map := if lrMap r = 0 then .ok [] else readMap s part asid level (lrMap r)
  if bitsOf r 15 0 ≠ 0x0100 then some (.badVersion, 0)
  else if !fieldsOk r ∨ (readKpre s part asid level r).isNone = true then some (.badField, 0)
  else if badEntry s part asid level r then some (.badEntry, 0)
  else
    match map with
    | .error i => some (.badMap, i)
    | .ok m =>
      match badMapEntry s part (spreadOf r) m with
      | some i => some (.badMap, i)
      | none => if oversize r then some (.oversize, 0) else none

/-! ## Acceptance (R314, R315) -/

/-- What the distributor fixes for a launch from its queue or its parent (R314, R320). -/
structure Source where
  part : Nat
  tenant : Nat
  level : Nat
  asid : Nat
  budget : Nat
  slice : Nat
  queue : Option (Nat × Nat)
  prioMax : Nat
  addr : Nat

/-- Accepted launches of a partition that are not wholly dispatched (R306). -/
def intake (s : State) (part : Nat) : Nat :=
  (s.launches.filter (fun l => l.2.part == part && !l.2.final && l.2.nextBlock < lrBlocks l.2.rcd)).length

/-- The launch that a record makes, numbered by its partition (R314). -/
def launchFrom (s : State) (x : Source) (r : BitVec 1024) : Launch :=
  { rcd := r, kpre := (readKpre s x.part x.asid x.level r).getD []
    map := if lrMap r = 0 then [] else (readMap s x.part x.asid x.level (lrMap r)).toOption.getD []
    number := (partOf s x.part).nextLaunch, part := x.part, tenant := x.tenant, level := x.level
    asid := x.asid, budget := x.budget, slice := x.slice, prio := min (lrPrio r) x.prioMax
    queue := x.queue, accepted := s.now, order := s.nextId
    trapbase := BitVec.ofNat 64 (lrTrapbase r), symS := lrAfspace r }

/-- The slice error records of a refused record's misaligned addresses (R314). -/
def noteMisaligned (s : State) (x : Source) (r : BitVec 1024) : State :=
  if lrStatus r % 8 ≠ 0 ∨ lrCounter r % 8 ≠ 0 then
    errorRecord s x.slice .badLaunchAddress x.addr (lrStatus r % 8) (lrCounter r % 8)
  else s

/-- The distributor takes a record: it is numbered, checked, and accepted or refused (R314, R315). -/
def takeRecord (s : State) (x : Source) (r : BitVec 1024) : State :=
  let l := launchFrom s x r
  let refusal := refusalOf s x.part x.asid x.level r
  let (id, s) := takeId s
  let s := modPart s x.part (fun p => { p with nextLaunch := (p.nextLaunch + 1) % 2 ^ 32 })
  let s := setLaunch s id l
  match refusal with
  | some (st, d) => finishLaunch (noteMisaligned s x r) id st d
  | none => writeStatus s id .running 0

/-- What a child launch inherits (R314, R322). -/
def childSource (s : State) (g : Group) (addr : Nat) : Source :=
  let l := launchOf s g.launch
  { part := l.part, tenant := l.tenant, level := l.level, asid := l.asid, budget := l.budget,
    slice := coreSlice g.core, queue := none, prioMax := 7, addr := addr }

/-- The oldest pending launch of a group taken by the distributor (R41). -/
def acceptPending (s : State) (gid : Nat) : Out :=
  match mfind s.groups gid with
  | none => notEnabled
  | some g =>
    match g.pending with
    | [] => notEnabled
    | (a, r) :: rest =>
      if intake s (launchOf s g.launch).part ≥ 256 then notEnabled
      else
        let s := takeRecord s (childSource s g a.toNat) r
        .next (modGroup s gid (fun g => { g with pending := rest }))

/-! ## Placement (R26, R27, R318) -/

/-- What the blocks and groups that are there take of a core (R26). -/
def coreUse (s : State) (core : Nat) : Need :=
  let n := s.blocks.foldl (fun n b =>
    if b.2.where_ == .resident && b.2.cores.contains core then n.plus (grantNeed (launchOf s b.2.launch).rcd)
    else n) {}
  s.groups.foldl (fun n g =>
    if g.2.where_ == .resident && g.2.core == core then
      n.plus (groupNeed (launchOf s g.2.launch).rcd g.2.idx)
    else n) n

/-- Whether a core takes new work. -/
def coreOpen (s : State) (core : Nat) : Bool :=
  let k := coreOf s core
  configured s core && !k.stopped && k.image.isNone && !k.selfTest && !k.reserved && !k.wear.failed

/-- Whether a unit has room for what a block puts on each of its cores. -/
def unitRoom (s : State) (u : List Nat) (needs : List Need) : Bool :=
  (u.zip needs).all (fun x => coreOpen s x.1 && ((coreUse s x.1).plus x.2).fits coreStorage)

/-- Whether the store-buffer pool of a slice, half its L2 share, has 256 KiB free for a block of a
contained launch (R8, R397). -/
def poolRoom (s : State) (part slice : Nat) : Bool :=
  let used := s.blocks.filter (fun b =>
    !b.2.isAct && lrCont (launchOf s b.2.launch).rcd && coreSlice (b.2.cores.headD 0) == slice)
  used.length < (24 - (partOf s part).commons) * 2

/-- The groups resident on a unit. -/
def unitGroups (s : State) (u : List Nat) : Nat :=
  (s.groups.filter (fun g => g.2.where_ == .resident && u.contains g.2.core)).length

/-- The unit with the fewest resident groups, and among equals the least lowest logical id (R318). -/
def bestUnit (s : State) (us : List (List Nat)) : Option (List Nat) :=
  least (fun u => [unitGroups s u, logicalId s (u.headD 0)]) us

/-- The units on which a block of a launch may be placed (R317). -/
def permitted (s : State) (l : Launch) (idx : Nat) : List (List Nat) :=
  let k := spreadOf l.rcd
  match l.map with
  | [] => partUnits s l.part k
  | pin :: cores =>
    if pin = 1 then (unitOf s l.part k ((cores[idx % cores.length]?).getD 0)).toList
    else (partUnits s l.part k).filter (fun u => u.any (fun c => cores.contains c))

/-- The unit that the next block of a launch takes; a relaunched one goes to another cluster where one
has room (R398). -/
def placeFor (s : State) (l : Launch) (idx : Nat) (avoid : Option Nat) : Option (List Nat) :=
  let us := (permitted s l idx).filter (fun u => unitRoom s u (unitNeeds l.rcd) &&
    (!lrCont l.rcd || poolRoom s l.part (coreSlice (u.headD 0))))
  match bestUnit s (us.filter (fun u => avoid != some (coreSlice (u.headD 0)))) with
  | some u => some u
  | none => bestUnit s us

/-- The block of a launch that is ready to be dispatched: its index, its relaunches, and the slice to
avoid; a relaunched one comes first. -/
def nextReady (l : Launch) : Option (Nat × Nat × Option Nat) :=
  match l.relaunch with
  | (i, n, a) :: _ => some (i, n, some a)
  | [] => if l.nextBlock < lrBlocks l.rcd then some (l.nextBlock, 0, none) else none

/-- A fresh thread of a launched group (R23, R47); protected launches have a shadow (R399). -/
def freshThread (entry : DWord) (prot : Bool) : Thread :=
  { pc := entry, run := .ready, shadow := if prot then some {} else none }

/-- The lanes of a group: 128, or the 64 visible ones of a protected launch (R22, R399). -/
def groupLanes (r : BitVec 1024) : Nat := if lrProt r then 64 else 128

/-- The k registers that a launch preloads (R47, R313). -/
def preloaded (ws : List Word) : Map Val :=
  (List.zip (List.range ws.length) ws).map (fun x => (x.1, ⟨x.2, .b32⟩))

/-- A fresh group of a block (R47). -/
def freshGroup (lid bid idx core sub : Nat) (l : Launch) : Group :=
  let u : UniFile := { k := preloaded l.kpre }
  { block := bid, launch := lid, idx := idx, core := core, sub := sub, uni := u, uniShadow := u
    threads := (List.range (groupLanes l.rcd)).map (fun i => (i, freshThread (lrEntry l.rcd) (lrProt l.rcd))) }

/-- The groups of a sub-core that are resident. -/
def subGroups (s : State) (core sub : Nat) : Nat :=
  (s.groups.filter (fun g => g.2.where_ == .resident && g.2.core == core && g.2.sub == sub)).length

/-- A sub-core for a new group: the one with the fewest groups, the lowest among equals
(log 55, DESIGN CHOICE). -/
def freeSub (s : State) (core : Nat) : Nat :=
  (least (fun n => [subGroups s core n, n]) (List.range 12)).getD 0

/-- A fresh group put into the state. -/
def addGroup (s : State) (lid bid idx core : Nat) : State :=
  let g := freshGroup lid bid idx core (freeSub s core) (launchOf s lid)
  let (id, s) := takeId s
  setGroup s id g

/-- A block made resident on a unit, whole (R27). -/
def makeBlock (s : State) (lid idx relaunches : Nat) (u : List Nat) : State :=
  let n := lrGroups (launchOf s lid).rcd
  let (bid, s) := takeId s
  let s := setBlock s bid { launch := lid, idx := idx, cores := u, relaunches := relaunches }
  (List.range n).foldl (fun s i => addGroup s lid bid i ((u[i % u.length]?).getD 0)) s

/-- A launch after the dispatch of its ready block. -/
def noteDispatch (l : Launch) : Launch :=
  match l.relaunch with
  | _ :: rest => { l with relaunch := rest }
  | [] => { l with nextBlock := l.nextBlock + 1 }

/-- Whether a tenant's work may run now: always without time slices, and in its own slice with them
(R420). -/
def tenantRuns (p : Partition) (tenant : Nat) : Bool := p.sliceLength == 0 || p.tenant == tenant

/-- The launches of a partition with a block ready, in the order in which the distributor tries them
(R318): a pinned one whose unit is gone is found here too (R317). -/
def dispatchable (s : State) (part : Nat) : List (Nat × Launch) :=
  s.launches.filter (fun l =>
    l.2.part == part && !l.2.final && l.2.status == .running && (nextReady l.2).isSome &&
      tenantRuns (partOf s part) l.2.tenant)

/-! ## The dispatch promise (R39, R50) -/

/-- Whether a block is spin-detected: a path of one of its groups is demoted (log 38, DEDUCED). -/
def spinDetected (s : State) (bid : Nat) : Bool :=
  s.groups.any (fun g => g.2.block == bid &&
    g.2.threads.any (fun t => t.2.demote != 0 && t.2.run != .ended))

/-- The resident blocks of a launch above an index that are spin-detected, by key. -/
def spinnersAbove (s : State) (lid idx : Nat) : List Nat :=
  (s.blocks.filter (fun b => b.2.launch == lid && b.2.where_ == .resident && idx < b.2.idx && !b.2.isAct &&
    spinDetected s b.1)).map Prod.fst

/-- Whether a block of a launch above an index is spin-detected, wherever it is. -/
def spinsAbove (s : State) (lid idx : Nat) : Bool :=
  s.blocks.any (fun b => b.2.launch == lid && idx < b.2.idx && !b.2.isAct && spinDetected s b.1)

/-- Whether a sealed image holds a block. -/
def imageHolds (bid : Nat) (im : Image) : Bool := im.isSealed && im.blocks.contains bid

/-- Whether a block has been pre-empted: saved by the portable path, or in a whole set of sealed images of
an image area. Images in an image store wait for their move in (R414). -/
def preempted (s : State) (bid : Nat) : Bool :=
  match (blockOf s bid).where_ with
  | .saved => true
  | .imaged =>
    let isSealed (x : Nat × Nat) : Bool := (mfind (sliceOf s x.1).images x.2).any (fun im => im.isSealed)
    s.slices.any (fun x => x.2.images.any (fun im => imageHolds bid im.2 && im.2.set.all isSealed))
  | _ => false

/-- Whether a block has been pre-empted and its launch still runs. -/
def awaits (s : State) (bid : Nat) : Bool :=
  let b := blockOf s bid
  !b.isAct && preempted s bid && (launchOf s b.launch).status == .running

/-- Whether the distributor owes a block its restore (R50). -/
def promised (s : State) (bid : Nat) : Bool :=
  awaits s bid && spinsAbove s (blockOf s bid).launch (blockOf s bid).idx

/-- Whether the distributor itself has stopped a block, with REASON 2: it restores the block when a unit
qualifies (log 40, DEDUCED). -/
def displaced (s : State) (bid : Nat) : Bool :=
  awaits s bid && s.slices.any (fun x => x.2.images.any (fun im => imageHolds bid im.2 && im.2.reason == 2))

/-- Whether the distributor owes a restore in a partition: it comes before any new work. -/
def promiseDue (s : State) (part : Nat) : Bool :=
  s.blocks.any (fun b => (launchOf s b.2.launch).part == part && promised s b.1)

/-- The lowest activation index that no live activation group of a launch holds (R232). -/
def freeActIdx (s : State) (lid : Nat) : Nat :=
  let held := sortNat (s.groups.filterMap (fun g => if g.2.launch = lid then g.2.actIdx else none))
  held.foldl (fun n h => if h = n then n + 1 else n) 0

/-- What an activation group takes of its core (R329). -/
def actNeed (r : BitVec 1024) : Need := (groupNeed r 0).plus (grantNeed r)

/-- The cores of a partition, ascending. -/
def partCores (s : State) (part : Nat) : List Nat := (partSlices s part).flatMap (sliceCores s)

/-- Whether a queued activation may start now: its tenant runs, and a core of the partition has room for its
group. -/
def mayActivate (s : State) (part : Nat) (a : Activation) : Bool :=
  match mfind (partOf s part).specs a.spec with
  | none => false
  | some x =>
    let l := launchOf s x.launch
    tenantRuns (partOf s part) x.tenant && !l.final && freeActIdx s x.launch < 24576 &&
      (partCores s part).any (fun c => unitRoom s [c] [actNeed l.rcd])

/-- Whether an activation group can be placed: it comes ahead of every block (R318, R351). -/
def activationDue (s : State) (part : Nat) : Bool :=
  (partSlices s part).any (fun i => (sliceOf s i).actq.any (mayActivate s part))

/-- `BLOCK_PLACEMENT` (R30, R318): no activation group can be placed, and of the launches with a block ready and a unit with room, the one of
highest PRIO, the earliest accepted among equals, has its block placed. -/
def execBlockPlacement (part : Nat) (s : State) : Out :=
  let unit (l : Launch) : Option (List Nat) :=
    (nextReady l).bind (fun b => placeFor s l b.1 b.2.2)
  let open_ := (dispatchable s part).filter (fun l => (unit l.2).isSome)
  match least (fun l => [7 - l.2.prio, l.2.accepted, l.2.order]) open_ with
  | none => notEnabled
  | some (lid, l) =>
    if (partOf s part).state ≠ .running ∨ promiseDue s part = true ∨ activationDue s part = true then notEnabled
    else
      match nextReady l, unit l with
      | some (i, n, _), some u => .next (makeBlock (modLaunch s lid noteDispatch) lid i n u)
      | _, _ => notEnabled

/-- Launches whose placement maps a change of the partition's cores leaves without a unit end with
BADMAP (R317): a pinned one at the entry of a unit that is gone, another where none is left. -/
def failMaps (s : State) (part : Nat) : State :=
  s.launches.foldl (fun s l =>
    let x := launchOf s l.1
    if x.part ≠ part ∨ x.final = true ∨ lrCoop x.rcd = true then s
    else
      match x.map with
      | [] => s
      | pin :: cores =>
        let gone := findIdx (fun c => (unitOf s part (spreadOf x.rcd) c).isNone) cores 0
        if pin = 1 then
          (match gone with
           | some i => finishLaunch s l.1 .badMap i
           | none => s)
        else if cores.all (fun c => (unitOf s part (spreadOf x.rcd) c).isNone) then
          finishLaunch s l.1 .badMap 0
        else s) s

/-! ## Retirement (R23, R43, R162) -/

/-- Whether a core's engines and memory still work for a group. -/
def groupBusy (s : State) (gid : Nat) (g : Group) : Bool :=
  let k := coreOf s g.core
  k.stPend != 0 || k.acc.any (fun a => a.group == gid) ||
    s.cores.any (fun c =>
      c.2.sweeps.any (fun w => w.cap.group == gid) || c.2.bops.any (fun w => w.cap.group == gid) ||
      c.2.copies.any (fun w => w.cap.group == gid) || c.2.matrix.any (fun w => w.cap.group == gid))

/-- Whether an installed spec names a launch: a window launch then stays running (R329). -/
def ownsSpec (s : State) (lid : Nat) : Bool :=
  (partOf s (launchOf s lid).part).specs.any (fun x => x.2.launch == lid)

/-- A launch all of whose blocks have retired ends (R23, R43, R329). -/
def maybeDone (s : State) (lid : Nat) : State :=
  let l := launchOf s lid
  if l.retired = lrBlocks l.rcd ∧ ownsSpec s lid = false then finishLaunch s lid .done 0 else s

/-- A block that has retired: its store buffer drains (R397), and its launch counts it; the last one
ends the launch (R23, R43). -/
def retireBlock (s : State) (bid : Nat) : State :=
  let s := if (blockOf s bid).buffer.isEmpty then s else drainBuffer s bid
  let b := blockOf s bid
  let s := { s with blocks := mdel s.blocks bid }
  if b.isAct then s
  else
    maybeDone (modLaunch s b.launch (fun l => { l with retired := l.retired + 1 })) b.launch

/-- `GROUP_RETIRE` (R23, R162): a group all of whose threads have ended and whose accesses, engine
operations and pending launches are done retires; with the last one its block, and its launch. -/
def execGroupRetire (gid : Nat) (s : State) : Out :=
  match mfind s.groups gid with
  | none => notEnabled
  | some g =>
    if !(liveLanes g).isEmpty ∨ g.where_ ≠ .resident ∨ g.park ≠ .none ∨ g.pending ≠ [] ∨
        groupBusy s gid g = true then notEnabled
    else
      let s :=
        { s with
          groups := mdel s.groups gid
          slices := mmap (fun _ (x : Slice) => { x with reqs := x.reqs.filter (fun r => r.group != gid) }) s.slices }
      .next (if (blockGroups s g.block).isEmpty then retireBlock s g.block
        else updateBars s g.block)

/-- The lowest block index of a launch that has not retired. -/
def lowestUnretired (s : State) (lid : Nat) : Nat :=
  let l := launchOf s lid
  let there := (s.blocks.filter (fun b => b.2.launch == lid && !b.2.isAct)).map (fun b => b.2.idx)
  (there ++ l.relaunch.map Prod.fst).foldl min l.nextBlock

/-- The sealed images that hold groups of a launch discarded (R418). -/
def discardImages (s : State) (lid : Nat) : State :=
  let has (im : Image) : Bool := im.isSealed && im.blocks.any (fun i => (blockOf s i).launch == lid)
  { s with
    slices := mmap (fun _ (x : Slice) => { x with images := x.images.filter (fun im => !has im.2) }) s.slices
    parts := mmap (fun _ (p : Partition) => { p with store := p.store.filter (fun im => !has im.2) }) s.parts }

/-- `LAUNCH_TIMEOUT` (R315): a launch past its TIMEOUT ends with its lowest unretired block index. -/
def execLaunchTimeout (lid : Nat) (s : State) : Out :=
  match mfind s.launches lid with
  | none => notEnabled
  | some l =>
    if l.final ∨ lrTimeout l.rcd = 0 ∨ s.now - l.accepted < lrTimeout l.rcd * 850 then notEnabled
    else
      let low := lowestUnretired s lid
      let s := if l.status = .coopUnplaceable then discardImages s lid else s
      .next (finishLaunch s lid .timeout low)

/-- `LAUNCH_KILL` (R315): Mbotum cancels a launch. -/
def execLaunchKill (lid : Nat) (s : State) : Out :=
  match mfind s.launches lid with
  | none => notEnabled
  | some l => if l.final then notEnabled else .next (finishLaunch s lid .killed 0)

/-! ## LNCH (R41, R42, R322) -/

/-- One lane's record copied into its group's pending-launch queue. -/
def postLaunch (c : Ctx) (s : State) (x : Spot) : State :=
  let s := visible s c.g.block
  let r := readPlace s (groupOf s c.gid) x.place 128
  modGroup s c.gid (fun g => { g with pending := g.pending ++ [(x.va, BitVec.ofNat 1024 r)] })

/-- `LNCH` (R322): every thread whose predicate is true enqueues its record, in ascending lane order,
as a release; from the first that finds four entries they wait. -/
def execLnch (o : OpR) (s : State) : Out :=
  withGang (.lnch o) s (fun c => .next (
    withOperands c s o.pred (useReg o.a 2) (fun v => readPair v o.a) (fun rs =>
      withSpots c s (resolveGlobal s c false 128 .read (rs.map (fun r => (r.1, r.2.1)))) (fun xs =>
        whenQuiet c s (xs.map (fun x => x.lane)) (fun s =>
          whenFree c s xs (fun s => unpoisoned c s xs (fun s =>
            postLanes c rs (fun s _ => (groupOf s c.gid).pending.length ≥ 4) (postLaunch c) xs
              (passLanes c s o.pred))))))))

end Sys2Proof.Machine
end

