-- ==== Sys2Proof/Machine/MemEvents.lean ====
section
/-! DEFINITION. What the memory system does by itself: data and acknowledgements that return, promotion,
page walks, translation faults resolved, and accesses by the host (R239..R241, R249, R251, R261, R403). -/

namespace Sys2Proof.Machine

/-! ## Returns -/

/-- The place of an access `n` of a core, with those issued before it. -/
def accAt (s : State) (core n : Nat) : Option (Access × List Access) :=
  match ((coreOf s core).acc)[n]? with
  | some a => some (a, (coreOf s core).acc.take n)
  | none => none

/-- Whether an access waits at its home for a promotion: an acquire at `.part` or `.sys` of a line that
another core owns (R251). -/
def owedPromotion (s : State) (core : Nat) (a : Access) : Option Nat :=
  if acquires a.order && !isNarrow a.scope then
    (placePas a.place).findSome? (fun pa =>
      match mfind s.owner (lineOf pa) with
      | some o => if o = core then none else some (lineOf pa)
      | none => none)
  else none

/-- One access taken from a core's outstanding ones. -/
def dropAccess (s : State) (core n : Nat) : State :=
  modCore s core (fun k => { k with acc := k.acc.take n ++ k.acc.drop (n + 1) })

/-- An access of a kind returns (R261, R249): it is performed, and its data is written. A line marked
poisoned is consumed instead (R395) (log 19, DEDUCED). -/
def returnAccess (s : State) (core n : Nat) (kind : AccKind) : Out :=
  match accAt s core n with
  | none => notEnabled
  | some (a, older) =>
    if a.kind ≠ kind ∨ (coreOf s core).stopped = true ∨ (owedPromotion s core a).isSome = true ∨
        (kind = .atomic ∧ older.any (fun b => overlap b.place a.place) = true) then notEnabled
    else if consumes s a then
      .next (recover (dropAccess s core n) a.group (poisonFault s a))
    else .next (dropAccess (performAccess s core a) core n)

/-- `LOAD_RETURN` (R122, R261): the data of a load returns. -/
def execLoadReturn (core n : Nat) (s : State) : Out := returnAccess s core n .load

/-- `ATOMIC_RETURN` (R249, R266): an atomic is performed, after the ones before it at its location, and
its old value returns. -/
def execAtomicReturn (core n : Nat) (s : State) : Out := returnAccess s core n .atomic

/-- `STORE_ACKNOWLEDGEMENT` (R403): an acknowledgement returns to a running core. -/
def execStoreAcknowledgement (core : Nat) (s : State) : Out :=
  let k := coreOf s core
  if k.stPend = 0 ∨ k.stopped = true then notEnabled
  else .next (modCore s core (fun k => { k with stPend := k.stPend - 1 }))

/-- `PROMOTION_REQUEST` (R251): the core that a line's owner field names makes its narrow-scope writes
visible at `.part`. -/
def execPromotionRequest (line : Nat) (s : State) : Out :=
  match mfind s.owner line with
  | some c => if (coreOf s c).stopped then notEnabled else .next (promote s c)
  | none => notEnabled

/-! ## Walks (R239, R241) -/

/-- Whether a lane waits for a page. -/
def waitsPage (page : Nat) (t : Thread) : Bool :=
  match t.run with
  | .blocked (.walk p _) => p == page
  | _ => false

/-- The lanes of a group that wait for a page made ready: their instruction is issued again, with what the walk
has found (R239). -/
def wakePage (page : Nat) (found : Option Leaf) (s : State) (gid : Nat) : State :=
  modGroup s gid (fun g => modThreads g (lanesWhere g (waitsPage page)) (fun t =>
    { t with run := .ready, walked := found }))

/-- The address for which a lane itself needs the page it waits for. -/
def missVa (t : Thread) : Option DWord :=
  match t.run with
  | .blocked (.walk _ va) => va
  | _ => none

/-- The lanes of a group's lowest gang that waits for a page. -/
def missGang (g : Group) (page : Nat) : List Nat :=
  let ls := lanesWhere g (waitsPage page)
  match least (fun l => [(threadOf g l).pc.toNat]) ls with
  | none => []
  | some l => ls.filter (fun k => (threadOf g k).pc == (threadOf g l).pc)

/-- The translation fault of a gang whose walk finds no translation (R235, R240): the group parks. -/
def walkFault (page : Nat) (s : State) (gid : Nat) : State :=
  match mfind s.groups gid with
  | none => s
  | some g =>
    let gang := missGang g page
    if gang.isEmpty then s
    else
      let need := gang.filter (fun l => (missVa (threadOf g l)).isSome)
      let addr := ((need.filterMap (fun l => missVa (threadOf g l))).head?).getD
        (BitVec.ofNat 64 (page * 4096))
      let s := wakePage page none s gid
      parkTranslation s gid
        { cls := 9, lanes := maskOfLanes need, gang := maskOfLanes gang,
          pc := (threadOf g (lowest gang)).pc, addr := addr }

/-- A leaf put into a translation cache of `n` entries, where it replaces an older one of its page; a full one
loses its oldest (log 46, DESIGN CHOICE). -/
def putLeaf (n : Nat) (l : Leaf) (tlb : List Leaf) : List Leaf :=
  (l :: tlb.filter (fun k => !(k.part == l.part && k.asid == l.asid && k.page == l.page && k.log == l.log))).take n

/-- A leaf put into a slice's translation cache (R238). -/
def fillLeaf (x : Slice) (l : Leaf) : Slice := { x with tlb := putLeaf 32768 l x.tlb }

/-- A leaf put into the caches of a group's core and sub-core (R238). -/
def fillCore (l : Leaf) (s : State) (gid : Nat) : State :=
  match mfind s.groups gid with
  | none => s
  | some g =>
    modCore s g.core (fun k =>
      { k with tlb := putLeaf 2048 l k.tlb, utlbs := mput k.utlbs g.sub (putLeaf 64 l (mget [] k.utlbs g.sub)) })

/-- The walk `n` of a slice leaves; the oldest waiting one begins (R239). -/
def dropWalk (x : Slice) (n : Nat) : Slice :=
  { x with walks := x.walks.take n ++ x.walks.drop (n + 1) ++ x.waiting.take 1
           waiting := x.waiting.drop 1 }

/-- `PAGE_WALK` (R233, R239): a walk completes and answers every request attached to it with one
translation. -/
def execPageWalk (slice walk : Nat) (s : State) : Out :=
  match ((sliceOf s slice).walks)[walk]? with
  | none => notEnabled
  | some w =>
    let s := modSlice s slice (fun x => dropWalk x walk)
    match walkTable s w.part w.asid (w.page * 4096) with
    | .leaf e b g =>
      let l : Leaf := ⟨w.part, w.asid, w.page * 4096 / 2 ^ g, e, b, g⟩
      let s := w.groups.foldl (fillCore l) (modSlice s slice (fun x => fillLeaf x l))
      .next (w.groups.foldl (wakePage w.page (some l)) s)
    | .bad => .next (w.groups.foldl (walkFault w.page) s)

/-! ## Translation faults resolved (R240, R383) -/

/-- A parked group that stands in no entry of a fault queue: the first is queued when an entry
frees. -/
def queueLeft (s : State) (slice : Nat) : State :=
  let inQueue (gid : Nat) : Bool := (sliceOf s slice).faultq.any (fun e => e.groups.contains gid)
  let left := s.groups.filter (fun g =>
    (g.2.park == .translation || (g.2.park == .frame && (framePages s g.1).isNone)) && (launchOf s g.2.launch).slice == slice &&
      !inQueue g.1)
  match left with
  | [] => s
  | (gid, g) :: _ =>
    let l := launchOf s g.launch
    let page := if g.park = .frame then framePage s g else
      ((g.fault.map (fun f => f.addr)).getD 0#64).toNat / 4096
    queueFault s slice l.part l.asid page gid

/-- A group whose fault has been resolved: it is issued again, or its trap entry is retried; one that is
not resident enters its handler once it runs again (R405) (log 47, DEDUCED). -/
def resumeFault (s : State) (gid : Nat) : State :=
  let g := groupOf s gid
  match g.park, g.fault with
  | .frame, some f =>
    if g.where_ ≠ .resident ∨ (coreOf s g.core).stopped = true then s
    else takeTrap (modGroup s gid (fun g => { g with park := .none, fault := none })) gid f
  | .translation, _ => modGroup s gid (fun g => { g with park := .none, fault := none })
  | _, _ => s

/-- A group whose access Mbotum refuses: the access fault goes to the handler (R240), and a frame that
cannot be written fails the launch with class 0x14 (R383). -/
def refuseFault (s : State) (gid : Nat) : State :=
  let g := groupOf s gid
  match g.park, g.fault with
  | .frame, some f => finishLaunch s g.launch .failed (causeCode { f with cls := 0x14, sub := 0, detail := 0 })
  | .translation, some f =>
    let f := { f with cls := 0x0A, sub := 0, detail := lowest (lanesOfMask f.lanes) }
    if (launchOf s g.launch).trapbase = 0#64 ∨ g.trapframe ≠ 0#64 then
      finishLaunch s g.launch .failed (causeCode f)
    else if g.where_ ≠ .resident ∨ (coreOf s g.core).stopped = true then
      if (framePages s gid).isNone then parkFrame s gid f
      else modGroup s gid (fun g => { g with park := .frame, fault := some f })
    else takeTrap (modGroup s gid (fun g => { g with park := .none, fault := none })) gid f
  | _, _ => s

/-- `TRANSLATION_FAULT_RESOLUTION` (R240): Mbotum resolves or refuses a queued fault. -/
def execTranslationFaultResolution (slice entry : Nat) (allow : Bool) (s : State) : Out :=
  match ((sliceOf s slice).faultq)[entry]? with
  | none => notEnabled
  | some e =>
    let s := modSlice s slice (fun x =>
      { x with faultq := x.faultq.take entry ++ x.faultq.drop (entry + 1) })
    .next (queueLeft (e.groups.foldl (fun s gid =>
      if (mfind s.groups gid).isNone then s
      else if allow then resumeFault s gid else refuseFault s gid) s) slice)

/-- A slice's fault queue without a group. -/
def dropFaultGroup (gid : Nat) (x : Slice) : Slice :=
  let q := x.faultq.map (fun e => { e with groups := e.groups.filter (fun i => i != gid) })
  { x with faultq := q.filter (fun e => !e.groups.isEmpty) }

/-- `TRAP_ENTRY` (R382, R383): a group that parked because its frame could not be written enters its
handler once every page of the frame translates. -/
def execTrapEntry (gid : Nat) (s : State) : Out :=
  match mfind s.groups gid with
  | none => notEnabled
  | some g =>
    match g.park, g.fault with
    | .frame, some f =>
      if g.where_ ≠ .resident ∨ (coreOf s g.core).stopped = true ∨ (writeFrame s gid f).isNone then
        notEnabled
      else
        .next (resumeFault (modSlice s (launchOf s g.launch).slice (dropFaultGroup gid)) gid)
    | _, _ => notEnabled

/-! ## Invalidation (R241, R390) -/

/-- Whether a `TLBI` covers a page of 2^`log` bytes of an address space; `page` counts such pages. -/
def tlbiCovers (x : Tlbi) (asid page log : Nat) : Bool :=
  match x.scope with
  | 0 => x.targets.any (fun y => y.1 == asid && y.2 * 4096 / 2 ^ log == page)
  | 1 => x.targets.any (fun y => y.1 == asid)
  | _ => true

/-- Whether a running walk may have read an entry that a `TLBI` covers. -/
def tlbiHits (x : Tlbi) (part : Nat) (w : Walk) : Bool :=
  w.part == part && (x.scope ≥ 2 || x.targets.any (fun y => y.1 == w.asid))

/-- Whether an engine operation of a partition still uses a captured page that a `TLBI` covers, on a core, in an
image or in a saved block (R302). -/
def tlbiHeld (s : State) (x : Tlbi) (part : Nat) : Bool :=
  let uses (group : Nat) (pages : Map Nat) : Bool :=
    let l := launchOf s (groupOf s group).launch
    l.part == part && pages.any (fun p => tlbiCovers x l.asid p.1 12)
  let busy (k : Core) : Bool :=
    k.copies.any (fun w => uses w.cap.group w.pages) || k.matrix.any (fun w => uses w.cap.group w.pages) || k.bops.any (fun w => uses w.cap.group w.pages)
  s.cores.any (fun k => busy k.2) || s.slices.any (fun y => y.2.images.any (fun im => busy im.2.core)) ||
    s.parts.any (fun p => p.2.store.any (fun im => busy im.2.core)) ||
    s.blocks.any (fun b => b.2.saved.any (fun k => busy k.2))

/-- Translations without those that a `TLBI` covers. -/
def dropLeaves (x : Tlbi) (part : Nat) (tlb : List Leaf) : List Leaf :=
  tlb.filter (fun l => !(l.part == part && tlbiCovers x l.asid l.page l.log))

/-- A core without the translations that a `TLBI` covers. -/
def invalidateCore (x : Tlbi) (part : Nat) (k : Core) : Core :=
  { k with tlb := dropLeaves x part k.tlb, utlbs := mmap (fun _ u => dropLeaves x part u) k.utlbs }

/-- A thread without the answer of a walk that a `TLBI` covers. -/
def invalidateThread (x : Tlbi) (part : Nat) (t : Thread) : Thread :=
  { t with walked := t.walked.filter (fun l => !(l.part == part && tlbiCovers x l.asid l.page l.log)) }

/-- Every translation of a partition that a `TLBI` covers, dropped (R241). -/
def dropTranslations (x : Tlbi) (part : Nat) (s : State) : State :=
  { s with
    cores := mmap (fun _ k => invalidateCore x part k) s.cores
    groups := mmap (fun _ g => mapThreads g (fun _ => invalidateThread x part)) s.groups }

/-- A slice without the translations that a `TLBI` covers and without the walks that may have read
them; waiting walks begin in their places. -/
def invalidate (x : Tlbi) (part : Nat) (y : Slice) : Slice :=
  let keep := y.walks.filter (fun w => !tlbiHits x part w)
  { y with
    tlb := dropLeaves x part y.tlb
    walks := keep ++ y.waiting.take (32 - keep.length)
    waiting := y.waiting.drop (32 - keep.length) }

/-- A thread whose `TLBI` has completed goes on. -/
def releaseTlbi (id : Nat) (t : Thread) : Thread :=
  if t.run = .blocked (.tlbi id) then { t with run := .ready, pc := t.pc + 8#64 } else t

/-- `TLBI_COMPLETE` (R241): every cache of the partition has dropped what the `TLBI` covers, and every
walk that read it has ended, its result discarded; its requests are issued again. It waits for copies
and `BOP`s that captured such a page (R302). -/
def execTlbiComplete (part id : Nat) (s : State) : Out :=
  match (partOf s part).tlbis.find? (fun x => x.id == id) with
  | none => notEnabled
  | some x =>
    if tlbiHeld s x part then notEnabled
    else
      let hit := s.slices.flatMap (fun y => y.2.walks.filter (tlbiHits x part))
      let s := dropTranslations x part { s with slices := mmap (fun _ y => invalidate x part y) s.slices }
      let s := hit.foldl (fun s w => w.groups.foldl (wakePage w.page none) s) s
      let s := modPart s part (fun p => { p with tlbis := p.tlbis.filter (fun y => y.id ≠ id) })
      .next (modGroup s x.group (fun g => mapThreads g (fun _ => releaseTlbi id)))

/-! ## The host, and errors in data that nobody consumes (R245, R395, R422) -/

/-- A line's owner promoted before the host reads it (R251). -/
def promoteFor (s : State) (line : Nat) : State :=
  match mfind s.owner line with
  | some c => promote s c
  | none => s

/-- The owners of every line of a run promoted before the host reads it (R251). -/
def promoteRun (s : State) (addr n : Nat) : State :=
  (List.range (lineOf (addr + n - 1) - lineOf addr + 1)).foldl (fun s i => promoteFor s (lineOf addr + i)) s

/-- Whether every line of a run lies in memory of a partition's slices (R415). -/
def runHomed (s : State) (part addr n : Nat) : Bool :=
  (List.range (lineOf (addr + n - 1) - lineOf addr + 1)).all (fun i =>
    (partOf s part).slices.getLsbD (Config.home (lineOf addr + i) % 16))

/-- The run of an access by the host. -/
def hostRun : HostAccess → Nat × Nat
  | .read addr size => (addr, size)
  | .write addr size _ => (addr, size)

/-- `HOST_CXL_ACCESS` (R251, R415, R422): the host reads or writes memory of a partition coherently; what it reads
leaves the device. -/
def execHostCxlAccess (part : Nat) (a : HostAccess) (s : State) : Out :=
  if (partOf s part).state = .free ∨ runHomed s part (hostRun a).1 (hostRun a).2 = false then notEnabled
  else
    match a with
    | .read addr size =>
      let s := promoteRun s addr size
      .next { s with outbox := s.outbox ++ [.hostData addr (readN (readMem s) addr size)] }
    | .write addr size data => .next (writeMem (noteStales s addr size) addr (bytesOf size data))

/-- `ERROR_IN_UNCONSUMED_DATA` (R395): it is recorded, and its line is marked poisoned. -/
def execErrorInUnconsumedData (line : Nat) (s : State) : Out :=
  .next (errorRecord { s with poison := insertNat line s.poison } (Config.home line % 16) .uncorrectable line)

end Sys2Proof.Machine
end

