-- ==== Sys2Proof/Machine/Queues.lean ====
section
/-! DEFINITION. The queue processor: notifies, hardware queue slots, command packets, waits and signals;
and budget periods (R306..R312, R320, R321, R366, R367). -/

namespace Sys2Proof.Machine

/-! ## Reading and writing by a unit with acquire and release (R251, R253) -/

/-- A read with acquire by a unit of the device: none where an address does not translate. -/
def unitAcquire (s : State) (part asid level va n : Nat) : State × Option Nat :=
  match mapPages s part asid level .read (pagesOf va n) with
  | none => (s, none)
  | some m =>
    let s := (pagesOf va n).foldl (fun s p =>
      let lo := max va (p * 4096)
      promoteRun s (pageByte m lo) (min (va + n) (p * 4096 + 4096) - lo)) s
    (s, unitBytes s part asid level va n)

/-- Bits `hi`..`lo` of a record replaced. -/
def putBits {w : Nat} (x : BitVec w) (hi lo n : Nat) : BitVec w :=
  BitVec.ofNat w (x.toNat - bitsOf x hi lo * 2 ^ lo + n % 2 ^ (hi - lo + 1) * 2 ^ lo)

/-! ## Descriptors (R307) -/

/-- The fields of a queue descriptor, by name. -/
def qdTenant (d : BitVec 512) : Nat := bitsOf d 215 208
def qdAsid (d : BitVec 512) : Nat := bitsOf d 207 192
def qdTail (d : BitVec 512) : Nat := bitsOf d 191 160
def qdHead (d : BitVec 512) : Nat := bitsOf d 159 128
def qdRing (d : BitVec 512) : Nat := bitsOf d 127 64
def qdBudget (d : BitVec 512) : Nat := bitsOf d 50 43
def qdPrioMax (d : BitVec 512) : Nat := bitsOf d 42 40
def qdLog (d : BitVec 512) : Nat := bitsOf d 28 24
def qdLevel (d : BitVec 512) : Nat := bitsOf d 17 17
def qdNp (d : BitVec 512) : Bool := bitsOf d 16 16 == 1
def qdVersion (d : BitVec 512) : Nat := bitsOf d 15 0

/-- Whether a descriptor is accepted: its VERSION, its ring and its must-be-zero fields (R5, R307). -/
def qdOk (d : BitVec 512) : Bool :=
  qdVersion d == 0x0100 && bitsOf d 511 216 == 0 && bitsOf d 63 51 == 0 && bitsOf d 39 29 == 0 && bitsOf d 23 19 == 0 &&
    qdRing d % 4096 == 0 && 6 ≤ qdLog d && qdLog d ≤ 16

/-- The descriptor of a queue of a slice. -/
def descOf (s : State) (slice q : Nat) : BitVec 512 := mget 0#512 (sliceOf s slice).queues q

/-- Packets in a ring: TAIL - HEAD mod 2^32. -/
def qdCount (d : BitVec 512) : Nat := (qdTail d + 2 ^ 32 - qdHead d) % 2 ^ 32

/-- The partition that holds a slice, as the device's units read the partition table: only while its STATE is 2
(R368). -/
def slicePart (s : State) (slice : Nat) : Option Nat :=
  (s.parts.find? (fun p => p.2.state == .running && p.2.slices.getLsbD slice)).map Prod.fst

/-- A queue's HEAD moved past the packet that has completed (R310). -/
def advanceHead (s : State) (slice q : Nat) : State :=
  let d := descOf s slice q
  modSlice s slice (fun x =>
    { x with queues := mset 0#512 x.queues q (putBits d 159 128 (qdHead d + 1)) })

/-- The hardware slot of a queue. -/
def slotFor (s : State) (slice q : Nat) : Option QSlot :=
  (sliceOf s slice).qslots.find? (fun x => x.queue == q)

/-- A change of a queue's hardware slot. -/
def modQSlot (s : State) (slice q : Nat) (f : QSlot → QSlot) : State :=
  modSlice s slice (fun x => { x with qslots := modFirst (fun y => y.queue == q) f x.qslots })

/-- A queue stops (R310): HEAD stays at the offending packet. -/
def stopQueue (s : State) (slice q : Nat) (cause : ErrCause) : State :=
  let head := qdHead (descOf s slice q)
  let s := modQSlot s slice q (fun x => { x with launching := false, waiting := none })
  errorRecord (modSlice s slice (fun x => { x with stopped := insertNat q x.stopped })) slice cause q head

/-! ## Notifies (R308, R309) -/

/-- The slot holder that a notify evicts: NP is 0 and the ring is empty, the one notified least
recently. -/
def evictable (s : State) (slice : Nat) : Option QSlot :=
  least (fun x => [x.notified, x.queue]) ((sliceOf s slice).qslots.filter (fun x =>
    !qdNp (descOf s slice x.queue) && qdCount (descOf s slice x.queue) == 0))

/-- A queue mapped to a slot: its pending bit clears (R309). -/
def mapQueue (s : State) (slice q : Nat) : State :=
  modSlice s slice (fun x =>
    { x with
      qslots := x.qslots ++ [{ queue := q, notified := s.now, mapped := s.now }]
      pend := x.pend.filter (fun n => n != q) })

/-- A queue takes a free slot, or that of an empty holder, or sets its pending bit (R309). -/
def seekSlot (s : State) (slice q : Nat) : State :=
  if (sliceOf s slice).qslots.length < 64 then mapQueue s slice q
  else
    match evictable s slice with
    | some e =>
      mapQueue (modSlice s slice (fun x =>
        { x with qslots := x.qslots.filter (fun y => y.queue ≠ e.queue) })) slice q
    | none => modSlice s slice (fun x => { x with pend := insertNat q x.pend })

/-- The effect of a notify of a queue whose descriptor is accepted; it restarts a stopped queue. -/
def notifyQueue (s : State) (slice q : Nat) : State :=
  let s := modSlice s slice (fun x => { x with stopped := x.stopped.filter (fun n => n ≠ q) })
  match slotFor s slice q with
  | some _ => modQSlot s slice q (fun x => { x with notified := s.now })
  | none => seekSlot s slice q

/-- `NOTIFY` (R308): a store to the notify window of a slice. A slice whose partition does not run drops it
(R368, R417). -/
def execNotify (slice : Nat) (value : DWord) (s : State) : Out :=
  match slicePart s slice with
  | none => .next s
  | some _ =>
    let q := value.toNat % 4096
    if value.toNat ≥ 4096 ∨ qdOk (descOf s slice q) = false then
      .next (errorRecord s slice .badNotify value.toNat)
    else .next (notifyQueue s slice q)

/-! ## Command packets (R310, R311) -/

/-- The fields of a command packet, by name. -/
def pkMask (x : BitVec 512) : Nat := bitsOf x 255 192
def pkValue (x : BitVec 512) : Nat := bitsOf x 191 128
def pkAddr (x : BitVec 512) : Nat := bitsOf x 127 64
def pkTimeout (x : BitVec 512) : Nat := bitsOf x 63 32
def pkDrain (x : BitVec 512) : Bool := bitsOf x 23 23 == 1
def pkOp (x : BitVec 512) : Nat := bitsOf x 22 20
def pkKind (x : BitVec 512) : Nat := bitsOf x 19 16

/-- Whether a packet is well-formed. -/
def packetOk (x : BitVec 512) : Bool :=
  bitsOf x 511 256 == 0 && bitsOf x 31 24 == 0 && bitsOf x 15 0 == 0x0100 && pkKind x ≤ 3 &&
  (pkKind x == 2 || pkTimeout x == 0) &&
  pkOp x ≤ (match pkKind x with | 2 => 5 | 3 => 2 | _ => 0) &&
  (match pkKind x with | 1 => pkAddr x % 128 == 0 | 2 | 3 => pkAddr x % 8 == 0 | _ => true)

/-- What stands at the head of a mapped queue. -/
inductive HeadPacket
  | none
  | bad
  | packet (x : BitVec 512)
  deriving DecidableEq, Repr

/-- The packet at HEAD, read from the ring (R310). -/
def headPacket (s : State) (part slice q : Nat) : HeadPacket :=
  let d := descOf s slice q
  if qdCount d = 0 then .none
  else if qdCount d > 2 ^ qdLog d ∨ qdLog d < 6 ∨ qdLog d > 16 then .bad
  else
    match unitBytes s part (qdAsid d) (qdLevel d) (qdRing d + qdHead d % 2 ^ qdLog d * 64) 64 with
    | Option.none => .bad
    | some n => let x := BitVec.ofNat 512 n
      if packetOk x then .packet x else .bad

/-- Whether every launch of a queue has reached its end (R311). -/
def queueDrained (s : State) (slice q : Nat) : Bool :=
  s.launches.all (fun l => l.2.queue != some (slice, q) || l.2.final)

/-- The queue processor takes the packet at a queue's HEAD, of a kind; the previous one has completed
(R310). A malformed packet stops the queue (log 26, DEDUCED). -/
def withPacket (s : State) (slice q kind : Nat) (k : Nat → BitVec 512 → State) : Out :=
  match slicePart s slice, slotFor s slice q with
  | some p, some z =>
    if z.launching ∨ z.waiting.isSome = true ∨ (sliceOf s slice).stopped.contains q = true then notEnabled
    else
      match headPacket s p slice q with
      | .none => notEnabled
      | .bad => .next (stopQueue s slice q .queueStop)
      | .packet x =>
        if pkKind x ≠ kind ∨ (pkDrain x = true ∧ queueDrained s slice q = false) then notEnabled
        else .next (k p x)
  | _, _ => notEnabled

/-- `NOP_PACKET` (R310). -/
def execNopPacket (slice q : Nat) (s : State) : Out :=
  withPacket s slice q 0 (fun _ _ => advanceHead s slice q)

/-- `LAUNCH_PACKET` (R310): the record is handed to the distributor, which takes it when its intake has
room. -/
def execLaunchPacket (slice q : Nat) (s : State) : Out :=
  withPacket s slice q 1 (fun _ _ => modQSlot s slice q (fun x => { x with launching := true }))

/-- What a queue gives its launches (R307, R314). -/
def queueSource (s : State) (p slice q addr : Nat) : Source :=
  let d := descOf s slice q
  { part := p, tenant := qdTenant d, level := qdLevel d, asid := qdAsid d, budget := qdBudget d,
    slice := slice, queue := some (slice, q), prioMax := qdPrioMax d, addr := addr }

/-- The record that a queue has handed over taken by the distributor; one that cannot be read stops the
queue. -/
def acceptPacket (s : State) (slice q : Nat) : Out :=
  match slicePart s slice, slotFor s slice q with
  | some p, some z =>
    if !z.launching ∨ intake s p ≥ 256 then notEnabled
    else
      match headPacket s p slice q with
      | .packet x =>
        let src := queueSource s p slice q (pkAddr x)
        (match unitAcquire s p src.asid src.level (pkAddr x) 128 with
         | (s, none) => .next (stopQueue s slice q .badLaunchAddress)
         | (s, some r) =>
           let s := takeRecord s src (BitVec.ofNat 1024 r)
           .next (advanceHead (modQSlot s slice q (fun z => { z with launching := false })) slice q))
      | _ => .next (stopQueue s slice q .queueStop)
  | _, _ => notEnabled

/-- `LAUNCH_ACCEPT` (R41, R314): the distributor takes the oldest record of a group's pending-launch
queue, or the one that a queue has handed over. -/
def execLaunchAccept (src : LaunchSource) (s : State) : Out :=
  match src with
  | .group gid => acceptPending s gid
  | .queue slice q => acceptPacket s slice q

/-! ## Waits and signals (R312) -/

/-- Whether a wait holds of a semaphore's value. -/
def waitHolds (x : BitVec 512) (v : Nat) : Bool :=
  match pkOp x with
  | 0 => v == pkValue x
  | 1 => v != pkValue x
  | 2 => pkValue x ≤ v
  | 3 => pkValue x < v
  | 4 => Nat.land v (pkMask x) != 0
  | _ => Nat.land v (pkMask x) == pkMask x

/-- A wait evaluated: it completes, waits on, or stops a queue whose semaphore cannot be read. -/
def evalWait (s : State) (p slice q : Nat) (x : BitVec 512) (since : Nat) : State :=
  let d := descOf s slice q
  match unitAcquire s p (qdAsid d) (qdLevel d) (pkAddr x) 8 with
  | (s, none) => stopQueue s slice q .queueStop
  | (s, some v) =>
    if waitHolds x v then advanceHead (modQSlot s slice q (fun z => { z with waiting := none })) slice q
    else modQSlot s slice q (fun z => { z with waiting := some x, since := since, checked := s.now })

/-- `WAIT_PACKET` (R312). -/
def execWaitPacket (slice q : Nat) (s : State) : Out :=
  withPacket s slice q 2 (fun p x => evalWait s p slice q x s.now)

/-- `QUEUE_WAIT_RECHECK` (R312): a waiting packet reads its semaphore again. -/
def execQueueWaitRecheck (slice q : Nat) (s : State) : Out :=
  match slicePart s slice, slotFor s slice q with
  | some p, some z =>
    (match z.waiting with
     | some x => .next (evalWait s p slice q x z.since)
     | none => notEnabled)
  | _, _ => notEnabled

/-- `QUEUE_WAIT_TIMEOUT` (R312). -/
def execQueueWaitTimeout (slice q : Nat) (s : State) : Out :=
  match slotFor s slice q with
  | some z =>
    (match z.waiting with
     | some x =>
       if pkTimeout x = 0 ∨ s.now - z.since < pkTimeout x * 850 then notEnabled
       else .next (stopQueue s slice q .waitTimeout)
     | none => notEnabled)
  | none => notEnabled

/-- The value a signal leaves. -/
def signalValue (x : BitVec 512) (v : Nat) : Nat :=
  match pkOp x with
  | 0 => pkValue x
  | 1 => (v + pkValue x) % 2 ^ 64
  | _ => Nat.lor v (pkValue x)

/-- `SIGNAL_PACKET` (R312): one atomic with release. -/
def execSignalPacket (slice q : Nat) (s : State) : Out :=
  withPacket s slice q 3 (fun p x =>
    let d := descOf s slice q
    match unitAcquire s p (qdAsid d) (qdLevel d) (pkAddr x) 8,
        xlateDirect s p (qdAsid d) (qdLevel d) (pkAddr x) .write with
    | (s, some v), some (pa, _) => advanceHead (writeMem s pa (bytesOf 8 (signalValue x v))) slice q
    | (s, _), _ => stopQueue s slice q .queueStop)

/-! ## Budget periods (R309, R321, R366, R367) -/

/-- Nanoseconds since device reset, at 850 MHz (R124, log 10, DESIGN CHOICE). -/
def nowNs (s : State) : Nat := s.now * 20 / 17

/-- A use that a period has left over its limit: it is carried into the next one (R321). -/
def carryUse (b : Budget) (k : Charge) : Nat :=
  if budgetLimit b.bound k = 0 then 0 else budgetUse b k - budgetLimit b.bound k

/-- The entry with the use of the period that has ended written back, and its new period (R367). -/
def nextPeriod (b : Budget) : Budget :=
  let sat (n : Nat) : Nat := min n (2 ^ 32 - 1)
  let e := putBits b.entry 351 320 (sat (b.issue / 65536))
  let e := putBits e 319 288 (sat (b.hbm / 1024))
  let e := putBits e 287 256 (sat (b.net / 1024))
  let e := putBits e 255 224 (sat (b.copy / 1024))
  let e := putBits e 223 208 (min b.test 65535)
  let e := if b.heldAny then putBits e 191 160 (sat (bitsOf e 191 160 + 1)) else e
  { entry := e, bound := e, issue := carryUse b .issue, hbm := carryUse b .hbm, net := carryUse b .net
    copy := carryUse b .copy, test := carryUse b .test }

/-- Whether an entry's MBZ bits are nonzero (R367). -/
def budgetMbz (e : BitVec 512) : Bool :=
  bitsOf e 367 352 != 0 || bitsOf e 207 192 != 0 || bitsOf e 159 0 != 0

/-- Whether a slot holder gives its slot up at a boundary: an NP queue that has held it for the whole
period, or an empty queue that is not NP (R309). -/
def givesUp (s : State) (slice start : Nat) (z : QSlot) : Bool :=
  let d := descOf s slice z.queue
  if qdNp d then z.mapped ≤ start else qdCount d == 0

/-- The hardware slots of a slice at a period boundary (R309): the queues that waited before it are
served first, in ascending number. -/
def serveSlots (start : Nat) (s : State) (slice : Nat) : State :=
  let x := sliceOf s slice
  if x.pend.isEmpty then s
  else
    let gone := x.qslots.filter (givesUp s slice start)
    let keep := x.qslots.filter (fun z => !givesUp s slice start z)
    let room := 64 - keep.length
    let left := (gone.filter (fun z => qdCount (descOf s slice z.queue) != 0)).map (fun z => z.queue)
    let s := modSlice s slice (fun x =>
      { x with qslots := keep, pend := left.foldl (fun l q => insertNat q l) (x.pend.drop room) })
    (x.pend.take room).foldl (fun s q => mapQueue s slice q) s

/-- The acknowledgements that exhausted entries have held back leave (R320). -/
def sendOwed (s : State) (slice : Nat) : State :=
  let owed := (sliceOf s slice).owed
  { modSlice s slice (fun x => { x with owed := [] }) with outbox := s.outbox ++ owed }

/-- Whether an entry holds something back at the end of a period (R320): what it has held stands there until
then. -/
def heldAtEnd (s : State) (part n : Nat) (b : Budget) : Bool :=
  let mine (lid : Nat) : Bool := (launchOf s lid).part == part && (launchOf s lid).budget == n
  b.heldAny ||
  (exhausted b .issue && s.groups.any (fun g => mine g.2.launch && running g.2 && hasGang g.2)) ||
  (exhausted b .hbm && s.cores.any (fun k => (k.2.copies.map (fun w => w.cap) ++ k.2.bops.map (fun w => w.cap)).any
    (fun c => mine (groupOf s c.group).launch))) ||
  (exhausted b .copy && s.cores.any (fun k => k.2.copies.any (fun w => mine (groupOf s w.cap.group).launch))) ||
  (exhausted b .net && s.slices.any (fun x => x.2.sendq.any (fun m => m.part == part && m.budget == n) ||
    x.2.answers.any (fun a => a.part == part && a.budget == n))) ||
  (exhausted b .test && n == 255 && s.cores.any (fun k => k.2.wear.testDue))

/-- `BUDGET_PERIOD_BOUNDARY` (R309, R321, R367): every entry of the partition restarts at once. -/
def execBudgetPeriodBoundary (part : Nat) (s : State) : Out :=
  let p := partOf s part
  if p.state = .free ∨ nowNs s < p.periodNext then notEnabled
  else
    let bad := (p.budgets.filter (fun b => budgetMbz b.2.entry)).map Prod.fst
    let slices := partSlices s part
    let s := bad.foldl (fun s n => errorRecord s (slices.headD 0) .badBudget n) s
    let s := slices.foldl (serveSlots p.periodStart) s
    let s := slices.foldl sendOwed s
    .next (modPart s part (fun p =>
      { p with
        budgets := mmap (fun n b => nextPeriod { b with heldAny := heldAtEnd s part n b }) p.budgets
        periodStart := s.now
        periodNext := nowNs s + p.period }))

end Sys2Proof.Machine
end

