-- ==== Sys2Proof/Machine/Wakes.lean ====
section
/-! DEFINITION. Wait-and-wake: `WWAIT`, `WWAKE`, and the evaluations of a line's entry (R358..R363). -/

namespace Sys2Proof.Machine

/-! ## The table (R358, R359) -/

/-- The entry of a line, with its number. -/
def wakeEntry (s : State) (part asid line : Nat) : Option (Nat × WakeEntry) :=
  findWake (partOf s part) asid line

/-- One waiter registered at the entry of its line, or at a free entry (R358); whether it could be. -/
def joinWake (s : State) (part asid line : Nat) (pline : Option Nat) : State × Bool :=
  match wakeEntry s part asid line with
  | some (n, e) =>
    if e.waiters ≥ 65535 then (s, false)
    else
      let e := { e with waiters := e.waiters + 1, pline := pline }
      (modPart s part (fun p => { p with wakes := mput p.wakes n e }), true)
  | none =>
    let n := mfree (partOf s part).wakes 0 4096
    if n ≥ 4096 then (s, false)
    else
      (modPart s part (takeWake n { line := line, asid := asid, waiters := 1, pline := pline }), true)

/-- A `WWAKE` of a line: its entry owes an evaluation (R359, R362); a line without one is left. -/
def wakeLineOf (s : State) (part asid line : Nat) (all : Bool) : State :=
  match wakeEntry s part asid line with
  | some (n, e) =>
    modPart s part (fun p => { p with wakes := mput p.wakes n { e with due := e.due ++ [all] } })
  | none => s

/-! ## WWAIT (R360, R361) -/

/-- The condition of a `WWAIT` (R360). -/
def wakeCond (cc v b : Nat) : Bool :=
  match cc with
  | 0 => v == b
  | 1 => v != b
  | 2 => v ≥ b
  | 3 => v > b
  | 4 => v &&& b != 0
  | _ => v &&& b == b

/-- The bytes of the word that a `WWAIT` reads. -/
def waitBytes (o : OpWwait) : Nat := if o.w64 then 8 else 4

/-- The operands of a wait that begins; one in progress keeps those it has read. -/
def readWait (o : OpWwait) (v : View) : Sem (DWord × Nat × Option Nat) :=
  match (threadOf v.g v.lane).wwait with
  | some w => pure (w.addr, w.value, w.limit)
  | none => do
    let a ← readPair v o.a
    let b ← readSrc v o.b (if o.w64 then .n64 else .n32)
    let t ← if o.tmo then (do let x ← readTyped v (.k o.k) .n32 false; pure (some x)) else pure none
    pure (a, b, t)

/-- The registers of a `WWAIT`. -/
def useWait (o : OpWwait) : List RegUse :=
  useReg o.a 2 ++ useSrc o.b (if o.w64 then 2 else 1) ++ (if o.tmo then useK o.k.val 1 else [])

/-- The first waits whose page is not normal (R361). -/
def normalOnly (c : Ctx) (s : State) (xs : List Spot) (k : State → State) : State :=
  match xs.filter (fun x => x.pt != .normal) with
  | [] => k s
  | x :: rest => trapLanes c s (cPageType x.va) (x.lane :: rest.map (fun y => y.lane))

/-- A wait as it stands before its read: the one in progress, or one that begins now (R361). -/
def waitNow (s : State) (t : Thread) (x : DWord × Nat × Option Nat) (gang : BitVec 128) : WaitReg :=
  t.wwait.getD { addr := x.1, value := x.2.1, limit := x.2.2, since := nowNs s, gang := gang }

/-- Whether a wait's time is over (R361): its timeout in microseconds has passed. -/
def waitOver (s : State) (w : WaitReg) : Bool :=
  match w.limit with
  | some n => nowNs s ≥ w.since + 1000 * n
  | none => false

/-- How a wait goes on: it ends with a value of its predicate, or goes on waiting. -/
inductive WaitRes
  | done (b : Bool)
  | wait (w : WaitReg)
  deriving DecidableEq, Repr

/-- One turn of a wait (R361): it registers, reads its word with acquire, and ends or waits on. A wait
that a `WWAKE.all` released ends whatever its condition (R362) (log 27, DEDUCED). -/
def turnWait (s : State) (c : Ctx) (o : OpWwait) (x : Spot) (w : WaitReg) : State × WaitRes :=
  let l := c.launch s
  let line := wakeLine w.addr
  let (s, reg) := if w.registered then (s, true)
    else joinWake s l.part l.asid line ((placePas x.place).head?.map lineOf)
  let s := acquirePromote s c.g.core x.place .part .acq
  let v := readPlace s (groupOf s c.gid) x.place (waitBytes o)
  let w := { w with registered := reg, polled := s.now }
  let leave := if reg then leaveWake s l.part l.asid line else s
  if w.released then (leave, .done false)
  else if wakeCond o.cc.val v w.value then (leave, .done true)
  else if waitOver s w then (leave, .done false)
  else (s, .wait w)

/-- A thread of a wait after its turn. -/
def waitThread (pd : List (Nat × Bool)) (r : WaitRes) (t : Thread) : Thread :=
  match r with
  | .done _ =>
    { t with
      pc := t.pc + 8#64, wwait := none
      rf := { t.rf with p := putPreds t.rf.p pd }
      shadow := t.shadow.map (fun x => { x with p := putPreds x.p pd }) }
  | .wait w => { t with run := .blocked .wwait, wwait := some w }

/-- The predicate that a wait writes when it ends. -/
def waitPd (o : OpWwait) : WaitRes → List (Nat × Bool)
  | .done b => [(o.pd.val, b)]
  | .wait _ => []

/-- The turn of one lane of a per-thread wait; the flags of its operands are raised (R167). -/
def waitLane (c : Ctx) (o : OpWwait) (rs : Map ((DWord × Nat × Option Nat) × Flags × Flags)) (s : State)
    (x : Spot) : State :=
  match mfind rs x.lane with
  | none => s
  | some (ops, fl, sfl) =>
    let (s, r) := turnWait s c o x (waitNow s (threadOf c.g x.lane) ops 0#128)
    modGroup s c.gid (fun g =>
      let g := if r = .done true ∨ r = .done false then g else lapseLanes g [x.lane]
      modThread g x.lane (fun t => waitThread (waitPd o r) r (commitThread ⟨{}, fl, {}, sfl⟩ t)))

/-- The turn of a uniform wait: once for its gang, with a q predicate (R63, R360). -/
def waitUniform (c : Ctx) (o : OpWwait) (ops : DWord × Nat × Option Nat) (fl sfl : Flags) (s : State)
    (x : Spot) : State :=
  let t := threadOf c.g (lowest c.gang)
  let s := (c.gang.drop 1).foldl (fun s l => leaveWait s (c.launch s) (threadOf c.g l).wwait) s
  let (s, r) := turnWait s c o x (waitNow s t ops (maskOfLanes c.gang))
  let pd := waitPd o r
  modGroup s c.gid (fun g =>
    let g := if pd.isEmpty then lapseLanes g c.gang else g
    let g := mapThreads g (fun l t =>
      if c.gang.contains l then
        let t := commitThread ⟨{}, fl, {}, sfl⟩ t
        let t := { t with region := if o.pd.val = 7 ∨ pd.isEmpty then t.region else none }
        let t := { t with spin := if pd.isEmpty then t.spin else t.spin.map (noteUni { preds := pd }) }
        match r with
        | .done b => waitThread [] (.done b) t
        | .wait w => waitThread [] (.wait { w with registered := w.registered && l == lowest c.gang, gang := maskOfLanes c.gang }) t
      else t)
    { g with
      uni := { g.uni with q := putPreds g.uni.q pd }
      uniShadow := { g.uniShadow with q := putPreds g.uniShadow.q pd } })

/-- The lanes of a per-thread wait: those in progress, and those whose predicate is true. -/
def waitLanes (c : Ctx) (o : OpWwait) : List Nat :=
  let act := activeLanes c o.pred
  c.gang.filter (fun l => (threadOf c.g l).wwait.isSome || act.contains l)

/-- A `WWAIT` of each thread for itself. -/
def waitThreads (c : Ctx) (s : State) (o : OpWwait) : State :=
  let act := waitLanes c o
  let rest := c.gang.filter (fun l => !act.contains l)
  if act.isEmpty then advance c s c.gang
  else if !usesOk s c.g (useWait o) then trapLanes c s cRange act
  else
    let rs := readLanes c s .free act act (readWait o)
    match faultsOf rs with
    | (l, x) :: more => trapLanes c s x (l :: more.map Prod.fst)
    | [] =>
      let ops := resultsOf rs
      withSpots c s (resolveGlobal s c false (waitBytes o) .read (ops.map (fun r => (r.1, r.2.1.1)))) (fun xs =>
        normalOnly c s xs (fun s =>
          whenFree c s xs (fun s => unpoisoned c s xs (fun s =>
            xs.foldl (waitLane c o ops) (advance c s rest)))))

/-- The predicate of a uniform wait: one in progress has been begun. -/
def waitBegun (c : Ctx) (o : OpWwait) : Bool :=
  (threadOf c.g (lowest c.gang)).wwait.isSome || predVal c.g.uni.q o.pred

/-- A `WWAIT` once for its gang. -/
def waitOnce (c : Ctx) (s : State) (o : OpWwait) : State :=
  if !waitBegun c o then advance c s c.gang
  else if !usesOk s c.g (useWait o) then trapLanes c s cRange c.gang
  else
    match runPair (isProt s c.g) .free (readWait o) (viewOf c s c.gang (lowest c.gang)) with
    | .error x => trapLanes c s x c.gang
    | .ok (ops, fl, sfl) =>
      withSpots c s (resolveGlobal s c true (waitBytes o) .read [(lowest c.gang, ops.1)]) (fun xs =>
        normalOnly c s xs (fun s =>
          whenFree c s xs (fun s => unpoisoned c s xs (fun s => xs.foldl (waitUniform c o ops fl sfl) s)) (uniform := true)))

/-- `WWAIT` (R360, R361): each thread whose predicate is true waits until its condition holds. -/
def execWwait (o : OpWwait) (s : State) : Out :=
  withGang (.wwait o) s (fun c => .next (if isK o.a then waitOnce c s o else waitThreads c s o))

/-! ## WWAKE (R362) -/

/-- The wakes of some lanes, past their checks: a release at `.part`, and then an evaluation of each
line's entry. -/
def wakeSpots (c : Ctx) (s : State) (all : Bool) (xs : List Spot) (k : State → State) : State :=
  normalOnly c s xs (fun s =>
    whenQuiet c s c.gang (fun s =>
      let s := visible s c.g.block
      let l := c.launch s
      let s := xs.foldl (fun s x => wakeLineOf s l.part l.asid (wakeLine x.va) all) s
      let lanes := xs.map (fun x => x.lane)
      k (closeRegions c (markEffects c s lanes) lanes)))

/-- `WWAKE` (R362). Its address is checked for the alignment of a 32-bit word: it names no width. -/
def execWwake (o : OpWwake) (s : State) : Out :=
  withGang (.wwake o) s (fun c => .next (
    if isK o.a then
      withUniform c s o.pred (useReg o.a 2) (fun v => readPair v o.a) (fun r =>
        withSpots c s (resolveGlobal s c true 4 .read [(lowest c.gang, r.1)]) (fun xs =>
          wakeSpots c s o.all xs (fun s => closeRegions c (markEffects c (commitUni c s ⟨{}, r.2.1, {}, r.2.2⟩) c.gang) c.gang)))
    else
      withOperands c s o.pred (useReg o.a 2) (fun v => readPair v o.a) (fun rs =>
        withSpots c s (resolveGlobal s c false 4 .read (rs.map (fun r => (r.1, r.2.1)))) (fun xs =>
          wakeSpots c s o.all xs (fun s => commitLanes c s (flagsOnly rs))))))

/-! ## Events -/

/-- Whether a thread waits at a line with a registration; it may stand ready to read again. -/
def waitsAt (line : Nat) (t : Thread) : Bool :=
  t.run != .ended &&
    (match t.wwait with
     | some w => wakeLine w.addr == line
     | none => false)

/-- A waiter that reads its word again (R359): its instruction is issued again; with ALL it is released
(R362). -/
def rereadThread (all : Bool) (t : Thread) : Thread :=
  { t with
    run := if t.run = .blocked .wwait then .ready else t.run
    wwait := t.wwait.map (fun w => { w with released := w.released || all }) }

/-- Whether a group's waits are those of no core: it is imaged, saved, or its core has stopped. -/
def offCore (s : State) (g : Group) : Bool :=
  match g.where_ with
  | .resident => (coreOf s g.core).stopped
  | .swappedOut => false
  | _ => true

/-- The waiters of a group at a line read again: the registered ones, with the gang of a uniform one. A
group whose core has stopped reads again at its restore (R405); one that is swapped out is then
resumed (R444). -/
def rereadGroup (s : State) (part asid line : Nat) (all : Bool) (g : Group) : Group :=
  let l := launchOf s g.launch
  if l.part ≠ part ∨ l.asid ≠ asid ∨ offCore s g then g
  else
    let regs := lanesWhere g (fun t => waitsAt line t && (t.wwait.map (fun w => w.registered)).getD false)
    let more := regs.flatMap (fun l => lanesOfMask (((threadOf g l).wwait.map (fun w => w.gang)).getD 0#128))
    modThreads g (regs ++ more) (rereadThread all)

/-- The host line of an entry written with WAKESEQ (R359). -/
def wakeHost (s : State) (e : WakeEntry) : State :=
  if e.host then { s with outbox := s.outbox ++ [.hostData e.hostline e.wakeseq.toNat] } else s

/-- `WAIT_EVALUATION` (R359): a line's home evaluates its entry, and every registered waiter reads its
word again. -/
def execWaitEvaluation (part entry : Nat) (s : State) : Out :=
  match mfind (partOf s part).wakes entry with
  | none => notEnabled
  | some e =>
    match e.due with
    | [] => notEnabled
    | all :: rest =>
      let e := { e with wakeseq := e.wakeseq + 1#32, due := rest }
      let s := modPart s part (fun p => { p with wakes := mput p.wakes entry e })
      let s := wakeHost s e
      .next { s with groups := mmap (fun _ g => rereadGroup s part e.asid e.line all g) s.groups }

/-- The lanes that wait with a lane: the gang of a uniform wait. -/
def waitMates (g : Group) (lane : Nat) : List Nat :=
  lane :: lanesOfMask (((threadOf g lane).wwait.map (fun w => w.gang)).getD 0#128)

/-- A wait of a running core, in progress. -/
def waitOf (s : State) (gid lane : Nat) : Option WaitReg :=
  match mfind s.groups gid with
  | none => none
  | some g =>
    let t := threadOf g lane
    if t.run = .blocked .wwait ∧ offCore s g = false then t.wwait
    else none

/-- The lanes of a wait read again. -/
def rereadLanes (s : State) (gid lane : Nat) : State :=
  modGroup s gid (fun g => modThreads g (waitMates g lane) (rereadThread false))

/-- `WWAIT_TIMEOUT` (R361): the timeout of a wait has passed; it reads once more and ends. -/
def execWwaitTimeout (gid lane : Nat) (s : State) : Out :=
  match waitOf s gid lane with
  | some w => if waitOver s w then .next (rereadLanes s gid lane) else notEnabled
  | none => notEnabled

/-- `UNREGISTERED_WAIT_POLL` (R358): a waiter that is registered nowhere reads again every
microsecond. -/
def execUnregisteredWaitPoll (gid lane : Nat) (s : State) : Out :=
  match waitOf s gid lane with
  | some w => if !w.registered && s.now ≥ w.polled + 850 then .next (rereadLanes s gid lane) else notEnabled
  | none => notEnabled

/-- `HOST_WAKE_WRITE` (R363): the host writes its partition's wake window: a `WWAKE` of the line in
bits [55:6]. A write with nonzero MBZ bits is dropped and recorded. -/
def execHostWakeWrite (part asid : Nat) (value : DWord) (s : State) : Out :=
  if (partOf s part).state = .free then notEnabled
  else if bitsOf value 63 56 ≠ 0 ∨ bitsOf value 5 1 ≠ 0 then
    .next (errorRecord s (Config.home (bitsOf value 55 6) % 16) .badWake part asid value.toNat)
  else .next (wakeLineOf s part asid (wakeLine value) (value.getLsbD 0))

end Sys2Proof.Machine
end

