-- ==== Sys2Proof/Machine/Images.lean ====
section
/-! DEFINITION. Nitinol: the image commands, stops by image set, the settling of traffic at the edge,
seals, restores, and moves to and from the image store (R400..R408, R412..R414). -/

namespace Sys2Proof.Machine

/-! ## The command and status registers (R400) -/

/-- The fields of an image command, by name. -/
def icSlot (c : DWord) : Nat := bitsOf c 43 40
def icImgSlice (c : DWord) : Nat := bitsOf c 39 36
def icPos (c : DWord) : Nat := bitsOf c 35 32
def icSlice (c : DWord) : Nat := bitsOf c 31 28
def icXslot (c : DWord) : Nat := bitsOf c 27 12
def icReason (c : DWord) : Nat := bitsOf c 7 4
def icOp (c : DWord) : Nat := bitsOf c 3 0

/-- The core that a command targets. -/
def icCore (c : DWord) : Nat := icSlice c * 16 + icPos c

/-- The codes of the image status register. -/
inductive ImgCode
  | done | busy | badCmd | revMismatch | authFail | partMismatch | targetBusy | setIncomplete
  | noImage | noStore
  deriving DecidableEq, Repr

/-- A code's number. -/
def imgCode : ImgCode → Nat
  | .done => 0x00 | .busy => 0x01 | .badCmd => 0x02 | .revMismatch => 0x10 | .authFail => 0x11
  | .partMismatch => 0x12 | .targetBusy => 0x13 | .setIncomplete => 0x14 | .noImage => 0x15
  | .noStore => 0x16

/-- A result reported in the image status registers of the slices that received the command. -/
def imgReport (s : State) (slices : List Nat) (code : ImgCode) (detail : Nat := 0) : State :=
  slices.foldl (fun s i => modSlice s i (fun x =>
    { x with imgStatus := BitVec.ofNat 64 (imgCode code + detail % 2 ^ 32 * 2 ^ 32) })) s

/-- Whether a command names a core by SLICE and POS. -/
def namesCore (c : DWord) : Bool := icOp c == 1 || icOp c == 2 || icOp c == 4

/-- Whether a command's fields are accepted and name only what its caller's partition holds. -/
def commandOk (s : State) (part : Nat) (c : DWord) : Bool :=
  let mine (i : Nat) : Bool := (partOf s part).slices.getLsbD i
  bitsOf c 63 44 == 0 && bitsOf c 11 8 == 0 && icReason c ≤ 4 && 1 ≤ icOp c && icOp c ≤ 6 &&
    mine (icImgSlice c) &&
    (if namesCore c then icXslot c == 0 && mine (icSlice c) && configured s (icCore c)
     else icSlice c == 0 && icPos c == 0 && (icOp c != 3 || icXslot c == 0))

/-- A command written to the image command register of a slice: refused with BADCMD, or carried out by
`k` for the slice's partition. A reserved OP is taken for a stop. -/
def withCommand (slice : Nat) (cmd : DWord) (op : Nat) (s : State) (k : Nat → State → State) : Out :=
  match slicePart s slice with
  | none => notEnabled
  | some part =>
    if icOp cmd ≠ op ∧ (op ≠ 1 ∨ (1 ≤ icOp cmd ∧ icOp cmd ≤ 6)) then notEnabled
    else
      let s := modSlice s slice (fun x => { x with imgCmd := cmd })
      .next (if commandOk s part cmd then k part s else imgReport s [slice] .badCmd)

/-! ## Operations in progress (R13) -/

/-- Every image operation that has begun. -/
def imgOpsOf (s : State) : List ImgOp :=
  (s.slices.flatMap (fun x => x.2.imgOps)).filter (fun o => !o.waiting)

/-- Whether a core's scan controller works. -/
def coreScans (s : State) (core : Nat) : Bool := (imgOpsOf s).any (fun o => o.cores.contains core)

/-- Whether an operation uses a slot of an image area. -/
def slotInUse (s : State) (x : Nat × Nat) : Bool := (imgOpsOf s).any (fun o => o.slots.contains x)

/-- Whether the scan controller of a slice moves images. -/
def areaMoves (s : State) (slice : Nat) : Bool :=
  (imgOpsOf s).any (fun o => o.cores.isEmpty && o.slots.any (fun x => x.1 == slice))

/-- An image operation begun by a slice. -/
def addOp (s : State) (slice : Nat) (o : ImgOp) : State :=
  modSlice s slice (fun x => { x with imgOps := x.imgOps ++ [o] })

/-- An image operation of a slice ended. -/
def endOp (s : State) (slice : Nat) (o : ImgOp) : State :=
  modSlice s slice (fun x => { x with imgOps := dropFirst (fun y => y == o) x.imgOps })

/-- The image in a slot of an image area. -/
def imageAt (s : State) (x : Nat × Nat) : Option Image := mfind (sliceOf s x.1).images x.2

/-- The sealed image in a slot. -/
def sealedAt (s : State) (x : Nat × Nat) : Option Image := (imageAt s x).filter (fun im => im.isSealed)

/-- An image put into a slot. -/
def putImage (s : State) (x : Nat × Nat) (im : Image) : State :=
  modSlice s x.1 (fun y => { y with images := mput y.images x.2 im })

/-- A slot zeroed. -/
def dropImage (s : State) (x : Nat × Nat) : State :=
  modSlice s x.1 (fun y => { y with images := mdel y.images x.2 })

/-! ## Image sets (R402) -/

/-- The cores coupled to some cores: those of a spread block that is on one of them, and the peers of
accepted paired operations (log 31, DEDUCED). -/
def coupled (s : State) (cs : List Nat) : List Nat :=
  let blocks := s.blocks.filter (fun b => b.2.where_ == .resident && b.2.cores.any (fun c => cs.contains c))
  let peers := cs.flatMap (fun c => (coreOf s c).matrix.filterMap (fun w => w.peerCore))
  sortNat (cs ++ blocks.flatMap (fun b => b.2.cores) ++ peers)

/-- The image set of a core. It lies within one quad, so four rounds close it. -/
def imageSet (s : State) (core : Nat) : List Nat := coupled s (coupled s (coupled s (coupled s [core])))

/-- The groups resident on a core. -/
def coreGroups (s : State) (core : Nat) : List Nat :=
  (s.groups.filter (fun g => g.2.where_ == .resident && g.2.core == core)).map Prod.fst

/-- Whether a group of some cores is in a `NOPRE` region (R393). -/
def setNoPre (s : State) (cores : List Nat) : Bool :=
  s.groups.any (fun g => g.2.where_ == .resident && cores.contains g.2.core && g.2.nopre.isSome)

/-- The slots of a set's cores, the requested one's given and the others' the lowest free ones. -/
def assignSlots (slice core slot : Nat) : List Nat → List Nat → Option (List (Nat × Nat))
  | [], _ => some []
  | c :: cs, free =>
    if c = core then (assignSlots slice core slot cs free).map (fun l => (slice, slot) :: l)
    else
      match free with
      | [] => none
      | f :: fs => (assignSlots slice core slot cs fs).map (fun l => (slice, f) :: l)

/-- The free slots of an image area. -/
def freeSlots (s : State) (slice : Nat) : List Nat :=
  (List.range 16).filter (fun n => (imageAt s (slice, n)).isNone && !slotInUse s (slice, n))

/-- The slots that a stop's image set takes, none where it cannot be given them. -/
def stopSlots (s : State) (cmd : DWord) (set : List Nat) : Option (List (Nat × Nat)) :=
  if icImgSlice cmd ≠ icSlice cmd ∨ !(freeSlots s (icImgSlice cmd)).contains (icSlot cmd) then none
  else
    assignSlots (icImgSlice cmd) (icCore cmd) (icSlot cmd) set
      ((freeSlots s (icImgSlice cmd)).filter (fun n => n ≠ icSlot cmd))

/-! ## The stop (R401) -/

/-- A thread whose core has stopped: its wait is no longer registered (R405). -/
def unregister (t : Thread) : Thread :=
  { t with wwait := t.wwait.map (fun w => { w with registered := false }) }

/-- A group leaves its core for an image or a context: its walks are taken back, and so are its waits,
but those of a group that is only swapped out (R444). It keeps every register: what a portable context may
drop at a header is `dropLive`'s (R56, log 55, DESIGN CHOICE). -/
def detachGroup (dest : Residency) (s : State) (gid : Nat) : State :=
  let keep := dest == .swappedOut
  let s := if keep then s else leaveWakes s (groupOf s gid)
  let out (w : Walk) : Walk := { w with groups := w.groups.filter (fun i => i ≠ gid) }
  let s := { s with slices := mmap (fun _ (x : Slice) =>
    { x with walks := x.walks.map out, waiting := x.waiting.map out }) s.slices }
  modGroup s gid (fun g => { mapThreads g (fun _ t => if keep then t else unregister t) with where_ := dest })

/-- The tenant running on a core. -/
def coreTenant (s : State) (part core : Nat) : Nat :=
  match coreGroups s core with
  | g :: _ => (launchOf s (groupOf s g).launch).tenant
  | [] => (partOf s part).tenant

/-- One core of a set stopped: its generation advances, its narrow-scope writes become visible, with those of its quad
that its threads may have read (R245, R256), and its slot is taken. -/
def stopCore (part : Nat) (o : ImgOp) (s : State) (x : Nat × (Nat × Nat)) : State :=
  let s := (x.1 :: quadCores s x.1).foldl promote s
  let k := coreOf s x.1
  let gids := coreGroups s x.1
  let im : Image :=
    { part := part, tenant := coreTenant s part x.1, slice := coreSlice x.1, pos := corePos x.1
      rev := coreRev s x.1, gentag := k.gentag + 1#32, reason := icReason o.cmd, time := timeNs s (partOf s part)
      set := o.slots, quadpos := quadPos s x.1, own := x.2, groups := gids
      counter := (sliceOf s (coreSlice x.1)).imgCounter + 1
      blocks := (s.blocks.filter (fun b => b.2.where_ == .resident && b.2.cores.contains x.1)).map Prod.fst }
  let s := putImage s x.2 im
  let s := modSlice s (coreSlice x.1) (fun y => { y with imgCounter := y.imgCounter + 1 })
  let s := setCore s x.1
    { k with gentag := k.gentag + 1#32, stopped := true, image := some (x.2.1 * 16 + x.2.2) }
  gids.foldl (detachGroup .imaged) s

/-- Every core of a set stopped at the end of one cycle, with the blocks that are on them. -/
def stopSet (s : State) (part : Nat) (o : ImgOp) : State :=
  let s := (o.cores.zip o.slots).foldl (stopCore part o) s
  { s with blocks := mmap (fun _ (b : Block) =>
      if b.where_ = .resident ∧ b.cores.any (fun c => o.cores.contains c) = true then
        { b with where_ := .imaged }
      else b) s.blocks }

/-- A stop that begins, or that a `NOPRE` region of its set defers. -/
def beginStop (s : State) (slice part : Nat) (cmd : DWord) (reports : List Nat) : State :=
  let set := imageSet s (icCore cmd)
  if set.any (coreScans s) || slotInUse s (icImgSlice cmd, icSlot cmd) then imgReport s reports .busy
  else
    match stopSlots s cmd set with
    | none => imgReport s reports .badCmd
    | some slots =>
      let o : ImgOp := { cmd := cmd, cores := set, slots := slots, reports := reports }
      if setNoPre s set then addOp s slice { o with cores := [], slots := [], waiting := true }
      else addOp (stopSet s part o) slice o

/-- The deferred stop of a core, or of another core of its set. -/
def deferredStop (s : State) (core : Nat) : Option (Nat × ImgOp) :=
  s.slices.findSome? (fun x =>
    (x.2.imgOps.find? (fun o => o.waiting && (imageSet s (icCore o.cmd)).contains core)).map (fun o => (x.1, o)))

/-- Whether a stop is still to be sealed. -/
def unsealed (s : State) (o : ImgOp) : Bool :=
  (icOp o.cmd == 1 || icOp o.cmd == 4) && !o.waiting && o.cores.any (fun c => (coreOf s c).stopped)

/-- The stop in progress of a core, still to be sealed. -/
def pendingStop (s : State) (core : Nat) : Option (Nat × ImgOp) :=
  s.slices.findSome? (fun x =>
    (x.2.imgOps.find? (fun o => unsealed s o && o.cores.contains core)).map (fun o => (x.1, o)))

/-- A slice joined to the report of an operation. -/
def joinOp (s : State) (slice : Nat) (x : Nat × ImgOp) : State :=
  addOp (endOp s x.1 x.2) x.1 { x.2 with reports := (sortNat (slice :: x.2.reports)).eraseDups }

/-- A stop command (R401): one for a core whose stop is deferred or not yet sealed joins that stop; a deferred
stop begins once no group of its set is in a region (log 31, DEDUCED). -/
def stopCommand (slice : Nat) (cmd : DWord) (part : Nat) (s : State) : State :=
  match deferredStop s (icCore cmd) with
  | some (sl, o) =>
    if setNoPre s (imageSet s (icCore cmd)) then joinOp s slice (sl, o)
    else beginStop (endOp s sl o) sl part o.cmd (sortNat (slice :: o.reports)).eraseDups
  | none =>
    match pendingStop s (icCore cmd) with
    | some x => joinOp s slice x
    | none => beginStop s slice part cmd [slice]

/-- `IMAGE_STOP` (R401). -/
def execImageStop (slice : Nat) (cmd : DWord) (s : State) : Out :=
  withCommand slice cmd 1 s (stopCommand slice cmd)

/-- Whether the test time of a slice's partition holds its tests until the next period (R320)
(log 37, DESIGN CHOICE). -/
def testsHeld (s : State) (slice : Nat) : Bool :=
  match slicePart s slice with
  | some p => exhausted (budgetOf s p 255) .test
  | none => false

/-- `IMAGE_STOP_AND_SELF_TEST` (R412): its start waits where the test time is used up. -/
def execImageStopAndSelfTest (slice : Nat) (cmd : DWord) (s : State) : Out :=
  if testsHeld s slice then notEnabled else withCommand slice cmd 4 s (stopCommand slice cmd)

/-! ## Traffic at the edge of a stopped core (R403) -/

/-- Whether an access has left the core through its boundary block. -/
def atEdge (a : Access) : Bool :=
  match a.place with
  | .phys _ => true
  | .scratch .. => false

/-- Whether the seal waits for an access: an atomic, or a load of a device or strongly ordered page. -/
def mustCapture (a : Access) : Bool :=
  atEdge a && a.captured.isNone && (a.kind == .atomic || a.ptype == .device || a.ptype == .strong)

/-- The response to an access of a stopped core: an atomic is performed and its value captured, a load
of a device or strongly ordered page is captured, and other data is dropped, to be replayed. -/
def settleAccess (s : State) (core : Nat) (a : Access) : State × Access :=
  if !mustCapture a then (s, { a with replay := true })
  else
    match a.kind with
    | .atomic =>
      let (old, s) := atomPerform s a.group core a.place a.scope a.order a.aop a.t a.b a.c
      (s, { a with captured := some old })
    | .load => (s, { a with captured := some (readPlace s (groupOf s a.group) a.place a.size) })

/-- A response reaches the boundary block of a stopped core. -/
def arriveResponse (core n : Nat) (s : State) : Out :=
  match accAt s core n with
  | none => notEnabled
  | some (a, older) =>
    if !(coreOf s core).stopped ∨ !atEdge a ∨ a.captured.isSome ∨ a.replay ∨
        (owedPromotion s core a).isSome ∨
        (a.kind = .atomic ∧
          older.any (fun b => b.kind == .atomic && b.captured.isNone && overlap b.place a.place) = true) then
      notEnabled
    else if mustCapture a && readsPoison s a then
      .next (recover (dropAccess s core n) a.group (poisonFault s a))
    else
      let (s, a) := settleAccess s core a
      .next (modCore s core (fun k => { k with acc := k.acc.take n ++ [a] ++ k.acc.drop (n + 1) }))

/-- The sealed image of a position that a condition picks, with its slot: in an image area, or in the
image store of a partition. -/
def lateImage (s : State) (core : Nat) (p : Image → Bool) : Option (Bool × Nat × Nat × Image) :=
  let mine (im : Image) : Bool := im.isSealed && im.slice * 16 + im.pos == core && p im
  match s.slices.findSome? (fun x => (x.2.images.find? (fun im => mine im.2)).map (fun im => (x.1, im))) with
  | some (sl, n, im) => some (true, sl, n, im)
  | none =>
    (s.parts.findSome? (fun x =>
      (x.2.store.find? (fun im => mine im.2)).map (fun im => (x.1, im)))).map
        (fun e => (false, e.1, e.2.1, e.2.2))

/-- A found image replaced. -/
def setLate (s : State) (x : Bool × Nat × Nat × Image) (im : Image) : State :=
  if x.1 then putImage s (x.2.1, x.2.2.1) im
  else modPart s x.2.1 (fun p => { p with store := mput p.store x.2.2.1 im })

/-- An acknowledgement of a store or a `RED` of a generation is counted: by the core that has stopped with it, or in
the late word of the image that is sealed with it. -/
def arriveAck (core gen : Nat) (s : State) : Out :=
  let k := coreOf s core
  if k.stopped && k.gentag.toNat == gen then
    if k.stPend = 0 then notEnabled
    else .next (modCore s core (fun k => { k with stPend := k.stPend - 1 }))
  else
    match lateImage s core (fun im => im.gentag.toNat == gen && im.late < im.stPend) with
    | none => notEnabled
    | some x => .next (setLate s x { x.2.2.2 with late := x.2.2.2.late + 1 })

/-- The completion of a `BOP` of a stopped core, or of a sealed image. -/
def arriveBop (core id : Nat) (s : State) : Out :=
  let k := coreOf s core
  let has (k : Core) : Option Sweep := k.bops.find? (fun w => w.cap.id == id)
  match if k.stopped then has k else none with
  | some w => .next (modCore (bopFinish s core w) core (dropBop id))
  | none =>
    match lateImage s core (fun im => (has im.core).isSome) with
    | none => notEnabled
    | some x =>
      match has x.2.2.2.core with
      | none => notEnabled
      | some w => .next (bopFinish (setLate s x { x.2.2.2 with core := dropBop id x.2.2.2.core }) core w)

/-- `BOUNDARY_ARRIVAL` (R403). -/
def execBoundaryArrival (core : Nat) (a : Arrival) (s : State) : Out :=
  match a with
  | .response n => arriveResponse core n s
  | .storeAck gen => arriveAck core gen s
  | .bopDone id => arriveBop core id s

/-! ## The seal (R401, R406, R407) -/

/-- Whether a core's traffic is settled. -/
def canSeal (s : State) (core : Nat) : Bool := (coreOf s core).acc.all (fun a => !mustCapture a)

/-- An access as the header keeps it: captured, or to be issued again. -/
def sealAccess (a : Access) : Access :=
  if atEdge a && a.captured.isNone then { a with replay := true } else a

/-- A soft error found while a core is scanned out (R401): a v register of one of its threads is poisoned, or none
(log 32, DESIGN CHOICE). -/
def softError (s : State) (core : Nat) (gids : List Nat) : State :=
  let pick (i n : Nat) : Nat := Config.freeNat (s.fresh * 65536 + 4352 + 4 * core + i) % n
  match gids[pick 0 (gids.length + 1)]? with
  | none => s
  | some gid => modGroup s gid (fun g => modThread g (pick 1 128) (fun t =>
      if t.run = .ended then t else { t with soft := some (pick 2 256) }))

/-- One core's state sealed in its slot; it owns no line any more, and the position is left idle. Whether the stored
bytes are corrupted later is not the model's to say (R400) (log 32, DESIGN CHOICE). -/
def sealCore (test : Option Nat) (s : State) (x : Nat × (Nat × Nat)) : State :=
  match imageAt s x.2 with
  | none => s
  | some im =>
    let s := softError (promote s x.1) x.1 im.groups
    let k := coreOf s x.1
    let im := { im with
      isSealed := true, stPend := k.stPend, corrupt := freeChoice s (4096 + x.1)
      core := { k with stopped := false, image := none, acc := k.acc.map sealAccess, wear := {} } }
    let s := putImage s x.2 im
    setCore s x.1 { gentag := k.gentag, iinvAt := k.iinvAt, reserved := k.reserved, credits := k.credits, wear := k.wear
                    selfTest := test == some x.1 }

/-- `IMAGE_SEAL` (R401): every core of a set is scanned out and its traffic settled; DONE is set and the
image interrupt raised. The scan controller of an OP 4 goes on with the self-test (R412). -/
def execImageSeal (slice : Nat) (s : State) : Out :=
  match (sliceOf s slice).imgOps.find? (unsealed s) with
  | none => notEnabled
  | some o =>
    if !o.cores.all (canSeal s) then notEnabled
    else
      let test := if icOp o.cmd = 4 then some (icCore o.cmd) else none
      let s := (o.cores.zip o.slots).foldl (sealCore test) s
      let s := endOp s slice o
      let s := if icOp o.cmd = 4 then addOp s slice { o with cores := [icCore o.cmd], slots := [] } else s
      .next (modSlice (imgReport s o.reports .done) slice (fun x => { x with imgIrq := true }))

/-! ## Restores (R402, R404, R408) -/

/-- Whether a core is idle: nothing of a group, a block or an unsealed image is on it, and nothing is in
flight. -/
def coreIdle (s : State) (core : Nat) : Bool :=
  let k := coreOf s core
  (coreGroups s core).isEmpty && k.image.isNone && !k.stopped && !k.reserved && !k.selfTest &&
    !k.wear.failed && k.sweeps.isEmpty && k.matrix.isEmpty && k.copies.isEmpty && k.bops.isEmpty &&
    k.acc.isEmpty && k.stPend == 0 &&
    s.blocks.all (fun b => b.2.where_ != .resident || !b.2.cores.contains core)

/-- Whether the cores of a set lie in one pair. -/
def onePair (ims : List Image) : Bool :=
  match ims with
  | [] => true
  | a :: rest => rest.all (fun b => b.slice == a.slice && b.pos / 2 == a.pos / 2)

/-- The target of one image of a set whose named image goes to a core. -/
def targetFor (s : State) (ims : List Image) (core : Nat) (im : Image) : Nat :=
  if ims.length = 1 then core
  else if onePair ims then core / 2 * 2 + im.pos % 2
  else ((quadCores s core)[im.quadpos]?).getD core

/-- The targets of a set's images, none where they would not stand in the relation of the stopped
cores (R402). -/
def targetsFor (s : State) (ims : List Image) (named : Image) (core : Nat) : Option (List Nat) :=
  if ims.length = 1 ∨ (onePair ims = true ∧ pairPos core = named.pos % 2) ∨
      (onePair ims = false ∧ inQuad s core = true ∧ quadPos s core = named.quadpos) then
    some (ims.map (targetFor s ims core))
  else none

/-- The images of the set of an image, where every one is sealed in its slot and was stopped with it. -/
def setImages (s : State) (im : Image) : Option (List Image) :=
  let mine (x : Nat × Nat) : Option Image := (sealedAt s x).filter (fun y => y.set == im.set && y.time == im.time)
  let ims := im.set.filterMap mine
  if ims.length = im.set.length then some ims else none

/-- What a restore finds: its images, and their target cores. -/
structure Restore where
  named : Image
  images : List Image
  targets : List Nat

/-- The refusal of a restore, or what it restores (R400, R404, R408) (log 31, DEDUCED). -/
def checkRestore (s : State) (part : Nat) (cmd : DWord) : Except (ImgCode × Nat) Restore :=
  match sealedAt s (icImgSlice cmd, icSlot cmd) with
  | none => .error (.noImage, 0)
  | some named =>
    match (setImages s named).bind (fun ims =>
        (targetsFor s ims named (icCore cmd)).map (fun ts => (ims, ts))) with
    | none => .error (.setIncomplete, 0)
    | some (ims, ts) =>
      if ts.any (coreScans s) || named.set.any (slotInUse s) then .error (.busy, 0)
      else if !ts.all (coreIdle s) then .error (.targetBusy, 0)
      else if ims.any (fun im => im.part != part) then .error (.partMismatch, 0)
      else
        match (ims.zip ts).find? (fun x => x.1.rev != coreRev s x.2) with
        | some x => .error (.revMismatch, (coreRev s x.2).toNat)
        | none =>
          if ims.any (fun im => im.corrupt) then .error (.authFail, 0)
          else .ok { named := named, images := ims, targets := ts }

/-- A restore that begins: the target positions are taken. -/
def beginRestore (slice : Nat) (cmd : DWord) (part : Nat) (s : State) : State :=
  match checkRestore s part cmd with
  | .error (code, detail) => imgReport s [slice] code detail
  | .ok r =>
    let s := r.targets.foldl (fun s c =>
      modCore s c (fun k => { k with image := some (icImgSlice cmd * 16 + icSlot cmd) })) s
    addOp s slice { cmd := cmd, cores := r.targets, slots := r.named.set, reports := [slice] }

/-- `IMAGE_RESTORE` (R404). Mbotum issues none of a tenant whose slice does not run (R411). -/
def execImageRestore (slice : Nat) (cmd : DWord) (s : State) : Out :=
  let barred (part : Nat) : Bool :=
    (sealedAt s (icImgSlice cmd, icSlot cmd)).any (fun im => !tenantRuns (partOf s part) im.tenant)
  if (slicePart s slice).any barred then notEnabled
  else withCommand slice cmd 2 s (beginRestore slice cmd)

/-- The new position of an old one. -/
def movedTo (m : List (Nat × Nat)) (c : Nat) : Nat := ((m.find? (fun x => x.1 == c)).map Prod.snd).getD c

/-- A thread that goes on after its group has moved: what it waited for is tried again (R405). -/
def rewake (t : Thread) : Thread :=
  match t.run with
  | .blocked .retry | .blocked (.walk _ _) | .blocked .wwait => { t with run := .ready }
  | _ => t

/-- A thread whose group comes to a core: no invalidation of another core has made a new word certain there
(R53). -/
def newCore (moved : Bool) (t : Thread) : Thread := if moved then { t with sureAt := 0 } else t

/-- A group on a core again. -/
def attachGroup (core : Nat) (s : State) (gid : Nat) : State :=
  modGroup s gid (fun g =>
    { mapThreads g (fun _ t => newCore (g.core != core) (rewake t)) with where_ := .resident, core := core })

/-- One image streamed into its target core (R404): requests marked for replay are issued again under
the target's generation. -/
def placeImage (m : List (Nat × Nat)) (s : State) (x : (Nat × Nat) × Nat) : State :=
  match imageAt s x.1 with
  | none => s
  | some im =>
    let t := coreOf s x.2
    let k := im.core
    let s := setCore s x.2
      { k with
        gentag := t.gentag, wear := t.wear, reserved := t.reserved, stPend := im.stPend - im.late
        matrix := k.matrix.map (fun w => { w with peerCore := w.peerCore.map (movedTo m) })
        acc := k.acc.map (fun a => if a.replay then { a with replay := false, gen := t.gentag } else a) }
    let s := im.blocks.foldl (fun s b => modBlock s b (fun b =>
      if b.where_ = .imaged then { b with where_ := .resident, cores := b.cores.map (movedTo m) } else b)) s
    dropImage (im.groups.foldl (attachGroup x.2) s) x.1

/-- The captured returns of a restored core delivered to their requesters, in order. -/
def deliverCaptured (s : State) (core : Nat) : State :=
  let done := (coreOf s core).acc.filter (fun a => a.captured.isSome)
  let s := done.foldl (fun s a => performAccess s core a) s
  modCore s core (fun k => { k with acc := k.acc.filter (fun a => a.captured.isNone) })

/-- The images of a set restored onto their targets. -/
def placeImages (s : State) (slots : List (Nat × Nat)) (targets : List Nat) : State :=
  let m := (slots.zip targets).filterMap (fun x =>
    (imageAt s x.1).map (fun im => (im.slice * 16 + im.pos, x.2)))
  let s := (slots.zip targets).foldl (placeImage m) s
  targets.foldl deliverCaptured s

/-! ## Discards and moves (R400, R404, R414) -/

/-- A sealed image discarded. Of one whose stored bytes were corrupted Mbotum ends the launches
(R404) (log 32, DESIGN CHOICE). -/
def discardCommand (slice : Nat) (cmd : DWord) (_ : Nat) (s : State) : State :=
  let x := (icImgSlice cmd, icSlot cmd)
  match sealedAt s x with
  | none => imgReport s [slice] .noImage
  | some im =>
    if slotInUse s x || areaMoves s x.1 then imgReport s [slice] .busy
    else
      let s := if im.corrupt then
          (sortNat (im.blocks.map (fun b => (blockOf s b).launch))).foldl
            (fun s l => finishLaunch s l .failed 0x12030000) s
        else s
      imgReport (dropImage s x) [slice] .done

/-- `IMAGE_DISCARD` (R400): a slot is zeroed. -/
def execImageDiscard (slice : Nat) (cmd : DWord) (s : State) : Out :=
  withCommand slice cmd 3 s (discardCommand slice cmd)

/-- A move out that begins. -/
def moveOutCommand (slice : Nat) (cmd : DWord) (part : Nat) (s : State) : State :=
  let x := (icImgSlice cmd, icSlot cmd)
  let p := partOf s part
  match sealedAt s x with
  | none => imgReport s [slice] .noImage
  | some _ =>
    if icXslot cmd ≥ p.storeSize ∨ (mfind p.store (icXslot cmd)).isSome then imgReport s [slice] .noStore
    else if slotInUse s x || areaMoves s x.1 then imgReport s [slice] .busy
    else addOp s slice { cmd := cmd, slots := [x], entries := [icXslot cmd], reports := [slice] }

/-- `IMAGE_MOVE_OUT` (R414). -/
def execImageMoveOut (slice : Nat) (cmd : DWord) (s : State) : Out :=
  withCommand slice cmd 5 s (moveOutCommand slice cmd)

/-- The image-store slots that hold an image's set, in the order of the store. -/
def storedSet (p : Partition) (im : Image) : List (Nat × Image) :=
  p.store.filter (fun e => e.2.set == im.set && e.2.time == im.time)

/-- A move in that begins: an image set moves in whole. -/
def moveInCommand (slice : Nat) (cmd : DWord) (part : Nat) (s : State) : State :=
  let p := partOf s part
  match if icXslot cmd < p.storeSize then mfind p.store (icXslot cmd) else none with
  | none => imgReport s [slice] .noStore
  | some im =>
    let es := storedSet p im
    if im.set.any (fun x => slotInUse s x || areaMoves s x.1) then imgReport s [slice] .busy
    else if im.set.any (fun x => (imageAt s x).isSome) then imgReport s [slice] .targetBusy
    else addOp s slice { cmd := cmd, slots := es.map (fun e => e.2.own), entries := es.map Prod.fst
                         reports := [slice] }

/-- `IMAGE_MOVE_IN` (R414). -/
def execImageMoveIn (slice : Nat) (cmd : DWord) (s : State) : Out :=
  withCommand slice cmd 6 s (moveInCommand slice cmd)

/-- An image moved to the image store. -/
def moveOut (part : Nat) (s : State) (x : (Nat × Nat) × Nat) : State :=
  match imageAt s x.1 with
  | none => s
  | some im => dropImage (modPart s part (fun p => { p with store := mput p.store x.2 im })) x.1

/-- An image moved back to its slot of the image area. -/
def moveIn (part : Nat) (s : State) (x : (Nat × Nat) × Nat) : State :=
  match mfind (partOf s part).store x.2 with
  | none => s
  | some im => putImage (modPart s part (fun p => { p with store := mdel p.store x.2 })) x.1 im

/-- `IMAGE_OPERATION_COMPLETE` (R400, R404, R414): a restore or a move finishes streaming. -/
def execImageOperationComplete (slice : Nat) (s : State) : Out :=
  match slicePart s slice, (sliceOf s slice).imgOps.find? (fun o =>
      !o.waiting && (icOp o.cmd == 2 || icOp o.cmd == 5 || icOp o.cmd == 6)) with
  | some part, some o =>
    let s := endOp s slice o
    let s :=
      if icOp o.cmd = 2 then placeImages s o.slots o.cores
      else if icOp o.cmd = 5 then (o.slots.zip o.entries).foldl (moveOut part) s
      else (o.slots.zip o.entries).foldl (moveIn part) s
    .next (imgReport s o.reports .done)
  | _, _ => notEnabled

end Sys2Proof.Machine
end

