-- ==== Sys2Proof/Machine/WindowEngine.lean ====
section
/-! DEFINITION. The window engines: streams, keys, windows and panes, deliveries, closes and activations
(R328..R344, R349..R351, R452, R454). -/

namespace Sys2Proof.Machine

/-! ## Tables and records (R328, R330, R331) -/

/-- The physical address of an entry of a partition's window table, and of its stream table. -/
def specAddr (p : Partition) (n : Nat) : Nat := p.winBase.toNat + 128 * n
def streamAddr (p : Partition) (n : Nat) : Nat := p.winBase.toNat + 524288 + 64 * n

/-- A record from its 64 bytes. -/
def recordOf (x : Nat) : Record :=
  { key := BitVec.ofNat 64 x, time := BitVec.ofNat 64 (x / 2 ^ 64)
    payload := (wordsOf 12 (x / 2 ^ 128)).map (BitVec.ofNat 32) }

/-- The 64 bytes of a record as a number. -/
def recordBits (r : Record) : Nat :=
  r.key.toNat + 2 ^ 64 * r.time.toNat +
    2 ^ 128 * r.payload.foldr (fun w n => w.toNat + 2 ^ 32 * n) 0

/-- Whether a record is a watermark record (R330). -/
def isMark (r : Record) : Bool := r.key == 0xFFFFFFFFFFFFFFFF#64

/-- The key value that a spec selects of a record (R328). -/
def keyOf (sp : BitVec 1024) (r : Record) : DWord :=
  if spKeysel sp = 0 then r.key else ((r.payload[spKeysel sp - 1]?).getD 0#32).zeroExtend 64

/-- The home slice of a key value among a partition's slices (R334). -/
def keySlice (s : State) (part : Nat) (k : DWord) : Nat :=
  let ss := partSlices s part
  ((ss[(k * 0x9E3779B97F4A7C15#64).toNat / 2 ^ 32 % ss.length]?).getD 0)

/-- An installed spec. -/
def specOf (s : State) (part n : Nat) : Option Spec := mfind (partOf s part).specs n

/-- An installed stream. -/
def streamOf (s : State) (part n : Nat) : Option Stream := mfind (partOf s part).streams n

/-- The least watermark: -2^63. -/
def lowMark : Int := -9223372036854775808

/-- A slice's copy of a stream's watermark. -/
def markOf (s : State) (slice stream : Nat) : Int := (mfind (sliceOf s slice).wms stream).getD lowMark

/-- The ingest slice of a stream (R332). -/
def ingestSlice (s : State) (part n : Nat) (st : Stream) : Nat :=
  let ss := partSlices s part
  match st.src with
  | 2 =>
    (match xlateDirect s part st.asid st.level st.ring.toNat .read with
     | some (pa, _) => Config.home (lineOf pa) % 16
     | none => ss.headD 0)
  | 1 => (ss.find? (fun i => (sliceOf s i).flows.any (fun f =>
      bitsOf f.2 0 0 == 1 && bitsOf f.2 87 84 == 1 && bitsOf f.2 107 96 == n))).getD (ss.headD 0)
  | _ => (ss[n % ss.length]?).getD 0

/-! ## Keys (R336) -/

/-- Whether a queue is that of a pair of spec and key value. -/
def isKey (spec : Nat) (k : DWord) (q : KeyQueue) : Bool := q.spec == spec && q.key == k

/-- The queue of a pair at its home slice; a pair without events has an empty one. -/
def keyQueue (s : State) (slice spec : Nat) (k : DWord) : KeyQueue :=
  ((sliceOf s slice).keyqs.find? (isKey spec k)).getD { spec := spec, key := k }

/-- The queue of a pair replaced. -/
def setKey (s : State) (slice : Nat) (q : KeyQueue) : State :=
  modSlice s slice (fun x =>
    if x.keyqs.any (isKey q.spec q.key) then
      { x with keyqs := modFirst (isKey q.spec q.key) (fun _ => q) x.keyqs }
    else { x with keyqs := x.keyqs ++ [q] })

/-- A change of the queue of a pair. -/
def modKey (s : State) (slice spec : Nat) (k : DWord) (f : KeyQueue → KeyQueue) : State :=
  setKey s slice (f (keyQueue s slice spec k))

/-- The tenants with installed specs in a partition. -/
def specTenants (p : Partition) : List Nat := sortNat (p.specs.map (fun x => x.2.tenant))

/-- The entries of a slice's activation queue that a tenant's activations hold. -/
def actsOf (s : State) (part slice tenant : Nat) : Nat :=
  ((sliceOf s slice).actq.filter (fun a =>
    (specOf s part a.spec).any (fun x => x.tenant == tenant))).length

/-- Whether a slice's activation queue takes no further activation of a tenant: every other tenant
keeps its reserve. -/
def actFull (s : State) (part slice tenant : Nat) : Bool :=
  let ts := specTenants (partOf s part)
  let own := 1024 / ts.length
  let others := (ts.filter (fun t => t ≠ tenant)).foldl (fun n t => n + max own (actsOf s part slice t)) 0
  actsOf s part slice tenant + others ≥ 1024

/-- Whether a slice's activation queue takes no further activation of a spec (R306). -/
def specFull (s : State) (slice spec : Nat) : Bool :=
  match slicePart s slice with
  | some part => (specOf s part spec).any (fun x => actFull s part slice x.tenant)
  | none => false

/-- The next activation of the event that has its turn put into the slice's activation queue, once no
activation of the key runs (R46) and the queue has room (R306). -/
def pumpKey (s : State) (slice spec : Nat) (k : DWord) : State :=
  let q := keyQueue s slice spec k
  match q.todo with
  | a :: rest =>
    if q.running ≠ 0 || specFull s slice spec then s
    else
      let s := setKey s slice { q with running := 1, todo := rest }
      modSlice s slice (fun x => { x with actq := x.actq ++ [a] })
  | [] => s

/-- Every key of a slice that has waited for room in its activation queue goes on. -/
def pumpKeys (s : State) (slice : Nat) : State :=
  (sliceOf s slice).keyqs.foldl (fun s q => pumpKey s slice q.spec q.key) s

/-- Whether a key's next event may have its turn (R336). -/
def keyIdle (q : KeyQueue) : Bool := q.running == 0 && q.todo.isEmpty

/-! ## The store (R334, R335, R338) -/

/-- The class of a spec's windows: 64, 128, 256 or 512 bytes. -/
def storeClass (l : Nat) : Nat :=
  let n := 64 + 8 * ((l + 15) / 16) + 4 * l
  if n ≤ 64 then 0 else if n ≤ 128 then 1 else if n ≤ 256 then 2 else 3

/-- The live windows and panes of a spec in a partition. -/
def specWindows (s : State) (part spec : Nat) : Nat :=
  (partSlices s part).foldl (fun n i =>
    n + ((sliceOf s i).windows.filter (fun w => w.2.spec == spec)).length) 0

/-- The causes of a window fault (R343). -/
def causeLate : Nat := 1
def causeCapacity : Nat := 2
def causeStore : Nat := 3

/-- The live windows, or panes, of a key, with their ids, in ascending start. -/
def keyWindows (s : State) (slice spec : Nat) (k : DWord) (pane : Bool) : List (Nat × Window) :=
  let ws := (sliceOf s slice).windows.filter (fun w =>
    w.2.spec == spec && w.2.key == k && w.2.isPane == pane)
  sortStart ws.length ws
where
  /-- Selection in ascending start. -/
  sortStart : Nat → List (Nat × Window) → List (Nat × Window)
    | 0, _ => []
    | n + 1, ws =>
      match ws.find? (fun w => ws.all (fun x => w.2.start ≤ x.2.start)) with
      | none => []
      | some w => w :: sortStart n (ws.filter (fun x => x.1 ≠ w.1))

/-- A window or pane opened (R335, R338): its id, or the cause that refuses it. -/
def openWindow (s : State) (part slice spec : Nat) (sp : BitVec 1024) (k : DWord) (start stop : Int)
    (pane : Bool) : State × Except Nat Nat :=
  let x := sliceOf s slice
  let cls := storeClass (spL sp)
  if spCapacity sp ≠ 0 ∧ specWindows s part spec ≥ spCapacity sp then (s, .error causeCapacity)
  else if (x.windows.filter (fun w => w.2.cls == cls)).length ≥ (x.wclasses[cls]?).getD 0 then
    (s, .error causeStore)
  else
    let id := slice * 2 ^ 60 + x.wcount
    let w : Window := { spec := spec, key := k, start := start, stop := stop, isPane := pane, cls := cls }
    (modSlice s slice (fun x =>
      { x with windows := mput x.windows id w, wcount := x.wcount + 1 }), .ok id)

/-- A change of a window that is live. -/
def modWindow (s : State) (slice id : Nat) (f : Window → Window) : State :=
  modSlice s slice (fun x => { x with windows := mmod x.windows id f })

/-- Panes that no live window covers any more die (R341). -/
def dropPanes (spec : Nat) (k : DWord) (size : Int) (m : Map Window) : Map Window :=
  mfilter (fun _ p => !(p.isPane && p.spec == spec && p.key == k) ||
    m.any (fun w => !w.2.isPane && w.2.spec == spec && w.2.key == k &&
      w.2.start ≤ p.start && p.start < w.2.start + size)) m

/-- A window dies (R341). -/
def killWindow (s : State) (slice id : Nat) (sp : BitVec 1024) : State :=
  match mfind (sliceOf s slice).windows id with
  | none => s
  | some w => modSlice s slice (fun x =>
      { x with windows := dropPanes w.spec w.key (spSize sp) (mdel x.windows id) })

/-! ## Faults and stopped streams (R343, R344) -/

/-- A stream stops (R344): STOPPED is set and the ingest slice's error queue receives a record. -/
def stopStream (s : State) (part n cause : Nat) : State :=
  match streamOf s part n with
  | none => s
  | some st =>
    let a := streamAddr (partOf s part) n
    let s := writeMem s (a + 2) [readMem s (a + 2) ||| 0x08#8]
    let s := modPart s part (fun p =>
      { p with streams := mput p.streams n { st with stopped := true } })
    errorRecord s (ingestSlice s part n st) .streamStop n cause

/-- The bytes of a fault slot after a fault (R343): the first one since it was zeroed fills it. -/
def faultSlot (old : Nat) (r : Record) (wBefore : Int) (cause : Nat) : Nat :=
  let count := old / 2 ^ 576 % 2 ^ 32
  if count = 0 then
    recordBits r + (BitVec.ofInt 64 wBefore).toNat * 2 ^ 512 + 2 ^ 576 + cause * 2 ^ 608
  else if count = 2 ^ 32 - 1 then old
  else old + 2 ^ 576

/-- A window fault (R343, R344). -/
def windowFault (s : State) (part spec stream cause : Nat) (r : Record) (wBefore : Int) : State :=
  match specOf s part spec with
  | none => s
  | some x =>
    let l := launchOf s x.launch
    let a := spFault x.rcd
    let s := if a = 0 then s
      else
        match unitAcquire s part l.asid l.level a 128 with
        | (s, some old) => unitWrite s part l.asid l.level a (bytesOf 128 (faultSlot old r wBefore cause))
        | (s, none) => s
    if spStop x.rcd then stopStream s part stream cause else s

/-! ## From record to activations (R336..R342) -/

/-- What the delivery of a record knows. -/
structure Delivery where
  part : Nat
  slice : Nat
  spec : Nat
  sp : BitVec 1024
  key : DWord
  stream : Nat
  rcd : Record
  wBefore : Int

/-- The event time of a record. -/
def Delivery.time (d : Delivery) : Int := d.rcd.time.toInt

/-- The tables of an activation of a delivery. -/
def Delivery.act (d : Delivery) (kind : ActKind) (win : Nat) : Activation :=
  { kind := kind, slice := d.slice, stream := d.stream, spec := d.spec, key := d.key, win := win,
    recKey := d.rcd.key, recTime := d.rcd.time, rcd := some d.rcd }

/-- Whether an end with the lateness of the spec has passed a watermark. -/
def passed (sp : BitVec 1024) (stop w : Int) : Bool := stop + spLateness sp ≤ w

/-- The activations of a delivery added to its key's event. -/
def addActs (s : State) (d : Delivery) (as_ : List Activation) : State :=
  modKey s d.slice d.spec d.key (fun q => { q with todo := q.todo ++ as_ })

/-- A record that is late for every window (R342). -/
def deliverLate (s : State) (d : Delivery) : State :=
  if spLate d.sp ≠ 0#64 then addActs s d [d.act .late 0]
  else windowFault s d.part d.spec d.stream causeLate d.rcd d.wBefore

/-- The live window or pane of a key that starts at a time. -/
def windowAt (s : State) (d : Delivery) (start : Int) (pane : Bool) : Option Nat :=
  ((sliceOf s d.slice).windows.find? (fun w => w.2.spec == d.spec && w.2.key == d.key &&
    w.2.isPane == pane && w.2.start == start)).map Prod.fst

/-- A window found or opened for a delivery: its id and whether it has been opened; a refusal is a
fault (R338). -/
def ensureWindow (s : State) (d : Delivery) (start stop : Int) (pane : Bool) :
    State × Option (Nat × Bool) :=
  match windowAt s d start pane with
  | some id => (s, some (id, false))
  | none =>
    match openWindow s d.part d.slice d.spec d.sp d.key start stop pane with
    | (s, .ok id) => (s, some (id, true))
    | (s, .error cause) => (windowFault s d.part d.spec d.stream cause d.rcd d.wBefore, none)

/-- A window found or opened for a delivery whose records go to its panes: one that has just been opened has its
open activation (R338). -/
def openOver (d : Delivery) (size : Int) (s : State) (start : Int) : State :=
  match ensureWindow s d start (start + size) false with
  | (s, some (id, true)) => if spOpen d.sp != 0#64 then addActs s d [d.act .openA id] else s
  | (s, _) => s

/-- The activations of one window that a record is delivered to: an open activation first where it has
just been opened. -/
def deliverTo (s : State) (d : Delivery) (id : Nat) (opened : Bool) : State :=
  let s := modWindow s d.slice id (fun w => { w with records := w.records + 1 })
  addActs s d ((if opened && spOpen d.sp != 0#64 then [d.act .openA id] else []) ++ [d.act .record id])

/-- A delivery to a window or pane that is opened where it is not live. -/
def deliverAt (d : Delivery) (stop : Int) (pane : Bool) (s : State) (start : Int) : State :=
  match ensureWindow s d start (start + stop) pane with
  | (s, some (id, opened)) => deliverTo s d id opened
  | (s, none) => s

/-- The starts of the time windows of a record, ascending (R337). -/
def timeStarts (d : Delivery) : List Int :=
  if spKind d.sp = 0 then [d.time / (spSize d.sp : Int) * spSize d.sp]
  else
    let n := spSize d.sp / spSlide d.sp
    let last := d.time / (spSlide d.sp : Int) * spSlide d.sp
    (List.range n).map (fun i => last - ((n - 1 - i : Nat) : Int) * spSlide d.sp)

/-- A delivery under a time kind (R337, R342). -/
def deliverTime (s : State) (d : Delivery) : State :=
  let size : Int := spSize d.sp
  let live := (timeStarts d).filter (fun b => !passed d.sp (b + size) d.wBefore)
  if live.isEmpty then deliverLate s d
  else if spPane d.sp then
    let s := live.foldl (openOver d size) s
    deliverAt d (spSlide d.sp) true s (d.time / (spSlide d.sp : Int) * spSlide d.sp)
  else live.foldl (deliverAt d size false) s

/-- Windows of a key that have taken their SIZE-th record are closed by the next events (R341). -/
def closeFull (s : State) (d : Delivery) : State :=
  let full := (keyWindows s d.slice d.spec d.key false).filter (fun w =>
    w.2.records ≥ spSize d.sp && !w.2.closing)
  let s := full.foldl (fun s w => modWindow s d.slice w.1 (fun w => { w with closing := true })) s
  modKey s d.slice d.spec d.key (fun q =>
    { q with events := full.map (fun w => .close d.stream w.1 none) ++ q.events })

/-- The windows that a record of a count kind belongs to, after a new one has been opened where it is
due. -/
def deliverCount (s : State) (d : Delivery) : State :=
  let size : Int := spSize d.sp
  let n := (keyQueue s d.slice d.spec d.key).ordinal
  let s := modKey s d.slice d.spec d.key (fun q => { q with ordinal := n + 1 })
  let open_ := (keyWindows s d.slice d.spec d.key false).filter (fun w => w.2.records < spSize d.sp)
  let due := if spKind d.sp = 2 then open_.isEmpty else n % spSlide d.sp == 0
  let (s, new) := if due then ensureWindow s d n (n + size) false else (s, none)
  if spPane d.sp then
    let s := match new with
      | some (id, true) => if spOpen d.sp != 0#64 then addActs s d [d.act .openA id] else s
      | _ => s
    let ids := open_.map Prod.fst ++ (new.map Prod.fst).toList
    let s := ids.foldl (fun s id => modWindow s d.slice id (fun w => { w with records := w.records + 1 })) s
    closeFull (deliverAt d (spSlide d.sp) true s (n / spSlide d.sp * spSlide d.sp : Nat)) d
  else
    let s := open_.foldl (fun s w => deliverTo s d w.1 false) s
    let s := match new with
      | some (id, opened) => deliverTo s d id opened
      | none => s
    closeFull s d

/-- The sessions of a key that a record meets (R339). -/
def metSessions (s : State) (d : Delivery) : List (Nat × Window) :=
  (keyWindows s d.slice d.spec d.key false).filter (fun w =>
    w.2.start ≤ d.time + spGap d.sp && d.time ≤ w.2.stop)

/-- A delivery under the gap kind (R339, R342). -/
def deliverGap (s : State) (d : Delivery) : State :=
  let t := d.time
  let last := t + spGap d.sp
  let met := metSessions s d
  let stop := met.foldl (fun e w => max e w.2.stop) last
  let start := met.foldl (fun e w => min e w.2.start) t
  if passed d.sp stop d.wBefore then deliverLate s d
  else
    match met with
    | [] => deliverAt d (spGap d.sp) false s t
    | [(id, _)] => deliverTo (modWindow s d.slice id (fun w => { w with start := start, stop := stop })) d id false
    | (a, _) :: (b, _) :: _ =>
      let merge := { d.act .merge a with
        other := b, winStart := BitVec.ofInt 64 start, winEnd := BitVec.ofInt 64 stop }
      deliverTo (addActs s d [merge]) d a false

/-- A record assigned to its windows at its turn (R336, R337). -/
def deliver (s : State) (d : Delivery) : State :=
  match spKind d.sp with
  | 4 => deliverGap s d
  | 2 | 3 => deliverCount s d
  | _ => deliverTime s d

/-! ## Events of keys -/

/-- `RECORD_DELIVERY` (R336, R337, R454): at its turn a record is assigned to windows and its activations
are queued. -/
def execRecordDelivery (slice spec : Nat) (k : DWord) (s : State) : Out :=
  let q := keyQueue s slice spec k
  match slicePart s slice, q.events with
  | some part, .deliver stream r w :: rest =>
    if !keyIdle q then notEnabled
    else
      match specOf s part spec with
      | none => notEnabled
      | some x =>
        if actFull s part slice x.tenant then notEnabled
        else
          let s := setKey s slice { q with events := rest }
          .next (pumpKey (deliver s ⟨part, slice, spec, x.rcd, k, stream, r, w⟩) slice spec k)
  | _, _ => notEnabled

/-- A close that has its turn (R341): a window that has been extended goes back to the wheel. -/
def runClose (s : State) (slice : Nat) (x : Spec) (q : KeyQueue) (stream win : Nat) (mark : Option Int) :
    State :=
  match mfind (sliceOf s slice).windows win with
  | none => s
  | some w =>
    if mark.any (fun m => !passed x.rcd w.stop m) then s
    else if spClose x.rcd ≠ 0#64 then
      let a : Activation := { kind := .close, slice := slice, stream := stream, spec := q.spec, key := q.key
                              win := win, recKey := q.key }
      modKey s slice q.spec q.key (fun q => { q with todo := [a] })
    else killWindow s slice win x.rcd

/-- Windows in wheel order: by end, then by id (R335). -/
def wheelOrder : Nat → List (Nat × Window) → List (Nat × Window)
  | 0, _ => []
  | n + 1, ws =>
    match ws.find? (fun w => ws.all (fun x => w.2.stop < x.2.stop || (w.2.stop == x.2.stop && w.1 ≤ x.1))) with
    | none => []
    | some w => w :: wheelOrder n (ws.filter (fun x => x.1 ≠ w.1))

/-- Whether the watermark closes the windows of a spec (R341). -/
def wheelKind (sp : BitVec 1024) : Bool := spKind sp ≤ 1 || spKind sp == 4

/-- The windows of a spec that a watermark takes from the wheel. -/
def expired (s : State) (slice spec : Nat) (sp : BitVec 1024) (w : Int) : List (Nat × Window) :=
  let ws := (sliceOf s slice).windows.filter (fun x =>
    x.2.spec == spec && !x.2.isPane && !x.2.closing && wheelKind sp && passed sp x.2.stop w)
  wheelOrder ws.length ws

/-- `CLOSE_EVENT` (R336, R341): a risen watermark has its turn in a key's queue and takes the key's windows
that it has passed from the wheel, or the close of one of them has its turn. -/
def execCloseEvent (slice spec : Nat) (k : DWord) (s : State) : Out :=
  let q := keyQueue s slice spec k
  match slicePart s slice with
  | none => notEnabled
  | some part =>
    match specOf s part spec with
    | none => notEnabled
    | some x =>
      if !keyIdle q then notEnabled
      else
        match q.events with
        | .close stream win m :: rest =>
          let q := { q with events := rest }
          .next (pumpKey (runClose (setKey s slice q) slice x q stream win m) slice spec k)
        | .mark stream w :: rest =>
          let ws := (expired s slice spec x.rcd w).filter (fun e => e.2.key == k)
          .next (setKey s slice { q with events := ws.map (fun e => .close stream e.1 (some w)) ++ rest })
        | _ => notEnabled

/-! ## Messages between slices (R333, R341) -/

/-- A record put into its key's queue. -/
def queueRecord (s : State) (part slice : Nat) (stream spec : Nat) (r : Record) (w : Int) : State :=
  match specOf s part spec with
  | none => s
  | some x => modKey s slice spec (keyOf x.rcd r) (fun q => { q with events := q.events ++ [.deliver stream r w] })

/-- The records at the front of a slice's messages put into their queues: the messages are taken in the
order in which they were sent. -/
def takeRecords (part slice : Nat) : List SliceMsg → State → State
  | .record stream spec r w :: rest, s => takeRecords part slice rest (queueRecord s part slice stream spec r w)
  | ms, s => modSlice s slice (fun x => { x with inbox := ms })

/-- A message sent to a slice (log 42, DEDUCED). -/
def sendMsg (part slice : Nat) (s : State) (m : SliceMsg) : State :=
  takeRecords part slice ((sliceOf s slice).inbox ++ [m]) s

/-- The keys of a spec that a risen watermark concerns: those with windows that it has passed, and those
with earlier events, which may yet open or extend such windows (R336). -/
def markedKeys (s : State) (slice spec : Nat) (sp : BitVec 1024) (w : Int) : List DWord :=
  if wheelKind sp then
    ((expired s slice spec sp w).map (fun e => e.2.key) ++
      ((sliceOf s slice).keyqs.filter (fun q => q.spec == spec && (!keyIdle q || !q.events.isEmpty))).map
        (fun q => q.key)).eraseDups
  else []

/-- A risen watermark put into the queues of a spec's keys (R341) (log 42, DEDUCED). -/
def queueMark (part slice stream : Nat) (w : Int) (s : State) (spec : Nat) : State :=
  match specOf s part spec with
  | none => s
  | some x =>
    (markedKeys s slice spec x.rcd w).foldl (fun s k =>
      modKey s slice spec k (fun q => { q with events := q.events ++ [.mark stream w] })) s

/-- `WATERMARK_UPDATE` (R333, R341): a slice's copy of a stream's watermark rises. -/
def execWatermarkUpdate (slice stream : Nat) (s : State) : Out :=
  match slicePart s slice, (sliceOf s slice).inbox with
  | some part, .mark n w :: rest =>
    if n ≠ stream then notEnabled
    else
      let s := modSlice s slice (fun x => { x with wms := mput x.wms stream w })
      let specs := ((streamOf s part stream).map (fun x => x.specs)).getD []
      let s := specs.eraseDups.foldl (queueMark part slice stream w) s
      .next (takeRecords part slice rest s)
  | _, _ => notEnabled

/-! ## Ingest (R332, R333) -/

/-- What an ingest slice finds to take: nothing, an overfilled ring, or a record. -/
inductive Ingest
  | none
  | overfull
  | record (r : Record)
  deriving DecidableEq, Repr

/-- The next record of a stream. -/
def nextRecord (s : State) (part n : Nat) (st : Stream) : Ingest :=
  if st.src = 2 then
    let tail := readN (readMem s) (streamAddr (partOf s part) n + 28) 4
    let count := (tail + 2 ^ 32 - st.head) % 2 ^ 32
    if count = 0 then .none
    else if count > 2 ^ st.logsize then .overfull
    else
      match unitBytes s part st.asid st.level (st.ring.toNat + st.head % 2 ^ st.logsize * 64) 64 with
      | Option.none => .none
      | some x => .record (recordOf x)
  else
    match st.pending with
    | [] => .none
    | r :: _ => .record r

/-- A stream after a record (R333). -/
def takeStream (st : Stream) (r : Record) : Stream :=
  let t := r.time.toInt
  let maxt := if isMark r then st.maxt else max st.maxt t
  let w :=
    if isMark r then max st.wmark t
    else if st.wmx then st.wmark
    else max st.wmark (maxt - st.maxooo)
  { st with
    maxt := maxt, wmark := w, seq := (st.seq + 1) % 2 ^ 64
    head := if st.src = 2 then (st.head + 1) % 2 ^ 32 else st.head
    pending := if st.src = 2 then st.pending else st.pending.drop 1 }

/-- The fields of its entry that the engine owns, written (R331). -/
def writeStream (s : State) (part n : Nat) (st : Stream) : State :=
  let a := streamAddr (partOf s part) n
  let s := if st.src = 2 then writeMem s (a + 24) (bytesOf 4 st.head) else s
  let s := writeMem s (a + 32) (bytesOf 8 (BitVec.ofInt 64 st.wmark).toNat)
  let s := writeMem s (a + 40) (bytesOf 8 (BitVec.ofInt 64 st.maxt).toNat)
  writeMem s (a + 48) (bytesOf 8 st.seq)

/-- The messages that a record causes (R333). -/
def sendRecord (s : State) (part n : Nat) (old new : Stream) (r : Record) : State :=
  let s := if isMark r then s
    else new.specs.foldl (fun s spec =>
      match specOf s part spec with
      | none => s
      | some x => sendMsg part (keySlice s part (keyOf x.rcd r)) s (.record n spec r old.wmark)) s
  if new.wmark > old.wmark then
    (partSlices s part).foldl (fun s i => sendMsg part i s (.mark n new.wmark)) s
  else s

/-- `RECORD_INGEST` (R332, R333): the ingest slice takes one record, unless its activation queue is
full; it reads the TAIL of a memory queue with acquire at `.part` (R253, R331). -/
def execRecordIngest (part n : Nat) (s : State) : Out :=
  match streamOf s part n with
  | none => notEnabled
  | some st =>
    let slice := ingestSlice s part n st
    let full := st.specs.any (fun i => (specOf s part i).any (fun x => actFull s part slice x.tenant))
    if st.stopped ∨ (partOf s part).state ≠ .running ∨ full = true then notEnabled
    else
      let s := if st.src = 2 then promoteRun s (streamAddr (partOf s part) n + 28) 4 else s
      match nextRecord s part n st with
      | .none => notEnabled
      | .overfull => .next (stopStream s part n 0)
      | .record r =>
        let new := takeStream st r
        let s := modPart s part (fun p => { p with streams := mput p.streams n new })
        .next (sendRecord (writeStream s part n new) part n st new r)

/-! ## Starting activations (R44, R47, R340) -/

/-- The handler of an activation. -/
def handlerOf (sp : BitVec 1024) : ActKind → DWord
  | .openA => spOpen sp
  | .record => spRecord sp
  | .merge => spMerge sp
  | .close => spClose sp
  | .late => spLate sp

/-- The state words of a window, `l` of them. -/
def stateWords (s : State) (slice id l : Nat) : List Val :=
  let ws := ((mfind (sliceOf s slice).windows id).map (fun w => w.words)).getD []
  (List.range l).map (fun i => (ws[i]?).getD {})

/-- The v registers with which an activation begins (R340). -/
def actWords (s : State) (sp : BitVec 1024) (a : Activation) : List Val :=
  let l := spL sp
  let zeros := List.replicate l ({} : Val)
  let payload := ((a.rcd.getD {}).payload.take (spF sp)).map (fun w => (⟨w, .b32⟩ : Val))
  match a.kind with
  | .openA | .late => zeros ++ payload
  | .record => stateWords s a.slice a.win l ++ payload
  | .merge => stateWords s a.slice a.win l ++ stateWords s a.slice a.other l
  | .close => if spPane sp then zeros else stateWords s a.slice a.win l

/-- An activation as it wakes: its window's bounds and the watermark (R340). -/
def wakeAct (s : State) (a : Activation) : Activation :=
  let w := (mfind (sliceOf s a.slice).windows a.win).getD {}
  let a := { a with watermark := BitVec.ofInt 64 (markOf s a.slice a.stream), isPane := w.isPane }
  if a.kind = .merge ∨ a.kind = .late then a
  else { a with winStart := BitVec.ofInt 64 w.start, winEnd := BitVec.ofInt 64 w.stop }

/-- A thread that an activation wakes (R44, R47). -/
def actThread (s : State) (sp : BitVec 1024) (prot : Bool) (a : Activation) : Thread :=
  let ws := actWords s sp a
  let rf : RegFile := { v := putRegs [] ((List.range ws.length).zip ws) }
  { pc := handlerOf sp a.kind, run := .ready, rf := rf, shadow := if prot then some rf else none
    act := some (wakeAct s a) }

/-- Whether two queued activations may share a group: one handler. -/
def samePack (a b : Activation) : Bool := a.spec == b.spec && a.kind == b.kind

/-- A group that the window engine assembles (R44): the threads stand in lanes in ascending order
(log 25, DESIGN CHOICE). -/
def actGroup (s : State) (lid bid core idx : Nat) (sp : BitVec 1024) (as_ : List Activation) : Group :=
  let l := launchOf s lid
  let u : UniFile := { k := preloaded l.kpre }
  { block := bid, launch := lid, idx := 0, core := core, sub := freeSub s core, uni := u, uniShadow := u
    threads := (List.range as_.length).zip (as_.map (actThread s sp (lrProt l.rcd)))
    actIdx := some idx, activation := true }

/-- Whether a core is one where an activation group may start: one of the home slice's cluster, or, where none of
those has room, another (R351). -/
def homeFirst (s : State) (slice core : Nat) (n : Need) : Bool :=
  coreSlice core == slice || !(sliceCores s slice).any (fun c => unitRoom s [c] [n])

/-- `ACTIVATION_START` (R44, R340, R351): the oldest queued activation whose tenant runs is packed with every
queued one of its handler, up to the group's lanes, into a group on a core that has room (log 25, DESIGN CHOICE). -/
def execActivationStart (slice core : Nat) (s : State) : Out :=
  match slicePart s slice with
  | none => notEnabled
  | some part =>
    let p := partOf s part
    let may (a : Activation) : Bool := (specOf s part a.spec).any (fun x => tenantRuns p x.tenant)
    match (sliceOf s slice).actq.find? may with
    | none => notEnabled
    | some a =>
      match specOf s part a.spec with
      | none => notEnabled
      | some x =>
        let r := (launchOf s x.launch).rcd
        let idx := freeActIdx s x.launch
        if p.state ≠ .running ∨ promiseDue s part = true ∨ !p.slices.getLsbD (coreSlice core) ∨ idx ≥ 24576 ∨
            (launchOf s x.launch).final = true ∨ unitRoom s [core] [actNeed r] = false ∨
            homeFirst s slice core (actNeed r) = false then notEnabled
        else
          let q := (sliceOf s slice).actq
          let pack := (q.filter (samePack a)).take (groupLanes r)
          let rest := q.filter (fun b => !samePack a b) ++ (q.filter (samePack a)).drop (groupLanes r)
          let (bid, s) := takeId s
          let (gid, s) := takeId s
          let s := setBlock s bid { launch := x.launch, cores := [core], isAct := true }
          let s := setGroup s gid (actGroup s x.launch bid core idx x.rcd pack)
          .next (pumpKeys (modSlice s slice (fun y => { y with actq := rest })) slice)

/-! ## Ends of activations (R45, R46, R346) -/

/-- An emitted record released to its stream, as that is installed now (R347). -/
def releaseEmit (part : Nat) (a : Activation) (s : State) (e : Emit) : State :=
  match streamOf s part e.stream with
  | some st =>
    if st.src = 3 then
      modPart s part (fun p =>
        { p with streams := mput p.streams e.stream { st with pending := st.pending ++ [e.rcd] } })
    else errorRecord s a.slice .droppedEmit a.spec e.stream a.win
  | none => errorRecord s a.slice .droppedEmit a.spec e.stream a.win

/-- The state of a pane of a closing window committed (R346, R348): one that received no record comes
to be. -/
def commitPane (a : Activation) (sp : BitVec 1024) (s : State) (e : Nat × List Val) : State :=
  let start := a.winStart.toInt + (e.1 * spSlide sp : Nat)
  match (sliceOf s a.slice).windows.find? (fun w => w.2.spec == a.spec && w.2.key == a.key &&
      w.2.isPane && w.2.start == start) with
  | some (id, _) => modWindow s a.slice id (fun w => { w with words := e.2 })
  | none =>
    let id := a.slice * 2 ^ 60 + (sliceOf s a.slice).wcount
    modSlice s a.slice (fun x =>
      { x with
        wcount := x.wcount + 1
        windows := mput x.windows id { spec := a.spec, key := a.key, start := start
                                       stop := start + spSlide sp, isPane := true
                                       cls := storeClass (spL sp), words := e.2 } })

/-- The state that `WEND` commits to the window store, by the kind of activation (R339, R346). -/
def commitState (s : State) (a : Activation) (sp : BitVec 1024) (ws : List Val) : State :=
  match a.kind with
  | .late => s
  | .close => a.panes.foldl (commitPane a sp) s
  | .merge =>
    let other := ((mfind (sliceOf s a.slice).windows a.other).map (fun w => w.records)).getD 0
    let s := modSlice s a.slice (fun x => { x with windows := mdel x.windows a.other })
    modWindow s a.slice a.win (fun w =>
      { w with words := ws, start := a.winStart.toInt, stop := a.winEnd.toInt, records := w.records + other })
  | _ => modWindow s a.slice a.win (fun w => { w with words := ws })

/-- A close that `WCLOSE` asks for: the next event of the key (R346, R348). -/
def commitClose (s : State) (a : Activation) : State :=
  if a.closeFlag then
    let s := modWindow s a.slice a.win (fun w => { w with closing := true })
    modKey s a.slice a.spec a.key (fun q => { q with events := .close a.stream a.win none :: q.events })
  else s

/-- An activation that has ended leaves its key to the next one; a closing window dies (R341, R46). -/
def endActivation (s : State) (part : Nat) (a : Activation) : State :=
  let s := match specOf s part a.spec with
    | some x => if a.kind = .close then killWindow s a.slice a.win x.rcd else s
    | none => s
  pumpKey (modKey s a.slice a.spec a.key (fun q => { q with running := 0 })) a.slice a.spec a.key

/-- The activation of a lane. -/
def actOf (g : Group) (lane : Nat) : Activation := ((threadOf g lane).act).getD {}

/-- Activations that end without a commit: their private memory is discarded (R45, R162, R232). -/
def endActLanes (g : Group) (s : State) (lanes : List Nat) : State :=
  lanes.foldl (fun s l => endActivation s (launchOf s g.launch).part (actOf g l)) (discardPrivate s g lanes)

/-- The commit of an activation at `WEND` (R346). -/
def commitActivation (s : State) (part : Nat) (a : Activation) (ws : List Val) : State :=
  match specOf s part a.spec with
  | none => s
  | some x =>
    let s := commitState s a x.rcd ws
    let s := a.emits.foldl (releaseEmit part a) s
    endActivation (commitClose s a) part a

end Sys2Proof.Machine
end

