-- ==== Sys2Proof/Machine/Portable.lean ====
section
/-! DEFINITION. The portable path: swap-out and resume of groups, architectural pre-emption of blocks, the
dispatch promise, and the ends of tenant slices (R27, R50, R225, R291, R304, R409..R411, R420). -/

namespace Sys2Proof.Machine

/-! ## Room for contexts (R227, R410) -/

/-- The portable area of an image area: 8 MiB. -/
def portableArea : Nat := 8 * 2 ^ 20

/-- A sealed portable group context: 448 rows of 512 bytes, nonce and tag. -/
def contextBytes : Nat := 448 * 512 + 32

/-- The bytes that a list of contexts takes. -/
def bytesUsed (m : Map Nat) : Nat := m.foldl (fun n e => n + e.2) 0

/-- The operations that a core's engines hold of a block. -/
def coreOps (k : Core) (bid : Nat) : Nat :=
  (k.sweeps.filter (fun w => w.cap.block == bid)).length +
    (k.matrix.filter (fun w => w.cap.block == bid)).length +
    (k.copies.filter (fun w => w.cap.block == bid)).length

/-- A sealed block context without its groups (R409). -/
def blockBytes (s : State) (bid : Nat) : Nat :=
  let b := blockOf s bid
  let r := (launchOf s b.launch).rcd
  32 + 512 + 64 + b.cores.length * (lrShared r + lrTiles r * (16384 + 8) + lrSlots r * (65536 + 264)) +
    256 * b.cores.foldl (fun n c => n + coreOps (coreOf s c) bid) 0

/-- Contexts put into the portable area of a slice, or into the overflow memory of the partition; none
where neither has room. -/
def storeContexts (s : State) (part slice : Nat) (xs : Map Nat) : Option State :=
  let n := bytesUsed xs
  let add (m : Map Nat) : Map Nat := xs.foldl (fun m e => mput m e.1 e.2) m
  if bytesUsed (sliceOf s slice).portable + n ≤ portableArea then
    some (modSlice s slice (fun x => { x with portable := add x.portable }))
  else if bytesUsed (partOf s part).overflowUsed + n ≤ (partOf s part).overflow then
    some (modPart s part (fun p => { p with overflowUsed := add p.overflowUsed }))
  else none

/-- A context's room given back. -/
def freeContext (s : State) (key : Nat) : State :=
  { s with
    slices := mmap (fun _ (x : Slice) => { x with portable := mdel x.portable key }) s.slices
    parts := mmap (fun _ (p : Partition) => { p with overflowUsed := mdel p.overflowUsed key }) s.parts }

/-! ## Swap-out and resume of one group (R11, R27, R410) -/

/-- Whether every path of a group waits. -/
def allWait (g : Group) : Bool :=
  g.park != .none || g.threads.all (fun t => t.2.run != .ready)

/-- Whether a group's accesses are done (R275). -/
def accessesDone (s : State) (gid : Nat) (g : Group) : Bool :=
  let k := coreOf s g.core
  k.stPend == 0 && k.acc.all (fun a => a.group != gid)

/-- The LIVE of the header at which a thread stands exactly (R56). -/
def headerLive (s : State) (g : Group) (t : Thread) : Option Nat :=
  let l := launchOf s g.launch
  if inBlock t || t.run == .ended then none
  else
    match unitFetch s l.part l.asid l.level t.pc with
    | some w => if isHeader w then some (hdrLive w) else none
    | none => none

/-- The registers of a thread that stands at a header and is swapped out or saved: each of v(LIVE) and above keeps its
value and tag, or becomes zero with tag void (R56) (log 55, DESIGN CHOICE). -/
def dropLive (s : State) (g : Group) (lane : Nat) (t : Thread) : Thread :=
  match headerLive s g t with
  | none => t
  | some live =>
    let keep (rf : RegFile) : RegFile :=
      { rf with v := mfilter (fun n _ => n < live || !freeChoice s (16384 + lane * 256 + n)) rf.v }
    { t with rf := keep t.rf, shadow := t.shadow.map keep }

/-- A group that leaves for a portable context. -/
def portGroup (dest : Residency) (s : State) (gid : Nat) : State :=
  let s' := detachGroup dest s gid
  modGroup s' gid (fun g => mapThreads g (dropLive s g))

/-- Whether an activation of a group has issued nothing yet: it is not swapped out (R339). -/
def unbegun (g : Group) : Bool :=
  g.threads.any (fun t => t.2.run != .ended && t.2.act.any (fun a => !a.begun))

/-- `GROUP_SWAP_OUT` (R410): a waiting group leaves its sub-core. Where its block has several cores the
core is promoted, for the group may resume on another one (R252). Without room it stays resident. A thread at a
header may lose v(LIVE) and above (R56, log 55, DESIGN CHOICE). -/
def execGroupSwapOut (gid : Nat) (s : State) : Out :=
  match mfind s.groups gid with
  | none => notEnabled
  | some g =>
    if g.where_ ≠ .resident ∨ (coreOf s g.core).stopped ∨ (liveLanes g).isEmpty ∨ !allWait g ∨
        g.nopre.isSome ∨ !accessesDone s gid g ∨ unbegun g then notEnabled
    else
      match storeContexts s (launchOf s g.launch).part (coreSlice g.core) [(gid, contextBytes)] with
      | none => .next s
      | some s =>
        let s := if (blockOf s g.block).cores.length > 1 then promote s g.core else s
        .next (portGroup .swappedOut s gid)

/-- A group's place on a sub-core. -/
def bindSub (sub : Nat) (s : State) (gid : Nat) : State :=
  modGroup s gid (fun g => { g with sub := sub, progress := 0 })

/-- Whether a swapped-out group may resume on a core's sub-core. -/
def resumeRoom (s : State) (g : Group) (core sub : Nat) : Bool :=
  (blockOf s g.block).cores.contains core && (blockOf s g.block).where_ == .resident &&
    !(coreOf s core).stopped && sub < 12 && subGroups s core sub < 8 &&
    ((coreUse s core).plus (groupNeed (launchOf s g.launch).rcd g.idx)).fits coreStorage

/-- The kind of unit that a block takes, and what it needs of each core. -/
def blockUnit (s : State) (b : Block) : Spread × List Need :=
  let r := (launchOf s b.launch).rcd
  if b.isAct then (.single, [actNeed r]) else (spreadOf r, unitNeeds r)

/-- One position's engine records of a saved block accepted again, in their order, on a core. -/
def restoreEngines (m : List (Nat × Nat)) (s : State) (x : Nat × Core) : State :=
  modCore s x.1 (fun k =>
    { k with
      sweeps := k.sweeps ++ x.2.sweeps
      copies := k.copies ++ x.2.copies
      matrix := k.matrix ++ x.2.matrix.map (fun w => { w with peerCore := w.peerCore.map (movedTo m) }) })

/-- A saved block resident again, whole, on a unit (R11, R409). -/
def resumeBlock (s : State) (bid : Nat) (u : List Nat) : State :=
  let b := blockOf s bid
  let gids := blockGroups s bid
  let s := (bid :: gids).foldl freeContext s
  let s := modBlock s bid (fun b => { b with cores := u, where_ := .resident, saved := [] })
  let s := (b.saved.map (fun e => ((u[e.1]?).getD 0, e.2))).foldl (restoreEngines (b.cores.zip u)) s
  gids.foldl (fun s gid =>
    let c := (u[(groupOf s gid).idx % u.length]?).getD 0
    bindSub (freeSub s c) (attachGroup c s gid) gid) s

/-- `GROUP_RESUME` (R27, R410): a swapped-out group resumes on a core of its block; one whose whole block
was saved resumes with the block, on a unit that holds the core and has room. -/
def execGroupResume (gid core sub : Nat) (s : State) : Out :=
  match mfind s.groups gid with
  | none => notEnabled
  | some g =>
    match g.where_ with
    | .swappedOut =>
      if !resumeRoom s g core sub then notEnabled
      else .next (bindSub sub (attachGroup core (freeContext s gid) gid) gid)
    | .saved =>
      let l := launchOf s g.launch
      let b := blockOf s g.block
      let (k, needs) := blockUnit s b
      (match unitOf s l.part k core with
       | none => notEnabled
       | some u =>
         if !unitRoom s u needs ∨ (partOf s l.part).state ≠ .running ∨ !tenantRuns (partOf s l.part) l.tenant ∨
             sub ≥ 12 then notEnabled
         else
           let s := resumeBlock s g.block u
           .next (if (groupOf s gid).core = core ∧ subGroups s core sub < 8 then bindSub sub s gid else s))
    | _ => notEnabled

/-! ## Architectural pre-emption (R225, R291, R304, R409) -/

/-- A free number of a step for an operation: how far it gets before it stops. -/
def stopPoint (s : State) (id most : Nat) : Nat := Config.freeNat (s.fresh * 65536 + id) % (most + 1)

/-- The sweeps of a block on a core stopped at an iteration boundary, the running one after some more
iterations. -/
def stopSweeps (bid core : Nat) (s : State) (w : Sweep) : State :=
  if w.cap.block ≠ bid then s
  else
    let n := if w.started then stopPoint s w.cap.id (w.word.cnt.val - w.done) else 0
    let done := w.started && w.done + n == w.word.cnt.val
    let (s, w') := if n = 0 then (s, w) else if done then (sweepFinish s w, w) else sweepAdvance s n w
    let rest (y : Sweep) : Option Sweep :=
      if y.cap.id ≠ w.cap.id then some y else if done then none else some { w' with started := false }
    modCore s core (fun k => { k with sweeps := k.sweeps.filterMap rest })

/-- The matrix operations of a block on a core stopped at a chunk boundary; the halves of a paired one
stop at the same chunk. -/
def stopMats (bid core : Nat) (s : State) (w : MatOp) : State :=
  if w.cap.block ≠ bid then s
  else stopMat s core (stopPoint s (if w.follower then peerId w else w.cap.id) (chunksLeft w)) w

/-- The engines of one core stopped for a block. -/
def stopEngines (bid : Nat) (s : State) (core : Nat) : State :=
  let s := (coreOf s core).sweeps.foldl (stopSweeps bid core) s
  (coreOf s core).matrix.foldl (stopMats bid core) s

/-- What `s.progress` shows of a core's unfinished operations of a group: the oldest one's number and its
count. -/
def opCounts (k : Core) (gid : Nat) : List (Nat × Nat) :=
  (k.sweeps.filter (fun w => w.cap.group == gid)).map (fun w => (w.cap.id, w.done)) ++
    (k.matrix.filter (fun w => w.cap.group == gid)).map (fun w => (w.cap.id, w.chunks)) ++
    (k.copies.filter (fun w => w.cap.group == gid)).map (fun w => (w.cap.id, w.done.length))

/-- The progress index of a group that is being saved. -/
def progressOf (s : State) (gid : Nat) : Nat :=
  ((least (fun x => [x.1]) (s.cores.flatMap (fun k => opCounts k.2 gid))).map Prod.snd).getD 0

/-- The engine records of a block on a core. -/
def savedEngines (bid : Nat) (k : Core) : Core :=
  { sweeps := k.sweeps.filter (fun w => w.cap.block == bid)
    matrix := k.matrix.filter (fun w => w.cap.block == bid)
    copies := k.copies.filter (fun w => w.cap.block == bid) }

/-- The contexts that saving a block takes: its own and those of its groups that are not saved. -/
def blockContexts (s : State) (bid : Nat) : Map Nat :=
  (bid, blockBytes s bid) ::
    ((blockGroups s bid).filter (fun i => (groupOf s i).where_ != .swappedOut)).map (fun i => (i, contextBytes))

/-- A block saved: its engines stopped, its cores promoted with those of their quads, whose writes its threads may have
read (R245, R252), its groups out. -/
def saveBlock (s : State) (bid : Nat) : State :=
  let cores := (blockOf s bid).cores
  let gids := blockGroups s bid
  let s := cores.foldl (stopEngines bid) s
  let s := (cores.flatMap (fun c => c :: quadCores s c)).foldl promote s
  let s := gids.foldl (fun s i => modGroup s i (fun g => { g with progress := progressOf s i })) s
  let saved := (List.range cores.length).zip (cores.map (fun c => savedEngines bid (coreOf s c)))
  let s := cores.foldl (fun s c => modCore s c (dropCoreWork bid [])) s
  let s := modBlock s bid (fun b => { b with where_ := .saved, saved := saved, preempt := false })
  gids.foldl (portGroup .saved) s

/-- Whether a group of a block is in a `NOPRE` region. -/
def blockNoPre (s : State) (bid : Nat) : Bool := (blockGroups s bid).any (fun i => (groupOf s i).nopre.isSome)

/-- Whether a resident block is drained: no region, no access in flight, no `BOP`, no draw, which pre-emption drains
(R191), and every activation begun (R339). -/
def drainedBlock (s : State) (bid : Nat) : Bool :=
  let b := blockOf s bid
  b.where_ == .resident &&
    b.cores.all (fun c => !(coreOf s c).stopped && (coreOf s c).stPend == 0 &&
      (coreOf s c).bops.all (fun w => w.cap.block != bid)) &&
    (blockGroups s bid).all (fun i =>
      let g := groupOf s i
      g.nopre.isNone && accessesDone s i g && g.threads.all (fun t => !drawing t.2) && !unbegun g)

/-! ### Images moved by the portable path (R408) -/

/-- The sealed images of an image area that hold a block, with their slots. -/
def blockImages (s : State) (bid : Nat) : List ((Nat × Nat) × Image) :=
  s.slices.flatMap (fun x => (x.2.images.filter (fun im => imageHolds bid im.2)).map (fun im =>
    ((x.1, im.1), im.2)))

/-- The image set that holds a block: its slots and images, where all are in the image area. -/
def blockSet (s : State) (bid : Nat) : Option (List (Nat × Nat) × List Image) :=
  match blockImages s bid with
  | [] => none
  | x :: _ => (setImages s x.2).map (fun ims => (x.2.set, ims))

/-- Whether the traffic of sealed images has ended. -/
def imagesQuiet (ims : List Image) : Bool := ims.all (fun im => im.late == im.stPend && im.core.bops.isEmpty)

/-- The place at which an image is unpacked: no core of the device. -/
def unpackAt (im : Image) : Nat := 256 + im.slice * 16 + im.pos

/-- An image set unpacked, its requests performed, and each of its blocks saved by the portable path
(log 33, DESIGN CHOICE). -/
def convertSet (s : State) (slots : List (Nat × Nat)) (ims : List Image) : State :=
  let at_ := ims.map unpackAt
  let blocks := sortNat (ims.flatMap (fun im => im.blocks))
  let gids := ims.flatMap (fun im => im.groups)
  let s := placeImages s slots at_
  let s := gids.foldl settleOlder s
  let s := (blocks.filter (fun b => (mfind s.blocks b).isSome)).foldl saveBlock s
  at_.foldl (fun s c => { s with cores := mdel s.cores c }) s

/-- `ARCHITECTURAL_PREEMPTION` (R409): a drained block is saved with its groups; a block in sealed images
is saved from them, with its whole image set. Without room nothing is done. A request that arrives during a `NOPRE`
region is served when that ends (R393). -/
def execArchitecturalPreemption (block : Nat) (s : State) : Out :=
  match mfind s.blocks block with
  | none => notEnabled
  | some b =>
    let part := (launchOf s b.launch).part
    match b.where_ with
    | .resident =>
      if blockNoPre s block && !b.preempt then .next (modBlock s block (fun b => { b with preempt := true }))
      else if !drainedBlock s block then notEnabled
      else
        (match storeContexts s part (coreSlice (b.cores.headD 0)) (blockContexts s block) with
         | none => .next (modBlock s block (fun b => { b with preempt := false }))
         | some s => .next (saveBlock s block))
    | .imaged =>
      (match blockSet s block with
       | none => notEnabled
       | some (slots, ims) =>
         if !imagesQuiet ims ∨ slots.any (slotInUse s) then notEnabled
         else
           let xs := (sortNat (ims.flatMap (fun im => im.blocks))).flatMap (blockContexts s)
           match storeContexts s part ((slots.headD (0, 0)).1) xs with
           | none => .next s
           | some s => .next (convertSet s slots ims))
    | _ => notEnabled

/-! ## Commands that the device issues itself (R50, R411) -/

/-- A stop command for a core, with the first free slot of its cluster's image area. -/
def stopCmd (s : State) (core reason : Nat) : DWord :=
  let slice := coreSlice core
  BitVec.ofNat 64 (1 + reason * 2 ^ 4 + slice * 2 ^ 28 + corePos core * 2 ^ 32 + slice * 2 ^ 36 +
    ((freeSlots s slice).headD 0) * 2 ^ 40)

/-- A command of an image slot and a core (R400). -/
def slotCmd (op reason : Nat) (x : Nat × Nat) (core : Nat) : DWord :=
  BitVec.ofNat 64 (op + reason * 2 ^ 4 + coreSlice core * 2 ^ 28 + corePos core * 2 ^ 32 + x.1 * 2 ^ 36 +
    x.2 * 2 ^ 40)

/-- A restore command of a slot onto a core. -/
def restoreCmd (x : Nat × Nat) (core reason : Nat) : DWord := slotCmd 2 reason x core

/-- A command that the device itself has issued through the slice of its target core, and that is done
(R400). -/
def commandDone (s : State) (cmd : DWord) : State :=
  imgReport (modSlice s (icSlice cmd) (fun x => { x with imgCmd := cmd })) [icSlice cmd] .done

/-- A stop that the device issues for a core of a partition, through the core's slice. -/
def issueStop (part reason : Nat) (s : State) (core : Nat) : State :=
  let cmd := stopCmd s core reason
  stopCommand (coreSlice core) cmd part (modSlice s (coreSlice core) (fun x => { x with imgCmd := cmd }))

/-- The target of the distributor's restore of an image set: the unit whose lowest core is least. The
image of the lowest position is named. -/
def promiseTarget (s : State) (part : Nat) (slots : List (Nat × Nat)) : Option (Nat × DWord) :=
  let named := (least (fun x => [((imageAt s x).map (fun im => im.pos)).getD 0]) slots).getD (0, 0)
  (partCores s part).findSome? (fun c =>
    let cmd := restoreCmd named c 2
    match checkRestore s part cmd with
    | .ok _ => some (c, cmd)
    | .error _ => none)

/-- The spin-detected block of highest index stopped to make room (R50). -/
def stopSpinner (s : State) (part bid : Nat) : Out :=
  let b := blockOf s bid
  match least (fun i => [2 ^ 32 - (blockOf s i).idx]) (spinnersAbove s b.launch b.idx) with
  | none => notEnabled
  | some v =>
    let core := (blockOf s v).cores.headD 0
    if (deferredStop s core).isSome || (imageSet s core).any (coreScans s) ||
        (stopSlots s (stopCmd s core 2) (imageSet s core)).isNone then notEnabled
    else .next (issueStop part 2 s core)

/-- The restore of a block that images hold: onto the unit of idle cores, or, where the device's revision
has changed, by the portable path (R408); else a spin-detected block gives way. -/
def promiseImaged (s : State) (part bid : Nat) : Out :=
  match blockSet s bid with
  | none => notEnabled
  | some (slots, ims) =>
    if slots.any (slotInUse s) then notEnabled
    else
      match promiseTarget s part slots with
      | some (c, cmd) => execImageRestore (coreSlice c) cmd s
      | none =>
        if ims.any (fun im => (partCores s part).all (fun c => coreRev s c != im.rev)) then
          execArchitecturalPreemption bid s
        else stopSpinner s part bid

/-- `DISPATCH_PROMISE_RESTORE` (R50). -/
def execDispatchPromiseRestore (block : Nat) (s : State) : Out :=
  let b := blockOf s block
  let l := launchOf s b.launch
  if !promised s block && (!displaced s block || promiseDue s l.part) then notEnabled
  else
    match b.where_ with
    | .saved =>
      (match placeFor s l b.idx none with
       | some u => .next (resumeBlock s block u)
       | none => stopSpinner s l.part block)
    | .imaged => promiseImaged s l.part block
    | _ => notEnabled

/-! ## Tenant slices (R411, R420) -/

/-- Whether a core holds resident groups of a tenant. -/
def holdsTenant (s : State) (tenant core : Nat) : Bool :=
  (coreGroups s core).any (fun g => (launchOf s (groupOf s g).launch).tenant == tenant)

/-- One core of the outgoing tenant stopped, with REASON 0. -/
def endTenantCore (part tenant : Nat) (s : State) (core : Nat) : State :=
  if holdsTenant s tenant core then issueStop part 0 s core else s

/-- `TENANT_SLICE_END` (R411): the slice of the running tenant ends with a stop of every core that holds
its groups, and the slice of another begins; a `NOPRE` region defers its core's stop (R393). -/
def execTenantSliceEnd (part next : Nat) (s : State) : Out :=
  let p := partOf s part
  if p.state ≠ .running ∨ p.sliceLength = 0 ∨ nowNs s < p.sliceStart + p.sliceLength ∨ next ≥ 256 then notEnabled
  else
    let s := (partCores s part).foldl (endTenantCore part p.tenant) s
    .next (modPart s part (fun p => { p with tenant := next, sliceStart := nowNs s }))

end Sys2Proof.Machine
end

