-- ==== Sys2Proof/Machine/Partitions.lean ====
section
/-! DEFINITION. Plearo: partitions created, changed and ended, slices moved, cooperative launches restored,
stores sized (R8, R317, R334, R368, R414..R418). -/

namespace Sys2Proof.Machine

/-! ## Scrubs (R228, R413) -/

/-- A mask that holds one slice. -/
def oneSlice (n : Nat) : BitVec 16 := 1#16 <<< n

/-- Whether a line is homed in a slice of a mask. -/
def homedIn (m : BitVec 16) (line : Nat) : Bool := m.getLsbD (Config.home line % 16)

/-- A scrubbed slice: what wear has left stays. -/
def scrubbedSlice (x : Slice) : Slice :=
  { sramMargin := x.sramMargin, hbmMargin := x.hbmMargin, floor := x.floor, barred := x.barred }

/-- A core that has left its work: its generation and its wear stay. -/
def emptyCore (k : Core) : Core := { gentag := k.gentag, credits := k.credits, wear := k.wear }

/-- Memory homed in the slices of a mask scrubbed, with their slice stores, image areas, ports and
service cores, and their cores emptied. -/
def scrub (s : State) (m : BitVec 16) : State :=
  { s with
    mem := s.mem.filter (fun e => !homedIn m (lineOf e.1))
    stale := s.stale.filter (fun e => !homedIn m (lineOf (8 * e.1)))
    poison := s.poison.filter (fun l => !homedIn m l)
    owner := s.owner.filter (fun o => !homedIn m o.1 && !m.getLsbD (coreSlice o.2))
    slices := mmap (fun i x => if m.getLsbD i then scrubbedSlice x else x) s.slices
    cores := mmap (fun c k => if m.getLsbD (coreSlice c) then emptyCore k else k) s.cores }

/-! ## Creation, change and end (R368, R416, R425) -/

/-- Whether a request to create a partition is refused (R368, R415, R433). -/
def createRefused (s : State) (slices : BitVec 16) (commons wsc : Nat) : Bool :=
  slices == 0#16 || s.parts.any (fun p => p.2.slices &&& slices != 0#16) || commons > 20 || wsc > 8 ||
    wsc > commons || (List.range 16).any (fun i => slices.getLsbD i && (sliceOf s i).barred)

/-- A table's base, which Plearo chooses (R368) (log 35, DESIGN CHOICE). -/
def freeBase (s : State) (i : Nat) : DWord := BitVec.ofNat 64 (Config.freeNat (s.fresh * 65536 + 8192 + i))

/-- Whether a table's base lies in the HBM of a partition's slices (R368). -/
def baseHome (m : BitVec 16) (a : DWord) : Bool := homedIn m (lineOf a.toNat)

/-- What Plearo reports. -/
def plearoReport (s : State) (r : Report) (part : Nat) : State :=
  { s with outbox := s.outbox ++ [.report r part] }

/-- `PARTITION_CREATE` (R416): Plearo chooses bases homed in the slices (R368); a refused request leaves the entry unchanged. A partition whose Mbotum image
is not verified stays at STATE 1 (R425). -/
def execPartitionCreate (n : Nat) (slices : BitVec 16) (commons wsc : Nat) (keyId : Word) (verified : Bool)
    (s : State) : Out :=
  if !s.booted ∨ n ≥ 16 ∨ (partOf s n).state ≠ .free then notEnabled
  else if createRefused s slices commons wsc then .next (plearoReport s .createRefused n)
  else
    let p : Partition :=
      { state := if verified then .running else .starting
        slices := slices, commons := commons, wsc := wsc, keyId := keyId
        epoch := (partOf s n).epoch + 1, created := s.now, periodNext := nowNs s + 100000, periodStart := s.now
        sliceStart := nowNs s, shapeBase := freeBase s 0, budgetBase := freeBase s 1, winBase := freeBase s 2
        wakeBase := freeBase s 3 }
    if !([p.shapeBase, p.budgetBase, p.winBase, p.wakeBase].all (baseHome slices)) then notEnabled
    else
      let s := setPart (scrub s slices) n p
      .next (if verified then s else plearoReport s .imageRefused n)

/-- `PARTITION_CHANGE` (R8, R416): the commons split and the window-store cache change; a refused request
leaves the entry unchanged. -/
def execPartitionChange (n commons wsc : Nat) (s : State) : Out :=
  if (partOf s n).state ≠ .running then notEnabled
  else if commons > 20 ∨ wsc > 8 ∨ wsc > commons then .next (plearoReport s .changeRefused n)
  else .next (modPart s n (fun p => { p with commons := commons, wsc := wsc, epoch := p.epoch + 1 }))

/-- The launches of a partition, by key. -/
def partLaunches (s : State) (part : Nat) : List Nat :=
  (s.launches.filter (fun l => l.2.part == part)).map Prod.fst

/-- A partition ended: every core stops, its work ends with KILLED, its slices are scrubbed, and its entry is
free. -/
def endPartition (s : State) (n : Nat) : State :=
  let m := (partOf s n).slices
  let lids := partLaunches s n
  let s := lids.foldl (fun s l => finishLaunch s l .killed 0) s
  let s := { s with
    launches := s.launches.filter (fun l => l.2.part ≠ n)
    blocks := s.blocks.filter (fun b => !lids.contains b.2.launch)
    groups := s.groups.filter (fun g => !lids.contains g.2.launch)
    cores := mmap (fun c k => if m.getLsbD (coreSlice c) then { k with gentag := k.gentag + 1#32 } else k) s.cores }
  setPart (scrub s m) n { epoch := (partOf s n).epoch + 1 }

/-- `PARTITION_END` (R416). -/
def execPartitionEnd (n : Nat) (s : State) : Out :=
  if (partOf s n).state = .free then notEnabled else .next (endPartition s n)

/-! ## Rehash (R334, R417) -/

/-- The windows, keys and activations that some slices hold. -/
structure Store where
  windows : List (Nat × Window)
  keyqs : List KeyQueue
  actq : List Activation

/-- What the slices hold, in ascending slice. -/
def gatherStore (s : State) (slices : List Nat) : Store :=
  { windows := slices.flatMap (fun i => (sliceOf s i).windows)
    keyqs := slices.flatMap (fun i => (sliceOf s i).keyqs)
    actq := slices.flatMap (fun i => (sliceOf s i).actq) }

/-- An activation at the new home of its key. -/
def rehomeAct (s : State) (part : Nat) (a : Activation) : Activation := { a with slice := keySlice s part a.key }

/-- A slice with what its new home gives it. -/
def fillStore (s : State) (part : Nat) (st : Store) (i : Nat) (x : Slice) : Slice :=
  { x with
    windows := (st.windows.filter (fun w => keySlice s part w.2.key == i)).foldl
      (fun m w => mput m w.1 w.2) []
    keyqs := st.keyqs.filter (fun q => keySlice s part q.key == i) |>.map (fun q =>
      { q with todo := q.todo.map (rehomeAct s part) })
    actq := (st.actq.map (rehomeAct s part)).filter (fun a => a.slice == i) }

/-- A group's running activations at the new homes of their keys. -/
def rehomeGroup (s : State) (part : Nat) (g : Group) : Group :=
  if g.activation && (launchOf s g.launch).part == part then
    mapThreads g (fun _ t => { t with act := t.act.map (rehomeAct s part) })
  else g

/-- Every live window of a partition rehashed to its home among the slices it has now; window ids do not
change. `old` are the slices that held them. -/
def rehash (s : State) (part : Nat) (old : List Nat) : State :=
  let st := gatherStore s old
  let clear (x : Slice) : Slice := { x with windows := [], keyqs := [], actq := [] }
  let s' := old.foldl (fun s i => modSlice s i clear) s
  let s' := (partSlices s part).foldl (fun s' i => modSlice s' i (fillStore s part st i)) s'
  { s' with groups := mmap (fun _ g => rehomeGroup s part g) s'.groups }

/-! ## Slice moves (R417, R418) -/

/-- A page copied to the frame that Mbotum has chosen. -/
def copyPage (s : State) (x : Nat × Nat) : State :=
  writeMem s (x.1 * 4096) (bytesOf 4096 (readN (readMem s) (x.2 * 4096) 4096))

/-- The blocks that are on a core of a slice, by key. -/
def sliceBlocks (s : State) (slice : Nat) (p : Block → Bool) : List Nat :=
  (s.blocks.filter (fun b => b.2.where_ == .resident && b.2.cores.any (fun c => coreSlice c == slice) &&
    p b.2)).map Prod.fst

/-- Whether a block belongs to a cooperative launch. -/
def isCoop (s : State) (b : Block) : Bool := !b.isAct && lrCoop (launchOf s b.launch).rcd

/-- The cooperative launches that have a block on a slice's cluster, or in its image area. -/
def coopOn (s : State) (slice : Nat) : List Nat :=
  let inArea := ((sliceOf s slice).images.flatMap (fun im => im.2.blocks)).filter (fun i => isCoop s (blockOf s i))
  sortNat ((sliceBlocks s slice (isCoop s) ++ inArea).map (fun i => (blockOf s i).launch))

/-- A stopped core's traffic settled, every response having arrived. -/
def settleCore (s : State) (core : Nat) : State :=
  let (s, acc) := (coreOf s core).acc.foldl (fun (x : State × List Access) a =>
    let (s, a) := settleAccess x.1 core a
    (s, x.2 ++ [a])) (s, [])
  modCore s core (fun k => { k with acc := acc })

/-- The slice whose image area has room for some images. -/
def areaRoom (s : State) (slices : List Nat) (n : Nat) : Option Nat :=
  slices.find? (fun i => n ≤ (freeSlots s i).length)

/-- The image set of a core stopped and sealed at once into the image area of one of some slices. -/
def imageWhole (s : State) (part : Nat) (slices : List Nat) (core : Nat) : Option State :=
  let set := imageSet s core
  (areaRoom s slices set.length).map (fun i =>
    let slots := ((freeSlots s i).take set.length).map (fun n => (i, n))
    let own := (mfind (set.zip slots) core).getD (i, 0)
    let o : ImgOp := { cmd := slotCmd 1 4 own core, cores := set, slots := slots }
    let s := set.foldl settleCore (stopSet s part o)
    commandDone ((set.zip slots).foldl (sealCore none) s) o.cmd)

/-- Every resident block of a cooperative launch stopped by image set. -/
def imageCoop (part : Nat) (slices : List Nat) (s : Option State) (bid : Nat) : Option State :=
  s.bind (fun s =>
    if (blockOf s bid).where_ = .resident then
      imageWhole s part slices ((blockOf s bid).cores.headD 0)
    else some s)

/-- A sealed image of a moving slice put into another image area, with its set. -/
def moveSet (slices : List Nat) (slice : Nat) (s : Option State) (n : Nat) : Option State :=
  s.bind (fun s =>
    match imageAt s (slice, n) with
    | none => some s
    | some im =>
      (areaRoom s slices im.set.length).map (fun i =>
        let free := (freeSlots s i).take im.set.length
        let new (x : Nat × Nat) : Nat × Nat :=
          match findIdx (fun y => y == x) im.set 0 with
          | some k => (i, (free[k]?).getD 0)
          | none => x
        let set := im.set.map new
        im.set.foldl (fun s x =>
          match imageAt s x with
          | some y => dropImage (putImage s (new x) { y with set := set, own := new x }) x
          | none => s) s))

/-- A cooperative launch pre-empted whole: its status is COOP_UNPLACEABLE (R418). -/
def coopOut (part : Nat) (slices : List Nat) (s : Option State) (lid : Nat) : Option State :=
  ((launchBlocks (s.getD {}) lid).foldl (imageCoop part slices) s).map (fun s =>
    writeStatus s lid .coopUnplaceable 0)

/-- A block saved by the portable path because its cores go away: its contexts go where there is room,
and beyond it to the overflow memory. -/
def forceSave (part slice : Nat) (s : State) (bid : Nat) : State :=
  let xs := blockContexts s bid
  let s := (storeContexts s part slice xs).getD (modPart s part (fun p =>
    { p with overflowUsed := xs.foldl (fun m e => mput m e.1 e.2) p.overflowUsed }))
  saveBlock s bid

/-- A block that is not cooperative and lies in images of a moving slice, moved by the portable path. -/
def forceConvert (part slice : Nat) (s : State) (bid : Nat) : State :=
  match blockSet s bid with
  | none => s
  | some (slots, ims) =>
    let xs := (sortNat (ims.flatMap (fun im => im.blocks))).flatMap (blockContexts s)
    let s := (storeContexts s part slice xs).getD (modPart s part (fun p =>
      { p with overflowUsed := xs.foldl (fun m e => mput m e.1 e.2) p.overflowUsed }))
    convertSet s slots ims

/-- Whether a slice can be moved now: no image operation runs on its cores, no region holds a set that
must stop, what must be saved is drained, images have no traffic, and no window message is under way. -/
def moveReady (s : State) (slice src : Nat) : Bool :=
  let coop := coopOn s slice
  (sliceOf s slice).imgOps.isEmpty && (sliceCores s slice).all (fun c => !coreScans s c) &&
    (sliceOf s slice).images.all (fun im => im.2.isSealed && im.2.late == im.2.stPend && im.2.core.bops.isEmpty) &&
    (sliceBlocks s slice (fun b => !isCoop s b)).all (drainedBlock s) &&
    s.blocks.all (fun b => !coop.contains b.2.launch || b.2.where_ != .resident ||
      b.2.cores.all (fun c => !coreScans s c && !(coreOf s c).stopped && !setNoPre s (imageSet s c))) &&
    (partSlices s src).all (fun i => (sliceOf s i).inbox.isEmpty)

/-- What Mbotum keeps of a moving slice: service requests, faults and launches pass to another. -/
def handOver (s : State) (slice dest src : Nat) : State :=
  let x := sliceOf s slice
  let s := modSlice s dest (fun y => { y with reqs := y.reqs ++ x.reqs, faultq := y.faultq ++ x.faultq })
  let s := modSlice s slice (fun y => { y with reqs := [], faultq := [] })
  { s with launches := mmap (fun _ (l : Launch) =>
      if l.part = src ∧ l.slice = slice then { l with slice := dest, queue := none } else l) s.launches }

/-- The portable contexts of a moving slice moved to the overflow memory. -/
def moveContexts (s : State) (slice src : Nat) : State :=
  let xs := (sliceOf s slice).portable
  modPart s src (fun p => { p with overflowUsed := xs.foldl (fun m e => mput m e.1 e.2) p.overflowUsed })

/-- The work on a moving slice's cluster and in its image area taken to the partition's other slices:
none where their image areas have no room. -/
def clearSlice (s : State) (slice src : Nat) (left : List Nat) : Option State :=
  let dest := left.headD 0
  let coop := coopOn s slice
  let s := (sliceBlocks s slice (fun b => !isCoop s b)).foldl (forceSave src dest) s
  let plain := ((sliceOf s slice).images.filter (fun im => im.2.blocks.all (fun i => !isCoop s (blockOf s i)))).flatMap
    (fun im => im.2.blocks)
  let s := (sortNat plain).foldl (forceConvert src dest) s
  let s := coop.foldl (coopOut src left) (some s)
  (List.range 16).foldl (moveSet left slice) s

/-- A slice as it joins a partition: its watermark copies are those of the partition's other slices, and its window
count goes on where it stood when the slice last belonged to the partition (R335). -/
def joinMarks (s : State) (part slice : Nat) : State :=
  let n := (mfind (partOf s part).wcounts slice).getD 1
  let m := match partSlices s part with
    | i :: _ => (sliceOf s i).wms
    | [] => (sliceOf s slice).wms
  modSlice s slice (fun x => { x with wms := m, wcount := n })

/-- `SLICE_MOVE` (R417): slice `slice` leaves partition `src` and joins `dst`. `keep` names, for each frame
to which Mbotum has migrated a page, the frame from which it came (log 34, DESIGN CHOICE). -/
def execSliceMove (slice src dst : Nat) (keep : Map Nat) (s : State) : Out :=
  let left := (partSlices s src).filter (fun i => i ≠ slice)
  if src = dst ∨ (partOf s src).state ≠ .running ∨ (partOf s dst).state ≠ .running ∨
      !(partOf s src).slices.getLsbD slice ∨ left.isEmpty ∨ (sliceOf s slice).barred ∨ !moveReady s slice src ∨
      !(partSlices s dst).all (fun i => (sliceOf s i).inbox.isEmpty) then notEnabled
  else
    match clearSlice (keep.foldl copyPage s) slice src left with
    | none => notEnabled
    | some s =>
      let s := handOver (moveContexts s slice src) slice (left.headD 0) src
      let s := (sliceCores s slice).foldl promote s
      let count := (sliceOf s slice).wcount
      let s := modPart s src (fun p =>
        { p with slices := p.slices &&& ~~~oneSlice slice, epoch := p.epoch + 2, wcounts := mput p.wcounts slice count })
      let s := rehash s src (slice :: left)
      let s := scrub s (oneSlice slice)
      let s := failMaps s src
      let s := joinMarks s dst slice
      let old := partSlices s dst
      let s := modPart s dst (fun p => { p with slices := p.slices ||| oneSlice slice, epoch := p.epoch + 1 })
      .next (rehash s dst old)

/-! ## Cooperative launches restored (R418) -/

/-- The quads of a partition on which an image set may be restored now. -/
def quadFor (s : State) (part : Nat) (used : List Nat) (ims : List Image) : Option (List Nat) :=
  (partUnits s part .quad).find? (fun u =>
    !u.any (fun c => used.contains c) && u.all (fun c => coreIdle s c && !coreScans s c) &&
      ims.all (fun im => coreRev s ((u[im.quadpos]?).getD 0) == im.rev && !im.corrupt))

/-- A block's images restored onto cores by Plearo, with the command for the first of them (R400, R418). -/
def placeWhole (s : State) (slots : List (Nat × Nat)) (targets : List Nat) : State :=
  commandDone (placeImages s slots targets) (restoreCmd (slots.headD (0, 0)) (targets.headD 0) 4)

/-- One image set restored onto a quad of its own. -/
def coopPlace (part : Nat) (x : Option (State × List Nat)) (bid : Nat) : Option (State × List Nat) :=
  x.bind (fun x =>
    match blockSet x.1 bid with
    | none => if (blockOf x.1 bid).where_ = .resident then some x else none
    | some (slots, ims) =>
      if slots.any (slotInUse x.1) then none
      else (quadFor x.1 part x.2 ims).map (fun u =>
        (placeWhole x.1 slots (ims.map (fun im => (u[im.quadpos]?).getD 0)), u ++ x.2)))

/-- `COOP_RESTORE` (R418): every block of the launch is restored at once, and it runs again. -/
def execCoopRestore (launch : Nat) (s : State) : Out :=
  let l := launchOf s launch
  if l.status ≠ .coopUnplaceable ∨ l.final ∨ (partOf s l.part).state ≠ .running ∨
      !tenantRuns (partOf s l.part) l.tenant then notEnabled
  else
    match (launchBlocks s launch).foldl (coopPlace l.part) (some (s, [])) with
    | none => notEnabled
    | some (s, _) => .next (writeStatus s launch .running 0)

/-! ## Stores sized (R334, R414) -/

/-- `WINDOW_STORE_SIZING` (R334): the class counts of a slice's window store, while no spec is installed
(log 56, DESIGN CHOICE). -/
def execWindowStoreSizing (slice : Nat) (counts : List Nat) (s : State) : Out :=
  match slicePart s slice with
  | none => notEnabled
  | some p =>
    if !(partOf s p).specs.isEmpty ∨ counts.length ≠ 4 ∨ counts.foldl (· + ·) 0 > 2 ^ 26 then notEnabled
    else .next (modSlice s slice (fun x => { x with wclasses := counts }))

/-- `IMAGE_STORE_SIZING` (R414): the partition's image store has `slots` slots. -/
def execImageStoreSizing (part slots : Nat) (s : State) : Out :=
  if (partOf s part).state ≠ .running ∨ slots > 65536 then notEnabled
  else .next (modPart s part (fun p =>
    { p with storeSize := slots, store := p.store.filter (fun e => e.1 < slots) }))

end Sys2Proof.Machine
end

