-- ==== Sys2Proof/Machine/Wear.lean ====
section
/-! DEFINITION. Boot, attestation, wear, in-field test, deconfiguration, health certificates and thermal
limits (R412, R425, R426, R429..R435). -/

namespace Sys2Proof.Machine

/-! ## Monitors and the voltage offset (R429, R430) -/

/-- The least slack of a core's path monitors, in ps; none before a measurement. -/
def leastSlack (w : Wear) : Option Nat := (least (fun x => [x]) w.slack)

/-- Whether a core's slack is below 20 ps. -/
def slackLow (w : Wear) : Bool := (leastSlack w).any (fun x => x < 20)

/-- An offset that has become the highest one, with the day since manufacture on which it did (log 5, DESIGN CHOICE). -/
def noteHighest (hours : Nat) (w : Wear) : Wear :=
  if w.offset > w.highest then { w with highest := w.offset, highestDay := hours / 24 } else w

/-- The wear state after a measurement (R430): the offset rises one step below 20 ps, and falls one step,
never below that of manufacture, after 100 consecutive readings above 45 ps. -/
def invar (hours : Nat) (slacks : List Nat) (stressed unstressed : Nat) (w : Wear) : Wear :=
  let w := { w with slack := slacks, stressed := stressed, unstressed := unstressed }
  match leastSlack w with
  | none => w
  | some x =>
    if x < 20 then noteHighest hours { w with offset := min 40 (w.offset + 1), above45 := 0 }
    else if x > 45 then
      if w.above45 + 1 ≥ 100 then { w with offset := max w.made (w.offset - 1), above45 := 0 }
      else { w with above45 := w.above45 + 1 }
    else { w with above45 := 0 }

/-- A change of a core's wear state. -/
def modWear (s : State) (core : Nat) (f : Wear → Wear) : State :=
  modCore s core (fun k => { k with wear := f k.wear })

/-- `INVAR_ADJUST` (R429, R430): a measurement of a core's 8 monitors and its oscillators. -/
def execInvarAdjust (core : Nat) (slacks : List Nat) (s : State) : Out :=
  if core ≥ 256 ∨ slacks.length ≠ 8 then notEnabled
  else .next (modWear s core (invar s.hours slacks (freeNow s 8200).toNat (freeNow s 8201).toNat))

/-- `BIN_HOUR_TICK` (R429): the bin of an hour's mean temperature and voltage; the hours that the device
has been powered are counted with core 0. -/
def execBinHourTick (core temp volt : Nat) (s : State) : Out :=
  if core ≥ 256 ∨ temp ≥ 8 ∨ volt ≥ 8 then notEnabled
  else
    let b := temp * 8 + volt
    let s := modWear s core (fun w => { w with bins := mset 0 w.bins b ((mget 0 w.bins b + 1) % 2 ^ 32) })
    .next (if core = 0 then { s with hours := s.hours + 1 } else s)

/-- `MARGIN_MEASUREMENT` (R429): the least SRAM margin and the least HBM eye margin of a slice. -/
def execMarginMeasurement (slice sram hbm : Nat) (s : State) : Out :=
  if slice ≥ 16 then notEnabled
  else .next (modSlice s slice (fun x => { x with sramMargin := sram, hbmMargin := hbm }))

/-! ## In-field test (R412, R431) -/

/-- Nanoseconds of a day. -/
def dayNs : Nat := 86400000000000

/-- `FIELD_TEST_SCHEDULE` (R431): a core's daily test falls due, one core of a cluster at a time. -/
def execFieldTestSchedule (core : Nat) (s : State) : Out :=
  let busy := (sliceCores s (coreSlice core)).any (fun c =>
    (coreOf s c).wear.testDue || (coreOf s c).selfTest)
  if !configured s core ∨ busy ∨ nowNs s < (coreOf s core).wear.tested + dayNs then notEnabled
  else .next (modWear s core (fun w => { w with testDue := true }))

/-- Every partition that holds a slice, by number. -/
def holders (s : State) (slice : Nat) : List Nat :=
  (s.parts.filter (fun p => p.2.slices.getLsbD slice)).map Prod.fst

/-- A slice retired (R433): the partitions that hold it end, and none may be created with it. -/
def retireSlice (s : State) (slice : Nat) : State :=
  let s := (holders s slice).foldl endPartition s
  modSlice s slice (fun x => { x with barred := true })

/-- Whether a core's test counts as a failure (R431). -/
def testFails (w : Wear) (pass : Bool) : Bool := !pass || (w.offset == 40 && slackLow w)

/-- `SELF_TEST_COMPLETE` (R412, R431, R433): the test of 2 ms ends, charged to entry 255. A core that fails
takes no restore; in a cluster of 6 pairs its slice is retired. -/
def execSelfTestComplete (slice : Nat) (pass : Bool) (s : State) : Out :=
  match slicePart s slice, (sliceOf s slice).imgOps.find? (fun o =>
      !o.waiting && icOp o.cmd == 4 && o.cores.any (fun c => (coreOf s c).selfTest)) with
  | some part, some o =>
    let core := icCore o.cmd
    let fails := testFails (coreOf s core).wear pass
    let s := chargeEntry (endOp s slice o) part 255 .test 2000
    let s := modCore s core (fun k => { k with selfTest := false })
    let s := modWear s core (fun w => { w with tested := nowNs s, testDue := false, failed := fails })
    .next (if fails ∧ clPairs s (coreSlice core) = 6 then retireSlice s (coreSlice core) else s)
  | _, _ => notEnabled

/-! ## Deconfiguration (R432, R433) -/

/-- Whether a pair has reached its limit (R430). -/
def pairAtLimit (s : State) (slice pair : Nat) : Bool :=
  let a := (coreOf s (slice * 16 + 2 * pair)).wear
  let b := (coreOf s (slice * 16 + 2 * pair + 1)).wear
  max a.offset b.offset == 40 && (slackLow a || slackLow b)

/-- Whether a core of a pair has failed its test. -/
def pairFailed (s : State) (slice pair : Nat) : Bool :=
  (coreOf s (slice * 16 + 2 * pair)).wear.failed || (coreOf s (slice * 16 + 2 * pair + 1)).wear.failed

/-- The device without a pair: ids compact, quads are formed anew and every core's revision changes. -/
def withoutPair (s : State) (slice pair : Nat) : State :=
  { s with deconf := s.deconf ++ [{ slice := slice, pair := pair, time := nowNs s }] }

/-- The blocks that must leave as a pair goes: those on it, and those whose cores are no unit any more. -/
def leavingBlocks (s : State) (slice pair : Nat) : List Nat :=
  let s' := withoutPair s slice pair
  sliceBlocks s slice (fun b =>
    b.cores.any (fun c => c == slice * 16 + 2 * pair || c == slice * 16 + 2 * pair + 1) ||
      (b.cores.length > 1 && !(sliceUnits s' (if b.cores.length = 2 then .pair else .quad) slice).contains b.cores))

/-- The blocks in sealed images of a pair. -/
def pairImages (s : State) (slice pair : Nat) : List Nat :=
  sortNat (s.slices.flatMap (fun x => x.2.images.flatMap (fun im =>
    if im.2.isSealed && im.2.slice == slice && im.2.pos / 2 == pair then im.2.blocks else [])))

/-- Whether a pair can go now: nothing of its cluster is being imaged, what leaves is drained, and its
images have no traffic. -/
def pairReady (s : State) (slice pair : Nat) : Bool :=
  (sliceCores s slice).all (fun c => !coreScans s c && !(coreOf s c).stopped) &&
    (leavingBlocks s slice pair).all (drainedBlock s) &&
    (pairImages s slice pair).all (fun b =>
      match blockSet s b with
      | some (slots, ims) => imagesQuiet ims && !slots.any (slotInUse s)
      | none => false) &&
    pairIdle (slice * 16 + 2 * pair) && pairIdle (slice * 16 + 2 * pair + 1)
where
  /-- Nothing is in flight on a core. -/
  pairIdle (c : Nat) : Bool := (coreOf s c).acc.isEmpty && (coreOf s c).stPend == 0 && (coreOf s c).bops.isEmpty

/-- A pair removed: its groups and images leave by the portable path. -/
def removePair (s : State) (part : Option Nat) (slice pair : Nat) : State :=
  let p := part.getD 0
  let s := (pairImages s slice pair).foldl (forceConvert p slice) s
  let s := (leavingBlocks s slice pair).foldl (forceSave p slice) s
  let s := promote (promote s (slice * 16 + 2 * pair)) (slice * 16 + 2 * pair + 1)
  let s := withoutPair s slice pair
  match part with
  | some p => failMaps (modPart s p (fun p => { p with epoch := p.epoch + 1 })) p
  | none => s

/-- `DECONFIGURATION` (R432, R433): a pair at its limit, or that has failed its test, is removed. In a
cluster of 6 pairs it stays: at its limit it sets FLOOR, and failed it retires the slice. -/
def execDeconfiguration (slice pair : Nat) (s : State) : Out :=
  if slice ≥ 16 ∨ pair ≥ 8 ∨ pairGone s slice pair ∨ !(pairAtLimit s slice pair || pairFailed s slice pair) then
    notEnabled
  else if clPairs s slice ≤ 6 then
    .next (if pairFailed s slice pair then retireSlice s slice
      else modSlice s slice (fun x => { x with floor := true }))
  else if !pairReady s slice pair then notEnabled
  else .next (removePair s (slicePart s slice) slice pair)

/-! ## Boot, certificates and attestations (R425, R426, R434) -/

/-- `BOOT` (R425): the ROM verifies Plearo's image; one that does not verify is not started
(log 35, DESIGN CHOICE). -/
def execBoot (verified : Bool) (s : State) : Out :=
  if s.booted then notEnabled else .next { s with booted := verified }

/-- The 16 slices, and the 256 cores. -/
def allSlices : List Nat := List.range 16
def allCores : List Nat := List.range 256

/-- The ageing ratio of a core, in units of 2^-16 (R434). -/
def ageing (w : Wear) : Nat := if w.unstressed = 0 then 0 else w.stressed * 65536 / w.unstressed % 2 ^ 32

/-- FLOOR: the slices that hold a pair at its limit in a cluster of 6 (R433). -/
def floorBits (s : State) : BitVec 16 :=
  allSlices.foldl (fun m i => if (sliceOf s i).floor then m ||| oneSlice i else m) 0#16

/-- `HEALTH_CERTIFICATE` (R434): what Plearo signs on request. -/
def execHealthCertificate (nonce : BitVec 256) (time : Nat) (s : State) : Out :=
  if !s.booted then notEnabled
  else
    let wear (c : Nat) : Wear := (coreOf s c).wear
    let margin (i : Nat) : Nat × Nat := ((sliceOf s i).sramMargin, (sliceOf s i).hbmMargin)
    let c : Certificate :=
      { nonce := nonce, time := time, hours := s.hours, floor := floorBits s, devPairs := devPairs s
        stepping := Config.stepping, pairs := allSlices.map (clPairs s)
        bands := allCores.map (fun c => ((wear c).offset, (wear c).highest, (wear c).highestDay))
        ageing := allCores.map (fun c => ageing (wear c)), margins := allSlices.map margin
        bins := allCores.map (fun c => (wear c).bins), log := s.deconf }
    .next { s with certs := s.certs ++ [c] }

/-- The state of a partition as its entry shows it (R368). -/
def stateCode : PState → Nat
  | .free => 0 | .starting => 1 | .running => 2 | .changing => 3 | .ending => 4

/-- A partition's table entry (R368). -/
def partEntry (p : Partition) : BitVec 512 :=
  BitVec.ofNat 512 (stateCode p.state + p.slices.toNat * 2 ^ 16 + p.commons * 2 ^ 47 + p.wsc * 2 ^ 52 +
    p.keyId.toNat * 2 ^ 160 + p.epoch % 2 ^ 32 * 2 ^ 192 + p.wakeBase.toNat * 2 ^ 256 +
    p.winBase.toNat * 2 ^ 320 + p.budgetBase.toNat * 2 ^ 384 + p.shapeBase.toNat * 2 ^ 448)

/-- `SPDM_ATTESTATION` (R426): the measurements that Plearo reports. -/
def execSpdmAttestation (nonce : BitVec 256) (s : State) : Out :=
  if !s.booted then notEnabled
  else
    let c : Certificate :=
      { spdm := true, nonce := nonce, entries := allSlices.map (fun n => partEntry (partOf s n))
        revs := (allCores.filter (configured s)).map (coreRev s) }
    .next { s with certs := s.certs ++ [c] }

/-! ## Thermal limits (R435) -/

/-- `THERMAL_THROTTLE` (R435): the hottest die passes 100 °C, or has cooled. -/
def execThermalThrottle (on : Bool) (s : State) : Out :=
  .next { s with temp := if on then .throttled else .normal }

/-- `THERMAL_SHUTDOWN` (R435): at 110 °C every partition ends with KILLED, and the event is recorded in the
bin hours: in the highest temperature bin of every core, at the free voltage bin of that hour
(log 37, DESIGN CHOICE). -/
def execThermalShutdown (s : State) : Out :=
  let s := (s.parts.filter (fun p => p.2.state != .free)).foldl (fun s p => endPartition s p.1) s
  let b := 56 + (freeNow s 8202).toNat % 8
  let s := allCores.foldl (fun s c => modWear s c (fun w =>
    { w with bins := mset 0 w.bins b ((mget 0 w.bins b + 1) % 2 ^ 32) })) s
  .next { s with temp := .shutDown }

end Sys2Proof.Machine
end

