-- ==== Sys2Proof/Machine/Device.lean ====
section
/-! DEFINITION. What Mbotum does from a service core (R9, R419), and words whose opcode is not assigned
(R78). -/

namespace Sys2Proof.Machine

/-! ## Tables that Mbotum writes (R307, R328, R331, R357, R358, R364, R366, R468) -/

/-- A flow entry written: the network engine alone writes HITS (R364). -/
def putFlow (n : Nat) (e : BitVec 256) (x : Slice) : Slice :=
  { x with flows := mset 0#256 x.flows n (putBits e 79 16 (bitsOf (mget 0#256 x.flows n) 79 16)) }

/-- A queue descriptor written: the processor of a mapped queue owns its HEAD (R307). -/
def putDesc (q : Nat) (d : BitVec 512) (x : Slice) : Slice :=
  let d := if x.qslots.any (fun z => z.queue == q) then putBits d 159 128 (qdHead (mget 0#512 x.queues q)) else d
  { x with queues := mset 0#512 x.queues q d }

/-- The limits of a budget entry written: the device alone writes the use fields (R353, R366). -/
def putBudget (n : Nat) (e : BitVec 512) (p : Partition) : Partition :=
  let b : Budget := mget {} p.budgets n
  let e := putBits (putBits e 351 208 (bitsOf b.entry 351 208)) 191 160 (bitsOf b.entry 191 160)
  { p with budgets := mset {} p.budgets n { b with entry := e } }

/-- A host wake line registered at the entry of a line, or taken back (R358, R363); none where no entry is
free. -/
def putWakeLine (s : State) (part asid line hostline : Nat) (on : Bool) : Option State :=
  let put (n : Nat) (e : WakeEntry) : State := modPart s part (fun p => { p with wakes := mput p.wakes n e })
  match wakeEntry s part asid line with
  | some (n, e) =>
    if !on && e.waiters == 0 then some (modPart s part (freeWake n e))
    else some (put n { e with host := on, hostline := if on then hostline else 0 })
  | none =>
    let n := mfree (partOf s part).wakes 0 4096
    if !on || n ≥ 4096 then none
    else
      let pl := (xlateDirect s part asid 1 (line * 64) .read).map (fun x => lineOf x.1)
      some (modPart s part (takeWake n { line := line, asid := asid, host := true, hostline := hostline, pline := pl }))

/-- A store of a service core to memory. -/
def serviceStore (s : State) (addr size data : Nat) : State :=
  writeMem (noteStales s addr size) addr (bytesOf size data)

/-- Whether the values of an access are in range; a service core owns only the pages homed in its slice (R9). -/
def serviceOk (slice : Nat) (a : ServiceAccess) : Bool :=
  match a with
  | .write addr size _ => 1 ≤ size && size ≤ 8 && addr % size == 0 && Config.home (lineOf addr) % 16 == slice
  | .queueDesc q _ => q < 4096
  | .flow n _ | .peer n _ | .asid n _ => n < 65536
  | .budget n _ => n < 256
  | .spec n _ | .stream n _ => n < 4096
  | .wakeLine asid line hostline _ => asid < 65536 && line < 2 ^ 50 && hostline % 64 == 0
  | .sliceLength ns => ns == 0 || (100000 ≤ ns && ns ≤ 100000000)
  | .core pos _ => pos < 16
  | .overflow _ | .cxlMem _ | .readErrors => true

/-- `SERVICE_CORE_MEMORY_ACCESS` (R9, R419): Mbotum writes memory, one of its tables, or what it alone
sets for its partition. -/
def execServiceCoreMemoryAccess (slice : Nat) (a : ServiceAccess) (s : State) : Out :=
  match slicePart s slice with
  | none => notEnabled
  | some part =>
    if (partOf s part).state ≠ .running ∨ !serviceOk slice a then notEnabled
    else
      match a with
      | .write addr size data => .next (serviceStore s addr size data)
      | .queueDesc q d => .next (modSlice s slice (putDesc q d))
      | .flow n e => .next (modSlice s slice (putFlow n e))
      | .peer n e => .next (modSlice s slice (fun x => { x with peers := mset 0#128 x.peers n e }))
      | .budget n e => .next (modPart s part (putBudget n e))
      | .asid n e => .next (modPart s part (fun p => { p with asids := mset 0#128 p.asids n e }))
      | .spec n r => .next (writeMem s (specAddr (partOf s part) n) (bytesOf 128 r.toNat))
      | .stream n e => .next (writeMem s (streamAddr (partOf s part) n) (bytesOf 64 e.toNat))
      | .wakeLine asid line hostline on =>
        (match putWakeLine s part asid line hostline on with
         | some s => .next s
         | none => notEnabled)
      | .overflow bytes => .next (modPart s part (fun p => { p with overflow := bytes }))
      | .sliceLength ns => .next (modPart s part (fun p => { p with sliceLength := ns, sliceStart := nowNs s }))
      | .cxlMem on => .next (modPart s part (fun p => { p with cxlMem := on }))
      | .core pos r => .next (modCore s (slice * 16 + pos) (fun k => { k with reserved := r }))
      | .readErrors => .next (modSlice s slice (fun x => { x with errs := [], errOverflow := false }))

/-! ## Words that are no instruction (R77, R78) -/

/-- `UNASSIGNED_OPCODE` (R78): the word issues and raises the illegal-instruction trap for its gang. -/
def execUnassignedOpcode (word : DWord) (s : State) : Out :=
  withGang (.unassignedOpcode word) s (fun c => .next (trapLanes c s cIllegal c.gang))

end Sys2Proof.Machine
end

