-- ==== Sys2Proof/Machine/FloatInstr.lean ====
section
/-! DEFINITION. Floating-point and conversion instructions (R165..R182). -/

namespace Sys2Proof.Machine

/-- A float row of one to three sources: element by element, each rounded once (R170). -/
def semFloat (n : Nat) (op : FloatFmt → Nat → Nat → Nat → Rounded) (o : OpA) (v : View) : Sem Eff := do
  let (a, b, c) ← readA v o n o.x
  let r ← delivered (mapElems o.t (op (fmtOf o.t)) a b c)
  pure (writeEff o.d o.t r)

/-- `FADD` (R170). -/
def execFadd (o : OpA) (s : State) : Out :=
  runRegs (.fadd o) (isK o.d) o.pred (useA o 2)
    (semFloat 2 (fun f a b _ => elAdd f o.rm o.sat a b) o) s

/-- `FSUB` (R170). -/
def execFsub (o : OpA) (s : State) : Out :=
  runRegs (.fsub o) (isK o.d) o.pred (useA o 2)
    (semFloat 2 (fun f a b _ => elSub f o.rm o.sat a b) o) s

/-- `FMUL` (R170). -/
def execFmul (o : OpA) (s : State) : Out :=
  runRegs (.fmul o) (isK o.d) o.pred (useA o 2)
    (semFloat 2 (fun f a b _ => elMul f o.rm o.sat a b) o) s

/-- `FFMA`: one rounding only (R170). -/
def execFfma (o : OpA) (s : State) : Out :=
  runRegs (.ffma o) (isK o.d) o.pred (useA o 3)
    (semFloat 3 (fun f a b c => elFma f o.rm o.sat a b c) o) s

/-- `FMIN` (R171). -/
def execFmin (o : OpA) (s : State) : Out :=
  runRegs (.fmin o) (isK o.d) o.pred (useA o 2)
    (semFloat 2 (fun f a b _ => elMinMax f false a b) o) s

/-- `FMAX` (R171). -/
def execFmax (o : OpA) (s : State) : Out :=
  runRegs (.fmax o) (isK o.d) o.pred (useA o 2)
    (semFloat 2 (fun f a b _ => elMinMax f true a b) o) s

/-- One element of `FCMP`: all ones or zero, with the invalid flag of a signalling NaN (R172). -/
def elCmp (cc w : Nat) (f : FloatFmt) (a b : Nat) : Rounded :=
  let x := valueOf f a
  let y := valueOf f b
  ⟨if fcmpHolds cc x y then 2 ^ w - 1 else 0, sigFlags [x, y]⟩

/-- `FCMP` of its operands (R172). -/
def semFcmp (o : OpCmp) (v : View) : Sem Eff := do
  let a ← readSrc v o.a o.t o.raw
  let b ← readSrc v o.b o.t o.raw
  let m ← delivered (mapElems o.t (fun x y _ => elCmp o.cc.val (elemWidth o.t) (fmtOf o.t) x y) a b 0)
  pure { regs := writeVal o.d .b32 m, preds := [(o.pd.val, m == 0xFFFFFFFF)] }

/-- `FCMP` (R172). -/
def execFcmp (o : OpCmp) (s : State) : Out :=
  runRegs (.fcmp o) (isK o.d) o.pred (useReg o.d ++ useSrc o.a ++ useSrc o.b) (semFcmp o) s

/-- A row of f32 alone (R175). -/
def semF32 (op : Word → Nat → Rounded) (o : OpA) (v : View) : Sem Eff := do
  let a ← readSrc v o.a .f32 o.x
  let r ← delivered (saturate o.sat (op (coreRev v.s v.g.core) a))
  pure (writeEff o.d .f32 r)

/-- `FRCP` (R112, R175). -/
def execFrcp (o : OpA) (s : State) : Out :=
  runRegs (.frcp o) (isK o.d) o.pred (useA o 1) (semF32 rcpBits o) s

/-- `FRSQ` (R112, R175). -/
def execFrsq (o : OpA) (s : State) : Out :=
  runRegs (.frsq o) (isK o.d) o.pred (useA o 1) (semF32 rsqBits o) s

/-- `FSQRT` (R175). -/
def execFsqrt (o : OpA) (s : State) : Out :=
  runRegs (.fsqrt o) (isK o.d) o.pred (useA o 1) (semF32 (fun _ a => sqrtBits o.rm o.sat a) o) s

/-- `FDIV` of its operands (R175). -/
def semFdiv (o : OpA) (v : View) : Sem Eff := do
  let (a, b, _) ← readA v o 2 o.x
  let r ← delivered (divBits o.rm o.sat a b)
  pure (writeEff o.d .f32 r)

/-- `FDIV` (R175). -/
def execFdiv (o : OpA) (s : State) : Out :=
  runRegs (.fdiv o) (isK o.d) o.pred (useA o 2) (semFdiv o) s

/-- `FEXP2` (R112, R175). -/
def execFexp2 (o : OpA) (s : State) : Out :=
  runRegs (.fexp2 o) (isK o.d) o.pred (useA o 1) (semF32 exp2Bits o) s

/-- `FLOG2` (R112, R175). -/
def execFlog2 (o : OpA) (s : State) : Out :=
  runRegs (.flog2 o) (isK o.d) o.pred (useA o 1) (semF32 log2Bits o) s

/-- `FSIN` (R112, R175). -/
def execFsin (o : OpA) (s : State) : Out :=
  runRegs (.fsin o) (isK o.d) o.pred (useA o 1) (semF32 sinBits o) s

/-- `FCOS` (R112, R175). -/
def execFcos (o : OpA) (s : State) : Out :=
  runRegs (.fcos o) (isK o.d) o.pred (useA o 1) (semF32 cosBits o) s

/-- `FTANH` (R112, R175). -/
def execFtanh (o : OpA) (s : State) : Out :=
  runRegs (.ftanh o) (isK o.d) o.pred (useA o 1) (semF32 tanhBits o) s

/-- `FCLASS` of its operand: one mask per element (R173). -/
def semFclass (o : OpA) (v : View) : Sem Eff := do
  let a ← readSrc v o.a o.t o.x
  let m := joinElems (elemWidth o.t) ((elemsOf o.t a).map (classMask (fmtOf o.t)))
  pure (writeEff o.d .n32 m)

/-- `FCLASS` (R173). -/
def execFclass (o : OpA) (s : State) : Out :=
  runRegs (.fclass o) (isK o.d) o.pred (useA o 1) (semFclass o) s

/-- `FRND` (R174). -/
def execFrnd (o : OpA) (s : State) : Out :=
  runRegs (.frnd o) (isK o.d) o.pred (useA o 1) (semFloat 1 (fun f a _ _ => elRound f o.rm a) o) s

/-- `CVT` of its operand (R177). -/
def semCvt (o : OpCvt) (v : View) : Sem Eff := do
  let a ← readSrc v o.a o.src o.raw
  let r ← delivered (cvtBits o.src o.t o.rm o.sat a)
  pure (writeEff o.d o.t r)

/-- `CVT` (R176, R177). -/
def execCvt (o : OpCvt) (s : State) : Out :=
  runRegs (.cvt o) (isK o.d) o.pred (useReg o.d (tagRegs o.t) ++ useSrc o.a (tagRegs o.src))
    (semCvt o) s

/-- One element of `PACK` (R178): an f32 value narrowed to a float format, or an integer wrapped or
clamped to its low eight bits. -/
def packElem (t : Tag) (mode : Rnd) (sat : Bool) (x : Nat) : Rounded :=
  match floatElem t with
  | some f => cvtFloat .f32 f mode sat x
  | none => ⟨putInt t sat (intOf (packScalar t) x), 0#7⟩

/-- `PACK` of its operands (R178). -/
def semPack (o : OpA) (v : View) : Sem Eff := do
  let a ← readSrc v o.a (packScalar o.t)
  let b ← readSrc v o.b (packScalar o.t)
  let c ← if elems o.t = 4 then readSrc v o.c o.t else pure 0
  let ea ← delivered (packElem o.t o.rm o.sat a)
  let eb ← delivered (packElem o.t o.rm o.sat b)
  let w := elemWidth o.t
  let es :=
    if elems o.t = 2 then [ea, eb]
    else if o.x then [elemOf o.t c 0, elemOf o.t c 1, ea, eb]
    else [ea, eb, elemOf o.t c 2, elemOf o.t c 3]
  pure (writeEff o.d o.t (joinElems w es))

/-- `PACK` (R178). -/
def execPack (o : OpA) (s : State) : Out :=
  runRegs (.pack o) (isK o.d) o.pred
    (useReg o.d ++ useSrc o.a ++ useSrc o.b ++ (if elems o.t = 4 then useSrc o.c else []))
    (semPack o) s

/-- The scalar type that `UNPK` writes (R179). -/
def unpkTag (t : Tag) : Tag := packScalar t

/-- One element widened exactly (R179). -/
def unpkElem (t : Tag) (x : Nat) : Rounded :=
  match floatElem t with
  | some f => cvtFloat f .f32 .ne false x
  | none => ⟨wrapInt 32 (intOf t x), 0#7⟩

/-- `UNPK` of its operand (R179). -/
def semUnpk (o : OpUnpk) (v : View) : Sem Eff := do
  let a ← readSrc v o.a o.t
  let r ← delivered (unpkElem o.t (elemOf o.t a o.el.val))
  pure (writeEff o.d (unpkTag o.t) r)

/-- `UNPK` (R179). -/
def execUnpk (o : OpUnpk) (s : State) : Out :=
  runRegs (.unpk o) (isK o.d) o.pred (useReg o.d ++ useSrc o.a) (semUnpk o) s

/-- Two products and an addend of which no two infinities may be opposite: the exact sum of
`FDOT2` (R180). -/
def fvDot (mode : Rnd) (p q c : FV × Flags) : FV × Flags :=
  let xs := [p.1, q.1, c.1]
  let fl := p.2 ||| q.2 ||| c.2
  let pos := xs.any (fun x => x.isInf && !x.isNeg)
  let neg := xs.any (fun x => x.isInf && x.isNeg)
  if pos && neg then (.nan false, fl ||| flINV)
  else if xs.any FV.isNan then (.nan false, fl)
  else if pos then (.inf false, fl)
  else if neg then (.inf true, fl)
  else
    let allNeg := xs.all (fun x => x.isZero && x.isNeg)
    let allPos := xs.all (fun x => x.isZero && !x.isNeg)
    let y := (fvAdd mode (fvAdd mode p.1 q.1).1 c.1).1
    match y with
    | .fin n m e =>
      if m = 0 then (.fin (if allNeg then true else if allPos then false else mode == .dn) 0 0, fl)
      else (.fin n m e, fl)
    | z => (z, fl)

/-- `FDOT2` of its operands (R180). -/
def semFdot2 (o : OpA) (v : View) : Sem Eff := do
  let a ← readSrc v o.a o.t o.x
  let b ← readSrc v o.b o.t o.x
  let c ← readSrc v o.c .f32 o.x
  let f := fmtOf o.t
  let prod (i : Nat) := fvMul (valueOf f (elemOf o.t a i)) (valueOf f (elemOf o.t b i))
  let cv := valueOf .f32 c
  let r ← delivered (rounded .f32 o.rm o.sat (fvDot o.rm (prod 0) (prod 1) (cv, sigFlags [cv])))
  pure (writeEff o.d .f32 r)

/-- `FDOT2` (R180). -/
def execFdot2 (o : OpA) (s : State) : Out :=
  runRegs (.fdot2 o) (isK o.d) o.pred (useA o 3) (semFdot2 o) s

/-- The exact sum of `IDOT4` (R181). -/
def dot4 (ta tb : Tag) (a b : Nat) (c : Int) : Int :=
  (List.range 4).foldl (fun x i => x + intOf ta (elemOf ta a i) * intOf tb (elemOf tb b i)) c

/-- `IDOT4` of its operands (R181). -/
def semIdot4 (o : OpA) (v : View) : Sem Eff := do
  let tb := if o.x then otherSign o.t else o.t
  let tc := idotAcc o.t o.x
  let a ← readSrc v o.a o.t
  let b ← readSrc v o.b tb
  let c ← readSrc v o.c tc
  pure (writeEff o.d tc (putInt tc o.sat (dot4 o.t tb a b (intOf tc c))))

/-- `IDOT4` (R181). -/
def execIdot4 (o : OpA) (s : State) : Out :=
  runRegs (.idot4 o) (isK o.d) o.pred (useA o 3) (semIdot4 o) s

end Sys2Proof.Machine
end

