-- ==== Sys2Proof/Machine/MemInstr.lean ====
section
/-! DEFINITION. Memory instructions: loads, stores, atomics, fences and cache control (R257..R275), and
`AFLD` and `AFST` (R200, R201). -/

namespace Sys2Proof.Machine

/-! ## Operands (R258) -/

/-- A register that an operand names as an address pair. -/
def pairReg (a : Src) : Reg :=
  match a with
  | .reg r => r
  | _ => .v 0

/-- The generic address of a format M instruction: the pair plus the signed offset (R258). -/
def readGeneric (v : View) (ab : Src) (off : BitVec 19) : Sem DWord := do
  let a ← readPair v (pairReg ab)
  pure (a + off.signExtend 64)

/-- The offset of `LDS` and `STS` (R258). -/
def readOffset (v : View) (ab : Src) (off : BitVec 19) : Sem DWord := do
  let a ← readN32 v ab
  pure (BitVec.ofNat 64 ((BitVec.ofNat 32 a + off.signExtend 32).toNat))

/-- The raw bits of consecutive registers, lowest first. -/
def readRaws (v : View) (r : Reg) : Nat → Sem Nat
  | 0 => pure 0
  | n + 1 => do
    let x ← readRaw v r
    let y ← readRaws v (regPlus r 1) n
    pure (x + 2 ^ 32 * y)

/-- The data of a store (R262). -/
def readStore (v : View) (ds : Src) (mt : MemType) : Sem Nat :=
  match ds with
  | .reg r =>
    match mt with
    | .n8 | .s8 => do pure ((← readTags v r [.n32, .s32]) % 2 ^ 8)
    | .n16 | .s16 => do pure ((← readTags v r [.n32, .s32]) % 2 ^ 16)
    | .b32 | .b64 | .b128 => readRaws v r (memRegs mt)
    | _ => readTyped v r (storeType mt) false
  | .imm i => pure ((immBits (storeType mt) i).getD 0 % 2 ^ (8 * memSize mt))
  | .const c => pure ((constBits (storeType mt) c).getD 0 % 2 ^ (8 * memSize mt))

/-- The scope at which an access is performed: `.blk` in scratchpad and private memory (R242). -/
def scopeAt (x : Spot) (sc : Scope) : Scope := if isGlobal x.va then sc else .blk

/-! ## Loads (R261, R264) -/

/-- Accesses put at the end of a core's outstanding ones. -/
def issueAccesses (s : State) (core : Nat) (as : List Access) : State :=
  modCore s core (fun k => { k with acc := k.acc ++ as })

/-- The outstanding load of a resolved lane. -/
def loadAccess (c : Ctx) (s : State) (uniform : Bool) (sc : Scope) (ord : Order) (mt : MemType)
    (dest : Nat) (x : Spot) : Access :=
  { kind := .load, group := c.gid, lane := x.lane, uniform := uniform, va := x.va, place := x.place,
    commons := x.commons, ptype := x.pt, size := memSize mt, scope := scopeAt x sc, order := ord,
    dest := dest, mt := mt, gen := (coreOf s c.g.core).gentag, seq := s.fresh }

/-- The loads of a gang issued: `dest` gives each lane's first destination register. -/
def issueLoads (c : Ctx) (s : State) (sc : Scope) (ord : Order) (mt : MemType)
    (xs : List Spot) (dest : Nat → Nat) (fl : Map LaneRes) : State :=
  whenFree c s xs (fun s =>
    issueAccesses (commitLanes c s fl) c.g.core
      (xs.map (fun x => loadAccess c s false sc ord mt (dest x.lane) x)))

/-- A uniform load past its operands. -/
def issueUniLoads (c : Ctx) (s : State) (sc : Scope) (ord : Order) (mt : MemType) (dest : Nat)
    (xs : List Spot) (fl : Flags × Flags) : State :=
  whenFree c s xs (fun s =>
    let s := commitUni c s ⟨{}, fl.1, {}, fl.2⟩
    let s := closeRegions c s c.gang
    let as := List.zipWith (fun x i => loadAccess c s true sc ord mt (dest + i) x) xs (List.range xs.length)
    issueAccesses (noteLoads c s (as.flatMap (fun a => loadRegs a 0))) c.g.core as) (uniform := true)

/-- The number of the register that an operand names. -/
def srcNum (s : Src) : Nat := regNum (pairReg s)

/-- Whether an operand names a k register. -/
def srcIsK (s : Src) : Bool := srcIsReg s && isK (pairReg s)

/-- `LD` (R261, R264). -/
def execLd (o : OpM) (s : State) : Out :=
  let us := useSrc o.ds (memRegs o.mt) ++ useSrc o.ab 2
  withGang (.ld o) s (fun c => .next (
    if srcIsK o.ds then
      withUniform c s o.pred us (fun v => readGeneric v o.ab o.off) (fun r =>
        withSpots c s (resolve s c true (memSize o.mt) .read [(lowest c.gang, r.1)]) (fun xs =>
          issueUniLoads c s o.sc o.ord o.mt (srcNum o.ds) xs r.2)) (m := .free)
    else
      withOperands c s o.pred us (fun v => readGeneric v o.ab o.off) (fun rs =>
        withSpots c s (resolve s c false (memSize o.mt) .read (rs.map (fun r => (r.1, r.2.1))))
          (fun xs => issueLoads c s o.sc o.ord o.mt xs (fun _ => srcNum o.ds) (flagsOnly rs))) (m := .free)))

/-- `LDS` (R258, R261). -/
def execLds (o : OpM) (s : State) : Out :=
  withGang (.lds o) s (fun c => .next (
    withOperands c s o.pred (useSrc o.ds (memRegs o.mt) ++ useSrc o.ab)
      (fun v => readOffset v o.ab o.off) (fun rs =>
        withSpots c s (resolveGrant s c (memSize o.mt) (rs.map (fun r => (r.1, r.2.1.toNat))))
          (fun xs => issueLoads c s .blk o.ord o.mt xs (fun _ => srcNum o.ds) (flagsOnly rs))) (m := .free)))

/-- The base address of `LDK`: a k pair, or the launch's argument area (R264). -/
def readLdk (c : Ctx) (s : State) (o : OpLdk) (v : View) : Sem DWord := do
  let a ← match o.ab with
    | .reg r => readPair v r
    | _ => pure (BitVec.ofNat 64 (lrArgs (c.launch s).rcd))
  pure (a + o.off.signExtend 64)

/-- `LDK` (R264): each word is an access of its own. -/
def execLdk (o : OpLdk) (s : State) : Out :=
  let n := o.cntm1.val + 1
  withGang (.ldk o) s (fun c => .next (
    withUniform c s o.pred (useReg o.d n ++ useSrc o.ab 2) (readLdk c s o) (fun r =>
      let vas := (List.range n).map (fun i => (lowest c.gang, r.1 + BitVec.ofNat 64 (4 * i)))
      withSpots c s (resolve s c true 4 .read vas) (fun xs =>
        issueUniLoads c s o.sc o.ord .b32 (regNum o.d) xs r.2)) (m := .free)))

/-! ## Stores (R262, R263) -/

/-- A write that another party could observe before the block retires passes a visibility point: a
release at `.part` or `.sys`, a store to a page that is not normal, and in a launch that is not
contained any global store (R394). -/
def storeVisible (s : State) (c : Ctx) (sc : Scope) (ord : Order) (x : Spot) : Bool :=
  isGlobal x.va &&
    ((releases ord && !isNarrow sc) || x.pt != .normal || !lrCont (c.launch s).rcd)

/-- One lane's store at its place (R262). -/
def storeLane (c : Ctx) (sc : Scope) (ord : Order) (size : Nat) (s : State) (x : Spot × Nat) : State :=
  storePlace s (groupOf s c.gid) x.1.place x.1.pt (isPrivate x.1.va) x.1.commons (scopeAt x.1 sc)
    (releases ord) size x.2

/-- The stores of a gang performed in ascending lane order (R263), with the acknowledgements they
await, and what closes a region (R274) (log 19, DEDUCED). -/
def performStores (c : Ctx) (s : State) (sc : Scope) (ord : Order) (size : Nat)
    (xs : List (Spot × Nat)) (fl : Map LaneRes) : State :=
  let lanes := xs.map (fun x => x.1.lane)
  let s := if xs.any (fun x => storeVisible s c sc ord x.1) then visible s c.g.block else s
  let s := xs.foldl (storeLane c sc ord size) s
  let s := modCore s c.g.core (fun k => { k with
    stPend := k.stPend + (xs.filter (fun x => !(placePas x.1.place).isEmpty)).length })
  let s := commitLanes c s fl
  let s := markEffects c s lanes
  if releases ord then closeRegions c s lanes else s

/-- A store past its operands: a release waits for the thread's earlier accesses (R250). -/
def issueStores (c : Ctx) (s : State) (sc : Scope) (ord : Order) (size : Nat)
    (rs : Map ((DWord × Nat) × Flags × Flags)) (xs : List Spot) : State :=
  let go (s : State) : State :=
    whenFree c s xs (fun s =>
      performStores c s sc ord size (xs.map (fun x => (x, ((mfind rs x.lane).map (fun r => r.1.2)).getD 0)))
        (flagsOnly rs))
  if releases ord then whenQuiet c s (xs.map (fun x => x.lane)) go else go s

/-- The operands of a store at a generic address. -/
def readSt (o : OpM) (v : View) : Sem (DWord × Nat) := do
  let a ← readGeneric v o.ab o.off
  let x ← readStore v o.ds o.mt
  pure (a, x)

/-- `ST` (R262, R263). -/
def execSt (o : OpM) (s : State) : Out :=
  withGang (.st o) s (fun c => .next (
    withOperands c s o.pred (useSrc o.ds (memRegs o.mt) ++ useSrc o.ab 2) (readSt o) (fun rs =>
      withSpots c s (resolve s c false (memSize o.mt) .write (rs.map (fun r => (r.1, r.2.1.1))))
        (fun xs => issueStores c s o.sc o.ord (memSize o.mt) rs xs)) (m := .kill)))

/-- The operands of a store at an offset of the block's grant. -/
def readSts (o : OpM) (v : View) : Sem (DWord × Nat) := do
  let a ← readOffset v o.ab o.off
  let x ← readStore v o.ds o.mt
  pure (a, x)

/-- `STS` (R258, R262). -/
def execSts (o : OpM) (s : State) : Out :=
  withGang (.sts o) s (fun c => .next (
    withOperands c s o.pred (useSrc o.ds (memRegs o.mt) ++ useSrc o.ab) (readSts o) (fun rs =>
      withSpots c s (resolveGrant s c (memSize o.mt) (rs.map (fun r => (r.1, r.2.1.1.toNat))))
        (fun xs => issueStores c s .blk o.ord (memSize o.mt) rs xs)) (m := .kill)))

/-! ## Register-indirect access (R269, R270) -/

/-- `IXSET` (R269): BASE in bits [15:8] and LIMIT in bits [7:0] (R121). -/
def semIxset (o : OpIxset) (v : View) : Sem Eff := do
  let b ← readSrc v o.a .n32
  let l ← readSrc v o.b .n32
  check (b ≤ 255 && l ≤ 255) cIndex
  pure { ixs := [(o.ixn.val, BitVec.ofNat 16 (b * 2 ^ 8 + l))] }

/-- `IXSET` (R269). -/
def execIxset (o : OpIxset) (s : State) : Out :=
  runRegs (.ixset o) false o.pred (useSrc o.a ++ useSrc o.b) (semIxset o) s

/-- The data register that `LDX` and `STX` select (R270). -/
def readIndexed (o : OpMX) (v : View) : Sem Nat := do
  let i ← readTags v (.v o.idx) [.n32, .s32]
  let ix := getIx v.rf o.ixn.val
  check (i < bitsOf ix 7 0) cIndex
  let n := bitsOf ix 15 8 + i
  check (n < declaredV v.s v.g) cRange
  pure n

/-- The operands of `LDX`: the address and the destination register. -/
def readLdx (o : OpMX) (v : View) : Sem (DWord × Nat) := do
  let a ← readGeneric v o.ab o.off
  let n ← readIndexed o v
  pure (a, n)

/-- `LDX` (R270). -/
def execLdx (o : OpMX) (s : State) : Out :=
  withGang (.ldx o) s (fun c => .next (
    withOperands c s o.pred (useV o.idx.val 1 ++ useSrc o.ab 2) (readLdx o) (fun rs =>
      withSpots c s (resolve s c false (memSize o.mt) .read (rs.map (fun r => (r.1, r.2.1.1))))
        (fun xs => issueLoads c s o.sc o.ord o.mt xs
          (fun l => ((mfind rs l).map (fun r => r.1.2)).getD 0) (flagsOnly rs))) (m := .free)))

/-- The operands of `STX`: the address and the data. -/
def readStx (o : OpMX) (v : View) : Sem (DWord × Nat) := do
  let a ← readGeneric v o.ab o.off
  let n ← readIndexed o v
  let x ← readStore v (.reg (.v (finOf 256 n))) o.mt
  pure (a, x)

/-- `STX` (R270). -/
def execStx (o : OpMX) (s : State) : Out :=
  withGang (.stx o) s (fun c => .next (
    withOperands c s o.pred (useV o.idx.val 1 ++ useSrc o.ab 2) (readStx o) (fun rs =>
      withSpots c s (resolve s c false (memSize o.mt) .write (rs.map (fun r => (r.1, r.2.1.1))))
        (fun xs => issueStores c s o.sc o.ord (memSize o.mt) rs xs)) (m := .kill)))

/-! ## Atomics (R266..R268) -/

/-- The operands of an atomic beside its address: B, and the new value of a compare-and-swap. -/
def readAtom (o : OpN) (v : View) : Sem (Nat × Nat) := do
  let b ← readSrc v o.b o.t
  let n ← match o.aop, o.b with
    | .cas, .reg r => readTyped v (regPlus r (tagRegs o.t)) o.t false
    | _, _ => pure 0
  pure (b, n)

/-- The registers that an atomic's B names. -/
def useAtomB (o : OpN) : List RegUse :=
  useSrc o.b (if o.aop = .cas then 2 * tagRegs o.t else tagRegs o.t)

/-- The operands of an atomic at a generic address. -/
def readAtomAt (o : OpN) (v : View) : Sem (DWord × Nat × Nat) := do
  let a ← readPair v (pairReg o.a)
  let x ← readAtom o v
  pure (a, x)

/-- The operands of an atomic at an offset of the block's grant. -/
def readAtomOff (o : OpN) (v : View) : Sem (DWord × Nat × Nat) := do
  let a ← readN32 v o.a
  let x ← readAtom o v
  pure (BitVec.ofNat 64 a, x)

/-- Where the atomics of a gang go: never to private memory (R266). -/
def resolveAtoms (s : State) (c : Ctx) (uniform : Bool) (size : Nat) (vas : List (Nat × DWord)) :
    Resolved :=
  match vas.filter (fun x => isPrivate x.2) with
  | (l, a) :: rest => .trap (cWindow a) (l :: rest.map Prod.fst)
  | [] => resolve s c uniform size .write vas

/-- The outstanding atomic of a resolved lane. -/
def atomAccess (c : Ctx) (s : State) (o : OpN) (uniform : Bool) (x : Spot) (b n : Nat) : Access :=
  { kind := .atomic, group := c.gid, lane := x.lane, uniform := uniform, va := x.va, place := x.place,
    commons := x.commons, ptype := x.pt, size := atomSize o.t, scope := scopeAt x o.sc, order := o.ord,
    dest := regNum o.d, aop := o.aop, t := o.t, b := b, c := n, gen := (coreOf s c.g.core).gentag,
    seq := s.fresh }

/-- What every atomic does at issue beside its access: its effect for the spin detector, its region
and its visibility point (R274, R394). -/
def atomEffects (c : Ctx) (s : State) (xs : List Spot) : State :=
  let lanes := xs.map (fun x => x.lane)
  let s := if xs.any (fun x => isGlobal x.va) then visible s c.g.block else s
  closeRegions c (markEffects c s c.gang) (if lanes.isEmpty then [] else c.gang)

/-- An atomic held at issue while a release must wait or an access of its threads meets it; a uniform one
acts for every lane of the gang (R247). -/
def whenAtom (c : Ctx) (s : State) (ord : Order) (xs : List Spot) (k : State → State)
    (uniform : Bool := false) : State :=
  let go (s : State) : State := whenFree c s xs k uniform
  if releases ord then whenQuiet c s ((actingSpots c uniform xs).map (fun x => x.lane)) go else go s

/-- The atomics of a gang's lanes issued in ascending lane order (R267). -/
def issueAtoms (c : Ctx) (s : State) (o : OpN) (rs : Map ((DWord × Nat × Nat) × Flags × Flags))
    (xs : List Spot) : State :=
  whenAtom c s o.ord xs (fun s =>
    let lanes := xs.map (fun x => x.lane)
    let s := if xs.any (fun x => isGlobal x.va) then visible s c.g.block else s
    let s := commitLanes c s (flagsOnly rs)
    let s := closeRegions c (markEffects c s lanes) lanes
    issueAccesses s c.g.core (xs.map (fun x =>
      let r := ((mfind rs x.lane).map (fun r => r.1.2)).getD (0, 0)
      atomAccess c s o false x r.1 r.2)))

/-- `ATOM` (R266, R267). -/
def execAtom (o : OpN) (s : State) : Out :=
  let us := useReg o.d (tagRegs o.t) ++ useSrc o.a 2 ++ useAtomB o
  withGang (.atom o) s (fun c => .next (
    if isK o.d then
      withUniform c s o.pred us (readAtomAt o) (fun r =>
        withSpots c s (resolveAtoms s c true (atomSize o.t) [(lowest c.gang, r.1.1)]) (fun xs =>
          whenAtom c s o.ord xs (fun s =>
            let s := commitUni c s ⟨{}, r.2.1, {}, r.2.2⟩
            let s := atomEffects c s xs
            let as := xs.map (fun x => atomAccess c s o true x r.1.2.1 r.1.2.2)
            issueAccesses (noteLoads c s (writeVal o.d o.t 0)) c.g.core as) (uniform := true))) (m := .kill)
    else
      withOperands c s o.pred us (readAtomAt o) (fun rs =>
        withSpots c s (resolveAtoms s c false (atomSize o.t) (rs.map (fun r => (r.1, r.2.1.1))))
          (fun xs => issueAtoms c s o rs xs)) (m := .kill)))

/-- `ATOMS` (R266). -/
def execAtoms (o : OpN) (s : State) : Out :=
  withGang (.atoms o) s (fun c => .next (
    withOperands c s o.pred (useReg o.d (tagRegs o.t) ++ useSrc o.a ++ useAtomB o) (readAtomOff o)
      (fun rs =>
        withSpots c s (resolveGrant s c (atomSize o.t) (rs.map (fun r => (r.1, r.2.1.1.toNat))))
          (fun xs => issueAtoms c s { o with sc := .blk } rs xs)) (m := .kill)))

/-- Whether a `RED` waits in its block's store buffer (R274, R397) (log 20, DEDUCED). -/
def redBuffered (s : State) (c : Ctx) (x : Spot) : Bool := isGlobal x.va && buffers s c.g x.pt false

/-- One lane's `RED`: performed when it is accepted (R268), or put into the store buffer. -/
def redLane (c : Ctx) (o : OpN) (s : State) (x : Spot × Nat) : State :=
  if redBuffered s c x.1 then
    (placePas x.1.place).foldl (fun s pa =>
      bufferPut s c.g.block
        { pa := pa, size := atomSize o.t, data := x.2, red := some (o.aop, o.t),
          rel := releases o.ord && isNarrow o.sc }) s
  else (atomPerform s c.gid c.g.core x.1.place (scopeAt x.1 o.sc) o.ord o.aop o.t x.2 0).2

/-- Whether a `RED` passes a visibility point: a global one that does not wait in the store buffer, or
a release at `.part` or `.sys` (R394, R397). -/
def redVisible (s : State) (c : Ctx) (o : OpN) (x : Spot) : Bool :=
  isGlobal x.va && (!redBuffered s c x || (releases o.ord && !isNarrow o.sc))

/-- The operands of `RED`. -/
def readRed (o : OpN) (v : View) : Sem (DWord × Nat) := do
  let a ← readPair v (pairReg o.a)
  let b ← readSrc v o.b o.t
  pure (a, b)

/-- `RED` (R266, R268). -/
def execRed (o : OpN) (s : State) : Out :=
  withGang (.red o) s (fun c => .next (
    withOperands c s o.pred (useSrc o.a 2 ++ useSrc o.b (tagRegs o.t)) (readRed o) (fun rs =>
      withSpots c s (resolveAtoms s c false (atomSize o.t) (rs.map (fun r => (r.1, r.2.1.1))))
        (fun xs =>
          whenAtom c s o.ord xs (fun s =>
            let lanes := xs.map (fun x => x.lane)
            let s := if xs.any (redVisible s c o) then visible s c.g.block else s
            let s := (xs.map (fun x => (x, ((mfind rs x.lane).map (fun r => r.1.2)).getD 0))).foldl
              (redLane c o) s
            let s := modCore s c.g.core (fun k => { k with stPend := k.stPend + xs.length })
            closeRegions c (markEffects c (commitLanes c s (flagsOnly rs)) lanes) lanes))) (m := .kill)))

/-! ## Fences, prefetch and cache control (R271..R273) -/

/-- `FENCE` (R250, R271). -/
def execFence (o : OpFence) (s : State) : Out :=
  withGang (.fence o) s (fun c => .next (
    let act := activeLanes c o.pred
    if act.isEmpty then advance c s c.gang
    else
      whenQuiet c s act (fun s =>
        let s := if isNarrow o.sc then s else visible s c.g.block
        let s := advance c s c.gang
        if releases o.ord then closeRegions c s act else s)))

/-- `PREF` of its address pair (R272): it never faults on a value, tags included (log 41, DEDUCED), and changes no result; a
void register raises VOID as everywhere (R103). -/
def semPref (o : OpPref) (v : View) : Sem Eff := do
  let r := pairReg o.ab
  if (readReg v r).tag = .void ∨ (readReg v (regPlus r 1)).tag = .void then raiseFlags flVOID
  pure {}

/-- `PREF` (R272). -/
def execPref (o : OpPref) (s : State) : Out :=
  runRegs (.pref o) false o.pred (useSrc o.ab 2) (semPref o) s

/-- A line written back from a core's L1, where its page is normal and not in commons (R273). -/
def writeBackSpot (c : Ctx) (s : State) (x : Spot) : State :=
  if x.pt == .normal && !x.commons then
    (placePas x.place).foldl (fun s pa => writeBackLine s c.g.core (lineOf pa)) s
  else s

/-- Every dirty line of a core written back (R273). -/
def writeBackAll (s : State) (core : Nat) : State :=
  ((coreOf s core).held.map (fun b => lineOf b.1)).foldl (fun s l => writeBackLine s core l) s

/-- `CCTL` (R273). -/
def execCctl (o : OpCctl) (s : State) : Out :=
  withGang (.cctl o) s (fun c => .next (
    if o.cop.val ≥ 2 then
      let s' := advance c s c.gang
      if (activeLanes c o.pred).isEmpty then s'
      else if o.cop = 2 then modCore s' c.g.core (fun k => { k with iinvAt := s.now })
      else writeBackAll s' c.g.core
    else
      withOperands c s o.pred (useSrc o.ab 2) (fun v => readGeneric v o.ab o.off) (fun rs =>
        withSpots c s (resolve s c false 1 .read (rs.map (fun r => (r.1, r.2.1)))) (fun xs =>
          commitLanes c (xs.foldl (writeBackSpot c) s) (flagsOnly rs))) (m := .free)))

/-! ## AFLD and AFST (R200, R201) -/

/-- The number of an affine register's first v register. -/
def afBase (r : Fin 4) : Nat := 192 + 16 * r.val

/-- Sixteen registers read for `AFST`: tags af, b32 or void (R200). -/
def readAfRun (v : View) (first : Nat) : Nat → Sem (List Nat)
  | 0 => pure []
  | n + 1 => do
    let x ← readTags v (.v (finOf 256 first)) [.af]
    let xs ← readAfRun v (first + 1) n
    pure (x :: xs)

/-- Words joined to one number, the first least significant. -/
def joinWords : List Nat → Nat
  | [] => 0
  | w :: ws => w + 2 ^ 32 * joinWords ws

/-- The state size L of the spec whose activation a thread runs (R328); 0 outside an activation. -/
def stateSize (v : View) : Nat :=
  match (threadOf v.g v.lane).act with
  | some a => spL (mget {} (partOf v.s (launchOf v.s v.g.launch).part).specs a.spec).rcd
  | none => 0

/-- The state form's first register, checked (R201). -/
def stateReg (o : OpAfMem) (v : View) : Sem Nat := do
  let l := stateSize v
  let n := o.off.toNat / 4
  check ((threadOf v.g v.lane).act.isSome && o.off.toNat % 64 = 0 && o.off.toNat ≤ 192 && n + 16 ≤ l)
    cIllegalOp
  pure n

/-- The state form of `AFLD`: state words into the affine register (R201). -/
def semAfldState (o : OpAfMem) (v : View) : Sem Eff := do
  let n ← stateReg o v
  let ws ← (List.range 16).mapM (fun i => readRaw v (.v (finOf 256 (n + i))))
  pure { regs := writeRun (afBase o.r) .af ws }

/-- The state form of `AFST` (R201). -/
def semAfstState (o : OpAfMem) (v : View) : Sem Eff := do
  let n ← stateReg o v
  let ws ← readAfRun v (afBase o.r) 16
  pure { regs := writeRun n .af ws }

/-- A quarter of a run of pieces: the bytes from `off` on, `n` of them. -/
def cutPieces : List (Nat × Nat) → Nat → Nat → List (Nat × Nat)
  | [], _, _ => []
  | (pa, k) :: rest, off, n =>
    if n = 0 then []
    else if k ≤ off then cutPieces rest (off - k) n
    else (pa + off, min n (k - off)) :: cutPieces rest 0 (n - min n (k - off))

/-- Quarter `q` of a resolved 64-byte access (R200). -/
def quarterSpot (x : Spot) (q : Nat) : Spot :=
  { x with
    va := x.va + BitVec.ofNat 64 (16 * q)
    place := match x.place with
      | .phys ps => .phys (cutPieces ps (16 * q) 16)
      | .scratch b pos off _ => .scratch b pos (off + 16 * q) 16 }

/-- The four 16-byte accesses of each resolved lane, in ascending address order (R200). -/
def quarterSpots (xs : List Spot) : List (Spot × Nat) :=
  xs.flatMap (fun x => (List.range 4).map (fun q => (quarterSpot x q, q)))

/-- The loads of `AFLD`: each quarter is an access of its own (R200). -/
def issueAfLoads (c : Ctx) (s : State) (o : OpAfMem) (fl : Map LaneRes) (xs : List Spot) : State :=
  let qs := quarterSpots xs
  whenFree c s (qs.map Prod.fst) (fun s =>
    issueAccesses (commitLanes c s fl) c.g.core (qs.map (fun x =>
      { loadAccess c s false o.sc o.ord .b128 (afBase o.r + 4 * x.2) x.1 with af := true })))

/-- `AFLD` (R200, R201). -/
def execAfld (o : OpAfMem) (s : State) : Out :=
  match o.ab with
  | .reg r =>
    withGang (.afld o) s (fun c => .next (
      withOperands c s o.pred (useAf o.r ++ useReg r 2) (fun v => readGeneric v o.ab o.off) (fun rs =>
        withSpots c s (resolve s c false 64 .read (rs.map (fun r => (r.1, r.2.1)))) (fun xs =>
          issueAfLoads c s o (flagsOnly rs) xs)) (m := .free)))
  | _ => runRegs (.afld o) false o.pred (useAf o.r) (semAfldState o) s

/-- The operands of `AFST`. -/
def readAfst (o : OpAfMem) (v : View) : Sem (DWord × Nat) := do
  let a ← readGeneric v o.ab o.off
  let ws ← readAfRun v (afBase o.r) 16
  pure (a, joinWords ws)

/-- The stores of `AFST` past its operands: four accesses of each lane in ascending address order (R200). -/
def issueAfStores (c : Ctx) (s : State) (o : OpAfMem) (rs : Map ((DWord × Nat) × Flags × Flags))
    (xs : List Spot) : State :=
  let qs := (quarterSpots xs).map (fun x =>
    (x.1, ((mfind rs x.1.lane).map (fun r => r.1.2)).getD 0 / 2 ^ (128 * x.2) % 2 ^ 128))
  let go (s : State) : State :=
    whenFree c s (qs.map Prod.fst) (fun s => performStores c s o.sc o.ord 16 qs (flagsOnly rs))
  if releases o.ord then whenQuiet c s (xs.map (fun x => x.lane)) go else go s

/-- `AFST` (R200, R201). -/
def execAfst (o : OpAfMem) (s : State) : Out :=
  match o.ab with
  | .reg r =>
    withGang (.afst o) s (fun c => .next (
      withOperands c s o.pred (useAf o.r ++ useReg r 2) (readAfst o) (fun rs =>
        withSpots c s (resolve s c false 64 .write (rs.map (fun r => (r.1, r.2.1.1)))) (fun xs =>
          issueAfStores c s o rs xs)) (m := .kill)))
  | _ => runRegs (.afst o) false o.pred (useAf o.r) (semAfstState o) s

end Sys2Proof.Machine
end

