-- ==== Sys2Proof/Machine/Network.lean ====
section
/-! DEFINITION. The network engine: `NSEND`, `NRECV`, `NCTR`, and packets, acknowledgements, losses and
connection requests (R323..R327, R364, R365, R423, R460, R468). -/

namespace Sys2Proof.Machine

/-! ## Work requests (R323, R324) -/

/-- The fields of a work request, by name. -/
def wrCtr (r : BitVec 512) : Nat := bitsOf r 383 320
def wrRkey (r : BitVec 512) : Nat := bitsOf r 287 256
def wrRaddr (r : BitVec 512) : Nat := bitsOf r 255 192
def wrTag (r : BitVec 512) : Nat := bitsOf r 191 160
def wrLen (r : BitVec 512) : Nat := bitsOf r 159 128
def wrLaddr (r : BitVec 512) : Nat := bitsOf r 127 64
def wrPktlog (r : BitVec 512) : Nat := bitsOf r 51 48
def wrPeer (r : BitVec 512) : Nat := bitsOf r 47 32
def wrPort (r : BitVec 512) : Nat := bitsOf r 27 24
def wrSpray (r : BitVec 512) : Nat := bitsOf r 23 22
def wrDel (r : BitVec 512) : Nat := bitsOf r 21 20
def wrOp (r : BitVec 512) : Nat := bitsOf r 19 16

/-- The bits of a work request that must be zero. -/
def wrMbz (r : BitVec 512) : Nat :=
  bitsOf r 511 384 + bitsOf r 319 288 + bitsOf r 63 52 + bitsOf r 31 28

/-- Whether a request is accepted under `NSEND`, or under `NRECV` (R324). -/
def requestOk (s : State) (part : Nat) (recv : Bool) (r : BitVec 512) : Bool :=
  bitsOf r 15 0 == 0x0100 && wrMbz r == 0 && (if recv then wrOp r == 3 else wrOp r ≤ 2) &&
  (wrDel r == 0 || (wrDel r == 1 && (wrOp r == 1 || wrOp r == 2))) &&
  (partOf s part).slices.getLsbD (wrPort r) && wrLen r != 0 && 10 ≤ wrPktlog r && wrPktlog r ≤ 12 &&
  wrCtr r % 8 == 0 && wrCtr r < 2 ^ 56 && wrLaddr r < 2 ^ 56

/-! ## Counters and the ends of messages (R326, R327) -/

/-- The counts of R327 that a port keeps for a partition: 0 sent, 1 received, 2 retransmitted, 3
acknowledgements, 6 refusals, 7 failures. -/
def countKey (part sel : Nat) : Nat := part * 16 + sel

/-- A count of a port raised by one. -/
def bump (s : State) (slice part sel : Nat) : State :=
  modSlice s slice (fun x =>
    let k := countKey part sel
    { x with counts := mset 0 x.counts k ((mget 0 x.counts k + 1) % 2 ^ 64) })

/-- The counter of a message raised by one, and its sticky bit 63 set where the message failed (R326). -/
def raiseMsg (s : State) (m : NetMsg) (failed : Bool) : State :=
  let a := wrCtr m.req
  if a = 0 then s
  else
    match unitAcquire s m.part m.asid m.level a 8, xlateDirect s m.part m.asid m.level a .write with
    | (s, some v), some (pa, _) =>
      let n := (v + 1) % 2 ^ 64
      writeMem s pa (bytesOf 8 (if failed then Nat.lor n (2 ^ 63) else n))
    | (s, _), _ => s

/-- A message that fails (R326): its counter is raised with the error bit and the slice error queue
receives a record. -/
def failMsg (s : State) (slice : Nat) (m : NetMsg) (cause : ErrCause) : State :=
  let s := raiseMsg s m true
  errorRecord (bump s slice m.part 7) slice cause m.addr.toNat

/-- A posted message leaves its port's send queue. -/
def dropSend (s : State) (slice id : Nat) : State :=
  modSlice s slice (fun x => { x with sendq := x.sendq.filter (fun m => m.id ≠ id) })

/-- A change of a posted message. -/
def modSend (s : State) (slice id : Nat) (f : NetMsg → NetMsg) : State :=
  modSlice s slice (fun x => { x with sendq := modFirst (fun m => m.id == id) f x.sendq })

/-! ## NSEND and NRECV (R324) -/

/-- Whether a peer-table entry can be used (R468). -/
def peerOk (e : BitVec 128) : Bool := bitsOf e 0 0 == 1 && bitsOf e 63 1 == 0 && bitsOf e 71 64 != 0

/-- A message from a request that a group posts: the peer's entry is read now (R468). -/
def msgOf (s : State) (g : Group) (r : BitVec 512) (addr : DWord) : NetMsg :=
  let l := launchOf s g.launch
  let e := mget 0#128 (sliceOf s (wrPort r)).peers (wrPeer r)
  { id := s.nextId, part := l.part, asid := l.asid, level := l.level, budget := l.budget, req := r
    addr := addr, dfa := bitsOf e 127 96, jobid := bitsOf e 95 72, retry := bitsOf e 71 64 }

/-- The request at a place, as a group reads it. -/
def requestAt (s : State) (gid : Nat) (x : Spot) : BitVec 512 :=
  BitVec.ofNat 512 (readPlace s (groupOf s gid) x.place 64)

/-- One request posted to its port. -/
def postRequest (c : Ctx) (recv : Bool) (s : State) (x : Spot) : State :=
  let s := visible s c.g.block
  let r := requestAt s c.gid x
  let m := msgOf s (groupOf s c.gid) r x.va
  let s := { s with nextId := s.nextId + 1 }
  if recv then modSlice s (wrPort r) (fun y => { y with recvq := y.recvq ++ [m] })
  else if peerOk (mget 0#128 (sliceOf s (wrPort r)).peers (wrPeer r)) then
    modSlice s (wrPort r) (fun y => { y with sendq := y.sendq ++ [m] })
  else failMsg s (wrPort r) m .netFailure

/-- Whether a request's port has no room for it. -/
def portFull (c : Ctx) (recv : Bool) (s : State) (x : Spot) : Bool :=
  let y := sliceOf s (wrPort (requestAt s c.gid x))
  (if recv then y.recvq.length else y.sendq.length) ≥ 4096

/-- `NSEND` and `NRECV`: every request is checked before any is posted. -/
def issuePosts (i : Instr) (o : OpR) (recv : Bool) (s : State) : Out :=
  withGang i s (fun c => .next (
    withOperands c s o.pred (useReg o.a 2) (fun v => readPair v o.a) (fun rs =>
      withSpots c s (resolveGlobal s c false 64 .read (rs.map (fun r => (r.1, r.2.1)))) (fun xs =>
        unpoisoned c s xs (fun s =>
          let bad := xs.filter (fun x => !requestOk s (launchOf s c.g.launch).part recv (requestAt s c.gid x))
          match bad.map (fun x => x.lane) with
          | l :: ls => trapLanes c s cIllegalOp (l :: ls)
          | [] =>
            whenPerformed c s (fun s =>
              postLanes c rs (portFull c recv) (postRequest c recv) xs (passLanes c s o.pred)))))))

/-- `NSEND` (R324). -/
def execNsend (o : OpR) (s : State) : Out := issuePosts (.nsend o) o false s

/-- `NRECV` (R324). -/
def execNrecv (o : OpR) (s : State) : Out := issuePosts (.nrecv o) o true s

/-! ## NCTR (R327) -/

/-- A count of a port for a partition. -/
def portCount (s : State) (slice part sel : Nat) : Nat :=
  let x := sliceOf s slice
  match sel with
  | 4 => (x.sendq.filter (fun m => m.part == part)).length
  | 5 => (x.recvq.filter (fun m => m.part == part)).length +
      (x.inbound.filter (fun m => m.recv.any (fun r => r.part == part) &&
        m.placed.length * 2 ^ m.pktlog < m.len)).length
  | n => mget 0 x.counts (countKey part n)

/-- `NCTR` of a thread. -/
def semNctr (o : OpNctr) (v : View) : Sem Eff := do
  let part := (launchOf v.s v.g.launch).part
  check ((partOf v.s part).slices.getLsbD o.port.val) cIllegalOp
  pure (writeEff o.a .n64 (portCount v.s o.port.val part o.sel.val))

/-- `NCTR` (R327). -/
def execNctr (o : OpNctr) (s : State) : Out :=
  runRegs (.nctr o) (isK o.a) o.pred (useReg o.a 2) (semNctr o) s

/-! ## Sending (R325, R460) -/

/-- Packets of a message of a length: a read request has one. -/
def packetCount (len pktlog : Nat) : Nat := (len + 2 ^ pktlog - 1) / 2 ^ pktlog

/-- Packets that a posted message transmits. -/
def sendPackets (m : NetMsg) : Nat :=
  if wrOp m.req = 2 then 1 else packetCount (wrLen m.req) (wrPktlog m.req)

/-- The payload length of packet `k` of a message. -/
def payloadLen (m : NetMsg) (k : Nat) : Nat :=
  if wrOp m.req = 2 then 0
  else min (2 ^ wrPktlog m.req) (wrLen m.req - k * 2 ^ wrPktlog m.req)

/-- A change of an answer to a read request. -/
def modAnswer (s : State) (slice id : Nat) (f : Answer → Answer) : State :=
  modSlice s slice (fun x => { x with answers := modFirst (fun a => a.id == id) f x.answers })

/-- A packet of the data that answer a read request leaves on its path (R325, R460). -/
def transmitAnswer (slice id k : Nat) (s : State) : Out :=
  match (sliceOf s slice).answers.find? (fun a => a.id == id) with
  | none => notEnabled
  | some a =>
    let n := mget 0 a.sent k
    if k ≥ packetCount a.len a.pktlog ∨ a.acked.contains k = true ∨ (n ≠ 0 ∧ a.lost.contains k = false) ∨
        exhausted (budgetOf s a.part a.budget) .net = true then notEnabled
    else
      let off := k * 2 ^ a.pktlog
      let len := min (2 ^ a.pktlog) (a.len - off)
      match unitBytes s a.part a.asid 0 (a.va + off) len with
      | none => notEnabled
      | some x =>
        let s := modAnswer s slice id (fun a =>
          { a with sent := mput a.sent k (n + 1), lost := a.lost.filter (fun j => j ≠ k) })
        let s := bump s slice a.part 0
        let s := if n = 0 then s else bump s slice a.part 2
        let s := chargeEntry s a.part a.budget .net len
        .next { s with outbox := s.outbox ++
          [.readData slice a.dfa a.jobid a.msg k ((k + n) % 2 ^ a.spray) (bytesOf len x)] }

/-- `PACKET_TRANSMISSION` (R325, R460): a packet that has not been sent, or that is lost, leaves on its
path; an exhausted network budget holds it (R320). -/
def execPacketTransmission (slice msg k : Nat) (s : State) : Out :=
  match (sliceOf s slice).sendq.find? (fun m => m.id == msg) with
  | none => transmitAnswer slice msg k s
  | some m =>
    let n := mget 0 m.sent k
    if k ≥ sendPackets m ∨ m.acked.contains k = true ∨ (n ≠ 0 ∧ m.lost.contains k = false) ∨
        exhausted (budgetOf s m.part m.budget) .net = true then notEnabled
    else
      let len := payloadLen m k
      let data := if len = 0 then some 0
        else unitBytes s m.part m.asid m.level (wrLaddr m.req + k * 2 ^ wrPktlog m.req) len
      match data with
      | none => notEnabled
      | some x =>
        let path := (k + n) % 2 ^ wrSpray m.req
        let s := modSend s slice msg (fun m =>
          { m with sent := mput m.sent k (n + 1), lost := m.lost.filter (fun j => j ≠ k) })
        let s := if wrOp m.req = 2 then s else bump s slice m.part 0
        let s := if n = 0 then s else bump s slice m.part 2
        let s := chargeEntry s m.part m.budget .net len
        .next { s with outbox := s.outbox ++ [.packet slice m.dfa m.jobid msg m.req k path (bytesOf len x)] }

/-- Whether a message is done on the sender's side: every packet acknowledged, or, for a read, every
byte placed. -/
def sendDone (m : NetMsg) : Bool :=
  if wrOp m.req = 2 then
    (List.range (packetCount (wrLen m.req) (wrPktlog m.req))).all m.placed.contains
  else (List.range (sendPackets m)).all m.acked.contains

/-- A message completed: its counter is raised once (R326). -/
def finishSend (s : State) (slice msg : Nat) : State :=
  match (sliceOf s slice).sendq.find? (fun m => m.id == msg) with
  | none => s
  | some m => if sendDone m then raiseMsg (dropSend s slice msg) m false else s

/-- A packet declared lost: it is to be resent, or its message fails (R468) (log 51, DEDUCED). -/
def losePacket (slice msg : Nat) (s : State) (k : Nat) : State :=
  match (sliceOf s slice).sendq.find? (fun m => m.id == msg) with
  | none => s
  | some m =>
    if mget 0 m.sent k = 0 ∨ m.acked.contains k ∨ m.lost.contains k then s
    else if mget 0 m.sent k ≥ m.retry + 1 then failMsg (dropSend s slice msg) slice m .netFailure
    else modSend s slice msg (fun m => { m with lost := insertNat k m.lost })

/-- A packet of an answer declared lost. -/
def loseAnswer (slice id : Nat) (s : State) (k : Nat) : State :=
  modAnswer s slice id (fun a =>
    if mget 0 a.sent k = 0 ∨ a.acked.contains k then a else { a with lost := insertNat k a.lost })

/-- Packets of an answer acknowledged; it is over with the last. -/
def ackAnswer (s : State) (slice id : Nat) (packets : List Nat) : State :=
  let got (a : Answer) : List Nat := packets.filter (fun k => mget 0 a.sent k != 0)
  let s := modAnswer s slice id (fun a =>
    { a with acked := (got a).foldl (fun l k => insertNat k l) a.acked
             lost := a.lost.filter (fun k => !(got a).contains k) })
  modSlice s slice (fun x =>
    { x with answers := x.answers.filter (fun a =>
        a.id != id || !(List.range (packetCount a.len a.pktlog)).all a.acked.contains) })

/-- `SELECTIVE_ACK_ARRIVAL` (R325, R460): an acknowledgement names the packets placed so far; a
no-buffer refusal declares the packets it names lost. -/
def execSelectiveAckArrival (slice msg : Nat) (packets : List Nat) (noBuffer : Bool) (s : State) : Out :=
  match (sliceOf s slice).sendq.find? (fun m => m.id == msg) with
  | none =>
    match (sliceOf s slice).answers.find? (fun a => a.id == msg) with
    | none => notEnabled
    | some a =>
      if noBuffer then .next (packets.foldl (loseAnswer slice msg) s)
      else .next (ackAnswer (bump s slice a.part 3) slice msg packets)
  | some m =>
    if noBuffer then .next (packets.foldl (losePacket slice msg) s)
    else
      let got := packets.filter (fun k => mget 0 m.sent k != 0)
      let s := bump s slice m.part 3
      let s := modSend s slice msg (fun m =>
        { m with acked := got.foldl (fun l k => insertNat k l) m.acked
                 lost := m.lost.filter (fun k => !got.contains k) })
      .next (finishSend s slice msg)

/-- `LOSS_DETECTION` (R460, R468). -/
def execLossDetection (slice msg k : Nat) (s : State) : Out :=
  match (sliceOf s slice).sendq.find? (fun m => m.id == msg) with
  | none =>
    match (sliceOf s slice).answers.find? (fun a => a.id == msg) with
    | none => notEnabled
    | some a =>
      if mget 0 a.sent k = 0 ∨ a.acked.contains k = true ∨ a.lost.contains k = true then notEnabled
      else .next (loseAnswer slice msg s k)
  | some m =>
    if mget 0 m.sent k = 0 ∨ m.acked.contains k = true ∨ m.lost.contains k = true then notEnabled
    else .next (losePacket slice msg s k)

/-! ## Receiving (R325, R364, R365) -/

/-- The fields of a flow entry, by name. -/
def flAct (e : BitVec 256) : Nat := bitsOf e 87 84
def flTarget (e : BitVec 256) : Nat := bitsOf e 107 96
def flTenant (e : BitVec 256) : Nat := bitsOf e 95 88

/-- Whether a flow entry matches a message (R365). -/
def flowMatches (p : NetPacket) (e : BitVec 256) : Bool :=
  bitsOf e 0 0 == 1 && bitsOf e 15 1 + bitsOf e 83 80 + bitsOf e 135 108 == 0 && flAct e ≤ 3 &&
  bitsOf e 191 160 == p.dfa && bitsOf e 159 136 == p.jobid &&
  Nat.land (Nat.xor (bitsOf e 223 192) p.tag) (bitsOf e 255 224) == 0

/-- The lowest-numbered flow entry that matches. -/
def matchFlow (s : State) (slice : Nat) (p : NetPacket) : Option (Nat × BitVec 256) :=
  (sliceOf s slice).flows.find? (fun f => flowMatches p f.2)

/-- A packet turned away with a negative acknowledgement. -/
def rejectPacket (s : State) (slice : Nat) (p : NetPacket) : State :=
  { s with outbox := s.outbox ++ [.nack slice p.dfa p.jobid p.msg p.k] }

/-- A no-buffer refusal of a packet, which `.nack` counts (R327, R460). -/
def refusePacket (s : State) (slice part : Nat) (p : NetPacket) : State := rejectPacket (bump s slice part 6) slice p

/-- The message that an arriving packet of a send begins, matched against the flow table (R365): every later packet
follows this match. -/
def beginInbound (s : State) (slice : Nat) (p : NetPacket) : State × Inbound :=
  let base : Inbound := { dfa := p.dfa, jobid := p.jobid, msg := p.msg, tag := p.tag, len := p.len
                          pktlog := p.pktlog }
  match matchFlow s slice p with
  | none => (s, base)
  | some (n, e) =>
    (modSlice s slice (fun x => { x with flows := mput x.flows n (putBits e 79 16 (bitsOf e 79 16 + 1)) }),
     { base with act := flAct e, target := flTarget e, tenant := flTenant e })

/-- A run of bytes cut at the 64-byte boundaries of its address. -/
def linePieces (va : Nat) (bs : List Byte) : List (Nat × List Byte) :=
  (List.range ((va % 64 + bs.length + 63) / 64)).map (fun q =>
    let lo := 64 * q - va % 64
    (va + lo, (bs.drop lo).take (64 * (q + 1) - va % 64 - lo)))

/-- A run of bytes written at a virtual address by the network engine: each piece of a line is written at once
(R325). -/
def placeBytes (s : State) (part asid level va : Nat) (bs : List Byte) : State :=
  match mapPages s part asid level .write (pagesOf va (max 1 bs.length)) with
  | none => s
  | some m => (linePieces va bs).foldl (fun s x =>
      writeMem (noteStales s (pageByte m x.1) x.2.length) (pageByte m x.1) x.2) s

/-- A packet of a message placed at its offset: in the matched receive, of which no byte past its LEN is
written, or among the message's bytes. -/
def placePacket (s : State) (x : Inbound) (p : NetPacket) : State × Inbound :=
  let off := p.k * 2 ^ x.pktlog
  let x := { x with placed := insertNat p.k x.placed }
  match x.recv with
  | some m =>
    (placeBytes s m.part m.asid m.level (wrLaddr m.req + off) (p.payload.take (wrLen m.req - off)), x)
  | none => (s, { x with bytes := putBytes x.bytes off p.payload })

/-- Whether every packet of a message has been placed. -/
def inboundDone (x : Inbound) : Bool := (List.range (packetCount x.len x.pktlog)).all x.placed.contains

/-- The bytes of a complete message from an offset on. -/
def inboundBytes (x : Inbound) (off n : Nat) : Nat := readN (fun a => mget 0#8 x.bytes a) off n

/-- Command packets put into a queue's ring, and the notify that follows (R365). -/
def pushQueue (s : State) (slice part q : Nat) (x : Inbound) : State :=
  let s := (List.range (x.len / 64)).foldl (fun s i =>
    let d := descOf s slice q
    let s := placeBytes s part (qdAsid d) (qdLevel d) (qdRing d + qdTail d % 2 ^ qdLog d * 64)
      (bytesOf 64 (inboundBytes x (64 * i) 64))
    modSlice s slice (fun y =>
      { y with queues := mset 0#512 y.queues q (putBits d 191 160 (qdTail d + 1)) })) s
  if qdOk (descOf s slice q) then notifyQueue s slice q else errorRecord s slice .badNotify q

/-- Records put into a stream, in ascending offset (R332); a stream that is not installed as a network
flow receives nothing. -/
def pushStream (s : State) (part n : Nat) (x : Inbound) : State :=
  match streamOf s part n with
  | some st =>
    if st.src = 1 then
      let rs := (List.range (x.len / 64)).map (fun i => recordOf (inboundBytes x (64 * i) 64))
      modPart s part (fun p =>
        { p with streams := mput p.streams n { st with pending := st.pending ++ rs } })
    else s
  | none => s

/-- A complete message: the receive's counter is raised, with the error of a send longer than its buffer
(R326), or its payload goes to the stream or the queue. -/
def finishInbound (s : State) (slice part : Nat) (x : Inbound) : State :=
  match x.recv with
  | some m =>
    if x.len > wrLen m.req then failMsg s slice m .truncation else raiseMsg s m false
  | none => if x.act = 1 then pushStream s part x.target x else pushQueue s slice part x.target x

/-- The budget entry charged for an arriving message (R320, R364): that of its receive, or the one that
bears its tenant's number (log 13, DEDUCED). -/
def inboundEntry (x : Inbound) : Nat := (x.recv.map (fun m => m.budget)).getD x.tenant

/-- An acknowledgement, held back while the entry is exhausted (R320). -/
def ackLate (s : State) (slice part entry : Nat) (a : OutMsg) : State :=
  if exhausted (budgetOf s part entry) .net then
    modSlice (noteEntry s part entry) slice (fun y => { y with owed := y.owed ++ [a] })
  else { s with outbox := s.outbox ++ [a] }

/-- An acknowledgement of a message: it names the packets placed so far (R460). -/
def sendAck (s : State) (slice part : Nat) (x : Inbound) : State :=
  ackLate s slice part (inboundEntry x) (.ack slice x.dfa x.jobid x.msg x.placed)

/-- The payload of an arriving packet charged to an entry: network bytes, and the lines of HBM that it is placed in
(R320). -/
def chargeArrival (s : State) (part entry : Nat) (p : NetPacket) : State :=
  chargeLines (chargeEntry s part entry .net p.payload.length) part entry (p.payload.length / 64 + 1)

/-- Whether an arriving message is that of a packet. -/
def sameMsg (p : NetPacket) (x : Inbound) : Bool := x.dfa == p.dfa && x.jobid == p.jobid && x.msg == p.msg

/-- A message that arrives, put in the place of its earlier state. -/
def putInbound (s : State) (slice : Nat) (p : NetPacket) (x : Inbound) : State :=
  let put (l : List Inbound) : List Inbound :=
    if l.any (sameMsg p) then modFirst (sameMsg p) (fun _ => x) l else l ++ [x]
  modSlice s slice (fun y => { y with inbound := put y.inbound })

/-- A packet of a message that has been matched: placed and acknowledged, or acknowledged and discarded
where its offset is already placed. -/
def takePacket (s : State) (slice part : Nat) (x : Inbound) (p : NetPacket) : State :=
  if x.placed.contains p.k then sendAck s slice part x
  else
    let (s, x) := placePacket s x p
    let s := putInbound (chargeArrival s part (inboundEntry x) p) slice p x
    sendAck (if inboundDone x then finishInbound s slice part x else s) slice part x

/-- A packet that follows the match of its message (R325, R365): one that is to be dropped is turned away, and one
for a receive is refused while the partition has posted none for its tag. -/
def followMatch (s : State) (slice part : Nat) (x : Inbound) (p : NetPacket) : State :=
  if x.act = 3 then rejectPacket s slice p
  else if x.act ≠ 0 ∨ x.recv.isSome = true then takePacket s slice part x p
  else
    match (sliceOf s slice).recvq.find? (fun m => m.part == part && wrTag m.req == x.tag) with
    | none => refusePacket s slice part p
    | some m =>
      takePacket (modSlice s slice (fun y => { y with recvq := y.recvq.filter (fun z => z.id ≠ m.id) })) slice part
        { x with recv := some m } p

/-- An arriving packet of a send (R325, R460). -/
def arriveSend (s : State) (slice part : Nat) (p : NetPacket) : State :=
  match (sliceOf s slice).inbound.find? (sameMsg p) with
  | some x => followMatch s slice part x p
  | none =>
    let (s, x) := beginInbound s slice p
    followMatch (putInbound s slice p x) slice part x p

/-- The entry charged for a transfer of a remote memory key (log 12, DESIGN CHOICE). -/
def keyEntry (key : Nat) : Nat := (Config.keyEntry key).toNat

/-- An arriving packet of a one-sided write: placed once at its offset in the memory of its key, which `tag` carries,
charged and acknowledged; memory that its key does not allow is refused (log 12, DESIGN CHOICE). -/
def arriveWrite (s : State) (slice part : Nat) (p : NetPacket) : State :=
  let x := ((sliceOf s slice).inbound.find? (sameMsg p)).getD
    { dfa := p.dfa, jobid := p.jobid, msg := p.msg, tag := p.tag, len := p.len, pktlog := p.pktlog, act := 4
      tenant := keyEntry p.tag }
  let va := (Config.keyBase p.tag).toNat + p.offset
  if x.placed.contains p.k then sendAck s slice part x
  else if (mapPages s part (Config.keyAsid p.tag) 0 .write (pagesOf va (max 1 p.payload.length))).isNone then
    rejectPacket s slice p
  else
    let s := placeBytes s part (Config.keyAsid p.tag) 0 va p.payload
    let x := { x with placed := insertNat p.k x.placed }
    sendAck (putInbound (chargeArrival s part x.tenant p) slice p x) slice part x

/-- An arriving read request: its data leave as packets (R325, R460); memory that its key does not allow is refused
(log 12, DESIGN CHOICE). A request that arrives again while it is answered adds nothing. -/
def arriveRead (s : State) (slice part : Nat) (p : NetPacket) : State :=
  let asid := Config.keyAsid p.tag
  let va := (Config.keyBase p.tag).toNat + p.offset
  if (sliceOf s slice).answers.any (fun a => a.dfa == p.dfa && a.jobid == p.jobid && a.msg == p.msg) then s
  else if (unitBytes s part asid 0 va p.len).isNone then rejectPacket s slice p
  else
    let a : Answer := { id := s.nextId, part := part, asid := asid, budget := keyEntry p.tag, dfa := p.dfa
                        jobid := p.jobid, msg := p.msg, va := va, len := p.len, pktlog := p.pktlog, spray := p.spray }
    modSlice { s with nextId := s.nextId + 1 } slice (fun y => { y with answers := y.answers ++ [a] })

/-- Arriving data of a read that this port has posted: placed once at LADDR and acknowledged (R325, R326). -/
def arriveData (s : State) (slice : Nat) (p : NetPacket) : State :=
  match (sliceOf s slice).sendq.find? (fun m => m.id == p.msg && wrOp m.req == 2) with
  | none => s
  | some m =>
    let placed := insertNat p.k m.placed
    let s :=
      if m.placed.contains p.k then s
      else
        let s := placeBytes s m.part m.asid m.level (wrLaddr m.req + p.k * 2 ^ wrPktlog m.req) p.payload
        let s := chargeArrival s m.part m.budget p
        modSend s slice p.msg (fun m => { m with placed := placed, acked := [0], lost := [] })
    finishSend (ackLate s slice m.part m.budget (.ack slice p.dfa p.jobid p.msg placed)) slice p.msg

/-- `NETWORK_PACKET_ARRIVAL` (R325, R365, R417): a packet reaches a port; the port of a slice that is in no
running partition, or is being moved, turns it away. -/
def execNetworkPacketArrival (slice : Nat) (p : NetPacket) (s : State) : Out :=
  match slicePart s slice with
  | none => .next (rejectPacket s slice p)
  | some part =>
    if (sliceOf s slice).barred then .next (rejectPacket s slice p)
    else
      let s := if p.kind = 2 then s else bump s slice part 1
      .next (match p.kind with
        | 0 => arriveSend s slice part p
        | 1 => arriveWrite s slice part p
        | 2 => arriveRead s slice part p
        | _ => arriveData s slice p)

/-- The delivery modes the device supports: RUD for a send, a write and a read, RUDI for a write and a
read; ROD and UUD for nothing (R423). -/
def deliveryServed (d : UetDelivery) (op : Nat) : Bool :=
  match d with
  | .rud => decide (op ≤ 2)
  | .rudi => op == 1 || op == 2
  | .rod => false
  | .uud => false

/-- Whether a connection request asks only for parts that the device supports (R423), in a version that both
sides accept (R427: this device's highest and lowest version are both 0x0100) (log 49, DEDUCED). -/
def connectionServed (r : ConnRequest) : Bool :=
  r.aiFull && deliveryServed r.delivery r.op && [1, 2, 4, 8].contains r.paths && !r.security &&
    [1024, 2048, 4096].contains r.payload && decide (r.lowest ≤ 0x0100) && decide (0x0100 ≤ r.highest)

/-- `CONNECTION_SETUP` (R423, R427): a peer that asks for an unsupported part is refused, and counted. -/
def execConnectionSetup (slice part : Nat) (r : ConnRequest) (s : State) : Out :=
  if slicePart s slice ≠ some part then notEnabled
  else if connectionServed r then .next s
  else
    let s := bump s slice part 7
    .next { s with outbox := s.outbox ++ [.refusal slice] }

end Sys2Proof.Machine
end

