-- ==== Sys2Proof/Machine/WindowInstr.lean ====
section
/-! DEFINITION. `EXIT`, and the instructions of window handlers: `WEND`, `WEMIT`, `WCLOSE`, `WPNLD`,
`WPNST` and `WFWD` (R45, R162, R345..R349). -/

namespace Sys2Proof.Machine

/-- The partition of a group. -/
def groupPart (s : State) (g : Group) : Nat := (launchOf s g.launch).part

/-- The spec of an activation. -/
def actSpec (s : State) (g : Group) (a : Activation) : BitVec 1024 :=
  ((specOf s (groupPart s g) a.spec).map (fun x => x.rcd)).getD 0#1024

/-- Threads ended (R23, R37): they leave every participation mask and split set. -/
def endLanes (c : Ctx) (s : State) (lanes : List Nat) : State :=
  modGroup s c.gid (fun g => modThreads g lanes (fun t =>
    { t with run := .ended, split := none, region := none, spin := none }))

/-- `EXIT` (R45, R162): each thread whose predicate is true ends; an activation ends without a commit. -/
def execExitT (p : Pred) (s : State) : Out :=
  withGang (.exitT p) s (fun c =>
    let act := activeLanes c p
    let s := advance c s (c.gang.filter (fun l => !act.contains l))
    let s := endLanes c s act
    .next (
      if act.isEmpty then s
      else if c.g.activation then
        endActLanes c.g s act
      else updateBars s c.g.block))

/-- A window instruction past its first check: outside an activation it raises the illegal-operation
fault (R345). -/
def inActivation (c : Ctx) (s : State) (p : Pred) (k : Unit → State) : State :=
  let act := activeLanes c p
  if act.isEmpty || c.g.activation then k () else trapLanes c s cIllegalOp act

/-- A window instruction whose fields are legal and whose registers are declared. -/
def withWindow {α : Type} [DecidableEq α] (i : Instr) (p : Pred) (us : List RegUse) (f : View → Sem α)
    (s : State) (k : Ctx → Map (α × Flags × Flags) → State) : Out :=
  withGang i s (fun c => .next (
    let act := activeLanes c p
    if !act.isEmpty && !usesOk s c.g us then trapLanes c s cRange act
    else inActivation c s p (fun _ => withOperands c s p us f (k c))))

/-- The state words of a thread: v0..v(L-1) with their tags. -/
def readState (v : View) : Sem (List Val) :=
  let l := spL (actSpec v.s v.g (actOf v.g v.lane))
  pure ((List.range l).map (fun i => mget {} v.rf.v i))

/-- `WEND` (R346): the activation commits, as a release at `.part`, and its thread ends. -/
def execWend (p : Pred) (s : State) : Out :=
  withWindow (.wend p) p [] readState s (fun c rs =>
    let act := rs.map Prod.fst
    whenQuiet c s act (fun s =>
      let s := advance c s (c.gang.filter (fun l => !act.contains l))
      let s := endLanes c s act
      rs.foldl (fun s r => commitActivation s (groupPart s c.g) (actOf c.g r.1) r.2.1)
        (discardPrivate s c.g act)))

/-- A change of the activation of a lane. -/
def modAct (c : Ctx) (s : State) (lane : Nat) (f : Activation → Activation) : State :=
  modGroup s c.gid (fun g => modThread g lane (fun t => { t with act := t.act.map f }))

/-- A register's bits, a void one's as 0, without a flag (R345). -/
def rawBits (x : Val) : Word := if x.tag = .void then 0#32 else x.bits

/-- A register pair read as raw bits (R345). -/
def rawPair (v : View) (r : Reg) : DWord := rawBits (readReg v (regPlus r 1)) ++ rawBits (readReg v r)

/-- The bits of a run of v registers. -/
def rawRun (v : View) (n len : Nat) : List Word :=
  (List.range len).map (fun i => rawBits (mget {} v.rf.v (n + i)))

/-- A record buffered by the lanes of a gang (R347). -/
def bufferEmits (c : Ctx) (s : State) (rs : Map (Emit × Flags × Flags)) : State :=
  let lanes := rs.map Prod.fst
  let s := rs.foldl (fun s r => modAct c s r.1 (fun a => { a with emits := a.emits ++ [r.2.1] })) s
  closeRegions c (markEffects c (advance c s c.gang) lanes) lanes

/-- What `WEMIT` buffers: the record, to the spec's output stream. -/
def readEmit (o : OpWemit) (v : View) : Sem Emit := do
  let a := actOf v.g v.lane
  let sp := actSpec v.s v.g a
  check (spOut sp) cIllegalOp
  check (a.emits.length < 16) cIllegalOp
  pure ⟨spOutStream sp, ⟨rawPair v o.key, rawPair v o.time, rawRun v o.first.val 12⟩⟩

/-- `WEMIT` (R347). -/
def execWemit (o : OpWemit) (s : State) : Out :=
  withWindow (.wemit o) o.pred (useReg o.key 2 ++ useReg o.time 2 ++ useV o.first.val 12) (readEmit o) s
    (fun c rs => bufferEmits c s rs)

/-- What `WFWD` buffers: the activation's own record, its key replaced unless KEEP is set. -/
def readFwd (o : OpWfwd) (v : View) : Sem Emit := do
  let a := actOf v.g v.lane
  let st := streamOf v.s (groupPart v.s v.g) o.stream.val
  check (a.kind != .close) cIllegalOp
  check (st.any (fun x => x.src == 3)) cIllegalOp
  check (a.emits.length < 16) cIllegalOp
  let r := a.rcd.getD {}
  pure ⟨o.stream.val, if o.keep then r else { r with key := rawPair v o.a }⟩

/-- `WFWD` (R347). -/
def execWfwd (o : OpWfwd) (s : State) : Out :=
  withWindow (.wfwd o) o.pred (if o.keep then [] else useReg o.a 2) (readFwd o) s
    (fun c rs => bufferEmits c s rs)

/-- `WCLOSE` (R348): it has no effect in a close, late or pane activation. -/
def execWclose (p : Pred) (s : State) : Out :=
  withWindow (.wclose p) p [] (fun _ => pure ()) s (fun c rs =>
    let flag (a : Activation) : Activation :=
      if a.kind = .close ∨ a.kind = .late ∨ a.isPane = true then a else { a with closeFlag := true }
    advance c (rs.foldl (fun s r => modAct c s r.1 flag) s) c.gang)

/-- The checks of `WPNLD` and `WPNST` (R348): the pane's index and L. -/
def readPane (o : OpPane) (v : View) : Sem (Nat × Nat) := do
  let a := actOf v.g v.lane
  let sp := actSpec v.s v.g a
  let j ← readN32 v o.b
  check (a.kind == .close && spPane sp) cIllegalOp
  check (j < spSize sp / spSlide sp) cIllegalOp
  check (regNum o.a + spL sp ≤ declaredV v.s v.g) cIllegalOp
  pure (j, spL sp)

/-- The committed state of a pane of a closing window; one that received no record reads 0, void. -/
def paneWords (s : State) (a : Activation) (sp : BitVec 1024) (j : Nat) : List Val :=
  let start := a.winStart.toInt + (j * spSlide sp : Nat)
  let w := (sliceOf s a.slice).windows.find? (fun w =>
    w.2.spec == a.spec && w.2.key == a.key && w.2.isPane && w.2.start == start)
  let ws := (w.map (fun w => w.2.words)).getD []
  (List.range (spL sp)).map (fun i => (ws[i]?).getD {})

/-- What `WPNLD` writes. -/
def semWpnld (o : OpPane) (v : View) : Sem Eff := do
  let (j, _) ← readPane o v
  let a := actOf v.g v.lane
  let ws := paneWords v.s a (actSpec v.s v.g a) j
  pure { regs := (List.range ws.length).zip ws |>.map (fun x => (regNum o.a + x.1, x.2)) }

/-- `WPNLD` (R348). -/
def execWpnld (o : OpPane) (s : State) : Out :=
  withGang (.wpnld o) s (fun c => .next (
    let us := useReg o.a ++ useSrc o.b
    let act := activeLanes c o.pred
    if !act.isEmpty && !usesOk s c.g us then trapLanes c s cRange act
    else inActivation c s o.pred (fun _ => runThreads c s o.pred us (semWpnld o))))

/-- What `WPNST` buffers: the pane's index and its new state. -/
def readWpnst (o : OpPane) (v : View) : Sem (Nat × List Val) := do
  let (j, l) ← readPane o v
  pure (j, (List.range l).map (fun i => mget {} v.rf.v (regNum o.a + i)))

/-- `WPNST` (R348). -/
def execWpnst (o : OpPane) (s : State) : Out :=
  withWindow (.wpnst o) o.pred (useReg o.a ++ useSrc o.b) (readWpnst o) s (fun c rs =>
    let s := rs.foldl (fun s r =>
      modAct c s r.1 (fun a => { a with panes := mput a.panes r.2.1.1 r.2.1.2 })) s
    commitLanes c s (flagsOnly rs))

end Sys2Proof.Machine
end

