-- ==== Sys2Proof/Machine/Traps.lean ====
section
/-! DEFINITION. The system instructions but `SYSC`: `TRAP`, `BKPT`, `ERET`, `NOPRE`, `MOVY`, `MOVYW` and
`TLBI` (R127, R386..R390, R393), and the events beside them. -/

namespace Sys2Proof.Machine

/-! ## TRAP and BKPT (R387) -/

/-- A trap that the threads of the gang whose predicate is true raise by themselves: it closes their
idempotent regions. -/
def raiseTrap (c : Ctx) (s : State) (p : Pred) (x : Cause) (skip : Bool) : State :=
  let act := activeLanes c p
  if act.isEmpty then advance c s c.gang else trapLanes c (closeRegions c s act) x act skip

/-- `TRAP` (R387): class 0x0F; the frame PC of the faulting lanes is the next word. -/
def execTrap (o : OpCode) (s : State) : Out :=
  withGang (.trap o) s (fun c =>
    .next (raiseTrap c s o.pred { cls := 0x0F, detail := some o.code.toNat } true))

/-- `BKPT` (R387): class 0x10; the frame PC is the `BKPT` itself. -/
def execBkpt (o : OpCode) (s : State) : Out :=
  withGang (.bkpt o) s (fun c =>
    .next (raiseTrap c s o.pred { cls := 0x10, detail := some o.code.toNat } false))

/-- The lanes of the gang that raised a fault go on past it, as `ERET.skip` has it (R387, R388). -/
def skipGang (f : FaultInfo) (g : Group) : Group := advanceLanes g (lanesOfMask f.gang)

/-- `PARKED_GROUP_RESOLUTION` (R387, R393): Mbotum resumes a group parked by a `BKPT` or by the end of
its no-pre-emption budget, or ends its launch. -/
def execParkedGroupResolution (gid : Nat) (resume : Bool) (s : State) : Out :=
  match mfind s.groups gid with
  | none => notEnabled
  | some g =>
    let f := g.fault.getD {}
    match g.park with
    | .bkpt =>
      .next (if resume then modGroup s gid (fun g => { skipGang f g with park := .none, fault := none })
        else finishLaunch s g.launch .killed 0)
    | .budget =>
      .next (if resume then modGroup s gid (fun g => { g with park := .none, fault := none })
        else finishLaunch s g.launch .failed (causeCode f))
    | _ => notEnabled

/-! ## ERET (R388) -/

/-- What physical memory and the cores of a group's quad hold on some pages, as the group's threads read
it. -/
def pagesTable (s : State) (g : Group) (pages : Map Nat) : Map Byte :=
  let on (a : Nat) : Bool := pages.any (fun p => p.2 ≤ a && a < p.2 + 4096)
  (g.core :: quadCores s g.core).reverse.foldl (fun m c =>
    (mfilter (fun a _ => on a) (coreOf s c).held).foldl (fun m b => mput m b.1 b.2) m)
    (mfilter (fun a _ => on a) s.mem)

/-- The 32-bit words of a group's frame, by byte offset; none where a page of it does not translate. -/
def readFrame (s : State) (g : Group) : Option (Nat → Nat) :=
  let l := launchOf s g.launch
  let base := g.trapframe.toNat
  (mapPages s l.part l.asid l.level .read (pagesOf base frameBytes)).map (fun pages =>
    let m := pagesTable s g pages
    fun off => readN (fun a => mget memDefault m (pageByte pages a)) (base + off) 4)

/-- Several words of a frame joined, the first least significant. -/
def frameRun (w : Nat → Nat) (off n : Nat) : Nat := joinWords ((List.range n).map (fun i => w (off + 4 * i)))

/-- A register row or run of a frame: registers by number, from where their words and tags stand. -/
def frameRegs (n : Nat) (bits tags : Nat → Nat) (ok : Tag → Bool) : Map Val :=
  (List.range n).filterMap (fun i =>
    let t := tagOf (tags (i / 8) / 16 ^ (i % 8) % 16)
    let v : Val := ⟨BitVec.ofNat 32 (bits i), if ok t then t else .void⟩
    if v = {} then none else some (i, v))

/-- A lane's registers as a frame has them, over those it has (R383, R388). -/
def frameFile (w : Nat → Nat) (nv lane : Nat) (rf : RegFile) : RegFile :=
  let at_ (row : Nat) : Nat := w (row * 512 + 4 * lane)
  { rf with
    v := frameRegs nv at_ (fun j => at_ (256 + j)) (fun _ => true)
    p := BitVec.ofNat 7 (at_ 290), fp := BitVec.ofNat 7 (at_ 293)
    ix0 := BitVec.ofNat 16 (at_ 291), ix1 := BitVec.ofNat 16 (at_ 291 / 2 ^ 16)
    ix2 := BitVec.ofNat 16 (at_ 292), ix3 := BitVec.ofNat 16 (at_ 292 / 2 ^ 16) }

/-- A lane's split record in a frame; one of zeros is none. -/
def frameSplit (w : Nat → Nat) (lane : Nat) : Option Split :=
  let at_ (row : Nat) : Nat := w (row * 512 + 4 * lane)
  let hdr := at_ 294 + at_ 295 * 2 ^ 32
  let set := joinWords ((List.range 4).map (fun i => at_ (296 + i)))
  if hdr = 0 ∧ set = 0 then none else some ⟨BitVec.ofNat 64 hdr, BitVec.ofNat 128 set⟩

/-- A lane's PC in a frame: past the instruction for the lanes of the trapping gang with SKIP. -/
def framePc (w : Nat → Nat) (skip : Bool) (lane : Nat) : DWord :=
  let at_ (row : Nat) : Nat := w (row * 512 + 4 * lane)
  let pc := BitVec.ofNat 64 (at_ 288 + at_ 289 * 2 ^ 32)
  if skip && (at_ 290).testBit 9 then pc + 8#64 else pc

/-- One thread after `ERET`. -/
def eretThread (w : Nat → Nat) (rd : DWord → Option DWord) (skip : Bool) (nv lane : Nat) (t : Thread) :
    Thread :=
  if t.run = .ended then t
  else if (w (290 * 512 + 4 * lane)).testBit 7 then
    { t with run := .ended, split := none, region := none, spin := none }
  else
    let rf := frameFile w nv lane t.rf
    resumeAt rd (framePc w skip lane)
      { t with
        rf := rf, shadow := t.shadow.map (fun _ => rf), run := .ready, demote := 0, spin := none
        split := frameSplit w lane }

/-- A replay entry of a frame (R385). -/
def frameReplay (w : Nat → Nat) (e : Nat) : Replay :=
  let a := 310 * 512 + 64 * e
  let mask := BitVec.ofNat 128 (frameRun w (a + 32) 4)
  { word := BitVec.ofNat 64 (frameRun w a 2), pc := BitVec.ofNat 64 (frameRun w (a + 8) 2)
    gang := BitVec.ofNat 128 (frameRun w (a + 16) 4), mask := mask, state := BitVec.ofNat 32 (w (a + 48))
    operands := (lanesOfMask mask).map (fun l =>
      (l, (List.range 8).map (fun j => BitVec.ofNat 32 (w ((312 + 8 * e + j) * 512 + 4 * l))))) }

/-- The entries that are issued again, in order. -/
def frameReplays (w : Nat → Nat) : List Replay :=
  ((List.range (min 16 (w (309 * 512 + 40)))).map (frameReplay w)).filter (fun r => r.state != 1#32)

/-- A group after `ERET`: everything the frame gives back. A k register holds no affine word. -/
def eretGroup (w : Nat → Nat) (rd : DWord → Option DWord) (skip : Bool) (nv nk : Nat) (g : Group) : Group :=
  let uni : UniFile :=
    { k := frameRegs nk (fun i => w (300 * 512 + 4 * i)) (fun j => w (308 * 512 + 4 * j)) (fun t => t != .af)
      q := BitVec.ofNat 7 (w (309 * 512)) }
  { mapThreads g (eretThread w rd skip nv) with
    uni := uni, uniShadow := uni, progress := w (309 * 512 + 12), replay := frameReplays w
    trapframe := 0#64, trapcause := 0#32 }

/-- The group's threads that `ERET` ends: an activation ends without a commit, and barriers no longer
wait for them. -/
def eretEnds (s : State) (gid : Nat) (before : Group) : State :=
  let g := groupOf s gid
  let gone := (liveLanes before).filter (fun l => (threadOf g l).run == .ended)
  if gone.isEmpty then s
  else if g.activation then endActLanes before s gone
  else updateBars s g.block

/-- `ERET` (R388): legal only in a handler; it waits for the group's accesses, and restores the whole
group from its frame. -/
def execEret (skip : Bool) (s : State) : Out :=
  withGang (.eret skip) s (fun c => .next (
    if c.g.trapframe = 0#64 then trapLanes c s cMisuse c.gang
    else
      whenQuiet c s (liveLanes c.g) (fun s =>
        (readFrame s c.g).elim (trapLanes c s (cTranslation (BitVec.ofNat 64 (framePage s c.g * 4096))) c.gang)
          (fun w =>
            let l := c.launch s
            let rd := unitFetch s l.part l.asid l.level
            let s := leaveWakes s c.g
            let s := modGroup s c.gid (eretGroup w rd skip (declaredV s c.g) (declaredK s c.g))
            eretEnds s c.gid c.g))))

/-! ## NOPRE (R393) -/

/-- `NOPRE.enter` and `NOPRE.leave` (R393): a region's end is fixed when it begins. -/
def execNopre (leave : Bool) (s : State) : Out :=
  withGang (.nopre leave) s (fun c =>
    let s := advance c s c.gang
    .next (modGroup s c.gid (fun g =>
      if leave then { g with nopre := none }
      else if g.nopre.isSome then g
      else { g with nopre := some (nowNs s + (launchOf s g.launch).nopreBudget) })))

/-- `NOPRE_BUDGET_EXPIRY` (R393): a region past its budget ends, and its group parks for Mbotum; one that is parked
already stays parked as it is (log 28, DEDUCED). -/
def execNopreBudgetExpiry (gid : Nat) (s : State) : Out :=
  match mfind s.groups gid with
  | none => notEnabled
  | some g =>
    match g.nopre with
    | none => notEnabled
    | some t =>
      if nowNs s ≤ t then notEnabled
      else .next (modGroup s gid (fun g =>
        if g.park = .none then { g with nopre := none, park := .budget, fault := some { cls := 0x11 } }
        else { g with nopre := none }))

/-! ## MOVY and MOVYW (R127, R389) -/

/-- The level that a read of a system register needs (R127). -/
def readLevel : SysReg → Nat
  | .gentag => 1
  | _ => 0

/-- The level that a write of a system register needs (R127). -/
def writeLevel : SysReg → Nat
  | .fpclear => 0
  | _ => 1

/-- The value of a system register that a group reads. -/
def sysValue (s : State) (g : Group) (r : SysReg) : Nat :=
  let l := launchOf s g.launch
  match r with
  | .trapbase => l.trapbase.toNat
  | .trapframe => g.trapframe.toNat
  | .noprebudget => l.nopreBudget
  | .budgetperiod => l.budgetPeriod
  | .partid => l.part
  | .tenant => l.tenant
  | .gentag => (coreOf s g.core).gentag.toNat
  | .fpclear => 0

/-- `MOVY` in one thread. -/
def semMovy (o : OpMovy) (v : View) : Sem Eff := do
  check (readLevel o.sys ≤ (launchOf v.s v.g.launch).level) cPrivilege
  pure (writeEff o.d (if sysWide o.sys then .n64 else .n32) (sysValue v.s v.g o.sys))

/-- `MOVY` (R389). -/
def execMovy (o : OpMovy) (s : State) : Out :=
  runRegs (.movy o) (isK o.d) o.pred (useReg o.d (if sysWide o.sys then 2 else 1)) (semMovy o) s

/-- Whether a value lies in the range of a system register (R127). -/
def sysRange (r : SysReg) (x : Nat) : Bool :=
  match r with
  | .noprebudget => 1 ≤ x && x ≤ 100000
  | .budgetperiod => 10000 ≤ x && x ≤ 10000000
  | _ => true

/-- The operand of `MOVYW`, with its privilege and its range. -/
def readMovyw (o : OpMovyw) (v : View) : Sem Nat := do
  check (writeLevel o.sys ≤ (launchOf v.s v.g.launch).level) cPrivilege
  let x ← readSrc v o.a (if sysWide o.sys then .n64 else .n32)
  check (sysRange o.sys x) cIllegalOp
  pure x

/-- A system register of a launch, or of its partition, written (log 28, DEDUCED). -/
def writeSys (s : State) (lid : Nat) (r : SysReg) (x : Nat) : State :=
  match r with
  | .trapbase => modLaunch s lid (fun l => { l with trapbase := BitVec.ofNat 64 x })
  | .noprebudget => modLaunch s lid (fun l => { l with nopreBudget := x })
  | .budgetperiod =>
    modPart (modLaunch s lid (fun l => { l with budgetPeriod := x })) (launchOf s lid).part (fun p => { p with period := x })
  | _ => s

/-- `MOVYW FPCLEAR` in one thread (R125): the sticky flags that the mask names are cleared. -/
def semFpclear (o : OpMovyw) (v : View) : Sem Eff := do
  let x ← readMovyw o v
  pure { clear := BitVec.ofNat 7 x }

/-- `MOVYW` (R389): threads write in ascending lane order; with a k source once for the gang. -/
def execMovyw (o : OpMovyw) (s : State) : Out :=
  let us := useSrc o.a (if sysWide o.sys then 2 else 1)
  if o.sys = .fpclear then runRegs (.movyw o) (srcIsK o.a) o.pred us (semFpclear o) s
  else
    withGang (.movyw o) s (fun c => .next (
      if srcIsK o.a then
        withUniform c s o.pred us (readMovyw o) (fun r =>
          commitUni c (writeSys s c.g.launch o.sys r.1) ⟨{}, r.2.1, {}, r.2.2⟩) (m := .free)
      else
        withOperands c s o.pred us (readMovyw o) (fun rs =>
          commitLanes c (rs.foldl (fun s r => writeSys s c.g.launch o.sys r.2.1) s) (flagsOnly rs)) (m := .free)))

/-! ## TLBI (R390) -/

/-- The operands of a `TLBI`: the ASID, and the page of the address. -/
def readTlbi (o : OpTlbi) (v : View) : Sem (Nat × Nat) := do
  check (1 ≤ (launchOf v.s v.g.launch).level) cPrivilege
  let asid ← if o.scope.val ≤ 1 then readTyped v o.d .n32 false else pure 0
  let a ← if o.scope.val = 0 then readPair v o.a else pure 0#64
  pure (asid, a.toNat / 4096)

/-- The registers that a `TLBI` names. -/
def useTlbi (o : OpTlbi) : List RegUse :=
  (if o.scope.val ≤ 1 then useReg o.d else []) ++ (if o.scope.val = 0 then useReg o.a 2 else [])

/-- A `TLBI` past its checks: it releases at `.part`, and its gang waits until the translations of all
its threads have been dropped. -/
def postTlbi (c : Ctx) (s : State) (o : OpTlbi) (targets : List (Nat × Nat)) (k : State → State) : State :=
  whenQuiet c s c.gang (fun s =>
    let s := k (visible s c.g.block)
    let s := closeRegions c s c.gang
    let (id, s) := takeId s
    let x : Tlbi := { id := id, group := c.gid, scope := o.scope.val, targets := targets }
    let s := modPart s (c.launch s).part (fun p => { p with tlbis := p.tlbis ++ [x] })
    modGroup s c.gid (fun g => modThreads g c.gang (fun t => { t with pc := c.pc, run := .blocked (.tlbi id) })))

/-- `TLBI` (R390). -/
def execTlbi (o : OpTlbi) (s : State) : Out :=
  withGang (.tlbi o) s (fun c => .next (
    if o.scope.val ≤ 1 && isK o.d then
      withUniform c s o.pred (useTlbi o) (readTlbi o) (fun r =>
        postTlbi c s o [r.1] (fun s => commitUni c s ⟨{}, r.2.1, {}, r.2.2⟩)) (m := .free)
    else
      withOperands c s o.pred (useTlbi o) (readTlbi o) (fun rs =>
        postTlbi c s o (rs.map (fun r => r.2.1)) (fun s => commitLanes c s (flagsOnly rs))) (m := .free)))

/-! ## Demotion and starvation (R38, R48, R319) -/

/-- `DEMOTION_END` (R38): a path whose group has had 256 issue opportunities since is demoted no more. -/
def execDemotionEnd (gid : Nat) (pc : DWord) (s : State) : Out :=
  match mfind s.groups gid with
  | none => notEnabled
  | some g =>
    let ls := lanesWhere g (fun t => t.pc == pc && t.demote == 1)
    if ls.isEmpty then notEnabled
    else .next (modGroup s gid (fun g => modThreads g ls (fun t => { t with demote := 0, spin := none })))

/-- `GROUP_STARVED` (R48, R319): the starvation count of a group that could issue reaches 256. -/
def execGroupStarved (gid : Nat) (s : State) : Out :=
  match mfind s.groups gid with
  | none => notEnabled
  | some g => if g.starve = 255 ∧ ranked s g = true then .next (modGroup s gid (fun g => { g with starve := 256 })) else notEnabled

/-! ## Uncorrectable errors (R395, R399) -/

/-- Whether the sweep engine runs an operation of a group. -/
def sweeping (s : State) (gid : Nat) (g : Group) : Bool :=
  (coreOf s g.core).sweeps.any (fun w => w.cap.group == gid && w.started)

/-- `UNCORRECTABLE_ERROR` (R395): threads of a group consume an uncorrectable error, of a memory that SUB
names, or a protection mismatch; the recovery ladder applies. A mismatch with SUB 1 is that of the sweep engine's two
computations of an iteration, which kills the block (R290). -/
def execUncorrectableError (gid : Nat) (lanes : BitVec 128) (sub : Nat) (mismatch : Bool) (s : State) : Out :=
  match mfind s.groups gid with
  | none => notEnabled
  | some g =>
    let ls := (lanesOfMask lanes).filter (liveLanes g).contains
    let engine := mismatch && sub == 1
    if ls.isEmpty ∨ g.where_ ≠ .resident ∨ sub > 3 ∨ (mismatch = true ∧ isProt s g = false) ∨
        (engine = true ∧ sweeping s gid g = false) then notEnabled
    else
      .next (recover s gid
        { cls := if mismatch then 0x13 else 0x12, sub := if mismatch then 0 else sub, kill := engine,
          lanes := maskOfLanes ls, gang := maskOfLanes ls, pc := (threadOf g (lowest ls)).pc, late := true })

end Sys2Proof.Machine
end

