-- ==== Sys2Proof/Machine/Services.lean ====
section
/-! DEFINITION. `SYSC`, and the services of a slice's service core (R355, R391, R392, R329, R452). -/

namespace Sys2Proof.Machine

/-! ## SYSC (R391) -/

/-- The status codes of a service (R391). -/
def stOk : Nat := 0
def stBadSpace : Nat := 1
def stBadService : Nat := 2
def stBadArg : Nat := 3
def stDenied : Nat := 4
def stBadShape : Nat := 5
def stNoResource : Nat := 6

/-- Whether an address lies in the scratchpad window. -/
def isScratchVa (va : DWord) : Bool := va.toNat / 2 ^ 56 == 0xFE

/-- Where a request block lies: in memory, or in the scratchpad window, which the service core cannot
reach (R391). -/
def locateBlock (s : State) (g : Group) (lane : Nat) (uniform : Bool) (va : DWord) : Locate :=
  if isScratchVa va then .at (.phys []) .normal false else locateAligned s g lane uniform va 64 .read

/-- The service of a word. -/
def sysService (o : OpSysc) : Nat := o.service.toNat

/-- A request that the same instruction of the same lane has sent already, before a trap: it is never
sent twice (R391). -/
def sentBefore (s : State) (o : OpSysc) (slice gid lane : Nat) (block : DWord) : Option SyscReq :=
  (sliceOf s slice).reqs.find? (fun r =>
    r.group == gid && r.lane == lane && r.service == sysService o && r.block == block && r.dest == o.d)

/-- A request of one lane, or of a gang, to the service core of its launch's home slice: its arguments
are words 0..3 of the block. -/
def sendRequest (c : Ctx) (o : OpSysc) (uniform : Bool) (s : State) (x : Spot) : State × Nat :=
  let slice := (c.launch s).slice
  match sentBefore s o slice c.gid x.lane x.va with
  | some r => (s, r.id)
  | none =>
    let data := readPlace s (groupOf s c.gid) x.place 64
    let (id, s) := takeId s
    let r : SyscReq :=
      { id := id, group := c.gid, lane := x.lane, uniform := uniform, service := sysService o
        args := (List.range 4).map (fun i => BitVec.ofNat 64 (data / 2 ^ (64 * i)))
        block := x.va, dest := o.d }
    (modSlice s slice (fun y => { y with reqs := y.reqs ++ [r] }), id)

/-- A thread whose reply has come goes on with its status. -/
def syscDone (d : Reg) (status : Nat) (t : Thread) : Thread :=
  let put (rf : RegFile) : RegFile :=
    if isK d then rf else { rf with v := putRegs rf.v (writeVal d .n32 status) }
  { t with pc := t.pc + 8#64, run := .ready, rf := put t.rf, shadow := t.shadow.map put }

/-- The k register that a uniform request's status goes to. -/
def syscUni (d : Reg) (status : Nat) (g : Group) : Group :=
  if isK d then
    { g with
      uni := { g.uni with k := putRegs g.uni.k (writeVal d .n32 status) }
      uniShadow := { g.uniShadow with k := putRegs g.uniShadow.k (writeVal d .n32 status) } }
  else g

/-- The lanes of a gang after their request: waiting, or done with BADSPACE. -/
def syscLanes (c : Ctx) (o : OpSysc) (uniform : Bool) (lanes : List Nat) (s : State) (x : Spot) : State :=
  if isScratchVa x.va then
    modGroup s c.gid (fun g => syscUni o.d stBadSpace (modThreads g lanes (syscDone o.d stBadSpace)))
  else
    let (s, id) := sendRequest c o uniform s x
    modGroup s c.gid (fun g => modThreads g lanes (fun t => { t with run := .blocked (.sysc id) }))

/-- `SYSC` past its operands: a release at `.part`, and a request for each lane, in ascending order. -/
def postSysc (c : Ctx) (s : State) (o : OpSysc) (uniform : Bool) (xs : List Spot) (k : State → State) :
    State :=
  whenQuiet c s c.gang (fun s =>
    whenFree c s xs (fun s =>
      unpoisoned c s xs (fun s =>
        let lanes := if uniform then c.gang else xs.map (fun x => x.lane)
        let s := k (visible s c.g.block)
        let s := closeRegions c (markEffects c s lanes) lanes
        xs.foldl (fun s x => syscLanes c o uniform (if uniform then c.gang else [x.lane]) s x) s)))

/-- The registers that `SYSC` names. -/
def useSysc (o : OpSysc) : List RegUse := useReg o.d ++ useReg o.a 2

/-- The flags of some lanes' operands raised, without going on. -/
def raiseLanes {α : Type} (c : Ctx) (s : State) (rs : Map (α × Flags × Flags)) : State :=
  modGroup s c.gid (fun g => mapThreads g (fun l t =>
    match mfind rs l with
    | some r => commitThread ⟨{}, r.2.1, {}, r.2.2⟩ t
    | none => t))

/-- `SYSC` (R391). -/
def execSysc (o : OpSysc) (s : State) : Out :=
  withGang (.sysc o) s (fun c => .next (
    if isK o.d then
      withUniform c s o.pred (useSysc o) (fun v => readPair v o.a) (fun r =>
        let l := lowest c.gang
        withSpots c s (gather [(l, r.1, locateBlock s c.g l true r.1)]) (fun xs =>
          postSysc c s o true xs (fun s => raiseLanes c s (c.gang.map (fun l => (l, r))))))
    else
      withOperands c s o.pred (useSysc o) (fun v => readPair v o.a) (fun rs =>
        withSpots c s (gather (rs.map (fun r => (r.1, r.2.1, locateBlock s c.g r.1 false r.2.1)))) (fun xs =>
          postSysc c s o false xs (fun s => raiseLanes c (passLanes c s o.pred) rs)))))

/-! ## What a service core reaches (R391, R232) -/

/-- The physical address of a byte of a request's pointer: in global memory, or in the private memory of
the calling thread. -/
def servicePa (s : State) (r : SyscReq) (u : PageUse) (va : Nat) : Option Nat :=
  let g := groupOf s r.group
  let l := launchOf s g.launch
  let at_ (a : Nat) : Option Nat := (xlateDirect s l.part l.asid l.level a u).map Prod.fst
  if va / 2 ^ 56 = 0 then at_ va
  else if va / 2 ^ 56 = 0xFD ∧ va % 2 ^ 56 < lrPriv l.rcd then at_ (privateVa s g r.lane (va % 2 ^ 56))
  else none

/-- The physical addresses of a run of bytes, or none where one cannot be reached. -/
def servicePas (s : State) (r : SyscReq) (u : PageUse) (va n : Nat) : Option (List Nat) :=
  let l := (List.range n).map (fun i => servicePa s r u (va + i))
  if l.all Option.isSome then some (l.filterMap id) else none

/-- Bytes read by the service core for a request; private memory, which the caller's core may hold at a
narrow scope, is read as that core has it. -/
def serviceRead (s : State) (r : SyscReq) (va n : Nat) : Option Nat :=
  (servicePas s r .read va n).map (fun pas =>
    pas.foldr (fun pa x => (coreByte s (groupOf s r.group).core pa).toNat + 256 * x) 0)

/-- Words of results written to a request's block, from word 4 on. -/
def writeResults (s : State) (r : SyscReq) (res : List DWord) : State :=
  let a := r.block.toNat + 32
  match servicePas s r .write a (8 * res.length) with
  | none => s
  | some pas =>
    let bs := res.flatMap (fun w => bytesOf 8 w.toNat)
    let core := (groupOf s r.group).core
    (pas.zip bs).foldl (fun s x => dropHeld (writeMem s x.1 [x.2]) (core :: quadCores s core) x.1 1) s

/-- A request of a slice that has not been served. -/
def requestOf (s : State) (slice id : Nat) : Option SyscReq :=
  (sliceOf s slice).reqs.find? (fun r => r.id == id && !r.done)

/-- A request served: its results are written, and its status waits for the reply. -/
def serve (s : State) (slice : Nat) (r : SyscReq) (status : Nat) (res : List DWord) : Out :=
  let s := writeResults s r res
  .next (modSlice s slice (fun x =>
    { x with reqs := modFirst (fun y => y.id == r.id) (fun y => { y with done := true, status := status, res := res }) x.reqs }))

/-- A service of the device's own: its request, and the launch that asks. -/
def withService (s : State) (slice id service : Nat) (k : SyscReq → Launch → Out) : Out :=
  match requestOf s slice id with
  | none => notEnabled
  | some r => if r.service = service then k r (launchOf s (groupOf s r.group).launch) else notEnabled

/-- An argument of a request. -/
def argOf (r : SyscReq) (i : Nat) : DWord := (r.args[i]?).getD 0#64

/-- `SYSC_NULL` (R392). -/
def execSyscNull (slice id : Nat) (s : State) : Out :=
  withService s slice id 0 (fun r _ => serve s slice r stOk [])

/-! ## Shapes (R355) -/

/-- The bits of a shape record's fields at and above NDIM. -/
def shapeAbove (r : BitVec 512) : Bool :=
  (List.range 5).all (fun d => d < shNdim r ||
    (shDimField r d == 0 && shBoxField r d == 0 && (d == 0 || shStrideField r d == 0)))

/-- Whether a top byte is one that a shape record may name. -/
def shapeWindow (a : Nat) : Bool := a / 2 ^ 56 == 0 || a / 2 ^ 56 == 0xFE

/-- Whether Mbotum accepts a shape record (R355). -/
def shapeOk (r : BitVec 512) : Bool :=
  bitsOf r 31 24 == 0 && bitsOf r 15 0 == 0x0100 && shFmt r < 12 && 1 ≤ shNdim r && shNdim r ≤ 5 &&
    (List.range (shNdim r)).all (fun d => shDimField r d != 0) &&
    (!fmtElectrum (shFmt r) || (shBase1 r != 0 && shBox r 0 % 32 == 0)) &&
    (!shCmp r || fmtElectrum (shFmt r)) &&
    shapeWindow (shScale r) && shapeWindow (shBase0 r) && shapeWindow (shBase1 r) && shapeAbove r

/-- The generation after another (R355). -/
def nextGen (n : Nat) : Nat := if n = 4095 then 1 else n + 1

/-- `SHAPE_INSTALL` (R355): into a free slot that Mbotum chooses. -/
def execShapeInstall (slice id slot : Nat) (s : State) : Out :=
  withService s slice id 1 (fun r l =>
    match serviceRead s r (argOf r 0).toNat 64 with
    | none => serve s slice r stBadSpace []
    | some x =>
      let rec_ := BitVec.ofNat 512 x
      let shapes := (partOf s l.part).shapes
      let old := mget {} shapes slot
      if !shapeOk rec_ then serve s slice r stBadShape []
      else if (shapes.filter (fun y => y.2.live)).length ≥ 2 ^ 20 then serve s slice r stNoResource []
      else if slot ≥ 2 ^ 20 ∨ old.live = true then notEnabled
      else
        let new : ShapeSlot := { rcd := rec_, gen := nextGen old.gen, tenant := l.tenant, live := true }
        let s := modPart s l.part (fun p => { p with shapes := mset {} p.shapes slot new })
        serve s slice r stOk [BitVec.ofNat 64 (slot * 4096 + new.gen)])

/-- `SHAPE_FREE` (R355, R392). -/
def execShapeFree (slice id : Nat) (s : State) : Out :=
  withService s slice id 2 (fun r l =>
    let h := (argOf r 0).toNat
    let x := mget {} (partOf s l.part).shapes (h / 4096)
    if h ≥ 2 ^ 32 ∨ x.live = false ∨ (shapeOf s (groupOf s r.group) (BitVec.ofNat 32 h)).isNone = true then
      serve s slice r stBadArg []
    else
      let s := modPart s l.part (fun p =>
        { p with shapes := mset {} p.shapes (h / 4096) { x with gen := nextGen x.gen, live := false } })
      serve s slice r stOk [])

/-! ## Specs (R328, R329, R452) -/

/-- The bits of a spec that must be zero. -/
def specMbz (r : BitVec 1024) : Nat :=
  bitsOf r 639 608 + bitsOf r 447 416 + bitsOf r 383 53 + bitsOf r 39 39 + bitsOf r 23 21

/-- Cause 1 (R329): the version, a reserved kind, a nonzero MBZ bit, or a field out of its range. -/
def specCause1 (r : BitVec 1024) : Bool :=
  let k := spKind r
  bitsOf r 15 0 != 0x0100 || k ≥ 5 || specMbz r != 0 || spL r > 64 || spF r > 12 || spKeysel r > 12 ||
    ((k == 2 || k == 3) && spLateness r != 0) || (k == 4) != (spGap r != 0) || (k == 4) == (spSize r != 0) ||
    (k == 4) != (spMerge r != 0#64) || (k == 4 && spSlide r != 0) || spRecord r == 0#64

/-- Cause 2 (R329). -/
def specCause2 (r : BitVec 1024) : Bool :=
  (spKind r == 1 || spKind r == 3) &&
    (spSlide r == 0 || spSize r % spSlide r != 0 || spSize r / spSlide r > 16)

/-- Cause 3 (R329). -/
def specCause3 (r : BitVec 1024) : Bool :=
  ((spKind r == 0 || spKind r == 2) && spSlide r != 0) || (spPane r && spKind r != 1 && spKind r != 3)

/-- Whether a handler address is a header with HND and LIVE = L; 0 is none (R329). -/
def handlerAddr (s : State) (l : Launch) (r : BitVec 1024) (a : DWord) : Bool :=
  a == 0#64 ||
    (match unitFetch s l.part l.asid l.level a with
     | some w => isHeader w && hdrHnd w && hdrLive w == spL r
     | none => false)

/-- Cause 4 (R329), as the owner of the spec reads its handlers. -/
def specCause4 (s : State) (l : Launch) (r : BitVec 1024) : Bool :=
  !([spOpen r, spRecord r, spMerge r, spClose r, spLate r].all (handlerAddr s l r))

/-- The running window launch of a tenant that a number names (R329). -/
def specOwner (s : State) (part tenant number : Nat) : Option (Nat × Launch) :=
  s.launches.find? (fun l =>
    l.2.part == part && l.2.tenant == tenant && l.2.number == number && !l.2.final &&
      l.2.status == .running && lrWin l.2.rcd)

/-- Cause 6 (R329). -/
def specCause6 (l : Launch) (r : BitVec 1024) : Bool :=
  lrRegs l.rcd 0 < max (spL r + spF r) (max (2 * spL r) 1)

/-- Cause 7 (R329). -/
def specCause7 (s : State) (part : Nat) (r : BitVec 1024) : Bool :=
  spOut r && !(streamOf s part (spOutStream r)).any (fun x => x.src == 3)

/-- The number of the first cause that refuses the install of a spec, 0 where none does (R329). -/
def specCause (s : State) (caller : Launch) (n : Nat) (r : BitVec 1024) : Nat :=
  let owner := specOwner s caller.part caller.tenant (spLaunch r)
  let l := (owner.map Prod.snd).getD caller
  if specCause1 r then 1 else if specCause2 r then 2 else if specCause3 r then 3
  else if specCause4 s l r then 4 else if owner.isNone then 5 else if specCause6 l r then 6
  else if specCause7 s caller.part r then 7 else if spFault r % 128 != 0 then 8
  else if (specOf s caller.part n).isSome then 9 else 0

/-- An entry of a table as a request brings it: copied from its pointer, or as it stands (R452). -/
def entryOf (s : State) (r : SyscReq) (addr n : Nat) : Option Nat :=
  if argOf r 1 = 0#64 then some (readN (readMem s) addr n) else serviceRead s r (argOf r 1).toNat n

/-- `SPEC_INSTALL` (R329, R392, R452). -/
def execSpecInstall (slice id : Nat) (s : State) : Out :=
  withService s slice id 3 (fun r l =>
    let n := (argOf r 0).toNat
    let addr := specAddr (partOf s l.part) n
    if n ≥ 4096 then serve s slice r stBadArg []
    else
      match entryOf s r addr 128 with
      | none => serve s slice r stBadSpace []
      | some x =>
        let x := BitVec.ofNat 1024 x
        let x := if spLaunch x = 0 then x ||| (BitVec.ofNat 1024 l.number <<< 384) else x
        let s := writeMem s addr (bytesOf 128 x.toNat)
        let cause := specCause s l n x
        if cause ≠ 0 then serve s slice r stBadArg [BitVec.ofNat 64 cause]
        else
          match specOwner s l.part l.tenant (spLaunch x) with
          | none => notEnabled
          | some (lid, _) =>
            serve (modPart s l.part (fun p =>
              { p with specs := mput p.specs n { rcd := x, launch := lid, tenant := l.tenant } })) slice r stOk [])

/-- A slice's window engine without a spec (R329): its windows, queues and activations are discarded. -/
def dropSpec (n : Nat) (x : Slice) : Slice :=
  { x with
    windows := mfilter (fun _ w => w.spec != n) x.windows
    keyqs := x.keyqs.filter (fun q => q.spec != n)
    actq := x.actq.filter (fun a => a.spec != n)
    inbox := x.inbox.filter (fun m =>
      match m with
      | .record _ spec _ _ => spec != n
      | .mark .. => true) }

/-- The blocks of running activations of a spec. -/
def specBlocks (s : State) (part n : Nat) : List Nat :=
  ((s.groups.filter (fun g =>
    g.2.activation && (launchOf s g.2.launch).part == part &&
      g.2.threads.any (fun t => t.2.act.any (fun a => a.spec == n)))).map (fun g => g.2.block)).eraseDups

/-- A spec removed (R329): nothing of it runs on, and its launch ends where it was kept by it alone. -/
def removeSpec (s : State) (part n : Nat) (x : Spec) : State :=
  let s := (specBlocks s part n).foldl removeBlock s
  let s := modPart s part (fun p => { p with specs := mdel p.specs n })
  let s := (partSlices s part).foldl (fun s i => modSlice s i (dropSpec n)) s
  maybeDone s x.launch

/-- `SPEC_REMOVE` (R329, R392): a tenant removes its own specs; one that is not installed is left. -/
def execSpecRemove (slice id : Nat) (s : State) : Out :=
  withService s slice id 4 (fun r l =>
    let n := (argOf r 0).toNat
    if n ≥ 4096 then serve s slice r stBadArg []
    else
      match specOf s l.part n with
      | none => serve s slice r stOk []
      | some x =>
        if x.tenant ≠ l.tenant then serve s slice r stDenied []
        else
          match serve s slice r stOk [] with
          | .next s => .next (removeSpec s l.part n x)
          | o => o)

/-! ## Streams (R331, R452) -/

/-- The specs that a stream entry names. -/
def entrySpecs (e : BitVec 512) : List Nat :=
  (List.range 4).filterMap (fun i =>
    if bitsOf e (112 + i) (112 + i) = 1 then some (bitsOf e (75 + 12 * i) (64 + 12 * i)) else none)

/-- Whether a stream entry can be installed (R331, R452). -/
def streamOk (s : State) (part : Nat) (e : BitVec 512) : Bool :=
  bitsOf e 15 0 == 0x0100 &&
    bitsOf e 511 448 + bitsOf e 127 116 + bitsOf e 31 29 + bitsOf e 23 20 == 0 &&
    (bitsOf e 17 16 != 2 || (bitsOf e 191 128 % 4096 == 0 && bitsOf e 191 128 < 2 ^ 56 &&
      6 ≤ bitsOf e 28 24 && bitsOf e 28 24 ≤ 16)) &&
    (entrySpecs e).all (fun n => (specOf s part n).isSome)

/-- The stream that an entry makes: SEQ, MAXT and WMARK begin at their reset values. -/
def streamFrom (l : Launch) (e : BitVec 512) : Stream :=
  { src := bitsOf e 17 16, wmx := bitsOf e 18 18 == 1, stopped := bitsOf e 19 19 == 1
    logsize := bitsOf e 28 24, maxooo := bitsOf e 63 32, specs := entrySpecs e
    ring := BitVec.ofNat 64 (bitsOf e 191 128), asid := l.asid, level := l.level, head := bitsOf e 223 192 }

/-- A stream put into its partition, its entry written, and the slices' copies of its watermark reset. -/
def installStream (s : State) (part n : Nat) (x : Nat) (st : Stream) : State :=
  let s := writeMem s (streamAddr (partOf s part) n) (bytesOf 64 x)
  let s := modPart s part (fun p => { p with streams := mput p.streams n st })
  let s := (partSlices s part).foldl (fun s i => modSlice s i (fun y => { y with wms := mdel y.wms n })) s
  writeStream s part n st

/-- `STREAM_INSTALL` (R392, R452): RES0 is the address at which Mbotum maps the TAIL word of a memory
queue for the caller, a free value. -/
def execStreamInstall (slice id : Nat) (tail : DWord) (s : State) : Out :=
  withService s slice id 5 (fun r l =>
    let n := (argOf r 0).toNat
    if n ≥ 4096 then serve s slice r stBadArg []
    else
      match entryOf s r (streamAddr (partOf s l.part) n) 64 with
      | none => serve s slice r stBadSpace []
      | some x =>
        let e := BitVec.ofNat 512 x
        if !streamOk s l.part e then
          serve (writeMem s (streamAddr (partOf s l.part) n) (bytesOf 64 x)) slice r stBadArg []
        else
          let st := streamFrom l e
          let word := streamAddr (partOf s l.part) n + 28
          let mapped := (xlateDirect s l.part l.asid l.level tail.toNat .write).any (fun x => x.1 == word)
          if st.src = 2 ∧ mapped = false then notEnabled
          else serve (installStream s l.part n x st) slice r stOk [if st.src = 2 then tail else 0#64])

/-! ## Mbotum's own services, and replies (R391, R392) -/

/-- `MBOTUM_SERVICE` (R392): numbers from 0x0100 on mean what Mbotum gives them; 0x0006..0x00FF give
BADSERVICE (log 29, DESIGN CHOICE). -/
def execMbotumService (slice id status : Nat) (res : List DWord) (s : State) : Out :=
  match requestOf s slice id with
  | none => notEnabled
  | some r =>
    if r.service < 6 then notEnabled
    else if r.service < 0x100 then serve s slice r stBadService []
    else if res.length > 4 ∨ status ≥ 2 ^ 32 then notEnabled
    else serve s slice r status res

/-- `SYSC_REPLY` (R391): the reply to a served request reaches its thread, once its group runs. A
request whose thread waits for it no more is dropped; while the group is in its handler the reply is kept, for its
thread may issue the `SYSC` again (R391, R392). -/
def execSyscReply (slice id : Nat) (s : State) : Out :=
  match (sliceOf s slice).reqs.find? (fun r => r.id == id && r.done) with
  | none => notEnabled
  | some r =>
    match mfind s.groups r.group with
    | none => notEnabled
    | some g =>
      if g.where_ ≠ .resident ∨ (coreOf s g.core).stopped = true then notEnabled
      else
        let ls := lanesWhere g (fun t => t.run == .blocked (.sysc id))
        let s := modSlice s slice (fun x => { x with reqs := x.reqs.filter (fun y => y.id != id) })
        if ls.isEmpty && g.trapframe != 0#64 then notEnabled
        else if ls.isEmpty then .next s
        else .next (modGroup s r.group (fun g => syscUni r.dest r.status (modThreads g ls (syscDone r.dest r.status))))

end Sys2Proof.Machine
end

