-- ==== Sys2Proof/Machine/Dispatch.lean ====
section
/-! DEFINITION. The meaning of every instruction and event: one arm for each constructor. -/

namespace Sys2Proof.Machine

/-- The execution of one instruction or event. -/
def exec (i : Instr) (s : State) : Host.Outcome State Fault Refusal :=
  match i with
  | .iadd o => Sys2Proof.Machine.execIadd o s
  | .isub o => Sys2Proof.Machine.execIsub o s
  | .imul o => Sys2Proof.Machine.execImul o s
  | .imulh o => Sys2Proof.Machine.execImulh o s
  | .imad o => Sys2Proof.Machine.execImad o s
  | .idiv o => Sys2Proof.Machine.execIdiv o s
  | .irem o => Sys2Proof.Machine.execIrem o s
  | .imin o => Sys2Proof.Machine.execImin o s
  | .imax o => Sys2Proof.Machine.execImax o s
  | .iabs o => Sys2Proof.Machine.execIabs o s
  | .and o => Sys2Proof.Machine.execAnd o s
  | .or o => Sys2Proof.Machine.execOr o s
  | .xor o => Sys2Proof.Machine.execXor o s
  | .andn o => Sys2Proof.Machine.execAndn o s
  | .shl o => Sys2Proof.Machine.execShl o s
  | .shr o => Sys2Proof.Machine.execShr o s
  | .shra o => Sys2Proof.Machine.execShra o s
  | .rotl o => Sys2Proof.Machine.execRotl o s
  | .popc o => Sys2Proof.Machine.execPopc o s
  | .clz o => Sys2Proof.Machine.execClz o s
  | .brev o => Sys2Proof.Machine.execBrev o s
  | .bfx o => Sys2Proof.Machine.execBfx o s
  | .bfi o => Sys2Proof.Machine.execBfi o s
  | .lea o => Sys2Proof.Machine.execLea o s
  | .sel o => Sys2Proof.Machine.execSel o s
  | .icmp o => Sys2Proof.Machine.execIcmp o s
  | .mov o => Sys2Proof.Machine.execMov o s
  | .movi o => Sys2Proof.Machine.execMovi o s
  | .movs o => Sys2Proof.Machine.execMovs o s
  | .iaddi o => Sys2Proof.Machine.execIaddi o s
  | .lopi o => Sys2Proof.Machine.execLopi o s
  | .fadd o => Sys2Proof.Machine.execFadd o s
  | .fsub o => Sys2Proof.Machine.execFsub o s
  | .fmul o => Sys2Proof.Machine.execFmul o s
  | .ffma o => Sys2Proof.Machine.execFfma o s
  | .fmin o => Sys2Proof.Machine.execFmin o s
  | .fmax o => Sys2Proof.Machine.execFmax o s
  | .fcmp o => Sys2Proof.Machine.execFcmp o s
  | .frcp o => Sys2Proof.Machine.execFrcp o s
  | .frsq o => Sys2Proof.Machine.execFrsq o s
  | .fsqrt o => Sys2Proof.Machine.execFsqrt o s
  | .fdiv o => Sys2Proof.Machine.execFdiv o s
  | .fexp2 o => Sys2Proof.Machine.execFexp2 o s
  | .flog2 o => Sys2Proof.Machine.execFlog2 o s
  | .fsin o => Sys2Proof.Machine.execFsin o s
  | .fcos o => Sys2Proof.Machine.execFcos o s
  | .ftanh o => Sys2Proof.Machine.execFtanh o s
  | .fclass o => Sys2Proof.Machine.execFclass o s
  | .frnd o => Sys2Proof.Machine.execFrnd o s
  | .cvt o => Sys2Proof.Machine.execCvt o s
  | .pack o => Sys2Proof.Machine.execPack o s
  | .unpk o => Sys2Proof.Machine.execUnpk o s
  | .fdot2 o => Sys2Proof.Machine.execFdot2 o s
  | .idot4 o => Sys2Proof.Machine.execIdot4 o s
  | .afnew o => Sys2Proof.Machine.execAfnew o s
  | .afcst o => Sys2Proof.Machine.execAfcst o s
  | .afadd o => Sys2Proof.Machine.execAfadd o s
  | .afsub o => Sys2Proof.Machine.execAfsub o s
  | .afscl o => Sys2Proof.Machine.execAfscl o s
  | .afmul o => Sys2Proof.Machine.execAfmul o s
  | .afsqr o => Sys2Proof.Machine.execAfsqr o s
  | .afrcp o => Sys2Proof.Machine.execAfrcp o s
  | .afsqrt o => Sys2Proof.Machine.execAfsqrt o s
  | .afexp o => Sys2Proof.Machine.execAfexp o s
  | .afcnd o => Sys2Proof.Machine.execAfcnd o s
  | .afrng o => Sys2Proof.Machine.execAfrng o s
  | .afget o => Sys2Proof.Machine.execAfget o s
  | .afsym o => Sys2Proof.Machine.execAfsym o s
  | .afld o => Sys2Proof.Machine.execAfld o s
  | .afst o => Sys2Proof.Machine.execAfst o s
  | .plop o => Sys2Proof.Machine.execPlop o s
  | .pmov o => Sys2Proof.Machine.execPmov o s
  | .vote o => Sys2Proof.Machine.execVote o s
  | .shfl o => Sys2Proof.Machine.execShfl o s
  | .gred o => Sys2Proof.Machine.execGred o s
  | .gscan o => Sys2Proof.Machine.execGscan o s
  | .elect o => Sys2Proof.Machine.execElect o s
  | .matchLanes o => Sys2Proof.Machine.execMatchLanes o s
  | .ld o => Sys2Proof.Machine.execLd o s
  | .st o => Sys2Proof.Machine.execSt o s
  | .lds o => Sys2Proof.Machine.execLds o s
  | .sts o => Sys2Proof.Machine.execSts o s
  | .ldk o => Sys2Proof.Machine.execLdk o s
  | .fence o => Sys2Proof.Machine.execFence o s
  | .pref o => Sys2Proof.Machine.execPref o s
  | .ldx o => Sys2Proof.Machine.execLdx o s
  | .stx o => Sys2Proof.Machine.execStx o s
  | .cctl o => Sys2Proof.Machine.execCctl o s
  | .atom o => Sys2Proof.Machine.execAtom o s
  | .atoms o => Sys2Proof.Machine.execAtoms o s
  | .red o => Sys2Proof.Machine.execRed o s
  | .ixset o => Sys2Proof.Machine.execIxset o s
  | .bop o => Sys2Proof.Machine.execBop o s
  | .cpy o => Sys2Proof.Machine.execCpy o s
  | .cpym o => Sys2Proof.Machine.execCpym o s
  | .cpyx o => Sys2Proof.Machine.execCpyx o s
  | .cpyw o => Sys2Proof.Machine.execCpyw o s
  | .synci o => Sys2Proof.Machine.execSynci o s
  | .synca o => Sys2Proof.Machine.execSynca o s
  | .syncw o => Sys2Proof.Machine.execSyncw o s
  | .synct o => Sys2Proof.Machine.execSynct o s
  | .vadd o => Sys2Proof.Machine.execVadd o s
  | .vsub o => Sys2Proof.Machine.execVsub o s
  | .vmul o => Sys2Proof.Machine.execVmul o s
  | .vfma o => Sys2Proof.Machine.execVfma o s
  | .vmin o => Sys2Proof.Machine.execVmin o s
  | .vmax o => Sys2Proof.Machine.execVmax o s
  | .vexp o => Sys2Proof.Machine.execVexp o s
  | .vrsq o => Sys2Proof.Machine.execVrsq o s
  | .vrcp o => Sys2Proof.Machine.execVrcp o s
  | .vtanh o => Sys2Proof.Machine.execVtanh o s
  | .vcvt o => Sys2Proof.Machine.execVcvt o s
  | .vred o => Sys2Proof.Machine.execVred o s
  | .vscan o => Sys2Proof.Machine.execVscan o s
  | .vgth o => Sys2Proof.Machine.execVgth o s
  | .vsct o => Sys2Proof.Machine.execVsct o s
  | .vmov o => Sys2Proof.Machine.execVmov o s
  | .vsel o => Sys2Proof.Machine.execVsel o s
  | .vcmp o => Sys2Proof.Machine.execVcmp o s
  | .vlrec o => Sys2Proof.Machine.execVlrec o s
  | .mma o => Sys2Proof.Machine.execMma o s
  | .mmap o => Sys2Proof.Machine.execMmap o s
  | .mmas o => Sys2Proof.Machine.execMmas o s
  | .mwait o => Sys2Proof.Machine.execMwait o s
  | .mopr o => Sys2Proof.Machine.execMopr o s
  | .mzero o => Sys2Proof.Machine.execMzero o s
  | .mldc o => Sys2Proof.Machine.execMldc o s
  | .mstc o => Sys2Proof.Machine.execMstc o s
  | .bra o => Sys2Proof.Machine.execBra o s
  | .bri o => Sys2Proof.Machine.execBri o s
  | .call o => Sys2Proof.Machine.execCall o s
  | .ret o => Sys2Proof.Machine.execRet o s
  | .exitT o => Sys2Proof.Machine.execExitT o s
  | .yield o => Sys2Proof.Machine.execYield o s
  | .bar o => Sys2Proof.Machine.execBar o s
  | .lnch o => Sys2Proof.Machine.execLnch o s
  | .wwait o => Sys2Proof.Machine.execWwait o s
  | .wwake o => Sys2Proof.Machine.execWwake o s
  | .nopre leave => Sys2Proof.Machine.execNopre leave s
  | .wend o => Sys2Proof.Machine.execWend o s
  | .wemit o => Sys2Proof.Machine.execWemit o s
  | .wclose o => Sys2Proof.Machine.execWclose o s
  | .wpnld o => Sys2Proof.Machine.execWpnld o s
  | .wpnst o => Sys2Proof.Machine.execWpnst o s
  | .wfwd o => Sys2Proof.Machine.execWfwd o s
  | .nsend o => Sys2Proof.Machine.execNsend o s
  | .nrecv o => Sys2Proof.Machine.execNrecv o s
  | .nctr o => Sys2Proof.Machine.execNctr o s
  | .trap o => Sys2Proof.Machine.execTrap o s
  | .sysc o => Sys2Proof.Machine.execSysc o s
  | .eret skip => Sys2Proof.Machine.execEret skip s
  | .movy o => Sys2Proof.Machine.execMovy o s
  | .movyw o => Sys2Proof.Machine.execMovyw o s
  | .bkpt o => Sys2Proof.Machine.execBkpt o s
  | .tlbi o => Sys2Proof.Machine.execTlbi o s
  | .demotionEnd gid pc => Sys2Proof.Machine.execDemotionEnd gid pc s
  | .groupStarved gid => Sys2Proof.Machine.execGroupStarved gid s
  | .trapEntry gid => Sys2Proof.Machine.execTrapEntry gid s
  | .translationFaultResolution slice entry allow => Sys2Proof.Machine.execTranslationFaultResolution slice entry allow s
  | .pageWalk slice walk => Sys2Proof.Machine.execPageWalk slice walk s
  | .tlbiComplete part id => Sys2Proof.Machine.execTlbiComplete part id s
  | .loadReturn core n => Sys2Proof.Machine.execLoadReturn core n s
  | .storeAcknowledgement core => Sys2Proof.Machine.execStoreAcknowledgement core s
  | .atomicReturn core n => Sys2Proof.Machine.execAtomicReturn core n s
  | .promotionRequest line => Sys2Proof.Machine.execPromotionRequest line s
  | .hostCxlAccess part a => Sys2Proof.Machine.execHostCxlAccess part a s
  | .groupSwapOut gid => Sys2Proof.Machine.execGroupSwapOut gid s
  | .groupResume gid core sub => Sys2Proof.Machine.execGroupResume gid core sub s
  | .launchAccept src => Sys2Proof.Machine.execLaunchAccept src s
  | .blockPlacement part => Sys2Proof.Machine.execBlockPlacement part s
  | .dispatchPromiseRestore block => Sys2Proof.Machine.execDispatchPromiseRestore block s
  | .groupRetire gid => Sys2Proof.Machine.execGroupRetire gid s
  | .launchTimeout launch => Sys2Proof.Machine.execLaunchTimeout launch s
  | .launchKill launch => Sys2Proof.Machine.execLaunchKill launch s
  | .notify slice value => Sys2Proof.Machine.execNotify slice value s
  | .nopPacket slice queue => Sys2Proof.Machine.execNopPacket slice queue s
  | .launchPacket slice queue => Sys2Proof.Machine.execLaunchPacket slice queue s
  | .waitPacket slice queue => Sys2Proof.Machine.execWaitPacket slice queue s
  | .signalPacket slice queue => Sys2Proof.Machine.execSignalPacket slice queue s
  | .queueWaitRecheck slice queue => Sys2Proof.Machine.execQueueWaitRecheck slice queue s
  | .queueWaitTimeout slice queue => Sys2Proof.Machine.execQueueWaitTimeout slice queue s
  | .budgetPeriodBoundary part => Sys2Proof.Machine.execBudgetPeriodBoundary part s
  | .nopreBudgetExpiry gid => Sys2Proof.Machine.execNopreBudgetExpiry gid s
  | .parkedGroupResolution gid resume => Sys2Proof.Machine.execParkedGroupResolution gid resume s
  | .waitEvaluation part entry => Sys2Proof.Machine.execWaitEvaluation part entry s
  | .wwaitTimeout gid lane => Sys2Proof.Machine.execWwaitTimeout gid lane s
  | .unregisteredWaitPoll gid lane => Sys2Proof.Machine.execUnregisteredWaitPoll gid lane s
  | .hostWakeWrite part asid value => Sys2Proof.Machine.execHostWakeWrite part asid value s
  | .symbolDraw gid => Sys2Proof.Machine.execSymbolDraw gid s
  | .copyLanding core id landing => Sys2Proof.Machine.execCopyLanding core id landing s
  | .matrixOpStart core id => Sys2Proof.Machine.execMatrixOpStart core id s
  | .matrixOperandRelease core id => Sys2Proof.Machine.execMatrixOperandRelease core id s
  | .matrixOpRetire core id => Sys2Proof.Machine.execMatrixOpRetire core id s
  | .sweepStart core => Sys2Proof.Machine.execSweepStart core s
  | .sweepComplete core => Sys2Proof.Machine.execSweepComplete core s
  | .bopComplete core id => Sys2Proof.Machine.execBopComplete core id s
  | .syscNull slice id => Sys2Proof.Machine.execSyscNull slice id s
  | .shapeInstall slice id slot => Sys2Proof.Machine.execShapeInstall slice id slot s
  | .shapeFree slice id => Sys2Proof.Machine.execShapeFree slice id s
  | .specInstall slice id => Sys2Proof.Machine.execSpecInstall slice id s
  | .specRemove slice id => Sys2Proof.Machine.execSpecRemove slice id s
  | .streamInstall slice id tail => Sys2Proof.Machine.execStreamInstall slice id tail s
  | .mbotumService slice id status res => Sys2Proof.Machine.execMbotumService slice id status res s
  | .syscReply slice id => Sys2Proof.Machine.execSyscReply slice id s
  | .uncorrectableError gid lanes sub mismatch => Sys2Proof.Machine.execUncorrectableError gid lanes sub mismatch s
  | .recordIngest part stream => Sys2Proof.Machine.execRecordIngest part stream s
  | .recordDelivery slice spec key => Sys2Proof.Machine.execRecordDelivery slice spec key s
  | .activationStart slice core => Sys2Proof.Machine.execActivationStart slice core s
  | .watermarkUpdate slice stream => Sys2Proof.Machine.execWatermarkUpdate slice stream s
  | .closeEvent slice spec key => Sys2Proof.Machine.execCloseEvent slice spec key s
  | .packetTransmission slice msg k => Sys2Proof.Machine.execPacketTransmission slice msg k s
  | .networkPacketArrival slice p => Sys2Proof.Machine.execNetworkPacketArrival slice p s
  | .selectiveAckArrival slice msg packets noBuffer => Sys2Proof.Machine.execSelectiveAckArrival slice msg packets noBuffer s
  | .lossDetection slice msg k => Sys2Proof.Machine.execLossDetection slice msg k s
  | .connectionSetup slice part r => Sys2Proof.Machine.execConnectionSetup slice part r s
  | .imageStop slice cmd => Sys2Proof.Machine.execImageStop slice cmd s
  | .imageRestore slice cmd => Sys2Proof.Machine.execImageRestore slice cmd s
  | .imageDiscard slice cmd => Sys2Proof.Machine.execImageDiscard slice cmd s
  | .imageStopAndSelfTest slice cmd => Sys2Proof.Machine.execImageStopAndSelfTest slice cmd s
  | .imageMoveOut slice cmd => Sys2Proof.Machine.execImageMoveOut slice cmd s
  | .imageMoveIn slice cmd => Sys2Proof.Machine.execImageMoveIn slice cmd s
  | .imageSeal slice => Sys2Proof.Machine.execImageSeal slice s
  | .imageOperationComplete slice => Sys2Proof.Machine.execImageOperationComplete slice s
  | .boundaryArrival core a => Sys2Proof.Machine.execBoundaryArrival core a s
  | .selfTestComplete slice pass => Sys2Proof.Machine.execSelfTestComplete slice pass s
  | .architecturalPreemption block => Sys2Proof.Machine.execArchitecturalPreemption block s
  | .tenantSliceEnd part next => Sys2Proof.Machine.execTenantSliceEnd part next s
  | .partitionCreate n slices commons wsc keyId verified => Sys2Proof.Machine.execPartitionCreate n slices commons wsc keyId verified s
  | .partitionEnd n => Sys2Proof.Machine.execPartitionEnd n s
  | .sliceMove slice src dst keep => Sys2Proof.Machine.execSliceMove slice src dst keep s
  | .coopRestore launch => Sys2Proof.Machine.execCoopRestore launch s
  | .windowStoreSizing slice counts => Sys2Proof.Machine.execWindowStoreSizing slice counts s
  | .imageStoreSizing part slots => Sys2Proof.Machine.execImageStoreSizing part slots s
  | .healthCertificate nonce time => Sys2Proof.Machine.execHealthCertificate nonce time s
  | .spdmAttestation nonce => Sys2Proof.Machine.execSpdmAttestation nonce s
  | .boot verified => Sys2Proof.Machine.execBoot verified s
  | .invarAdjust core slacks => Sys2Proof.Machine.execInvarAdjust core slacks s
  | .binHourTick core temp volt => Sys2Proof.Machine.execBinHourTick core temp volt s
  | .fieldTestSchedule core => Sys2Proof.Machine.execFieldTestSchedule core s
  | .deconfiguration slice pair => Sys2Proof.Machine.execDeconfiguration slice pair s
  | .thermalThrottle on => Sys2Proof.Machine.execThermalThrottle on s
  | .serviceCoreMemoryAccess slice a => Sys2Proof.Machine.execServiceCoreMemoryAccess slice a s
  | .unassignedOpcode word => Sys2Proof.Machine.execUnassignedOpcode word s
  | .errorInUnconsumedData line => Sys2Proof.Machine.execErrorInUnconsumedData line s
  | .partitionChange n commons wsc => Sys2Proof.Machine.execPartitionChange n commons wsc s
  | .nop => Sys2Proof.Machine.execNop s
  | .thermalShutdown => Sys2Proof.Machine.execThermalShutdown s
  | .marginMeasurement slice sram hbm => Sys2Proof.Machine.execMarginMeasurement slice sram hbm s

end Sys2Proof.Machine
end

