-- ==== Sys2Proof/Machine/Regs.lean ====
section
/-! DEFINITION. The registers that each instruction word names: those it writes, and its sources in the
order of its operand fields, for the scoreboard (R31, R122) and for replays (R385); and the pipe it occupies (R10). -/

namespace Sys2Proof.Machine

/-- The registers that a word writes, or may write. -/
def destRegs : Instr → List RegUse
  | .iadd o => useReg o.d (tagRegs o.t)
  | .isub o => useReg o.d (tagRegs o.t)
  | .imul o => useReg o.d (tagRegs o.t)
  | .imulh o => useReg o.d (tagRegs o.t)
  | .imad o => useReg o.d (tagRegs o.t)
  | .idiv o => useReg o.d (tagRegs o.t)
  | .irem o => useReg o.d (tagRegs o.t)
  | .imin o => useReg o.d (tagRegs o.t)
  | .imax o => useReg o.d (tagRegs o.t)
  | .iabs o => useReg o.d (tagRegs o.t)
  | .and o => useReg o.d (tagRegs o.t)
  | .or o => useReg o.d (tagRegs o.t)
  | .xor o => useReg o.d (tagRegs o.t)
  | .andn o => useReg o.d (tagRegs o.t)
  | .shl o => useReg o.d (tagRegs o.t)
  | .shr o => useReg o.d (tagRegs o.t)
  | .shra o => useReg o.d (tagRegs o.t)
  | .rotl o => useReg o.d (tagRegs o.t)
  | .popc o => useReg o.d
  | .clz o => useReg o.d
  | .brev o => useReg o.d (tagRegs o.t)
  | .bfx o => useReg o.d (tagRegs o.t)
  | .bfi o => useReg o.d (tagRegs o.t)
  | .lea o => useReg o.d 2
  | .sel o => useReg o.d (tagRegs o.t)
  | .icmp o => useReg o.d
  | .mov o => useReg o.d (tagRegs o.t)
  | .movi o => useReg o.d (tagRegs o.t)
  | .movs o => useReg o.d (srWidth o.sr / 32)
  | .iaddi o => useReg o.d (tagRegs o.t)
  | .lopi o => useReg o.d (tagRegs o.t)
  | .fadd o => useReg o.d (tagRegs o.t)
  | .fsub o => useReg o.d (tagRegs o.t)
  | .fmul o => useReg o.d (tagRegs o.t)
  | .ffma o => useReg o.d (tagRegs o.t)
  | .fmin o => useReg o.d (tagRegs o.t)
  | .fmax o => useReg o.d (tagRegs o.t)
  | .fcmp o => useReg o.d
  | .frcp o => useReg o.d (tagRegs o.t)
  | .frsq o => useReg o.d (tagRegs o.t)
  | .fsqrt o => useReg o.d (tagRegs o.t)
  | .fdiv o => useReg o.d (tagRegs o.t)
  | .fexp2 o => useReg o.d (tagRegs o.t)
  | .flog2 o => useReg o.d (tagRegs o.t)
  | .fsin o => useReg o.d (tagRegs o.t)
  | .fcos o => useReg o.d (tagRegs o.t)
  | .ftanh o => useReg o.d (tagRegs o.t)
  | .fclass o => useReg o.d (tagRegs o.t)
  | .frnd o => useReg o.d (tagRegs o.t)
  | .cvt o => useReg o.d (tagRegs o.t)
  | .pack o => useReg o.d
  | .unpk o => useReg o.d
  | .fdot2 o => useReg o.d (tagRegs o.t)
  | .idot4 o => useReg o.d (tagRegs o.t)
  | .afnew o => useAf o.d
  | .afcst o => useAf o.d
  | .afadd o => useAf o.d
  | .afsub o => useAf o.d
  | .afscl o => useAf o.d
  | .afmul o => useAf o.d
  | .afsqr o => useAf o.d
  | .afrcp o => useAf o.d
  | .afsqrt o => useAf o.d
  | .afexp o => useAf o.d
  | .afcnd o => useAf o.d
  | .afrng o => useReg o.d 2
  | .afget o => useReg o.d
  | .afsym o => useReg o.d
  | .afld o => useAf o.r
  | .afst _ => []
  | .plop _ => []
  | .pmov (.get _ d) => useReg d
  | .pmov (.set _ _ _ _) => []
  | .vote o => useReg o.d 4
  | .shfl o => useReg o.d
  | .gred o => useReg o.d (tagRegs o.t)
  | .gscan o => useReg o.d (tagRegs o.t)
  | .elect o => useReg o.d
  | .matchLanes o => useReg o.d 4
  | .ld o => useSrc o.ds (memRegs o.mt)
  | .st _ => []
  | .lds o => useSrc o.ds (memRegs o.mt)
  | .sts _ => []
  | .ldk o => useReg o.d (o.cntm1.val + 1)
  | .fence _ => []
  | .pref _ => []
  | .ldx _ => useV 0 256
  | .stx _ => []
  | .cctl _ => []
  | .atom o => useReg o.d (tagRegs o.t)
  | .atoms o => useReg o.d (tagRegs o.t)
  | .red _ => []
  | .ixset _ => []
  | .bop _ => []
  | .cpy _ => []
  | .cpym _ => []
  | .cpyx _ => []
  | .cpyw _ => []
  | .synci _ => []
  | .synca _ => []
  | .syncw _ => []
  | .synct _ => []
  | .vadd _ => []
  | .vsub _ => []
  | .vmul _ => []
  | .vfma _ => []
  | .vmin _ => []
  | .vmax _ => []
  | .vexp _ => []
  | .vrsq _ => []
  | .vrcp _ => []
  | .vtanh _ => []
  | .vcvt _ => []
  | .vred _ => []
  | .vscan _ => []
  | .vgth _ => []
  | .vsct _ => []
  | .vmov _ => []
  | .vsel _ => []
  | .vcmp _ => []
  | .vlrec _ => []
  | .mma _ => []
  | .mmap _ => []
  | .mmas _ => []
  | .mwait _ => []
  | .mopr _ => []
  | .mzero _ => []
  | .mldc _ => []
  | .mstc _ => []
  | .bra _ => []
  | .bri _ => []
  | .call o => useReg o.sp 2
  | .ret o => useReg o.a 2
  | .exitT _ => []
  | .yield _ => []
  | .bar _ => []
  | .lnch _ => []
  | .wwait _ => []
  | .wwake _ => []
  | .nopre _ => []
  | .wend _ => []
  | .wemit _ => []
  | .wclose _ => []
  | .wpnld o => useReg o.a 128
  | .wpnst _ => []
  | .wfwd _ => []
  | .nsend _ => []
  | .nrecv _ => []
  | .nctr o => useReg o.a 2
  | .trap _ => []
  | .sysc o => useReg o.d
  | .eret _ => []
  | .movy o => useReg o.d 2
  | .movyw _ => []
  | .bkpt _ => []
  | .tlbi _ => []
  | .demotionEnd _ _ => []
  | .groupStarved _ => []
  | .trapEntry _ => []
  | .translationFaultResolution _ _ _ => []
  | .pageWalk _ _ => []
  | .tlbiComplete _ _ => []
  | .loadReturn _ _ => []
  | .storeAcknowledgement _ => []
  | .atomicReturn _ _ => []
  | .promotionRequest _ => []
  | .hostCxlAccess _ _ => []
  | .groupSwapOut _ => []
  | .groupResume _ _ _ => []
  | .launchAccept _ => []
  | .blockPlacement _ => []
  | .dispatchPromiseRestore _ => []
  | .groupRetire _ => []
  | .launchTimeout _ => []
  | .launchKill _ => []
  | .notify _ _ => []
  | .nopPacket _ _ => []
  | .launchPacket _ _ => []
  | .waitPacket _ _ => []
  | .signalPacket _ _ => []
  | .queueWaitRecheck _ _ => []
  | .queueWaitTimeout _ _ => []
  | .budgetPeriodBoundary _ => []
  | .nopreBudgetExpiry _ => []
  | .parkedGroupResolution _ _ => []
  | .waitEvaluation _ _ => []
  | .wwaitTimeout _ _ => []
  | .unregisteredWaitPoll _ _ => []
  | .hostWakeWrite _ _ _ => []
  | .symbolDraw _ => []
  | .copyLanding _ _ _ => []
  | .matrixOpStart _ _ => []
  | .matrixOperandRelease _ _ => []
  | .matrixOpRetire _ _ => []
  | .sweepStart _ => []
  | .sweepComplete _ => []
  | .bopComplete _ _ => []
  | .syscNull _ _ => []
  | .shapeInstall _ _ _ => []
  | .shapeFree _ _ => []
  | .specInstall _ _ => []
  | .specRemove _ _ => []
  | .streamInstall _ _ _ => []
  | .mbotumService _ _ _ _ => []
  | .syscReply _ _ => []
  | .uncorrectableError _ _ _ _ => []
  | .recordIngest _ _ => []
  | .recordDelivery _ _ _ => []
  | .activationStart _ _ => []
  | .watermarkUpdate _ _ => []
  | .closeEvent _ _ _ => []
  | .packetTransmission _ _ _ => []
  | .networkPacketArrival _ _ => []
  | .selectiveAckArrival _ _ _ _ => []
  | .lossDetection _ _ _ => []
  | .connectionSetup _ _ _ => []
  | .imageStop _ _ => []
  | .imageRestore _ _ => []
  | .imageDiscard _ _ => []
  | .imageStopAndSelfTest _ _ => []
  | .imageMoveOut _ _ => []
  | .imageMoveIn _ _ => []
  | .imageSeal _ => []
  | .imageOperationComplete _ => []
  | .boundaryArrival _ _ => []
  | .selfTestComplete _ _ => []
  | .architecturalPreemption _ => []
  | .tenantSliceEnd _ _ => []
  | .partitionCreate _ _ _ _ _ _ => []
  | .partitionEnd _ => []
  | .sliceMove _ _ _ _ => []
  | .coopRestore _ => []
  | .windowStoreSizing _ _ => []
  | .imageStoreSizing _ _ => []
  | .healthCertificate _ _ => []
  | .spdmAttestation _ => []
  | .boot _ => []
  | .invarAdjust _ _ => []
  | .binHourTick _ _ _ => []
  | .fieldTestSchedule _ => []
  | .deconfiguration _ _ => []
  | .thermalThrottle _ => []
  | .serviceCoreMemoryAccess _ _ => []
  | .unassignedOpcode _ => []
  | .errorInUnconsumedData _ => []
  | .partitionChange _ _ _ => []
  | .nop => []
  | .thermalShutdown => []
  | .marginMeasurement _ _ _ => []

/-- The registers that a word reads, in the order of its operand fields. -/
def sourceRegs : Instr → List RegUse
  | .iadd o => useSrc o.a (tagRegs o.t) ++ useSrc o.b (tagRegs o.t)
  | .isub o => useSrc o.a (tagRegs o.t) ++ useSrc o.b (tagRegs o.t)
  | .imul o => useSrc o.a (tagRegs o.t) ++ useSrc o.b (tagRegs o.t)
  | .imulh o => useSrc o.a (tagRegs o.t) ++ useSrc o.b (tagRegs o.t)
  | .imad o => useSrc o.a (tagRegs o.t) ++ useSrc o.b (tagRegs o.t) ++ useSrc o.c (tagRegs o.t)
  | .idiv o => useSrc o.a (tagRegs o.t) ++ useSrc o.b (tagRegs o.t)
  | .irem o => useSrc o.a (tagRegs o.t) ++ useSrc o.b (tagRegs o.t)
  | .imin o => useSrc o.a (tagRegs o.t) ++ useSrc o.b (tagRegs o.t)
  | .imax o => useSrc o.a (tagRegs o.t) ++ useSrc o.b (tagRegs o.t)
  | .iabs o => useSrc o.a (tagRegs o.t)
  | .and o => useSrc o.a (tagRegs o.t) ++ useSrc o.b (tagRegs o.t)
  | .or o => useSrc o.a (tagRegs o.t) ++ useSrc o.b (tagRegs o.t)
  | .xor o => useSrc o.a (tagRegs o.t) ++ useSrc o.b (tagRegs o.t)
  | .andn o => useSrc o.a (tagRegs o.t) ++ useSrc o.b (tagRegs o.t)
  | .shl o => useSrc o.a (tagRegs o.t) ++ useSrc o.b
  | .shr o => useSrc o.a (tagRegs o.t) ++ useSrc o.b
  | .shra o => useSrc o.a (tagRegs o.t) ++ useSrc o.b
  | .rotl o => useSrc o.a (tagRegs o.t) ++ useSrc o.b
  | .popc o => useSrc o.a (tagRegs o.t)
  | .clz o => useSrc o.a (tagRegs o.t)
  | .brev o => useSrc o.a (tagRegs o.t)
  | .bfx o => useSrc o.a (tagRegs o.t) ++ useSrc o.b ++ useSrc o.c
  | .bfi o => useSrc o.a (tagRegs o.t) ++ useSrc o.b ++ useSrc o.c
  | .lea o => useSrc o.a 2 ++ useSrc o.b ++ useSrc o.c
  | .sel o => useSrc o.a (tagRegs o.t) ++ useSrc o.b (tagRegs o.t)
  | .icmp o => useSrc o.a (tagRegs o.t) ++ useSrc o.b (tagRegs o.t)
  | .mov o => useSrc o.a (tagRegs o.t)
  | .movi _ => []
  | .movs _ => []
  | .iaddi o => useSrc o.a (tagRegs o.t)
  | .lopi o => useSrc o.a (tagRegs o.t)
  | .fadd o => useSrc o.a (tagRegs o.t) ++ useSrc o.b (tagRegs o.t)
  | .fsub o => useSrc o.a (tagRegs o.t) ++ useSrc o.b (tagRegs o.t)
  | .fmul o => useSrc o.a (tagRegs o.t) ++ useSrc o.b (tagRegs o.t)
  | .ffma o => useSrc o.a (tagRegs o.t) ++ useSrc o.b (tagRegs o.t) ++ useSrc o.c (tagRegs o.t)
  | .fmin o => useSrc o.a (tagRegs o.t) ++ useSrc o.b (tagRegs o.t)
  | .fmax o => useSrc o.a (tagRegs o.t) ++ useSrc o.b (tagRegs o.t)
  | .fcmp o => useSrc o.a (tagRegs o.t) ++ useSrc o.b (tagRegs o.t)
  | .frcp o => useSrc o.a (tagRegs o.t)
  | .frsq o => useSrc o.a (tagRegs o.t)
  | .fsqrt o => useSrc o.a (tagRegs o.t)
  | .fdiv o => useSrc o.a (tagRegs o.t) ++ useSrc o.b (tagRegs o.t)
  | .fexp2 o => useSrc o.a (tagRegs o.t)
  | .flog2 o => useSrc o.a (tagRegs o.t)
  | .fsin o => useSrc o.a (tagRegs o.t)
  | .fcos o => useSrc o.a (tagRegs o.t)
  | .ftanh o => useSrc o.a (tagRegs o.t)
  | .fclass o => useSrc o.a (tagRegs o.t)
  | .frnd o => useSrc o.a (tagRegs o.t)
  | .cvt o => useSrc o.a (tagRegs o.src)
  | .pack o => useSrc o.a ++ useSrc o.b ++ useSrc o.c
  | .unpk o => useSrc o.a
  | .fdot2 o => useSrc o.a (tagRegs o.t) ++ useSrc o.b (tagRegs o.t) ++ useSrc o.c (tagRegs o.t)
  | .idot4 o => useSrc o.a (tagRegs o.t) ++ useSrc o.b (tagRegs o.t) ++ useSrc o.c (tagRegs o.t)
  | .afnew o => useSrc o.a ++ useSrc o.b
  | .afcst o => useSrc o.a
  | .afadd o => useAf o.a ++ useAf o.b
  | .afsub o => useAf o.a ++ useAf o.b
  | .afscl o => useAf o.a ++ useSrc o.s ++ useSrc o.t
  | .afmul o => useAf o.a ++ useAf o.b
  | .afsqr o => useAf o.a
  | .afrcp o => useAf o.a
  | .afsqrt o => useAf o.a
  | .afexp o => useAf o.a
  | .afcnd o => useAf o.a ++ useSrc o.k
  | .afrng o => useAf o.a
  | .afget o => useAf o.a ++ useSrc o.b
  | .afsym o => useSrc o.a
  | .afld o => useSrc o.ab 2
  | .afst o => useAf o.r ++ useSrc o.ab 2
  | .plop _ => []
  | .pmov (.get _ _) => []
  | .pmov (.set _ _ a _) => useSrc a
  | .vote o => useMask o.mask
  | .shfl o => useSrc o.a ++ useSrc o.b ++ useMask o.mask
  | .gred o => useSrc o.a (tagRegs o.t) ++ useMask o.mask
  | .gscan o => useSrc o.a (tagRegs o.t) ++ useMask o.mask
  | .elect o => useMask o.mask
  | .matchLanes o => useSrc o.a (tagRegs o.t) ++ useMask o.mask
  | .ld o => useSrc o.ab 2
  | .st o => useSrc o.ds (memRegs o.mt) ++ useSrc o.ab 2
  | .lds o => useSrc o.ab
  | .sts o => useSrc o.ds (memRegs o.mt) ++ useSrc o.ab
  | .ldk o => useSrc o.ab 2
  | .fence _ => []
  | .pref o => useSrc o.ab 2
  | .ldx o => useV o.idx.val 1 ++ useSrc o.ab 2
  | .stx o => useV 0 256 ++ useSrc o.ab 2
  | .cctl o => useSrc o.ab 2
  | .atom o => useSrc o.a 2 ++ useAtomB o
  | .atoms o => useSrc o.a ++ useAtomB o
  | .red o => useSrc o.a 2 ++ useSrc o.b (tagRegs o.t)
  | .ixset o => useSrc o.a ++ useSrc o.b
  | .bop o => useVf o
  | .cpy o => useK o.kd.val 4 ++ useK o.ks.val 4 ++ useK o.ky.val 4
  | .cpym o => useK o.kd.val 4 ++ useK o.ks.val 4 ++ useK o.ky.val 4
  | .cpyx o => useK o.kd.val 4 ++ useK o.ks.val 4 ++ useK o.ky.val 4
  | .cpyw o => useK o.kd.val 4 ++ useK o.ks.val 4 ++ useK o.ky.val 4
  | .synci o => useK o.kd.val 4 ++ useK o.ks.val 4 ++ useK o.ky.val 4
  | .synca o => useK o.kd.val 4 ++ useK o.ks.val 4 ++ useK o.ky.val 4
  | .syncw o => useK o.kd.val 4 ++ useK o.ks.val 4 ++ useK o.ky.val 4
  | .synct o => useK o.kd.val 4 ++ useK o.ks.val 4 ++ useK o.ky.val 4
  | .vadd o => useVf o
  | .vsub o => useVf o
  | .vmul o => useVf o
  | .vfma o => useVf o
  | .vmin o => useVf o
  | .vmax o => useVf o
  | .vexp o => useVf o
  | .vrsq o => useVf o
  | .vrcp o => useVf o
  | .vtanh o => useVf o
  | .vcvt o => useVf o
  | .vred o => useVf o
  | .vscan o => useVf o
  | .vgth o => useVf o
  | .vsct o => useVf o
  | .vmov o => useVf o
  | .vsel o => useVf o
  | .vcmp o => useVf o
  | .vlrec o => useVf o
  | .mma o => useK o.ka.val 1 ++ useK o.kb.val 1 ++ useK o.km.val 1
  | .mmap o => useK o.ka.val 1 ++ useK o.kb.val 1 ++ useK o.km.val 1
  | .mmas o => useK o.ka.val 1 ++ useK o.kb.val 1 ++ useK o.km.val 1
  | .mwait o => useK o.ka.val 1 ++ useK o.kb.val 1 ++ useK o.km.val 1
  | .mopr o => useK o.ka.val 1 ++ useK o.kb.val 1 ++ useK o.km.val 1
  | .mzero o => useK o.ka.val 1 ++ useK o.kb.val 1 ++ useK o.km.val 1
  | .mldc o => useK o.ka.val 1 ++ useK o.kb.val 1 ++ useK o.km.val 1
  | .mstc o => useK o.ka.val 1 ++ useK o.kb.val 1 ++ useK o.km.val 1
  | .bra _ => []
  | .bri o => useReg o.a 2
  | .call o => useCall o
  | .ret o => useReg o.a 2
  | .exitT _ => []
  | .yield _ => []
  | .bar _ => []
  | .lnch o => useReg o.a 2
  | .wwait o => useWait o
  | .wwake o => useReg o.a 2
  | .nopre _ => []
  | .wend _ => useV 0 128
  | .wemit o => useReg o.key 2 ++ useReg o.time 2 ++ useV o.first.val 12
  | .wclose _ => []
  | .wpnld o => useSrc o.b
  | .wpnst o => useReg o.a 128 ++ useSrc o.b
  | .wfwd o => useReg o.a 2
  | .nsend o => useReg o.a 2
  | .nrecv o => useReg o.a 2
  | .nctr _ => []
  | .trap _ => []
  | .sysc o => useReg o.a 2
  | .eret _ => []
  | .movy _ => []
  | .movyw o => useSrc o.a 2
  | .bkpt _ => []
  | .tlbi o => useReg o.d ++ useReg o.a 2
  | .demotionEnd _ _ => []
  | .groupStarved _ => []
  | .trapEntry _ => []
  | .translationFaultResolution _ _ _ => []
  | .pageWalk _ _ => []
  | .tlbiComplete _ _ => []
  | .loadReturn _ _ => []
  | .storeAcknowledgement _ => []
  | .atomicReturn _ _ => []
  | .promotionRequest _ => []
  | .hostCxlAccess _ _ => []
  | .groupSwapOut _ => []
  | .groupResume _ _ _ => []
  | .launchAccept _ => []
  | .blockPlacement _ => []
  | .dispatchPromiseRestore _ => []
  | .groupRetire _ => []
  | .launchTimeout _ => []
  | .launchKill _ => []
  | .notify _ _ => []
  | .nopPacket _ _ => []
  | .launchPacket _ _ => []
  | .waitPacket _ _ => []
  | .signalPacket _ _ => []
  | .queueWaitRecheck _ _ => []
  | .queueWaitTimeout _ _ => []
  | .budgetPeriodBoundary _ => []
  | .nopreBudgetExpiry _ => []
  | .parkedGroupResolution _ _ => []
  | .waitEvaluation _ _ => []
  | .wwaitTimeout _ _ => []
  | .unregisteredWaitPoll _ _ => []
  | .hostWakeWrite _ _ _ => []
  | .symbolDraw _ => []
  | .copyLanding _ _ _ => []
  | .matrixOpStart _ _ => []
  | .matrixOperandRelease _ _ => []
  | .matrixOpRetire _ _ => []
  | .sweepStart _ => []
  | .sweepComplete _ => []
  | .bopComplete _ _ => []
  | .syscNull _ _ => []
  | .shapeInstall _ _ _ => []
  | .shapeFree _ _ => []
  | .specInstall _ _ => []
  | .specRemove _ _ => []
  | .streamInstall _ _ _ => []
  | .mbotumService _ _ _ _ => []
  | .syscReply _ _ => []
  | .uncorrectableError _ _ _ _ => []
  | .recordIngest _ _ => []
  | .recordDelivery _ _ _ => []
  | .activationStart _ _ => []
  | .watermarkUpdate _ _ => []
  | .closeEvent _ _ _ => []
  | .packetTransmission _ _ _ => []
  | .networkPacketArrival _ _ => []
  | .selectiveAckArrival _ _ _ _ => []
  | .lossDetection _ _ _ => []
  | .connectionSetup _ _ _ => []
  | .imageStop _ _ => []
  | .imageRestore _ _ => []
  | .imageDiscard _ _ => []
  | .imageStopAndSelfTest _ _ => []
  | .imageMoveOut _ _ => []
  | .imageMoveIn _ _ => []
  | .imageSeal _ => []
  | .imageOperationComplete _ => []
  | .boundaryArrival _ _ => []
  | .selfTestComplete _ _ => []
  | .architecturalPreemption _ => []
  | .tenantSliceEnd _ _ => []
  | .partitionCreate _ _ _ _ _ _ => []
  | .partitionEnd _ => []
  | .sliceMove _ _ _ _ => []
  | .coopRestore _ => []
  | .windowStoreSizing _ _ => []
  | .imageStoreSizing _ _ => []
  | .healthCertificate _ _ => []
  | .spdmAttestation _ => []
  | .boot _ => []
  | .invarAdjust _ _ => []
  | .binHourTick _ _ _ => []
  | .fieldTestSchedule _ => []
  | .deconfiguration _ _ => []
  | .thermalThrottle _ => []
  | .serviceCoreMemoryAccess _ _ => []
  | .unassignedOpcode _ => []
  | .errorInUnconsumedData _ => []
  | .partitionChange _ _ _ => []
  | .nop => []
  | .thermalShutdown => []
  | .marginMeasurement _ _ _ => []

/-- The execution pipes of a sub-core (R10). `other` stands where the spec names no pipe for a word. -/
inductive Pipe
  | integer | float | memory | control | other
  deriving DecidableEq, Repr

/-- Whether a `PMOV` is uniform (R151). -/
def pmovUni : OpPmov → Bool
  | .get _ d => isK d
  | .set _ uni _ _ => uni

/-- The pipe that a word occupies (R10, R130, R165, R191, R258, R345, R386). -/
def pipeOf : Instr → Pipe
  | .iadd o => if isK o.d then .control else .integer
  | .isub o => if isK o.d then .control else .integer
  | .imul o => if isK o.d then .control else .integer
  | .imulh o => if isK o.d then .control else .integer
  | .imad o => if isK o.d then .control else .integer
  | .idiv o => if isK o.d then .control else .integer
  | .irem o => if isK o.d then .control else .integer
  | .imin o => if isK o.d then .control else .integer
  | .imax o => if isK o.d then .control else .integer
  | .iabs o => if isK o.d then .control else .integer
  | .and o => if isK o.d then .control else .integer
  | .or o => if isK o.d then .control else .integer
  | .xor o => if isK o.d then .control else .integer
  | .andn o => if isK o.d then .control else .integer
  | .shl o => if isK o.d then .control else .integer
  | .shr o => if isK o.d then .control else .integer
  | .shra o => if isK o.d then .control else .integer
  | .rotl o => if isK o.d then .control else .integer
  | .popc o => if isK o.d then .control else .integer
  | .clz o => if isK o.d then .control else .integer
  | .brev o => if isK o.d then .control else .integer
  | .bfx o => if isK o.d then .control else .integer
  | .bfi o => if isK o.d then .control else .integer
  | .lea o => if isK o.d then .control else .integer
  | .sel o => if isK o.d then .control else .integer
  | .icmp o => if isK o.d then .control else .integer
  | .mov o => if isK o.d then .control else .integer
  | .movi o => if isK o.d then .control else .integer
  | .movs o => if isK o.d then .control else .memory
  | .iaddi o => if isK o.d then .control else .integer
  | .lopi o => if isK o.d then .control else .integer
  | .fadd o => if isK o.d then .control else .float
  | .fsub o => if isK o.d then .control else .float
  | .fmul o => if isK o.d then .control else .float
  | .ffma o => if isK o.d then .control else .float
  | .fmin o => if isK o.d then .control else .float
  | .fmax o => if isK o.d then .control else .float
  | .fcmp o => if isK o.d then .control else .float
  | .frcp o => if isK o.d then .control else .memory
  | .frsq o => if isK o.d then .control else .memory
  | .fsqrt o => if isK o.d then .control else .float
  | .fdiv o => if isK o.d then .control else .float
  | .fexp2 o => if isK o.d then .control else .memory
  | .flog2 o => if isK o.d then .control else .memory
  | .fsin o => if isK o.d then .control else .memory
  | .fcos o => if isK o.d then .control else .memory
  | .ftanh o => if isK o.d then .control else .memory
  | .fclass o => if isK o.d then .control else .float
  | .frnd o => if isK o.d then .control else .float
  | .cvt o => if isK o.d then .control else .float
  | .pack o => if isK o.d then .control else .float
  | .unpk o => if isK o.d then .control else .float
  | .fdot2 o => if isK o.d then .control else .float
  | .idot4 o => if isK o.d then .control else .float
  | .afnew _ => .float
  | .afcst _ => .float
  | .afadd _ => .float
  | .afsub _ => .float
  | .afscl _ => .float
  | .afmul _ => .float
  | .afsqr _ => .float
  | .afrcp _ => .float
  | .afsqrt _ => .float
  | .afexp _ => .float
  | .afcnd _ => .float
  | .afrng _ => .float
  | .afget _ => .float
  | .afsym _ => .control
  | .afld _ => .memory
  | .afst _ => .memory
  | .plop o => if o.uni then .control else .other
  | .pmov o => if pmovUni o then .control else .other
  | .vote _ => .memory
  | .shfl _ => .memory
  | .gred _ => .memory
  | .gscan _ => .memory
  | .elect o => if isK o.d then .control else .memory
  | .matchLanes _ => .memory
  | .ld o => if srcIsK o.ds then .control else .memory
  | .st _ => .memory
  | .lds _ => .memory
  | .sts _ => .memory
  | .ldk _ => .control
  | .fence _ => .memory
  | .pref _ => .memory
  | .ldx _ => .memory
  | .stx _ => .memory
  | .cctl _ => .memory
  | .atom o => if isK o.d then .control else .memory
  | .atoms o => if isK o.d then .control else .memory
  | .red _ => .memory
  | .ixset _ => .memory
  | .bop _ => .control
  | .cpy _ => .control
  | .cpym _ => .control
  | .cpyx _ => .control
  | .cpyw _ => .control
  | .synci _ => .control
  | .synca _ => .control
  | .syncw _ => .control
  | .synct _ => .control
  | .vadd _ => .control
  | .vsub _ => .control
  | .vmul _ => .control
  | .vfma _ => .control
  | .vmin _ => .control
  | .vmax _ => .control
  | .vexp _ => .control
  | .vrsq _ => .control
  | .vrcp _ => .control
  | .vtanh _ => .control
  | .vcvt _ => .control
  | .vred _ => .control
  | .vscan _ => .control
  | .vgth _ => .control
  | .vsct _ => .control
  | .vmov _ => .control
  | .vsel _ => .control
  | .vcmp _ => .control
  | .vlrec _ => .control
  | .mma _ => .control
  | .mmap _ => .control
  | .mmas _ => .control
  | .mwait _ => .control
  | .mopr _ => .control
  | .mzero _ => .control
  | .mldc _ => .control
  | .mstc _ => .control
  | .bra _ => .control
  | .bri _ => .control
  | .call _ => .control
  | .ret _ => .control
  | .exitT _ => .control
  | .yield _ => .control
  | .bar _ => .control
  | .lnch _ => .control
  | .wwait _ => .memory
  | .wwake _ => .memory
  | .nopre _ => .control
  | .wend _ => .memory
  | .wemit _ => .memory
  | .wclose _ => .memory
  | .wpnld _ => .memory
  | .wpnst _ => .memory
  | .wfwd _ => .memory
  | .nsend _ => .other
  | .nrecv _ => .other
  | .nctr _ => .other
  | .trap _ => .control
  | .sysc _ => .memory
  | .eret _ => .control
  | .movy _ => .control
  | .movyw _ => .control
  | .bkpt _ => .control
  | .tlbi _ => .control
  | .demotionEnd _ _ => .other
  | .groupStarved _ => .other
  | .trapEntry _ => .other
  | .translationFaultResolution _ _ _ => .other
  | .pageWalk _ _ => .other
  | .tlbiComplete _ _ => .other
  | .loadReturn _ _ => .other
  | .storeAcknowledgement _ => .other
  | .atomicReturn _ _ => .other
  | .promotionRequest _ => .other
  | .hostCxlAccess _ _ => .other
  | .groupSwapOut _ => .other
  | .groupResume _ _ _ => .other
  | .launchAccept _ => .other
  | .blockPlacement _ => .other
  | .dispatchPromiseRestore _ => .other
  | .groupRetire _ => .other
  | .launchTimeout _ => .other
  | .launchKill _ => .other
  | .notify _ _ => .other
  | .nopPacket _ _ => .other
  | .launchPacket _ _ => .other
  | .waitPacket _ _ => .other
  | .signalPacket _ _ => .other
  | .queueWaitRecheck _ _ => .other
  | .queueWaitTimeout _ _ => .other
  | .budgetPeriodBoundary _ => .other
  | .nopreBudgetExpiry _ => .other
  | .parkedGroupResolution _ _ => .other
  | .waitEvaluation _ _ => .other
  | .wwaitTimeout _ _ => .other
  | .unregisteredWaitPoll _ _ => .other
  | .hostWakeWrite _ _ _ => .other
  | .symbolDraw _ => .other
  | .copyLanding _ _ _ => .other
  | .matrixOpStart _ _ => .other
  | .matrixOperandRelease _ _ => .other
  | .matrixOpRetire _ _ => .other
  | .sweepStart _ => .other
  | .sweepComplete _ => .other
  | .bopComplete _ _ => .other
  | .syscNull _ _ => .other
  | .shapeInstall _ _ _ => .other
  | .shapeFree _ _ => .other
  | .specInstall _ _ => .other
  | .specRemove _ _ => .other
  | .streamInstall _ _ _ => .other
  | .mbotumService _ _ _ _ => .other
  | .syscReply _ _ => .other
  | .uncorrectableError _ _ _ _ => .other
  | .recordIngest _ _ => .other
  | .recordDelivery _ _ _ => .other
  | .activationStart _ _ => .other
  | .watermarkUpdate _ _ => .other
  | .closeEvent _ _ _ => .other
  | .packetTransmission _ _ _ => .other
  | .networkPacketArrival _ _ => .other
  | .selectiveAckArrival _ _ _ _ => .other
  | .lossDetection _ _ _ => .other
  | .connectionSetup _ _ _ => .other
  | .imageStop _ _ => .other
  | .imageRestore _ _ => .other
  | .imageDiscard _ _ => .other
  | .imageStopAndSelfTest _ _ => .other
  | .imageMoveOut _ _ => .other
  | .imageMoveIn _ _ => .other
  | .imageSeal _ => .other
  | .imageOperationComplete _ => .other
  | .boundaryArrival _ _ => .other
  | .selfTestComplete _ _ => .other
  | .architecturalPreemption _ => .other
  | .tenantSliceEnd _ _ => .other
  | .partitionCreate _ _ _ _ _ _ => .other
  | .partitionEnd _ => .other
  | .sliceMove _ _ _ _ => .other
  | .coopRestore _ => .other
  | .windowStoreSizing _ _ => .other
  | .imageStoreSizing _ _ => .other
  | .healthCertificate _ _ => .other
  | .spdmAttestation _ => .other
  | .boot _ => .other
  | .invarAdjust _ _ => .other
  | .binHourTick _ _ _ => .other
  | .fieldTestSchedule _ => .other
  | .deconfiguration _ _ => .other
  | .thermalThrottle _ => .other
  | .serviceCoreMemoryAccess _ _ => .other
  | .unassignedOpcode _ => .other
  | .errorInUnconsumedData _ => .other
  | .partitionChange _ _ _ => .other
  | .nop => .control
  | .thermalShutdown => .other
  | .marginMeasurement _ _ _ => .other

end Sys2Proof.Machine
end

