-- ==== Sys2Proof/Machine/Schedule.lean ====
section
/-! DEFINITION. What happens next: the gang that a sub-core issues (R31..R33, R319, R385), the events that
are due, and those that an engine may perform (spec/95). -/

namespace Sys2Proof.Machine

/-! ## The gang that a group would issue (R32, R385) -/

/-- The registers that a word's sources name, one by one. -/
def flatUses (us : List RegUse) : List (Bool × Nat) :=
  us.flatMap (fun u => (List.range u.len).map (fun i => (u.isK, u.base + i)))

/-- The captured source values of one lane, by register: those of its v or of its k registers (R385). -/
def overRegs (isK : Bool) (us : List (Bool × Nat)) (ws : List Word) : Map Val :=
  ((us.zip ws).filter (fun e => e.1.1 == isK)).foldl (fun m e => mput m e.1.2 ⟨e.2, .b32⟩) []

/-- The sources of a word that a frame's operand rows can hold: at most eight registers. -/
def replaySources (w : DWord) : List (Bool × Nat) :=
  match decodeWord w.toNat with
  | .ok i => let us := flatUses (sourceRegs i); if us.length ≤ 8 then us else []
  | .error _ => []

/-- A replay entry as it issues: with the operands that the frame holds (R385). -/
def replayIssue (gid : Nat) (g : Group) (r : Replay) : Issue :=
  let us := replaySources r.word
  let lanes := replayLanes g r
  { gid := gid, gang := lanes, pc := r.pc
    lent := lanes.map (fun l => (l, overRegs false us (mget [] r.operands l)))
    lentK := overRegs true us (mget [] r.operands (lowest lanes)) }

/-- The gang that a group would issue: a replay before anything else, where its lanes are ready. -/
def groupIssue (gid : Nat) (g : Group) : Option Issue :=
  match g.replay with
  | r :: _ =>
    if hasGang g then some (replayIssue gid g r) else none
  | [] => (issuePc g).map (fun pc => { gid := gid, gang := gangAt g pc, pc := pc })

/-! ## The choice between groups (R48, R319) -/

/-- The fifth key of R319, with the model's own key last. -/
def ageKey (s : State) (gid : Nat) (g : Group) : List Nat :=
  let l := launchOf s g.launch
  [l.accepted, l.order, (blockOf s g.block).idx, g.idx, gid]

/-- The rank of a group, the lowest first (R319). -/
def rankKey (s : State) (gid : Nat) (g : Group) : List Nat :=
  if g.starve ≥ 256 then 0 :: (511 - g.starve) :: ageKey s gid g
  else if g.activation then 1 :: 0 :: gid :: ageKey s gid g
  else
    1 :: 1 :: (7 - (launchOf s g.launch).prio) :: (if spinDetected s g.block then 1 else 0) :: ageKey s gid g

/-- The ranked groups of the device. -/
def rankedGroups (s : State) : List (Nat × Group) := s.groups.filter (fun e => ranked s e.2)

/-- A sub-core, by core and number. -/
def subOf (g : Group) : Nat := g.core * 12 + g.sub

/-- The sub-cores that have a ranked group. -/
def readySubs (s : State) : List Nat := sortNat ((rankedGroups s).map (fun e => subOf e.2))

/-- The pipe of the word that a group would issue, where it can be fetched and is an instruction. -/
def pipeAt (s : State) (q : Issue) : Option Pipe :=
  match ctxOf { s with issue := some q } with
  | none => none
  | some c =>
    match fetchCode s c q.pc with
    | .word w => (match decodeWord w.toNat with | .ok i => some (pipeOf i) | .error _ => none)
    | _ => none

/-- Whether two words may issue in one cycle: they use different pipes (R10, R319). -/
def pipesDiffer (a b : Option Pipe) : Bool :=
  match a, b with
  | some x, some y => x != y || x == .other
  | _, _ => true

/-- Whether two register runs meet. -/
def usesMeet (a b : RegUse) : Bool := a.isK == b.isK && a.base < b.base + b.len && b.base < a.base + a.len

/-- The first issue of a sub-core in a cycle: that of its highest-ranked group (R319). -/
def firstIssue (s : State) (sub : Nat) : Option Issue :=
  match least (fun (e : Nat × Group) => rankKey s e.1 e.2) ((rankedGroups s).filter (fun e => subOf e.2 == sub)) with
  | none => none
  | some a => groupIssue a.1 a.2

/-- The registers that a word writes, or reads. -/
def wordRegs (uses : Instr → List RegUse) (w : DWord) : List RegUse :=
  match decodeWord w.toNat with
  | .ok i => uses i
  | .error _ => []

/-- The word at which an issue stands, where it can be fetched. -/
def wordAt (s : State) (q : Issue) : Option DWord :=
  match ctxOf { s with issue := some q } with
  | none => none
  | some c =>
    match fetchCode s c q.pc with
    | .word w => some w
    | _ => none

/-- The second issue that the group of the first may make: the next word of the same path, on another pipe,
which reads no register that the first writes (R319). -/
def sameGroupSecond (s : State) (x : CoIssue) (p : Option Pipe) : Option Issue :=
  match mfind s.groups x.gid with
  | none => none
  | some g =>
    if !ranked s g then none
    else
      match groupIssue x.gid g with
      | none => none
      | some q =>
        let w := (wordAt s q).getD 0#64
        let clash := (wordRegs sourceRegs w).any (fun a => (wordRegs destRegs x.word).any (usesMeet a))
        if q.pc == x.pc + 8#64 && q.gang == x.gang && pipesDiffer p (pipeAt s q) && !clash then some q else none

/-- The second issue of a cycle: of the first's own group, or that of the highest-ranked other group of the
sub-core whose word uses another pipe (R319). -/
def secondIssue (s : State) (x : CoIssue) : Option Issue :=
  let p : Option Pipe := match decodeWord x.word.toNat with | .ok i => some (pipeOf i) | .error _ => none
  match sameGroupSecond s x p with
  | some q => some q
  | none =>
    let others := (rankedGroups s).filter (fun e => subOf e.2 == x.sub && e.1 != x.gid &&
      (groupIssue e.1 e.2).any (fun q => pipesDiffer p (pipeAt s q)))
    match least (fun (e : Nat × Group) => rankKey s e.1 e.2) others with
    | none => none
    | some b => groupIssue b.1 b.2

/-- One of several, by a free choice of the current step; the only one of a list is no choice (log 1, DESIGN CHOICE). -/
def choose {α : Type} (s : State) (i : Nat) (l : List α) : Option α :=
  match l with
  | [] => none
  | [a] => some a
  | a :: as => some (((a :: as)[Config.freeNat (s.fresh * 65536 + i) % (as.length + 1)]?).getD a)

/-- Whether the sub-cores issue in this cycle: at most one in two while the device is throttled, and none
after it has shut down (R435). -/
def issueCycle (s : State) : Bool :=
  match s.temp with
  | .normal => true
  | .throttled => s.now % 2 == 0
  | .shutDown => false

/-- The sub-core that issues next: one with a starved group before any other (R48); else a free choice
(log 1, DESIGN CHOICE). -/
def nextSub (s : State) : Option Nat :=
  match least (fun (e : Nat × Group) => rankKey s e.1 e.2) (rankedGroups s) with
  | none => none
  | some a => if a.2.starve ≥ 256 then some (subOf a.2) else choose s 60000 (readySubs s)

/-- The gang that issues next: the second issue of a cycle after its first (R319). -/
def nextIssue (s : State) : Option Issue :=
  match s.co.bind (secondIssue s) with
  | some q => some q
  | none => if !issueCycle s then none else (nextSub s).bind (firstIssue s)

/-! ## Issuing -/

/-- The registers that an outstanding access will write. -/
def accessUse (a : Access) : RegUse :=
  ⟨a.uniform, a.dest, if a.kind = .atomic then tagRegs a.t else max 1 (a.size / 4)⟩

/-- Whether the scoreboard holds a word of a gang: an access that is outstanding writes a register that it
reads or writes (R122). -/
def scoreboard (s : State) (q : Issue) (i : Instr) : Bool :=
  let us := sourceRegs i ++ destRegs i
  (coreOf s (groupOf s q.gid).core).acc.any (fun a =>
    q.gang.any (fun l => accOf q.gid l a) && us.any (usesMeet (accessUse a)))

/-- Whether a word makes requests of global memory that the HBM budget of its entry can hold (R320). -/
def asksMemory : Instr → Bool
  | .ld _ | .st _ | .ldk _ | .ldx _ | .stx _ | .atom _ | .red _ | .afld _ | .afst _ | .call _ | .ret _ => true
  | _ => false

/-- A group's demoted paths after one issue opportunity (R38). -/
def countDemotion (g : Group) : Group :=
  mapThreads g (fun _ t => if t.demote > 1 then { t with demote := t.demote - 1 } else t)

/-- The bytes of HBM that the accesses of an issue move: how many of its lines are not cached is free
(log 39, DESIGN CHOICE). -/
def chargeHbm (s : State) (lid : Nat) (q : Issue) (i : Instr) : State :=
  if asksMemory i then
    chargeLines s (launchOf s lid).part (launchOf s lid).budget (8 * q.gang.length)
  else s

/-- Whether an instruction has issued: a gang that waits at its word has not. -/
def hasIssued (q : Issue) (t : State) : Bool :=
  !q.gang.all (fun l =>
    match (threadOf (groupOf t q.gid) l).run with
    | .blocked .retry | .blocked (.walk _ _) => true
    | _ => false)

/-- The threads of an issue, which keep the answers of their walks no longer (R239). -/
def dropWalked (s : State) (q : Issue) : State :=
  modGroup s q.gid (fun g => modThreads g q.gang (fun t => { t with walked := none }))

/-- The activations of an issue have begun (R339). -/
def noteBegun (s : State) (q : Issue) : State :=
  modGroup s q.gid (fun g => modThreads g q.gang (fun t => { t with act := t.act.map (fun a => { a with begun := true }) }))

/-- What an issued instruction counts toward: its group's demotions, its launch's issue share and HBM bytes,
and the second issue of its cycle (R38, R319, R320). -/
def countIssue (lid : Nat) (q : Issue) (w : DWord) (i : Instr) (t : State) : State :=
  if hasIssued q t then
    let t := noteBegun (dropWalked (modGroup t q.gid countDemotion) q) q
    let t := chargeHbm (charge t lid .issue 1) lid q i
    { t with co :=
        match t.co, mfind t.groups q.gid with
        | none, some g => some ⟨subOf g, q.gid, q.gang, q.pc, w⟩
        | _, _ => none }
  else { t with co := none }

/-- A gang that waits at its word. -/
def holdGang (s : State) (q : Issue) : State :=
  modGroup s q.gid (fun g => modThreads g q.gang (fun t => { t with run := .blocked .retry }))

/-- Whether the HBM budget holds a word (R320) (log 39, DESIGN CHOICE). -/
def hbmHolds (s : State) (q : Issue) (i : Instr) : Bool :=
  asksMemory i && hbmHeld s (groupOf s q.gid).launch

/-- Whether an instruction closes the idempotent regions of its threads (R396). -/
def closesRegion (s : State) (q : Issue) (i : Instr) : Bool :=
  match i with
  | .atom _ | .atoms _ | .red _ | .afsym _ | .wend _ | .wemit _ | .wfwd _ | .nsend _ | .nrecv _ | .lnch _ | .wwake _ |
    .sysc _ | .tlbi _ | .trap _ | .bkpt _ => true
  | .fence o => releases o.ord
  | .st o | .sts o => releases o.ord
  | .stx o => releases o.ord
  | .afst o => releases o.ord
  | .bra _ | .bri _ | .call _ | .ret _ | .exitT _ | .yield _ | .bar _ | .nop | .nopre _ | .eret _ | .mwait _ | .mopr _ |
    .syncw _ | .synct _ => false
  | .afnew _ | .afmul _ | .afsqr _ | .afrcp _ | .afsqrt _ | .afexp _ | .afcnd _ => (groupOf s q.gid).afnext == 0
  | _ => pipeOf i == .control

/-- Whether a region still awaits the error checks of the accesses that its threads have outstanding: an
instruction that closes it waits for them (R396) (log 54, DEDUCED). -/
def regionHolds (s : State) (q : Issue) (i : Instr) : Bool :=
  closesRegion s q i &&
    q.gang.any (fun l => (threadOf (groupOf s q.gid) l).region.isSome &&
      (coreOf s (groupOf s q.gid).core).acc.any (accOf q.gid l))

/-- Whether a word finds no credit at the core's boundary block (R13): only while accesses of the core are
outstanding, whose ends give credits back (log 57, DESIGN CHOICE). -/
def creditHolds (s : State) (q : Issue) (i : Instr) : Bool :=
  let k := coreOf s (groupOf s q.gid).core
  asksMemory i && (!k.acc.isEmpty || k.stPend != 0) && freeChoice s 60010

/-- Whether a group has as many unfinished instructions as its replay queue holds: issue waits (R306). -/
def replayFull (s : State) (gid : Nat) : Bool :=
  ((groupAccesses s gid).map (fun a => a.seq)).eraseDups.length ≥ 16

/-- The lanes of a gang of which a list of registers holds the poisoned one (R401). -/
def softLanes (s : State) (q : Issue) (us : List RegUse) : List Nat :=
  q.gang.filter (fun l => (threadOf (groupOf s q.gid) l).soft.any (fun n => us.any (usesMeet ⟨false, n, 1⟩)))

/-- The poisoned registers of some lanes written anew. -/
def clearSoft (s : State) (gid : Nat) (lanes : List Nat) : State :=
  if lanes.isEmpty then s else modGroup s gid (fun g => modThreads g lanes (fun t => { t with soft := none }))

/-- The recovery of lanes that consume a register which a restore put back poisoned (R395, R401). -/
def softRecover (s : State) (q : Issue) (lanes : List Nat) : State :=
  recover (clearSoft s q.gid lanes) q.gid
    { cls := 0x12, lanes := maskOfLanes lanes, gang := maskOfLanes q.gang, pc := q.pc }

/-- A word issued by its gang. -/
def issueWord (s : State) (q : Issue) (w : DWord) (i : Instr) : Out :=
  if scoreboard s q i || regionHolds s q i || creditHolds s q i || replayFull s q.gid then .next (holdGang s q)
  else if hbmHolds s q i then .next (holdGang (noteHeld s (groupOf s q.gid).launch) q)
  else if !(softLanes s q (sourceRegs i)).isEmpty then .next (softRecover s q (softLanes s q (sourceRegs i)))
  else
    match exec i s with
    | .next t => .next (clearSoft (countIssue (groupOf s q.gid).launch q w i t) q.gid (softLanes s q (destRegs i)))
    | o => o

/-- The instruction that a word is, as the device executes it. -/
def instrOf (w : DWord) : Instr :=
  match decodeWord w.toNat with
  | .ok i => i
  | .error _ => .unassignedOpcode w

/-- The word of an issue: fetched at its PC, or held by the replay entry (R52, R385). -/
def fetchIssue (s : State) (c : Ctx) (q : Issue) : Fetch :=
  match (groupOf s q.gid).replay with
  | r :: _ => .word r.word
  | [] => fetchCode s c q.pc

/-- The lanes of a replay after its issue: those that have gone on, or that wait for something that lets
them go on, stand where they stood; whether they still owe it. -/
def replayThread (old : Group) (gang : List Nat) (l : Nat) (t : Thread) : Thread :=
  let pc := (threadOf old l).pc
  if !gang.contains l then t
  else
    match t.run with
    | .ready => if t.pc = pc + 8#64 then { t with pc := pc } else t
    | .blocked (.bar _) | .blocked (.sysc _) | .blocked (.tlbi _) => { t with pc := pc - 8#64 }
    | _ => t

/-- Whether a lane must issue its replay again. -/
def owesReplay (t : Thread) : Bool :=
  match t.run with
  | .blocked (.bar _) | .blocked (.sysc _) | .blocked (.tlbi _) => false
  | .blocked _ => true
  | _ => false

/-- A group after the issue of its first replay entry. A trap has emptied the queue. -/
def finishReplay (old : Group) (gang : List Nat) (g : Group) : Group :=
  match g.replay with
  | [] => g
  | r :: rest =>
    let owed := gang.filter (fun l => owesReplay (threadOf g l))
    let g := mapThreads g (replayThread old gang)
    { g with replay := if owed.isEmpty then rest else { r with mask := maskOfLanes owed } :: rest }

/-- The group after an issue: a replay leaves its threads where they stood. -/
def afterIssue (s : State) (q : Issue) (o : Out) : Out :=
  let old := groupOf s q.gid
  if old.replay.isEmpty then o
  else
    match o with
    | .next t => .next (modGroup t q.gid (finishReplay old q.gang))
    | _ => o

/-- The issue of a gang: its word is fetched and executed (R32, R52, R78). -/
def runIssue (s : State) (q : Issue) : Out :=
  let s := { s with issue := some q }
  match ctxOf s with
  | none => .refused .noIssuingGang
  | some c =>
    match fetchIssue s c q with
    | .miss page => .next (missLanes c s q.gang page (q.gang.map (fun l => (l, q.pc))))
    | .fault => .next (trapLanes c s (cTranslation q.pc) q.gang)
    | .word w => afterIssue s q (issueWord s q w (instrOf w))

/-! ## Events that are due -/

/-- The parts of a table turned into events. -/
def eventsOf {α : Type} (m : Map α) (f : Nat → α → List Instr) : List Instr := m.flatMap (fun e => f e.1 e.2)

/-- The events of a thread that are due: the end of its demotion, and of its wait. -/
def threadDue (gid lane : Nat) (t : Thread) : List Instr :=
  (if t.demote == 1 then [.demotionEnd gid t.pc] else []) ++
  (if t.run == .blocked .wwait && t.wwait.any (fun w => w.limit.isSome) then [.wwaitTimeout gid lane] else [])

/-- The events of a group that are due. -/
def groupDue (s : State) (gid : Nat) (g : Group) : List Instr :=
  eventsOf g.threads (threadDue gid) ++
  (if g.starve == 255 && ranked s g then [.groupStarved gid] else []) ++
  (if g.nopre.isSome then [.nopreBudgetExpiry gid] else [])

/-- A deferred stop whose set has left its regions. -/
def stopDue (s : State) (slice : Nat) (o : ImgOp) : List Instr :=
  if o.waiting && !setNoPre s (imageSet s (icCore o.cmd)) then
    [if icOp o.cmd = 4 then .imageStopAndSelfTest slice o.cmd else .imageStop slice o.cmd]
  else []

/-- The events of a slice that are due. -/
def sliceDue (s : State) (n : Nat) (x : Slice) : List Instr :=
  x.imgOps.flatMap (stopDue s n) ++
  x.qslots.flatMap (fun z => if z.waiting.isSome then [.queueWaitTimeout n z.queue] else [])

/-- The events of a partition that are due. -/
def partDue (n : Nat) (p : Partition) : List Instr :=
  eventsOf p.wakes (fun e w => if w.due.isEmpty then [] else [.waitEvaluation n e]) ++
  [.budgetPeriodBoundary n]

/-- A pre-emption that a region has deferred (R393). -/
def blockDue (s : State) (bid : Nat) (b : Block) : List Instr :=
  if b.preempt && !blockNoPre s bid then [.architecturalPreemption bid] else []

/-- Every event that a count, a time or an earlier event makes due, in the model's order (log 1, DESIGN CHOICE). -/
def dueEvents (s : State) : List Instr :=
  eventsOf s.parts partDue ++ eventsOf s.groups (groupDue s) ++ eventsOf s.slices (sliceDue s) ++
  eventsOf s.blocks (blockDue s) ++
  eventsOf s.launches (fun n l => if l.final || lrTimeout l.rcd == 0 then [] else [.launchTimeout n])

/-- The first event of a list that can happen, performed. -/
def firstEnabled (s : State) : List Instr → Option State
  | [] => none
  | i :: is =>
    match exec i s with
    | .next t => some t
    | _ => firstEnabled s is

/-! ## Events of the engines -/

/-- What may return to a core: the data of an access, or the promotion it waits for. -/
def accessEvents (s : State) (core : Nat) (k : Core) : List Instr :=
  ((List.range k.acc.length).zip k.acc).flatMap (fun e =>
    (match owedPromotion s core e.2 with
     | some line => [.promotionRequest line]
     | none => []) ++
    (if k.stopped then [.boundaryArrival core (.response e.1)]
     else
       match e.2.kind with
       | .load => [.loadReturn core e.1]
       | .atomic => [.atomicReturn core e.1]))

/-- What the engines of a core may do. -/
def engineEvents (core : Nat) (k : Core) : List Instr :=
  k.copies.flatMap (fun w =>
    ((List.range w.total).filter (fun n => !w.done.contains n)).map (fun n => .copyLanding core w.cap.id n)) ++
  k.matrix.flatMap (fun w =>
    [.matrixOpStart core w.cap.id, .matrixOperandRelease core w.cap.id, .matrixOpRetire core w.cap.id]) ++
  (if k.sweeps.isEmpty then [] else [.sweepStart core, .sweepComplete core]) ++
  k.bops.map (fun w => if k.stopped then .boundaryArrival core (.bopDone w.cap.id) else .bopComplete core w.cap.id)

/-- What may happen at a core. -/
def coreEvents (s : State) (core : Nat) (k : Core) : List Instr :=
  accessEvents s core k ++ engineEvents core k ++
  (if k.stPend = 0 then []
   else if k.stopped then [.boundaryArrival core (.storeAck k.gentag.toNat)] else [.storeAcknowledgement core])

/-- What may still arrive for a sealed image (R403). -/
def imageEvents (im : Image) : List Instr :=
  let core := im.slice * 16 + im.pos
  if im.isSealed then
    (if im.late < im.stPend then [.boundaryArrival core (.storeAck im.gentag.toNat)] else []) ++
    im.core.bops.map (fun w => .boundaryArrival core (.bopDone w.cap.id))
  else []

/-- What the queue processor may do for a queue slot (R309..R312). -/
def queueEvents (s : State) (slice : Nat) (z : QSlot) : List Instr :=
  [.nopPacket slice z.queue, .launchPacket slice z.queue, .waitPacket slice z.queue,
   .signalPacket slice z.queue, .launchAccept (.queue slice z.queue)] ++
  (match z.waiting, slicePart s slice with
   | some x, some p =>
     let d := descOf s slice z.queue
     let met := (unitRead s p (qdAsid d) (qdLevel d) (pkAddr x) 8).any (waitHolds x)
     if met || s.now ≥ z.checked + 8500 then [.queueWaitRecheck slice z.queue] else []
   | _, _ => [])

/-- The packets that a message may send next: its lowest unsent one, and those lost. -/
def sendEvents (slice : Nat) (m : NetMsg) : List Instr :=
  (m.sent.length :: m.lost).map (fun k => .packetTransmission slice m.id k)

/-- The packets that an answer to a read may send next. -/
def answerEvents (slice : Nat) (a : Answer) : List Instr :=
  (a.sent.length :: a.lost).map (fun k => .packetTransmission slice a.id k)

/-- The service that a request asks for; a shape's slot is free (R357), of those that are free. -/
def serviceEvents (s : State) (slice : Nat) (r : SyscReq) : List Instr :=
  if r.done then [.syscReply slice r.id]
  else
    match r.service with
    | 0 => [.syscNull slice r.id]
    | 1 =>
      let shapes := (partOf s (launchOf s (groupOf s r.group).launch).part).shapes
      let at_ := Config.freeNat (s.fresh * 65536 + 60004) % 2 ^ 20
      let live := (shapes.filter (fun e => e.2.live)).map (fun e => (e.1, ()))
      [.shapeInstall slice r.id (if (mget {} shapes at_).live then mfree live 0 (2 ^ 20) else at_)]
    | 2 => [.shapeFree slice r.id]
    | 3 => [.specInstall slice r.id]
    | 4 => [.specRemove slice r.id]
    | 5 => [.streamInstall slice r.id (freeNow s 60009 ++ freeNow s 60008)]
    | _ => []

/-- The cores on which an activation group may start: those of its home slice, else any of the
partition. -/
def activationCores (s : State) (slice : Nat) : List Nat :=
  match slicePart s slice with
  | none => []
  | some p =>
    let far := (partSlices s p).filter (fun n => n != slice)
    sliceCores s slice ++ far.flatMap (sliceCores s)

/-- What the window engine of a slice may do. -/
def windowEvents (s : State) (n : Nat) (x : Slice) : List Instr :=
  (match x.inbox with
   | .mark st _ :: _ => [.watermarkUpdate n st]
   | _ => []) ++
  x.keyqs.flatMap (fun q =>
    match q.events with
    | .deliver .. :: _ => [.recordDelivery n q.spec q.key]
    | .close .. :: _ | .mark .. :: _ => [.closeEvent n q.spec q.key]
    | [] => []) ++
  (if x.actq.isEmpty then [] else (activationCores s n).map (fun c => .activationStart n c))

/-- What the scan controllers of a slice may do. -/
def scanEvents (s : State) (n : Nat) (x : Slice) : List Instr :=
  if x.imgOps.isEmpty then []
  else [.imageSeal n, .imageOperationComplete n, .selfTestComplete n (freeChoice s 60005)]

/-- What may happen in a slice. -/
def sliceEvents (s : State) (n : Nat) (x : Slice) : List Instr :=
  (List.range x.walks.length).map (fun i => .pageWalk n i) ++ scanEvents s n x ++
  x.qslots.flatMap (queueEvents s n) ++ x.sendq.flatMap (sendEvents n) ++ x.answers.flatMap (answerEvents n) ++ x.reqs.flatMap (serviceEvents s n) ++
  windowEvents s n x ++ x.images.flatMap (fun e => imageEvents e.2)

/-- What may happen in a partition. -/
def partEvents (n : Nat) (p : Partition) : List Instr :=
  [.blockPlacement n] ++ p.streams.map (fun e => .recordIngest n e.1) ++
  p.tlbis.map (fun x => .tlbiComplete n x.id) ++ p.store.flatMap (fun e => imageEvents e.2)

/-- The waits of a group that are registered nowhere. -/
def pollEvents (gid : Nat) (g : Group) : List Instr :=
  (lanesWhere g (fun t => t.run == .blocked .wwait && t.wwait.any (fun w => !w.registered))).map
    (fun l => .unregisteredWaitPoll gid l)

/-- What may happen to a group. -/
def groupEvents (s : State) (gid : Nat) (g : Group) : List Instr :=
  (if (liveLanes g).isEmpty then [.groupRetire gid] else []) ++
  (if g.pending.isEmpty then [] else [.launchAccept (.group gid)]) ++
  (if (lanesWhere g (fun t => t.run == .blocked (.draw true) || t.run == .blocked (.draw false))).isEmpty then []
   else [.symbolDraw gid]) ++
  (if g.park = .frame then [.trapEntry gid] else []) ++ pollEvents gid g ++
  (if g.where_ = .swappedOut ∧ (lanesWhere g (fun t => t.run == .ready)).isEmpty = false then
     [.groupResume gid g.core (freeSub s g.core)] else [])

/-- What may happen to a block that is not resident: its launch's promise restores it (R50), or a saved one
is placed anew (R409). -/
def blockEvents (s : State) (bid : Nat) (b : Block) : List Instr :=
  if b.where_ = .resident then []
  else
    .dispatchPromiseRestore bid ::
    (if b.where_ = .saved then
       match placeFor s (launchOf s b.launch) b.idx none, blockGroups s bid with
       | some (c :: _), gid :: _ => [.groupResume gid c (freeSub s c)]
       | _, _ => []
     else [])

/-- Every event that an engine or a unit of the device may perform now (spec/95). -/
def engineChoices (s : State) : List Instr :=
  eventsOf s.groups (groupEvents s) ++ eventsOf s.blocks (blockEvents s) ++ eventsOf s.cores (coreEvents s) ++
  eventsOf s.slices (sliceEvents s) ++ eventsOf s.parts partEvents

/-- Whether an event can happen. -/
def enabled (s : State) (i : Instr) : Bool :=
  match exec i s with
  | .next _ => true
  | _ => false

/-! ## After a step -/

/-- Paths that wait for a change try their instruction again. -/
def wakeThread (t : Thread) : Thread := if t.run = .blocked .retry then { t with run := .ready } else t

/-- Every such path of the device. -/
def wakeAll (s : State) : State :=
  { s with groups := mmap (fun _ g => mapThreads g (fun _ t => wakeThread t)) s.groups }

/-- Every group's paths that stand at a header enter their blocks. -/
def settleAll (s : State) : State := (mkeys s.groups).foldl (fun s gid => settle s gid 300) s

/-- Whether an issue has done more than to wait where it stood. -/
def progressed (q : Issue) (t : State) : Bool :=
  !q.gang.all (fun l => (threadOf (groupOf t q.gid) l).run == .blocked .retry)

/-- The starvation counts after a cycle (R48): a group that has issued begins anew, and one that was ranked and
has not rises; the step to 256 is an event of its own (log 39, DESIGN CHOICE). -/
def countStarve (issued : Option Nat) (s : State) : State :=
  let next (i : Nat) (g : Group) : Group :=
    if issued = some i then { g with starve := 0 }
    else if g.starve ≠ 255 ∧ ranked s g = true then { g with starve := min 511 (g.starve + 1) }
    else g
  { s with groups := mmap next s.groups }

/-- One step over: a cycle of time, a count of free values, the starvation counts, and the paths that go on
(log 2, log 10, DESIGN CHOICE). `issued` is the group that has issued. -/
def finish (wake : Bool) (issued : Option Nat) (s : State) : State :=
  let s := countStarve issued s
  let s := { s with now := s.now + 1, fresh := s.fresh + 1, issue := none }
  settleAll (if wake then wakeAll s else s)

/-- An event performed as a step. -/
def runEvent (i : Instr) (s : State) : Out :=
  match exec i s with
  | .next t => .next (finish true none t)
  | o => o

/-- An issue performed as a step. -/
def runGang (q : Issue) (s : State) : Out :=
  match runIssue s q with
  | .next t => .next (finish (progressed q t) (if hasIssued q t then some q.gid else none) t)
  | o => o

/-- The event that an engine performs in its turn: one step in 64 serves the events that can happen one after
another, so that none of them waits for ever (R48, R51) (log 1, DESIGN CHOICE). -/
def engineTurn (s : State) (es : List Instr) : Option Instr :=
  if s.fresh % 64 = 63 then es[s.fresh / 64 % es.length]? else none

/-- Whether a group that can issue is starved (R48). -/
def anyStarved (s : State) : Bool := (rankedGroups s).any (fun e => e.2.starve ≥ 256)

/-- The step of the device by itself: an event that is due; else an engine's turn; else an issue or an event of
an engine, where both can happen by a free choice, but a starved group comes first; else a cycle passes. -/
def runDevice (s : State) : Out :=
  match firstEnabled s (dueEvents s) with
  | some t => .next (finish true none t)
  | none =>
    let es := (engineChoices s).filter (enabled s)
    match engineTurn s es, nextIssue s, choose s 60006 es with
    | some i, _, _ => runEvent i s
    | none, some q, none => runGang q s
    | none, some q, some i => if anyStarved s || freeChoice s 60007 then runGang q s else runEvent i s
    | none, none, some i => runEvent i s
    | none, none, none => .next (finish true none s)

/-! ## A word placed where the next step fetches it -/

/-- Where the next step would fetch its instruction, in physical memory: nothing else comes before. -/
def fetchPlace (s : State) : Option Nat :=
  if !s.agenda.isEmpty ∨ (firstEnabled s (dueEvents s)).isSome ∨ ((engineChoices s).any (enabled s)) then none
  else
    match nextIssue s with
    | none => none
    | some q =>
      match ctxOf { s with issue := some q } with
      | none => none
      | some c =>
        let l := launchOf s c.g.launch
        if !c.g.replay.isEmpty then none
        else
          match xlate s c.g (threadOf c.g (lowest c.gang)).walked l.part l.asid l.level q.pc.toNat .exec 512 with
          | .ok pa _ => some pa
          | _ => none

/-- An instruction word put at a physical address, as an image that is loaded before the run. -/
def placeWord (s : State) (pa w : Nat) : State :=
  { s with mem := putBytes s.mem pa (bytesOf 8 w), stale := mdel s.stale (pa / 8) }

/-- The launch record under which a placed word runs: one block of one group, the largest register counts,
level 1. -/
def placedRecord : BitVec 1024 :=
  BitVec.ofNat 1024 (0x0100 + 1 * 2 ^ 40 + 32 * 2 ^ 272 + 16 * 2 ^ 290 + 1024 * 2 ^ 320 + 32 * 2 ^ 331 + 8 * 2 ^ 337 +
    0x100000 * 2 ^ 64)

/-- The header of the block in which a placed word stands: 250 words, which may diverge. -/
def placedHeader : DWord := BitVec.ofNat 64 (0xFF * 2 ^ 56 + 250 * 2 ^ 48 + 2 ^ 37)

/-- The address of that header, in a page that maps to itself. -/
def placedBase : Nat := 0x100000

/-- A thread that stands at a placed word. -/
def placedThread : Thread :=
  { pc := BitVec.ofNat 64 (placedBase + 8), hdr := BitVec.ofNat 64 placedBase, hword := placedHeader, run := .ready }

/-- A page-table leaf of 1 GiB from address 0: readable, writable and executable (R234). -/
def placedLeaf : DWord := 0x79#64

/-- The page tables of the placed launch: a root at 0x10000, and a table at 0x20000 (R233). -/
def placedTables : Map Byte := putBytes (putBytes [] 0x10000 (bytesOf 8 0x20001)) 0x20000 (bytesOf 8 placedLeaf.toNat)

/-- A running launch whose only group stands at a placed word (log 14, DESIGN CHOICE): what the loading of a program from
outside the device brings about. -/
def placedLaunch (s : State) : State :=
  let mem := putBytes placedTables placedBase (bytesOf 8 placedHeader.toNat)
  { s with
    agenda := [], issue := none, co := none, stale := [], booted := true, temp := .normal, mem := mem
    parts := [(0, { state := .running, slices := 1#16, periodNext := nowNs s + 100000,
                     asids := [(0, BitVec.ofNat 128 (1 + 0x10000 * 2 ^ 64))] })]
    slices := [(0, { tlb := [⟨0, 0, 0, placedLeaf, 0, 30⟩] })]
    cores := []
    launches := [(1, { rcd := placedRecord, level := 1, nextBlock := 1, accepted := s.now })]
    blocks := [(2, { launch := 1, cores := [0] })]
    groups := [(3, { block := 2, launch := 1, threads := (List.range 128).map (fun l => (l, placedThread)) })]
    nextId := max s.nextId 4 }

end Sys2Proof.Machine
end

