-- ==== Sys2Proof/Machine/Step.lean ====
section
/-! DEFINITION. One step of the device. -/

namespace Sys2Proof.Machine

/-- One step: the first event of the agenda, which is dropped where it cannot happen; and without one, what
the device does by itself (log 1, DESIGN CHOICE). -/
def step (s : State) : Out :=
  match s.agenda with
  | i :: rest =>
    match exec i { s with agenda := rest } with
    | .next t => .next (finish true none t)
    | .fault r => .fault r
    | .refused _ => .next (finish true none { s with agenda := rest })
  | [] => runDevice s

/-- The state in which the next step fetches and runs a word: it is stored where the next step fetches, or,
where no gang is about to issue, a launch that stands at it runs (log 14, DESIGN CHOICE). -/
def State.withFetchWord (s : State) (nbits w : Nat) : State :=
  match fetchPlace s with
  | some pa => placeWord s pa (w % 2 ^ nbits)
  | none => placeWord (placedLaunch s) (placedBase + 8) (w % 2 ^ nbits)

end Sys2Proof.Machine
end

