-- ==== Sys2Proof/Safety.lean ====
section
/-! DEFINITION. What counts as a safe run, and the terms in which claims about instructions are stated: what a
register instruction leaves behind, which operands can be read, and what stays as it was. -/

namespace Sys2Proof

/-- A number of steps that neither stop nor leave memory out of its canonical form. -/
def safeRun : Nat → Machine.State → Prop
  | 0, s => Machine.Memory.wf s.mem = true
  | n + 1, s => Machine.Memory.wf s.mem = true ∧ ∃ t, Machine.step s = .next t ∧ safeRun n t

namespace Claims

open Machine

/-! ## Operands -/

/-- One register that may be read under a type (R105): void, tagged with the type or b32, or any tag with
`.raw`. -/
def RegReadable (x : Val) (t : Tag) (raw : Bool) : Prop := x.tag = .void ∨ x.tag = t ∨ x.tag = .b32 ∨ raw = true

/-- A pair that mixes a half of s64 with a half of n64 (R105). -/
def Mixed (x y : Val) : Prop := (x.tag = .s64 ∧ y.tag = .n64) ∨ (x.tag = .n64 ∧ y.tag = .s64)

/-- A source operand that may be read under a type (R61, R62, R105). -/
def Readable (v : View) (t : Tag) (s : Src) (raw : Bool := false) : Prop :=
  match s with
  | .reg r =>
    RegReadable (readReg v r) t raw ∧
      (is64 t = true → RegReadable (readReg v (regPlus r 1)) t raw ∧ ¬ Mixed (readReg v r) (readReg v (regPlus r 1)))
  | _ => True

/-- A count operand that may be read (R131). -/
def Counts (v : View) (s : Src) : Prop :=
  match s with
  | .reg r => (readReg v r).tag = .void ∨ (readReg v r).tag = .b32 ∨ (readReg v r).tag = .n32 ∨ (readReg v r).tag = .s32
  | _ => True

/-- A pair that may be read as an address (R105, R258). -/
def Addresses (v : View) (s : Src) : Prop :=
  match s with
  | .reg r =>
    (∀ x, x = readReg v r ∨ x = readReg v (regPlus r 1) → x.tag = .void ∨ x.tag = .b32 ∨ x.tag = .n64 ∨ x.tag = .s64) ∧
      ¬ Mixed (readReg v r) (readReg v (regPlus r 1))
  | _ => True

/-- The bits a register gives: +0 for a void one (R105). -/
def regBits (x : Val) : Nat := if x.tag = .void then 0 else x.bits.toNat

/-- The bits of a source operand under a type (R61, R62, R96). -/
def srcBits (v : View) (t : Tag) (s : Src) : Nat :=
  match s with
  | .reg r => if is64 t then regBits (readReg v r) + regBits (readReg v (regPlus r 1)) * 2 ^ 32 else regBits (readReg v r)
  | .imm i => (immBits t i).getD 0
  | .const c => (constBits t c).getD 0

/-- The bits of a pair source. -/
def pairBits (v : View) (s : Src) : Nat :=
  match s with
  | .reg r => regBits (readReg v r) + regBits (readReg v (regPlus r 1)) * 2 ^ 32
  | s => srcBits v .n64 s

/-! ## Results -/

/-- What a register instruction has written: registers of the destination's file, predicates, and the sticky
flags raised. -/
structure Result where
  regs : List (Nat × Val)
  preds : List (Nat × Bool) := []
  flags : Flags := 0#7

/-- A register file with a result: registers and predicates that the result does not name, and every index register,
are as before, and no flag is lowered (R103). -/
def fileAfter (r : Result) (rf : RegFile) : RegFile :=
  { rf with v := putRegs rf.v r.regs, p := putPreds rf.p r.preds, fp := rf.fp ||| r.flags }

/-- A thread that has taken a result and gone on to the next word (R34). -/
def threadAfter (r : Result) (th : Thread) : Thread :=
  { th with pc := th.pc + 8#64, rf := fileAfter r th.rf, shadow := th.shadow.map (fileAfter r) }

/-- A thread that has gone on to the next word with no other effect (R65). -/
def goesOn (th : Thread) : Thread := { th with pc := th.pc + 8#64 }

/-- A per-thread instruction has completed: each lane of the gang whose predicate is true has taken a result that `ok`
describes, the other lanes of the gang have gone on, and nothing else in the device has changed. -/
def ThreadsDone (c : Ctx) (p : Pred) (ok : View → Result → Prop) (s t : State) : Prop :=
  ∃ r : Nat → Result,
    (∀ l ∈ activeLanes c p, ok (viewOf c s (activeLanes c p) l) (r l)) ∧
    t = modGroup s c.gid (fun g => mapThreads g (fun l th =>
      if l ∈ activeLanes c p then threadAfter (r l) th else if l ∈ c.gang then goesOn th else th))

/-- A thread after a uniform instruction of its gang: it has gone on, the flags are raised in it (R167), and its region
and its spin record are what the write makes of them (R38, R396). -/
def uniThreadAfter (r : Result) (th th' : Thread) : Prop :=
  th' = { th with
    pc := th.pc + 8#64
    rf := { th.rf with fp := th.rf.fp ||| r.flags }
    shadow := th.shadow.map (fun x => { x with fp := x.fp ||| r.flags })
    region := th'.region
    spin := th'.spin }

/-- A uniform instruction has completed: the group's k and q registers have taken a result that `ok` describes, every
thread of the gang has gone on, and nothing else in the device has changed. -/
def UniformDone (c : Ctx) (ok : View → Result → Prop) (s t : State) : Prop :=
  ∃ r : Result, ok (viewOf c s c.gang (lowest c.gang)) r ∧
    ∃ h : Group → Nat → Thread → Thread,
      (∀ g l th, l ∈ c.gang → uniThreadAfter r th (h g l th)) ∧ (∀ g l th, l ∉ c.gang → h g l th = th) ∧
      t = modGroup s c.gid (fun g =>
        { mapThreads g (h g) with
          uni := { k := putRegs g.uni.k r.regs, q := putPreds g.uni.q r.preds }
          uniShadow := { k := putRegs g.uniShadow.k r.regs, q := putPreds g.uniShadow.q r.preds } })

/-- A gang issues a well-formed word in a launch that is not protected, and the word's registers are declared (R79). -/
structure Issues (i : Instr) (us : List RegUse) (s : State) (c : Ctx) : Prop where
  gang : ctxOf s = some c
  wf : wfInstr i = true
  plain : isProt s c.g = false
  declared : usesOk s c.g us = true

/-- A register instruction completes wherever its operands can be read: with a v destination in every lane whose
predicate is true, with a k destination (`uni`) once for the gang, under its q predicate (R34, R35, R63, R65). -/
def Completes (i : Instr) (uni : Bool) (p : Pred) (us : List RegUse) (ready : View → Prop) (ok : View → Result → Prop) :
    Prop :=
  ∀ s c, Issues i us s c →
    (uni = false → (∀ l ∈ activeLanes c p, ready (viewOf c s (activeLanes c p) l)) →
      ∃ t, exec i s = .next t ∧ ThreadsDone c p ok s t) ∧
    (uni = true → predVal c.g.uni.q p = true → ready (viewOf c s c.gang (lowest c.gang)) →
      ∃ t, exec i s = .next t ∧ UniformDone c ok s t) ∧
    (uni = true → predVal c.g.uni.q p = false →
      exec i s = .next (modGroup s c.gid (fun g => modThreads g c.gang goesOn)))

/-- A result of one typed value (R106): the bits `x` in the destination, with the type as tag in each register. -/
def TypedResult (d : Reg) (t : Tag) (x : Nat) (r : Result) : Prop := r.regs = writeVal d t x ∧ r.preds = []

/-- VOID where a register that a source names under a type is void (R105, R125). -/
def voidOf (v : View) (t : Tag) (s : Src) : Flags :=
  match s with
  | .reg r =>
    (if (readReg v r).tag = .void then flVOID else 0#7) |||
      (if is64 t = true ∧ (readReg v (regPlus r 1)).tag = .void then flVOID else 0#7)
  | _ => 0#7

/-- VOID where one of several sources reads a void register, each under its type; no other flag. -/
def voidFlags (v : View) (srcs : List (Tag × Src)) : Flags := srcs.foldl (fun f x => f ||| voidOf v x.1 x.2) 0#7

end Claims

end Sys2Proof
end

