-- ==== Sys2Proof/Certificates/Slice0/Obligations.lean ====
section
/-! DEFINITION. The statements about the model, each a proposition to be proved. -/

/-! ## Integer instructions (R130..R149) -/

namespace Sys2Proof.Claims

open Machine

/-- The range of an integer element (R96). -/
def lowest_ (t : Tag) : Int := if isSigned t then -(2 ^ (elemWidth t - 1)) else 0

/-- The largest value of an integer element (R96). -/
def highest_ (t : Tag) : Int := if isSigned t then 2 ^ (elemWidth t - 1) - 1 else 2 ^ elemWidth t - 1

/-- An exact integer brought into its element: clamped with SAT, else wrapped (R136). -/
def fit (t : Tag) (sat : Bool) (x : Int) : Int :=
  if sat then min (max x (lowest_ t)) (highest_ t) else lowest_ t + (x - lowest_ t) % 2 ^ elemWidth t

/-- The quotient truncated toward zero, by magnitudes (R137). -/
def quotient (a b : Int) : Int := a.sign * b.sign * ((a.natAbs / b.natAbs : Nat) : Int)

/-- The exact results of the arithmetic rows: the instruction, its number of sources and its operation (R136, R137). -/
def arithRows (o : OpA) : List (Instr × Nat × (Int → Int → Int → Int)) :=
  [(.iadd o, 2, fun a b _ => a + b), (.isub o, 2, fun a b _ => a - b), (.imul o, 2, fun a b _ => a * b),
   (.imulh o, 2, fun a b _ => (a * b - a * b % 2 ^ elemWidth o.t) / 2 ^ elemWidth o.t),
   (.imad o, 3, fun a b c => a * b + c), (.imin o, 2, fun a b _ => if a ≤ b then a else b),
   (.imax o, 2, fun a b _ => if a ≤ b then b else a), (.iabs o, 1, fun a _ _ => if a < 0 then -a else a),
   (.idiv o, 2, fun a b _ => if b = 0 then (if isSigned o.t then -1 else highest_ o.t) else quotient a b),
   (.irem o, 2, fun a b _ => if b = 0 then a else a - b * quotient a b)]

/-- The first sources of a format A word. -/
def sources (o : OpA) (n : Nat) : List Src := [o.a, o.b, o.c].take n

/-- The logic rows, bit by bit (R138). -/
def logicRows (o : OpA) : List (Instr × (Bool → Bool → Bool)) :=
  [(.and o, fun a b => a && b), (.or o, fun a b => a || b), (.xor o, fun a b => a != b), (.andn o, fun a b => a && !b)]

/-- The shift rows: bit i of the result, from the bits of `a`, the width and the count (R138). -/
def shiftRows (o : OpA) : List (Instr × ((Nat → Bool) → Nat → Nat → Nat → Bool)) :=
  [(.shl o, fun a _ n i => n ≤ i && a (i - n)), (.shr o, fun a w n i => i + n < w && a (i + n)),
   (.shra o, fun a w n i => if i + n < w then a (i + n) else a (w - 1)),
   (.rotl o, fun a w n i => a ((i + (w - n % w)) % w))]

/-- The value that a bit field of `BFX` leaves (R140): bit i, from the bits of `a`. -/
def fieldBit (t : Tag) (a : Nat → Bool) (pos wid i : Nat) : Bool :=
  let w := elemWidth t
  let f (j : Nat) : Bool := pos + j < w && a (pos + j)
  if i < wid then f i else isSigned t && 0 < wid && f (wid - 1)

/-- The condition CC of `ICMP` on two values (R142). -/
def condition (t : Tag) (cc a b : Nat) : Prop :=
  match cc with
  | 0 => intOf t a = intOf t b
  | 1 => intOf t a ≠ intOf t b
  | 2 => intOf t a < intOf t b
  | 3 => intOf t a ≤ intOf t b
  | 4 => intOf t b < intOf t a
  | 5 => intOf t b ≤ intOf t a
  | 6 => ∃ i, a.testBit i = true ∧ b.testBit i = true
  | _ => ∀ i, ¬ (a.testBit i = true ∧ b.testBit i = true)

/-- A register as the raw forms of `MOV` and `SEL` copy it: a void one gives 0 with tag void (R143, R144). -/
def rawReg (x : Val) : Val := if x.tag = .void then ⟨0#32, .void⟩ else x

/-- The operation of `LOPI` on one bit (R148). -/
def lopBit (lop : Nat) (a b : Bool) : Bool :=
  match lop with
  | 0 => a && b
  | 1 => a || b
  | 2 => a != b
  | _ => a && !b

end Sys2Proof.Claims

section
open Sys2Proof Machine Claims

/-- R136 and R137 for `IADD`, `ISUB`, `IMUL`, `IMULH`, `IMAD`, `IMIN`, `IMAX`, `IABS`, `IDIV` and `IREM`: wherever the
sources can be read under T, the instruction completes; every element of the destination is the exact result brought into
its range, the destination has tag T, and nothing else changes but VOID. -/
def Obligations.IntegerArithmetic : Prop :=
  ∀ (o : OpA) (i : Instr) (n : Nat) (op : Int → Int → Int → Int), (i, n, op) ∈ arithRows o →
    Completes i (isK o.d) o.pred (useA o n)
      (fun v => ∀ x ∈ sources o n, Readable v o.t x)
      (fun v r => r.flags = voidFlags v ((sources o n).map (fun x => (o.t, x))) ∧
        ∃ x, TypedResult o.d o.t x r ∧ x < 2 ^ (elemWidth o.t * elems o.t) ∧
          ∀ e, e < elems o.t →
            intOf o.t (elemOf o.t x e) = fit o.t o.sat
              (op (intOf o.t (elemOf o.t (srcBits v o.t o.a) e)) (intOf o.t (elemOf o.t (srcBits v o.t o.b) e))
                (intOf o.t (elemOf o.t (srcBits v o.t o.c) e))))

/-- R138, R139 and R140 for `AND`, `OR`, `XOR`, `ANDN`, `SHL`, `SHR`, `SHRA`, `ROTL`, `POPC`, `CLZ`, `BREV`, `BFX` and
`BFI`: the result bit by bit, for every count too, and nothing else changes. -/
def Obligations.BitwiseInstructions : Prop :=
  (∀ (o : OpA) (i : Instr) (op : Bool → Bool → Bool), (i, op) ∈ logicRows o →
      Completes i (isK o.d) o.pred (useA o 2)
        (fun v => Readable v o.t o.a ∧ Readable v o.t o.b)
        (fun v r => r.flags = voidFlags v [(o.t, o.a), (o.t, o.b)] ∧
          ∃ x, TypedResult o.d o.t x r ∧
            ∀ b, x.testBit b = (decide (b < elemWidth o.t) &&
              op ((srcBits v o.t o.a).testBit b) ((srcBits v o.t o.b).testBit b)))) ∧
  (∀ (o : OpA) (i : Instr) (op : (Nat → Bool) → Nat → Nat → Nat → Bool), (i, op) ∈ shiftRows o →
      Completes i (isK o.d) o.pred (useShift o)
        (fun v => Readable v o.t o.a ∧ Counts v o.b)
        (fun v r => r.flags = voidFlags v [(o.t, o.a), (.n32, o.b)] ∧
          ∃ x, TypedResult o.d o.t x r ∧
            ∀ b, x.testBit b = (decide (b < elemWidth o.t) &&
              op (srcBits v o.t o.a).testBit (elemWidth o.t) (srcBits v .n32 o.b) b))) ∧
  (∀ o : OpA,
      Completes (.popc o) (isK o.d) o.pred (useCount o) (fun v => Readable v o.t o.a)
        (fun v r => r.flags = voidFlags v [(o.t, o.a)] ∧
          TypedResult o.d .n32 ((List.range (elemWidth o.t)).countP (srcBits v o.t o.a).testBit) r) ∧
      Completes (.clz o) (isK o.d) o.pred (useCount o) (fun v => Readable v o.t o.a)
        (fun v r => r.flags = voidFlags v [(o.t, o.a)] ∧
          ∃ x, TypedResult o.d .n32 x r ∧ x ≤ elemWidth o.t ∧
            (∀ b, elemWidth o.t - x ≤ b → (srcBits v o.t o.a).testBit b = false) ∧
            (x < elemWidth o.t → (srcBits v o.t o.a).testBit (elemWidth o.t - 1 - x) = true)) ∧
      Completes (.brev o) (isK o.d) o.pred (useA o 1) (fun v => Readable v o.t o.a)
        (fun v r => r.flags = voidFlags v [(o.t, o.a)] ∧
          ∃ x, TypedResult o.d o.t x r ∧
            ∀ b, x.testBit b = (decide (b < elemWidth o.t) && (srcBits v o.t o.a).testBit (elemWidth o.t - 1 - b))) ∧
      Completes (.bfx o) (isK o.d) o.pred (useField o)
        (fun v => Readable v o.t o.a ∧ Counts v o.b ∧ Counts v o.c)
        (fun v r => r.flags = voidFlags v [(o.t, o.a), (.n32, o.b), (.n32, o.c)] ∧
          ∃ x, TypedResult o.d o.t x r ∧
            ∀ b, x.testBit b = (decide (b < elemWidth o.t) &&
              fieldBit o.t (srcBits v o.t o.a).testBit (srcBits v .n32 o.b) (min (srcBits v .n32 o.c) (elemWidth o.t)) b)) ∧
      Completes (.bfi o) (isK o.d) o.pred (useField o)
        (fun v => Readable v o.t (.reg o.d) ∧ Readable v o.t o.a ∧ Counts v o.b ∧ Counts v o.c)
        (fun v r => r.flags = voidFlags v [(o.t, .reg o.d), (o.t, o.a), (.n32, o.b), (.n32, o.c)] ∧
          ∃ x, TypedResult o.d o.t x r ∧
            ∀ b, x.testBit b = (decide (b < elemWidth o.t) &&
              (if srcBits v .n32 o.b ≤ b ∧ b < srcBits v .n32 o.b + min (srcBits v .n32 o.c) (elemWidth o.t) then
                (srcBits v o.t o.a).testBit (b - srcBits v .n32 o.b)
              else (srcBits v o.t (.reg o.d)).testBit b))))

/-- R135 and R141 to R148 for `LEA`, `ICMP`, `SEL`, `MOV`, `MOVI`, `MOVS`, `IADDI`, `LOPI` and `NOP`, in their typed and raw
forms. `LEA` keeps the window byte and adds the scaled index to the other 56 bits. -/
def Obligations.AddressesComparesAndMoves : Prop :=
  (∀ o : OpA,
      Completes (.lea o) (isK o.d) o.pred (useReg o.d 2 ++ useSrc o.a 2 ++ useSrc o.b ++ useSrc o.c)
        (fun v => Addresses v o.a ∧ Readable v o.t o.b ∧ Counts v o.c)
        (fun v r => r.flags = voidFlags v [(.n64, o.a), (o.t, o.b), (.n32, o.c)] ∧
          ∃ x, TypedResult o.d .n64 x r ∧ x < 2 ^ 64 ∧ x / 2 ^ 56 = pairBits v o.a / 2 ^ 56 ∧
            ((x % 2 ^ 56 : Nat) : Int) =
              ((pairBits v o.a % 2 ^ 56 : Nat) + intOf o.t (srcBits v o.t o.b) * 2 ^ (srcBits v .n32 o.c % 64)) % 2 ^ 56)) ∧
  (∀ o : OpCmp,
      Completes (.icmp o) (isK o.d) o.pred
        (useReg o.d ++ useSrc o.a (tagRegs o.t) ++ useSrc o.b (tagRegs o.t))
        (fun v => Readable v o.t o.a ∧ Readable v o.t o.b)
        (fun v r => r.flags = voidFlags v [(o.t, o.a), (o.t, o.b)] ∧
          ∃ h : Bool, (h = true ↔ condition o.t o.cc.val (srcBits v o.t o.a) (srcBits v o.t o.b)) ∧
            r.regs = [(regNum o.d, ⟨if h then 0xFFFFFFFF#32 else 0#32, .b32⟩)] ∧ r.preds = [(o.pd.val, h)])) ∧
  ((∀ o : OpSel, Completes (.sel o) (isK o.d) o.pred
      (useReg o.d (tagRegs o.t) ++ useSrc o.a (tagRegs o.t) ++ useSrc o.b (tagRegs o.t))
      (fun v => o.raw = false → Readable v o.t o.a ∧ Readable v o.t o.b)
      (fun v r => ∃ x, x = (if predBit (if isK o.d then v.uni.q else v.rf.p) o.psel.val != o.inv then o.a else o.b) ∧
        r.preds = [] ∧
        (o.raw = false → r.flags = voidFlags v [(o.t, o.a), (o.t, o.b)] ∧ r.regs = writeVal o.d o.t (srcBits v o.t x)) ∧
        (o.raw = true → r.flags = voidFlags v [(.b32, o.a), (.b32, o.b)] ∧
          ∀ y, x = .reg y → r.regs = [(regNum o.d, rawReg (readReg v y))]))) ∧
    (∀ o : OpA, Completes (.mov o) (isK o.d) o.pred (useA o 1)
      (fun v => o.x = false → Readable v o.t o.a)
      (fun v r => r.preds = [] ∧
        (o.x = false → r.flags = voidFlags v [(o.t, o.a)] ∧ r.regs = writeVal o.d o.t (srcBits v o.t o.a)) ∧
        (o.x = true → r.flags = 0#7 ∧ ∀ y, o.a = .reg y → r.regs = [(regNum o.d, rawReg (readReg v y))]))) ∧
    (∀ o : OpL, Completes (.movi o) (isK o.d) o.pred (useReg o.d (tagRegs o.t)) (fun _ => True)
      (fun _ r => r.flags = 0#7 ∧
        TypedResult o.d o.t (if o.t = .s64 then (o.imm.signExtend 64).toNat else o.imm.toNat) r)) ∧
    (∀ o : OpMovs, Completes (.movs o) (isK o.d) o.pred (useReg o.d (srWidth o.sr / 32)) (fun _ => True)
      (fun v r => r.flags = 0#7 ∧ r.preds = [] ∧ r.regs.length = srWidth o.sr / 32 ∧
        ∀ k, k < srWidth o.sr / 32 →
          r.regs[k]? = some (regNum o.d + k, ⟨BitVec.ofNat 32 (srValue v o.sr / 2 ^ (32 * k)), srTag o.sr⟩))) ∧
    (∀ o : OpI, Completes (.iaddi o) (isK o.d) o.pred (useReg o.d (tagRegs o.t) ++ useSrc o.a (tagRegs o.t))
      (fun v => Readable v o.t o.a)
      (fun v r => r.flags = voidFlags v [(o.t, o.a)] ∧
        ∃ x, TypedResult o.d o.t x r ∧
          (x : Int) = ((srcBits v o.t o.a : Int) + o.imm.toInt) % 2 ^ elemWidth o.t)) ∧
    (∀ o : OpLopi, Completes (.lopi o) (isK o.d) o.pred (useReg o.d (tagRegs o.t) ++ useSrc o.a (tagRegs o.t))
      (fun v => Readable v o.t o.a)
      (fun v r => r.flags = voidFlags v [(o.t, o.a)] ∧
        ∃ x, TypedResult o.d o.t x r ∧
          ∀ b, x.testBit b = (decide (b < elemWidth o.t) &&
            lopBit o.lop.val ((srcBits v o.t o.a).testBit b) (o.val.getLsbD (min b 23)))))) ∧
  (∀ s c, ctxOf s = some c → exec .nop s = .next (modGroup s c.gid (fun g => modThreads g c.gang goesOn)))

end

/-! ## Floating-point instructions (R97..R103, R165..R182) -/

namespace Sys2Proof.Claims

open Machine

/-- The magnitude that a pattern without its sign denotes, in units of the format's smallest subnormal (R98); the
pattern after the largest finite one continues the same scale. -/
def units (f : FloatFmt) (p : Nat) : Nat :=
  if p / 2 ^ f.fracBits = 0 then p % 2 ^ f.fracBits
  else (2 ^ f.fracBits + p % 2 ^ f.fracBits) * 2 ^ (p / 2 ^ f.fracBits - 1)

/-- 2 to this power is one, in units of the smallest subnormal. -/
def unitExp (f : FloatFmt) : Nat := f.bias + f.fracBits - 1

/-- A pattern without its sign. -/
def magBits (f : FloatFmt) (b : Nat) : Nat := b % f.signBit

/-- A pattern's sign. -/
def signOf (f : FloatFmt) (b : Nat) : Bool := b / f.signBit % 2 == 1

/-- A NaN (R98). -/
def nanBits (f : FloatFmt) (b : Nat) : Bool := magBits f b > if f.hasInf then f.infBits else f.maxBits

/-- A signalling NaN (R101). -/
def signalling (f : FloatFmt) (b : Nat) : Bool :=
  nanBits f b && f.fracBits ≥ 7 && magBits f b % 2 ^ f.fracBits < 2 ^ (f.fracBits - 1)

/-- An infinity (R98). -/
def infinite (f : FloatFmt) (b : Nat) : Bool := f.hasInf && magBits f b == f.infBits

/-- A finite pattern's value in units of the smallest subnormal. -/
def amount (f : FloatFmt) (b : Nat) : Int :=
  if signOf f b then -(units f (magBits f b) : Int) else units f (magBits f b)

/-- An exact result before its one rounding: a NaN, an infinity, a zero, or a nonzero magnitude with its sign. The
magnitude x is known by its comparisons: `cut n d` compares n/d units with x. -/
inductive Exact
  | nan (invalid : Bool)
  | inf (neg : Bool)
  | zero (neg : Bool)
  | num (neg : Bool) (cut : Nat → Nat → Ordering)

/-- The comparisons of N/D units. -/
def ratio (N D : Nat) : Nat → Nat → Ordering := fun n d => compare (n * D) (N * d)

/-- A number of units over a denominator as an exact result; a zero takes the sign given. -/
def number (x : Int) (D : Nat) (zeroNeg : Bool) : Exact :=
  if x = 0 then .zero zeroNeg else .num (decide (x < 0)) (ratio x.natAbs D)

/-- The magnitude x rounds to the value of p in a mode, where `u` gives the values in rising order (R99): ne takes the
nearest value and on a tie the even p, tz the one toward zero, up and dn the one on their side. -/
def RoundsTo (u : Nat → Nat) (mode : Rnd) (neg : Bool) (cut : Nat → Nat → Ordering) (p : Nat) : Prop :=
  if mode = .ne then
    (p = 0 ∨ cut (u (p - 1) + u p) 2 = .lt ∨ (cut (u (p - 1) + u p) 2 = .eq ∧ p % 2 = 0)) ∧
      (cut (u p + u (p + 1)) 2 = .gt ∨ (cut (u p + u (p + 1)) 2 = .eq ∧ p % 2 = 0))
  else if mode = .tz ∨ (mode = .up ∧ neg = true) ∨ (mode = .dn ∧ neg = false) then
    cut (u p) 1 ≠ .gt ∧ cut (u (p + 1)) 1 = .gt
  else cut (u p) 1 ≠ .lt ∧ (p = 0 ∨ cut (u (p - 1)) 1 = .lt)

/-- A magnitude is tiny (R100): rounded in an unbounded exponent range, that is at a scale 2^k at which it is normal, it
stays below the smallest normal. -/
def Tiny (f : FloatFmt) (mode : Rnd) (neg : Bool) (cut : Nat → Nat → Ordering) : Prop :=
  ∃ k p, cut (2 ^ f.fracBits) (2 ^ k) ≠ .gt ∧ RoundsTo (units f) mode neg (fun n d => cut n (d * 2 ^ k)) p ∧
    units f p < 2 ^ (f.fracBits + k)

/-- What an overflowed result becomes (R99). -/
def overflowed (f : FloatFmt) (mode : Rnd) (sat neg : Bool) : Nat :=
  if sat || !f.hasInf || mode == .tz || (mode == .up && neg) || (mode == .dn && !neg) then f.maxBits else f.infBits

/-- The bits and flags that an exact result is delivered as (R99..R103). -/
def Delivers (f : FloatFmt) (mode : Rnd) (sat : Bool) (x : Exact) (bits : Nat) (fl : Flags) : Prop :=
  match x with
  | .nan invalid => bits = f.nanBits ∧ fl = if invalid then flINV else 0#7
  | .inf neg =>
    if sat || !f.hasInf then bits = withSign f neg f.maxBits ∧ fl = flOVF ||| flINX
    else bits = withSign f neg f.infBits ∧ fl = 0#7
  | .zero neg => bits = withSign f neg 0 ∧ fl = 0#7
  | .num neg cut => ∃ p, RoundsTo (units f) mode neg cut p ∧
      (f.maxBits < p → bits = withSign f neg (overflowed f mode sat neg) ∧ fl = flOVF ||| flINX) ∧
      (p ≤ f.maxBits → bits = withSign f neg p ∧
        (cut (units f p) 1 = .eq → fl = 0#7) ∧
        (cut (units f p) 1 ≠ .eq → Tiny f mode neg cut → fl = flINX ||| flUNF) ∧
        (cut (units f p) 1 ≠ .eq → ¬ Tiny f mode neg cut → fl = flINX))

/-- `exact(a + b)` (R100, R170). -/
def exactSum (f : FloatFmt) (mode : Rnd) (a b : Nat) : Exact :=
  if nanBits f a || nanBits f b then .nan (signalling f a || signalling f b)
  else if infinite f a && infinite f b && signOf f a != signOf f b then .nan true
  else if infinite f a then .inf (signOf f a)
  else if infinite f b then .inf (signOf f b)
  else number (amount f a + amount f b) 1 (if signOf f a = signOf f b then signOf f a else mode == .dn)

/-- A product of 0 and an infinity (R170). -/
def zeroTimesInf (f : FloatFmt) (a b : Nat) : Bool :=
  (infinite f a && magBits f b == 0) || (magBits f a == 0 && infinite f b)

/-- `exact(a * b)`. -/
def exactProduct (f : FloatFmt) (a b : Nat) : Exact :=
  if nanBits f a || nanBits f b then .nan (signalling f a || signalling f b)
  else if zeroTimesInf f a b then .nan true
  else if infinite f a || infinite f b then .inf (signOf f a != signOf f b)
  else number (amount f a * amount f b) (2 ^ unitExp f) (signOf f a != signOf f b)

/-- `exact(a * b + c)`. -/
def exactFma (f : FloatFmt) (mode : Rnd) (a b c : Nat) : Exact :=
  let sp := signOf f a != signOf f b
  if nanBits f a || nanBits f b || nanBits f c then
    .nan (signalling f a || signalling f b || signalling f c || zeroTimesInf f a b)
  else if zeroTimesInf f a b then .nan true
  else if infinite f a || infinite f b then
    if infinite f c && signOf f c != sp then .nan true else .inf sp
  else if infinite f c then .inf (signOf f c)
  else number (amount f a * amount f b + amount f c * 2 ^ unitExp f) (2 ^ unitExp f)
    (if sp = signOf f c then sp else mode == .dn)

/-- The flags of several elements, ORed (R167). -/
def allFlags (n : Nat) (fl : Nat → Flags) : Flags := (List.range n).foldl (fun x e => x ||| fl e) 0#7

/-- The arithmetic rows of R170. -/
def floatRows (o : OpA) : List (Instr × Nat × (FloatFmt → Nat → Nat → Nat → Exact)) :=
  [(.fadd o, 2, fun f a b _ => exactSum f o.rm a b),
   (.fsub o, 2, fun f a b _ => exactSum f o.rm a (if signOf f b then magBits f b else f.signBit + magBits f b)),
   (.fmul o, 2, fun f a b _ => exactProduct f a b), (.ffma o, 3, fun f a b c => exactFma f o.rm a b c)]

/-- The order of numbers with -0 below +0 (R171). -/
def orderKey (f : FloatFmt) (b : Nat) : Int := if signOf f b then -(magBits f b : Int) - 1 else magBits f b

/-- What `FMIN` (`less` is the order) or `FMAX` (its reverse) delivers of two elements (R171). -/
def chosen (f : FloatFmt) (less : Int → Int → Bool) (a b : Nat) : Nat :=
  if nanBits f a && nanBits f b then f.nanBits
  else if nanBits f a then b
  else if nanBits f b then a
  else if less (orderKey f b) (orderKey f a) then b else a

/-- A comparison of `FCMP` (R172). -/
def floatCondition (f : FloatFmt) (cc a b : Nat) : Prop :=
  let num := nanBits f a = false ∧ nanBits f b = false
  let x : Int := if signOf f a then -(magBits f a : Int) else magBits f a
  let y : Int := if signOf f b then -(magBits f b : Int) else magBits f b
  match cc with
  | 0 => num ∧ x = y
  | 1 => ¬ (num ∧ x = y)
  | 2 => num ∧ x < y
  | 3 => num ∧ x ≤ y
  | 4 => num ∧ y < x
  | 5 => num ∧ y ≤ x
  | 6 => num
  | _ => ¬ num

/-- The bit of the class mask (R173). -/
def classBit (f : FloatFmt) (b : Nat) : Nat :=
  let m := magBits f b
  if nanBits f b then (if signalling f b then 8 else 9)
  else if infinite f b then (if signOf f b then 0 else 7)
  else if m = 0 then (if signOf f b then 3 else 4)
  else if m < 2 ^ f.fracBits then (if signOf f b then 2 else 5)
  else if signOf f b then 1 else 6

/-- What `FRND` delivers of an element (R174). -/
def Integral (f : FloatFmt) (mode : Rnd) (a bits : Nat) : Prop :=
  if nanBits f a then bits = f.nanBits
  else if infinite f a then bits = a
  else ∃ n p, RoundsTo id mode (signOf f a) (ratio (units f (magBits f a)) (2 ^ unitExp f)) n ∧
    units f p = n * 2 ^ unitExp f ∧ p ≤ f.maxBits ∧ bits = withSign f (signOf f a) p

/-- The exact quotient of `FDIV` and its DZ (R112). -/
def exactQuotient (a b : Nat) : Exact × Flags :=
  let f := FloatFmt.f32
  let sg := signOf f a != signOf f b
  if nanBits f a || nanBits f b then (.nan (signalling f a || signalling f b), 0#7)
  else if (infinite f a && infinite f b) || (magBits f a == 0 && magBits f b == 0) then (.nan true, 0#7)
  else if infinite f a then (.inf sg, 0#7)
  else if infinite f b || magBits f a == 0 then (.zero sg, 0#7)
  else if magBits f b == 0 then (.inf sg, flDZ)
  else (.num sg (ratio (units f (magBits f a) * 2 ^ 149) (units f (magBits f b))), 0#7)

/-- The exact root of `FSQRT` (R112): n/d units lie below the root where their square lies below the operand. -/
def exactRoot (a : Nat) : Exact :=
  let f := FloatFmt.f32
  if nanBits f a then .nan (signalling f a)
  else if magBits f a == 0 then .zero (signOf f a)
  else if signOf f a then .nan true
  else if infinite f a then .inf false
  else .num false (fun n d => compare (n * n) (units f (magBits f a) * 2 ^ 149 * (d * d)))

/-- A float value taken to another format (R102, R103); a NaN converted to E4M3 is invalid. -/
def exactConversion (src dst : FloatFmt) (a : Nat) : Exact :=
  if nanBits src a then .nan (signalling src a || dst == .e4m3)
  else if infinite src a then .inf (signOf src a)
  else number (amount src a * 2 ^ unitExp dst) (2 ^ unitExp src) (signOf src a)

/-- f32 to an integer type (R177). -/
def ToInteger (t : Tag) (mode : Rnd) (a : Nat) (z : Int) (fl : Flags) : Prop :=
  let f := FloatFmt.f32
  if nanBits f a then z = 0 ∧ fl = flINV
  else if infinite f a then z = (if signOf f a then lowest_ t else highest_ t) ∧ fl = flINV
  else ∃ n, RoundsTo id mode (signOf f a) (ratio (units f (magBits f a)) (2 ^ 149)) n ∧
    let x : Int := if signOf f a then -(n : Int) else n
    if x < lowest_ t then z = lowest_ t ∧ fl = flINV
    else if highest_ t < x then z = highest_ t ∧ fl = flINV
    else z = x ∧ fl = if n * 2 ^ 149 = units f (magBits f a) then 0#7 else flINX

/-- What a `CVT` delivers (R177). -/
def Converts (src t : Tag) (mode : Rnd) (sat : Bool) (a x : Nat) (fl : Flags) : Prop :=
  if src = .f32 then ToInteger t mode a (intOf t x) fl ∧ x < 2 ^ elemWidth t
  else if t = .f32 then Delivers .f32 mode false (number (intOf src a * 2 ^ 149) 1 false) x fl
  else intOf t x = fit t sat (intOf src a) ∧ x < 2 ^ elemWidth t ∧ fl = 0#7

/-- What `PACK` makes of one scalar (R178). -/
def Packs (t : Tag) (mode : Rnd) (sat : Bool) (a x : Nat) (fl : Flags) : Prop :=
  match floatElem t with
  | some f => Delivers f mode sat (exactConversion .f32 f a) x fl
  | none => intOf t x = fit t sat (intOf (packScalar t) a) ∧ fl = 0#7

/-- What `UNPK` makes of one element (R179). -/
def Unpacks (t : Tag) (a x : Nat) (fl : Flags) : Prop :=
  match floatElem t with
  | some f => Delivers .f32 .ne false (exactConversion f .f32 a) x fl
  | none => intOf (packScalar t) x = intOf t a ∧ x < 2 ^ 32 ∧ fl = 0#7

/-- The exact sum of `FDOT2`, in units of the smallest f32 subnormal (R180). -/
def exactDot (f : FloatFmt) (mode : Rnd) (a0 b0 a1 b1 c : Nat) : Exact :=
  let s0 := signOf f a0 != signOf f b0
  let s1 := signOf f a1 != signOf f b1
  let sc := signOf .f32 c
  let nan := nanBits f a0 || nanBits f b0 || nanBits f a1 || nanBits f b1 || nanBits .f32 c
  let bad := zeroTimesInf f a0 b0 || zeroTimesInf f a1 b1
  let i0 := (infinite f a0 || infinite f b0) && !(nanBits f a0 || nanBits f b0 || zeroTimesInf f a0 b0)
  let i1 := (infinite f a1 || infinite f b1) && !(nanBits f a1 || nanBits f b1 || zeroTimesInf f a1 b1)
  let ic := infinite .f32 c
  let pos := (i0 && !s0) || (i1 && !s1) || (ic && !sc)
  let neg := (i0 && s0) || (i1 && s1) || (ic && sc)
  if nan || bad || (pos && neg) then
    .nan (bad || (pos && neg) || signalling f a0 || signalling f b0 || signalling f a1 || signalling f b1 ||
      signalling .f32 c)
  else if pos then .inf false
  else if neg then .inf true
  else
    let p0 := amount f a0 * amount f b0
    let p1 := amount f a1 * amount f b1
    number ((p0 + p1) * 2 ^ 149 + amount .f32 c * 2 ^ (2 * unitExp f)) (2 ^ (2 * unitExp f))
      (if p0 = 0 ∧ p1 = 0 ∧ magBits .f32 c = 0 ∧ s0 = s1 ∧ s1 = sc then sc else mode == .dn)

/-- The f32 pattern of a number of units that f32 holds exactly. -/
def exactBits (n : Nat) : Nat :=
  if n < 2 ^ 24 then n else (Nat.log2 n - 23) * 2 ^ 23 + n / 2 ^ (Nat.log2 n - 23)

/-- The exact and special results of R112: the bits and the flags, or none where the bound holds. -/
def special (fn : ApproxFn) (b : Nat) : Option (Nat × Flags) :=
  let f := FloatFmt.f32
  let sg := signOf f b
  let u := units f (magBits f b)
  let j := Nat.log2 u
  let inf (s : Bool) : Nat := withSign f s f.infBits
  if nanBits f b then some (f.nanBits, if signalling f b then flINV else 0#7)
  else
    match fn with
    | .rcp =>
      if u = 0 then some (inf sg, flDZ)
      else if infinite f b then some (withSign f sg 0, 0#7)
      else if u = 2 ^ j ∧ 22 ≤ j then some (withSign f sg (exactBits (2 ^ (298 - j))), 0#7)
      else none
    | .rsq =>
      if u = 0 then some (inf sg, flDZ)
      else if sg then some (f.nanBits, flINV)
      else if infinite f b then some (0, 0#7)
      else if u = 2 ^ j ∧ j % 2 = 1 then some (exactBits (2 ^ ((447 - j) / 2)), 0#7)
      else none
    | .exp2 =>
      if infinite f b then some (if sg then 0 else inf false, 0#7)
      else if sg = false ∧ 128 * 2 ^ 149 ≤ u then some (inf false, flOVF ||| flINX)
      else if u % 2 ^ 149 = 0 ∧ u ≤ 149 * 2 ^ 149 then
        some (exactBits (2 ^ (if sg then 149 - u / 2 ^ 149 else 149 + u / 2 ^ 149)), 0#7)
      else none
    | .log2 =>
      if u = 0 then some (inf true, flDZ)
      else if sg then some (f.nanBits, flINV)
      else if infinite f b then some (inf false, 0#7)
      else if u = 2 ^ j then
        some (if j < 149 then withSign f true (exactBits ((149 - j) * 2 ^ 149)) else exactBits ((j - 149) * 2 ^ 149), 0#7)
      else none
    | .sin => if u = 0 then some (b, 0#7) else if infinite f b then some (f.nanBits, flINV) else none
    | .cos => if u = 0 then some (0x3F800000, 0#7) else if infinite f b then some (f.nanBits, flINV) else none
    | .tanh =>
      if u = 0 then some (b, 0#7)
      else if 10 * 2 ^ 149 ≤ u then some (withSign f sg 0x3F800000, 0#7)
      else none

/-- The instruction of an approximated function. -/
def approxRow (fn : ApproxFn) (o : OpA) : Instr :=
  match fn with
  | .rcp => .frcp o
  | .rsq => .frsq o
  | .exp2 => .fexp2 o
  | .log2 => .flog2 o
  | .sin => .fsin o
  | .cos => .fcos o
  | .tanh => .ftanh o

/-- With `.sat` an infinite result becomes the largest finite one, with OVF and INX (R103, R175). -/
def limited (sat : Bool) (x : Nat × Flags) : Nat × Flags :=
  if sat && infinite .f32 x.1 then (withSign .f32 (signOf .f32 x.1) 0x7F7FFFFF, x.2 ||| flOVF ||| flINX) else x

/-- z lies within one ulp of 1/x (R111), where 1/x is below 2^128; L is the exponent of x in units. -/
def WithinRcp (x z : Nat) : Prop :=
  let ux := units .f32 (magBits .f32 x)
  let uz := units .f32 (magBits .f32 z)
  signOf .f32 z = signOf .f32 x ∧ ux * uz ≤ 2 ^ 298 + ux * 2 ^ (274 - Nat.log2 ux) ∧
    2 ^ 298 ≤ ux * uz + ux * 2 ^ (274 - Nat.log2 ux)

/-- z lies within one ulp of 1/√x (R111). -/
def WithinRsq (x z : Nat) : Prop :=
  let ux := units .f32 (magBits .f32 x)
  let uz := units .f32 (magBits .f32 z)
  let k := 2 ^ ((400 - Nat.log2 ux) / 2)
  signOf .f32 z = false ∧ (uz - k) * (uz - k) * ux ≤ 2 ^ 447 ∧ 2 ^ 447 ≤ (uz + k) * (uz + k) * ux

end Sys2Proof.Claims

section
open Sys2Proof Machine Claims

/-- R170 for `FADD`, `FSUB`, `FMUL` and `FFMA`: each element of the destination is the exact result rounded once to the
element's format by R99, with the flags of R103 in all modes, for every operand. R171 to R174 for `FMIN`, `FMAX`, `FCMP`,
`FCLASS` and `FRND`, element by element. -/
def Obligations.FloatArithmeticAndComparisons : Prop :=
  (∀ (o : OpA) (i : Instr) (n : Nat) (x : FloatFmt → Nat → Nat → Nat → Exact), (i, n, x) ∈ floatRows o →
    Completes i (isK o.d) o.pred (useA o n)
      (fun v => ∀ y ∈ sources o n, Readable v o.t y o.x)
      (fun v r => ∃ z fl, TypedResult o.d o.t z r ∧ z < 2 ^ 32 ∧
        r.flags = voidFlags v ((sources o n).map (fun y => (o.t, y))) ||| allFlags (elems o.t) fl ∧
        ∀ e, e < elems o.t →
          Delivers (fmtOf o.t) o.rm o.sat
            (x (fmtOf o.t) (elemOf o.t (srcBits v o.t o.a) e) (elemOf o.t (srcBits v o.t o.b) e)
              (elemOf o.t (srcBits v o.t o.c) e))
            (elemOf o.t z e) (fl e))) ∧
  ((∀ (o : OpA) (i : Instr) (less : Int → Int → Bool),
    (i, less) ∈ [(Instr.fmin o, fun x y => decide (x < y)), (.fmax o, fun x y => decide (y < x))] →
    Completes i (isK o.d) o.pred (useA o 2)
      (fun v => Readable v o.t o.a o.x ∧ Readable v o.t o.b o.x)
      (fun v r => ∃ z, TypedResult o.d o.t z r ∧ z < 2 ^ 32 ∧
        r.flags = voidFlags v [(o.t, o.a), (o.t, o.b)] |||
          allFlags (elems o.t) (fun e => if signalling (fmtOf o.t) (elemOf o.t (srcBits v o.t o.a) e) ||
            signalling (fmtOf o.t) (elemOf o.t (srcBits v o.t o.b) e) then flINV else 0#7) ∧
        ∀ e, e < elems o.t → elemOf o.t z e =
          chosen (fmtOf o.t) less (elemOf o.t (srcBits v o.t o.a) e) (elemOf o.t (srcBits v o.t o.b) e))) ∧
  (∀ o : OpCmp, Completes (.fcmp o) (isK o.d) o.pred (useReg o.d ++ useSrc o.a ++ useSrc o.b)
    (fun v => Readable v o.t o.a o.raw ∧ Readable v o.t o.b o.raw)
    (fun v r => ∃ (z : Nat) (b : Bool), z < 2 ^ 32 ∧ r.regs = [(regNum o.d, ⟨BitVec.ofNat 32 z, .b32⟩)] ∧
      r.preds = [(o.pd.val, b)] ∧
      r.flags = voidFlags v [(o.t, o.a), (o.t, o.b)] |||
        allFlags (elems o.t) (fun e => if signalling (fmtOf o.t) (elemOf o.t (srcBits v o.t o.a) e) ||
          signalling (fmtOf o.t) (elemOf o.t (srcBits v o.t o.b) e) then flINV else 0#7) ∧
      (b = true ↔ ∀ e, e < elems o.t → floatCondition (fmtOf o.t) o.cc.val (elemOf o.t (srcBits v o.t o.a) e)
        (elemOf o.t (srcBits v o.t o.b) e)) ∧
      ∀ e, e < elems o.t →
        (floatCondition (fmtOf o.t) o.cc.val (elemOf o.t (srcBits v o.t o.a) e) (elemOf o.t (srcBits v o.t o.b) e) →
          elemOf o.t z e = 2 ^ elemWidth o.t - 1) ∧
        (¬ floatCondition (fmtOf o.t) o.cc.val (elemOf o.t (srcBits v o.t o.a) e) (elemOf o.t (srcBits v o.t o.b) e) →
          elemOf o.t z e = 0))) ∧
  (∀ o : OpA, Completes (.fclass o) (isK o.d) o.pred (useA o 1) (fun v => Readable v o.t o.a o.x)
    (fun v r => r.flags = voidFlags v [(o.t, o.a)] ∧ ∃ z, TypedResult o.d .n32 z r ∧ z < 2 ^ 32 ∧
      ∀ e, e < elems o.t → elemOf o.t z e = 2 ^ classBit (fmtOf o.t) (elemOf o.t (srcBits v o.t o.a) e))) ∧
  (∀ o : OpA, Completes (.frnd o) (isK o.d) o.pred (useA o 1) (fun v => Readable v o.t o.a o.x)
    (fun v r => ∃ z, TypedResult o.d o.t z r ∧ z < 2 ^ 32 ∧
      r.flags = voidFlags v [(o.t, o.a)] |||
        allFlags (elems o.t) (fun e =>
          if signalling (fmtOf o.t) (elemOf o.t (srcBits v o.t o.a) e) then flINV else 0#7) ∧
      ∀ e, e < elems o.t → Integral (fmtOf o.t) o.rm (elemOf o.t (srcBits v o.t o.a) e) (elemOf o.t z e))))

/-- R112 and R175 for `FDIV` and `FSQRT`: correctly rounded in every mode, for every operand. -/
def Obligations.DivisionAndSquareRoot : Prop :=
  (∀ o : OpA, Completes (.fdiv o) (isK o.d) o.pred (useA o 2)
    (fun v => Readable v o.t o.a o.x ∧ Readable v o.t o.b o.x)
    (fun v r => ∃ z fl, TypedResult o.d .f32 z r ∧
      r.flags = voidFlags v [(o.t, o.a), (o.t, o.b)] ||| fl |||
        (exactQuotient (srcBits v o.t o.a) (srcBits v o.t o.b)).2 ∧
      Delivers .f32 o.rm o.sat (exactQuotient (srcBits v o.t o.a) (srcBits v o.t o.b)).1 z fl)) ∧
  (∀ o : OpA, Completes (.fsqrt o) (isK o.d) o.pred (useA o 1) (fun v => Readable v .f32 o.a o.x)
    (fun v r => ∃ z fl, TypedResult o.d .f32 z r ∧ r.flags = voidFlags v [(.f32, o.a)] ||| fl ∧
      Delivers .f32 o.rm o.sat (exactRoot (srcBits v .f32 o.a)) z fl))

/-- R111, R112 and R175 for the seven approximated functions: the listed results are exact with the listed flags; every
other result raises INX and is no NaN; and the bits depend on the core's revision and the operand alone. -/
def Obligations.ApproximatedFunctions : Prop :=
  ∀ fn : ApproxFn, ∃ F : Word → Nat → Nat × Flags,
    (∀ rev b, b < 2 ^ 32 → (∀ x, special fn b = some x → F rev b = x) ∧
      (special fn b = none → (F rev b).1 < 2 ^ 32 ∧ nanBits .f32 (F rev b).1 = false ∧
        (F rev b).2 &&& (flINX ||| flINV ||| flDZ) = flINX)) ∧
    ∀ o : OpA, Completes (approxRow fn o) (isK o.d) o.pred (useA o 1) (fun v => Readable v .f32 o.a o.x)
      (fun v r =>
        let x := limited o.sat (F (coreRev v.s v.g.core) (srcBits v .f32 o.a))
        TypedResult o.d .f32 x.1 r ∧ r.flags = voidFlags v [(.f32, o.a)] ||| x.2)

/-- R111 and R112: `FRCP` lies within one ulp of 1/x wherever 1/x is no overflow, and `FRSQ` within one ulp of 1/√x for
every positive x; stated of the value the instruction writes. -/
def Obligations.ReciprocalsWithinOneUlp : Prop :=
  (∀ o : OpA, Completes (.frcp o) (isK o.d) o.pred (useA o 1) (fun v => Readable v .f32 o.a o.x)
    (fun v r => ∃ z, TypedResult o.d .f32 z r ∧
      (2 ^ 21 < magBits .f32 (srcBits v .f32 o.a) → magBits .f32 (srcBits v .f32 o.a) < 0x7F800000 →
        WithinRcp (srcBits v .f32 o.a) z))) ∧
  (∀ o : OpA, Completes (.frsq o) (isK o.d) o.pred (useA o 1) (fun v => Readable v .f32 o.a o.x)
    (fun v r => ∃ z, TypedResult o.d .f32 z r ∧
      (signOf .f32 (srcBits v .f32 o.a) = false → magBits .f32 (srcBits v .f32 o.a) ≠ 0 →
        magBits .f32 (srcBits v .f32 o.a) < 0x7F800000 → WithinRsq (srcBits v .f32 o.a) z)))

/-- R176 to R181 for `CVT`, `PACK`, `UNPK`, `FDOT2` and `IDOT4`: one rounding, wrap or clamp of the exact value. -/
def Obligations.ConversionsAndDotProducts : Prop :=
  (∀ o : OpCvt, Completes (.cvt o) (isK o.d) o.pred (useReg o.d (tagRegs o.t) ++ useSrc o.a (tagRegs o.src))
    (fun v => Readable v o.src o.a o.raw)
    (fun v r => ∃ z fl, TypedResult o.d o.t z r ∧ r.flags = voidFlags v [(o.src, o.a)] ||| fl ∧
      Converts o.src o.t o.rm o.sat (srcBits v o.src o.a) z fl)) ∧
  (∀ o : OpA, Completes (.pack o) (isK o.d) o.pred
    (useReg o.d ++ useSrc o.a ++ useSrc o.b ++ (if elems o.t = 4 then useSrc o.c else []))
    (fun v => Readable v (packScalar o.t) o.a ∧ Readable v (packScalar o.t) o.b ∧
      (elems o.t = 4 → Readable v o.t o.c))
    (fun v r => ∃ z fa fb, TypedResult o.d o.t z r ∧ z < 2 ^ 32 ∧
      r.flags = voidFlags v [(packScalar o.t, o.a), (packScalar o.t, o.b)] |||
        (if elems o.t = 4 then voidOf v o.t o.c else 0#7) ||| fa ||| fb ∧
      Packs o.t o.rm o.sat (srcBits v (packScalar o.t) o.a) (elemOf o.t z (if o.x then 2 else 0)) fa ∧
      Packs o.t o.rm o.sat (srcBits v (packScalar o.t) o.b) (elemOf o.t z (if o.x then 3 else 1)) fb ∧
      (elems o.t = 4 → ∀ e ∈ (if o.x then [0, 1] else [2, 3]), elemOf o.t z e = elemOf o.t (srcBits v o.t o.c) e))) ∧
  (∀ o : OpUnpk, Completes (.unpk o) (isK o.d) o.pred (useReg o.d ++ useSrc o.a) (fun v => Readable v o.t o.a)
    (fun v r => ∃ z fl, TypedResult o.d (packScalar o.t) z r ∧ r.flags = voidFlags v [(o.t, o.a)] ||| fl ∧
      Unpacks o.t (elemOf o.t (srcBits v o.t o.a) o.el.val) z fl)) ∧
  (∀ o : OpA, Completes (.fdot2 o) (isK o.d) o.pred (useA o 3)
    (fun v => Readable v o.t o.a o.x ∧ Readable v o.t o.b o.x ∧ Readable v .f32 o.c o.x)
    (fun v r => ∃ z fl, TypedResult o.d .f32 z r ∧
      r.flags = voidFlags v [(o.t, o.a), (o.t, o.b), (.f32, o.c)] ||| fl ∧
      Delivers .f32 o.rm o.sat
        (exactDot (fmtOf o.t) o.rm (elemOf o.t (srcBits v o.t o.a) 0) (elemOf o.t (srcBits v o.t o.b) 0)
          (elemOf o.t (srcBits v o.t o.a) 1) (elemOf o.t (srcBits v o.t o.b) 1) (srcBits v .f32 o.c)) z fl)) ∧
  (∀ o : OpA, Completes (.idot4 o) (isK o.d) o.pred (useA o 3)
    (fun v => Readable v o.t o.a ∧ Readable v (if o.x then otherSign o.t else o.t) o.b ∧
      Readable v (idotAcc o.t o.x) o.c)
    (fun v r =>
      let tb := if o.x then otherSign o.t else o.t
      let tc := idotAcc o.t o.x
      r.flags = voidFlags v [(o.t, o.a), (tb, o.b), (tc, o.c)] ∧
        ∃ z, TypedResult o.d tc z r ∧ z < 2 ^ 32 ∧
          intOf tc z = fit tc o.sat (intOf tc (srcBits v tc o.c) +
            intOf o.t (elemOf o.t (srcBits v o.t o.a) 0) * intOf tb (elemOf tb (srcBits v tb o.b) 0) +
            intOf o.t (elemOf o.t (srcBits v o.t o.a) 1) * intOf tb (elemOf tb (srcBits v tb o.b) 1) +
            intOf o.t (elemOf o.t (srcBits v o.t o.a) 2) * intOf tb (elemOf tb (srcBits v tb o.b) 2) +
            intOf o.t (elemOf o.t (srcBits v o.t o.a) 3) * intOf tb (elemOf tb (srcBits v tb o.b) 3))))

end

/-! ## Affine instructions (R117, R118, R183..R204) -/

namespace Sys2Proof.Claims

open Machine

/-- The magnitude of a rational. -/
def mag (x : Rat) : Rat := if x < 0 then -x else x

/-- The number that a finite f32 pattern denotes. -/
def f32Val (b : Nat) : Rat := (amount .f32 b : Rat) / 2 ^ 149

/-- The comparisons of a real with the numbers n/d units, from a test of n/d itself. -/
def cutBy (f : Rat → Ordering) : Nat → Nat → Ordering := fun n d => f ((n : Rat) / d / 2 ^ 149)

/-- Comparison with a rational magnitude. -/
def against (x : Rat) (y : Rat) : Ordering := if y < x then .lt else if y = x then .eq else .gt

/-- The f32 pattern that a rational rounds to in a mode; a zero is +0 (R99, R119). -/
def Rounds32 (mode : Rnd) (x : Rat) (b : Nat) : Prop :=
  ∃ fl, Delivers .f32 mode false
    (if x = 0 then .zero false else .num (decide (x < 0)) (cutBy (against (mag x)))) b fl

/-- The bits of 16 registers from an affine register's first on (R64, R117). -/
def afBitsAt (v : View) (r : Fin 4) : Nat :=
  (List.range 16).foldl (fun x w => x + regBits (readReg v (.v (finOf 256 (192 + 16 * r.val + w)))) * 2 ^ (32 * w)) 0

/-- An affine operand's registers may be read (R190). -/
def AfRegs (v : View) (r : Fin 4) (raw : Bool) : Prop :=
  ∀ w, w < 16 → RegReadable (readReg v (.v (finOf 256 (192 + 16 * r.val + w)))) .af raw

/-- VOID of an affine operand (R190). -/
def voidAf (v : View) (r : Fin 4) : Flags :=
  if (List.range 16).any (fun w => (readReg v (.v (finOf 256 (192 + 16 * r.val + w)))).tag == .void) then flVOID
  else 0#7

/-- A finite f32 pattern. -/
def finite32 (b : Nat) : Bool := magBits .f32 b < 0x7F800000

/-- The value that 512 bits hold, and that they are well-formed (R117, R118). -/
def Holds (x : Nat) (z : AfVal) : Prop :=
  (x / 2 ^ 508 % 2 = 1 → z.unb = true) ∧
  (x / 2 ^ 508 % 2 = 0 →
    let n := x / 2 ^ 504 % 16
    let id (j : Nat) : Nat := x / 2 ^ (384 + 12 * j) % 2 ^ 12
    let a (j : Nat) : Nat := x / 2 ^ (64 + 32 * j) % 2 ^ 32
    x < 2 ^ 510 ∧ n ≤ 10 ∧ z.unb = false ∧ z.c = x % 2 ^ 32 ∧ z.r = x / 2 ^ 32 % 2 ^ 32 ∧
      z.folded = decide (x / 2 ^ 509 % 2 = 1) ∧ z.terms = (List.range n).map (fun j => (id j, a j)) ∧
      (∀ j, j < n → id j ≠ 0) ∧ (∀ j, j + 1 < n → id j < id (j + 1)) ∧
      (∀ j, n ≤ j → j < 10 → id j = 0 ∧ a j = 0) ∧ finite32 z.c = true ∧ finite32 z.r = true ∧
      (signOf .f32 z.r = true → magBits .f32 z.r = 0) ∧ ∀ j, j < n → finite32 (a j) = true)

/-- The 512 bits that a result is written as (R117, R185): an unbounded one has UNB alone, and a radius of -0 is +0. -/
def Written (z : AfVal) (x : Nat) : Prop :=
  (z.unb = true → x = 2 ^ 508) ∧
  (z.unb = false →
    x < 2 ^ 510 ∧ x / 2 ^ 508 % 2 = 0 ∧ decide (x / 2 ^ 509 = 1) = z.folded ∧ x / 2 ^ 504 % 16 = z.terms.length ∧
      x % 2 ^ 32 = z.c ∧ x / 2 ^ 32 % 2 ^ 32 = (if magBits .f32 z.r = 0 then 0 else z.r) ∧
      ∀ j, j < 10 → x / 2 ^ (384 + 12 * j) % 2 ^ 12 = ((z.terms[j]?).map Prod.fst).getD 0 ∧
        x / 2 ^ (64 + 32 * j) % 2 ^ 32 = ((z.terms[j]?).map Prod.snd).getD 0)

/-- A result in an affine register: its 512 bits in 16 registers, each with tag af (R106). -/
def AfResult (d : Fin 4) (z : AfVal) (r : Result) : Prop :=
  r.preds = [] ∧ ∃ x, Written z x ∧ r.regs.length = 16 ∧ ∀ w, w < 16 →
    r.regs[w]? = some (192 + 16 * d.val + w, ⟨BitVec.ofNat 32 (x / 2 ^ (32 * w)), .af⟩)

/-- An affine operand that an instruction can take: readable, and well-formed. -/
def AfReady (v : View) (r : Fin 4) (raw : Bool) : Prop := AfRegs v r raw ∧ ∃ z, Holds (afBitsAt v r) z

/-- A scalar operand that an instruction can take (R189, R190). -/
def ScalarReady (v : View) (x : Src) (raw : Bool := false) : Prop :=
  Readable v .f32 x raw ∧ nanBits .f32 (srcBits v .f32 x) = false

/-- The coefficient of an id; an absent term counts as 0. -/
def coefAt (z : AfVal) (id : Nat) : Rat := ((z.terms.filter (fun t => t.1 == id)).map (fun t => f32Val t.2)).sum

/-- The exact deviation u (R193). -/
def deviation (z : AfVal) : Rat := (z.terms.map (fun t => mag (f32Val t.2))).sum + f32Val z.r

/-- The unbounded result, with OVF or not. -/
def Unbounded (ovf : Bool) (p : AfPre) : Prop := p.v.unb = true ∧ p.ovf = ovf

/-- The components of a bounded result before any fold (R185, R192, R193): each coefficient `e id` and the centre `e0`
rounded to nearest, the radius above `r0` and every rounding error, and a fresh magnitude that rounds up; a component
that is not finite makes the result unbounded with OVF, and ±0 terms are removed. -/
def Composed (ids : List Nat) (e : Nat → Rat) (e0 r0 : Rat) (folded : Bool) (fresh : Rat) (p : AfPre) : Prop :=
  ∃ (a : Nat → Nat) (c r f : Nat),
    (∀ i ∈ ids, Rounds32 .ne (e i) (a i)) ∧ Rounds32 .ne e0 c ∧
    Rounds32 .up (r0 + (ids.map (fun i => mag (e i - f32Val (a i)))).sum + mag (e0 - f32Val c)) r ∧
    Rounds32 .up fresh f ∧
    let bad := !(finite32 c && finite32 r && finite32 f && ids.all (fun i => finite32 (a i)))
    (bad = true → Unbounded true p) ∧
    (bad = false → p.ovf = false ∧ p.fresh = f ∧ p.neg = false ∧
      p.v = ⟨c, r, (ids.filter (fun i => magBits .f32 (a i) != 0)).map (fun i => (i, a i)), false, folded⟩)

/-- The ids of two values in ascending order: a list with exactly these. -/
def IdsOf (x y : AfVal) (ids : List Nat) : Prop :=
  ids.Pairwise (· < ·) ∧ ∀ i, i ∈ ids ↔ (i ∈ x.terms.map Prod.fst ∨ i ∈ y.terms.map Prod.fst)

/-- s·x + sy·y + t (R192). -/
def Linear (x y : AfVal) (s t : Nat) (sy : Rat) (p : AfPre) : Prop :=
  if x.unb || y.unb || !finite32 s || !finite32 t then Unbounded false p
  else ∃ ids, IdsOf x y ids ∧
    Composed ids (fun i => f32Val s * coefAt x i + sy * coefAt y i)
      (f32Val s * f32Val x.c + sy * f32Val y.c + f32Val t) (mag (f32Val s) * f32Val x.r + f32Val y.r)
      (x.folded || y.folded) 0 p

/-- The order in which terms fold out: one of smaller magnitude before one of larger, and the higher id before the lower
(R188, R198). -/
def foldsBefore (t u : Nat × Nat) : Prop := t.2 % 2 ^ 31 < u.2 % 2 ^ 31 ∨ (t.2 % 2 ^ 31 = u.2 % 2 ^ 31 ∧ u.1 < t.1)

/-- Terms of which all but n are folded out, and the exact sum of the magnitudes of those (R188, R198). -/
def FoldedTo (n : Nat) (ts keep : List (Nat × Nat)) (sum : Rat) : Prop :=
  keep.Sublist ts ∧ keep.length = n ∧ (∀ k ∈ keep, ∀ o ∈ ts, o ∉ keep → foldsBefore o k) ∧
    sum = ((ts.filter (fun t => !keep.contains t)).map (fun t => mag (f32Val t.2))).sum

/-- A value whose terms are no more than ten, with OVF where the fold overflows (R185, R188). -/
def FoldTen (v z : AfVal) (ovf : Bool) : Prop :=
  if v.terms.length ≤ 10 then z = v ∧ ovf = false
  else ∃ keep sum r, FoldedTo 10 v.terms keep sum ∧ Rounds32 .up (f32Val v.r + sum) r ∧
    if finite32 r then z = { v with terms := keep, r := r, folded := true } ∧ ovf = false else z.unb = true ∧ ovf = true

/-- A pattern with its sign reversed. -/
def flipped (b : Nat) : Nat := if b < 2 ^ 31 then b + 2 ^ 31 else b - 2 ^ 31

/-- FRESH(E) and the fold (R187, R188): a fresh term under the id, or E in the radius where there is no id or the id
already names a term. The fresh term of a reversed result is reversed too (R194). -/
def Fresh (p : AfPre) (id : Option Nat) (z : AfVal) (ovf : Bool) : Prop :=
  if p.v.unb then z.unb = true ∧ ovf = p.ovf
  else if magBits .f32 p.fresh = 0 then FoldTen p.v z ovf
  else if ∃ i, id = some i ∧ i ∉ p.v.terms.map Prod.fst then
    ∃ i ts, id = some i ∧ ts.Pairwise (fun t u => t.1 < u.1) ∧
      (∀ t, t ∈ ts ↔ t = (i, if p.neg then flipped p.fresh else p.fresh) ∨ t ∈ p.v.terms) ∧ FoldTen { p.v with terms := ts } z ovf
  else ∃ r, Rounds32 .up (f32Val p.v.r + f32Val p.fresh) r ∧
    if finite32 r then FoldTen { p.v with r := r, folded := true } z ovf else z.unb = true ∧ ovf = true

/-- A minting instruction completes where its group holds ids or is in fold mode (R187): every thread that needs a fresh
term takes the one id, `s.afnext` moves on by R186, and nothing else changes but the destinations and flags. -/
def Mints (i : Instr) (d : Fin 4) (p : Pred) (us : List RegUse) (ready : View → Prop)
    (spec : View → AfPre → Flags → Prop) : Prop :=
  ∀ s c, Issues i us s c → (c.g.afmode = 1 ∨ c.g.afnext ≠ 0) →
    (∀ l ∈ activeLanes c p, ready (viewOf c s (activeLanes c p) l)) →
    ∃ (t : State) (pre : Nat → AfPre) (r : Nat → Result) (mint : Bool),
      exec i s = .next t ∧
      (mint = true ↔ c.g.afmode ≠ 1 ∧
        ∃ l ∈ activeLanes c p, (pre l).v.unb = false ∧ magBits .f32 (pre l).fresh ≠ 0) ∧
      (∀ l ∈ activeLanes c p, ∃ fl z ovf, spec (viewOf c s (activeLanes c p) l) (pre l) fl ∧
        Fresh (pre l) (if mint then some c.g.afnext else none) z ovf ∧ AfResult d z (r l) ∧
        (r l).flags = fl ||| (if ovf then flOVF else 0#7)) ∧
      let S := (launchOf s c.g.launch).symS
      let last := min (32 * ((c.g.afnext - 1) / 32) + 32) S
      t = modGroup s c.gid (fun g =>
        { mapThreads g (fun l th =>
            if l ∈ activeLanes c p then threadAfter (r l) th else if l ∈ c.gang then goesOn th else th) with
          afnext := if mint then (if c.g.afnext = last then 0 else c.g.afnext + 1) else g.afnext })

/-- α·x + ζ with the half-width of g fresh, from the ends of g rounded outward (R194). -/
def MinRange (x : AfVal) (alpha gl gh : Nat) (p : AfPre) : Prop :=
  if !(finite32 gl && finite32 gh) then Unbounded true p
  else ∃ z w : Nat, Rounds32 .ne ((f32Val gl + f32Val gh) / 2) z ∧
    (finite32 z = false → Unbounded true p) ∧
    (finite32 z = true →
      Rounds32 .up (if f32Val gh - f32Val z < f32Val z - f32Val gl then f32Val z - f32Val gl
        else f32Val gh - f32Val z) w ∧
      ∃ q, Linear x {} alpha z 0 q ∧
        (q.v.unb = true → p = q) ∧
        (q.v.unb = false → finite32 w = false → Unbounded true p) ∧
        (q.v.unb = false → finite32 w = true → p = { q with fresh := w }))

/-- The range lo, hi of a value (R193). -/
def Range (x : AfVal) (lo hi : Nat) : Prop :=
  Rounds32 .dn (f32Val x.c - deviation x) lo ∧ Rounds32 .up (f32Val x.c + deviation x) hi

/-- `AFRCP` of a value with lo > 0 (R194); where hi is infinite the slope and the lower end are their limits, -0 and +0
(the model's reading). -/
def RcpPos (x : AfVal) (p : AfPre) : Prop :=
  ∃ lo hi alpha gl gh, Range x lo hi ∧
    (finite32 hi = true → Rounds32 .up (-1 / (f32Val hi * f32Val hi)) alpha ∧
      Rounds32 .dn (1 / f32Val hi - f32Val alpha * f32Val hi) gl) ∧
    (finite32 hi = false → alpha = 2 ^ 31 ∧ gl = 0) ∧
    Rounds32 .up (1 / f32Val lo - f32Val alpha * f32Val lo) gh ∧ MinRange x alpha gl gh p

/-- A value with its sign reversed exactly. -/
def negated (x : AfVal) : AfVal :=
  if x.unb then x else { x with c := flipped x.c, terms := x.terms.map (fun t => (t.1, flipped t.2)) }

/-- `AFRCP` (R194): positive, or negative bit for bit as the negative of the positive one. -/
def Reciprocal (x : AfVal) (p : AfPre) : Prop :=
  if x.unb then Unbounded false p
  else if 0 < f32Val x.c then RcpPos x p
  else ∃ q, RcpPos (negated x) q ∧ p = { q with v := negated q.v, neg := true }

/-- The test of y against √z - a·z. -/
def rootTest (z a : Rat) (y : Rat) : Ordering := against z ((y + a * z) * (y + a * z))

/-- A positive real, known by its test, rounded in a mode; a zero is +0. -/
def RoundsReal (mode : Rnd) (f : Rat → Ordering) (b : Nat) : Prop :=
  ∃ fl, Delivers .f32 mode false (if f 0 = .eq then .zero false else .num false (cutBy f)) b fl

/-- `AFSQRT` (R194) of a value with lo ≥ 0; an infinite hi gives the unbounded result (the model's reading). -/
def Root (x : AfVal) (p : AfPre) : Prop :=
  if x.unb then Unbounded false p
  else ∃ lo hi alpha gl gh, Range x lo hi ∧
    (finite32 hi = false → Unbounded true p) ∧
    (finite32 hi = true →
      (if magBits .f32 hi = 0 then alpha = 0
        else RoundsReal .dn (fun y => against 1 (4 * y * y * f32Val hi)) alpha) ∧
      RoundsReal .dn (rootTest (f32Val lo) (f32Val alpha)) gl ∧ RoundsReal .up (rootTest (f32Val hi) (f32Val alpha)) gh ∧
      MinRange x alpha gl gh p)

/-- `AFCND` (R198). -/
def Condensed (x : AfVal) (k : Nat) (tor : Bool) (p : AfPre) : Prop :=
  if x.unb then Unbounded false p
  else if x.terms.length ≤ k then p = ⟨x, false, 0, false⟩
  else ∃ keep sum, FoldedTo k x.terms keep sum ∧
    let terms := keep.filter (fun t => magBits .f32 t.2 != 0)
    if tor then ∃ r, Rounds32 .up (f32Val x.r + sum) r ∧ (finite32 r = false → Unbounded true p) ∧
      (finite32 r = true → p = ⟨{ x with terms := terms, r := r, folded := true }, false, 0, false⟩)
    else ∃ f, Rounds32 .up sum f ∧ (finite32 f = false → Unbounded true p) ∧
      (finite32 f = true → p = ⟨{ x with terms := terms }, false, f, false⟩)

/-- `AFNEW` (R196) of scalars that are in order. -/
def Made (cw : Bool) (a b : Nat) (p : AfPre) : Prop :=
  if !(finite32 a && finite32 b) then Unbounded false p
  else if cw then p = ⟨{ c := a }, false, b, false⟩
  else ∃ c f, Rounds32 .ne ((f32Val a + f32Val b) / 2) c ∧
    Rounds32 .up (if f32Val b - f32Val c < f32Val c - f32Val a then f32Val c - f32Val a else f32Val b - f32Val c) f ∧
    (finite32 f = true → p = ⟨{ c := c }, false, f, false⟩) ∧ (finite32 f = false → Unbounded true p)

/-- The scalars of `AFNEW` are in order (R196): lo ≤ hi, or a half-width that is not negative. -/
def NewReady (cw : Bool) (a b : Nat) : Prop :=
  if cw then signOf .f32 b = true → magBits .f32 b = 0
  else (if signOf .f32 a then -(magBits .f32 a : Int) else magBits .f32 a) ≤
    (if signOf .f32 b then -(magBits .f32 b : Int) else magBits .f32 b)

/-- A point of a value: its symbols at ε, and its own deviation at δ (R118). -/
def pointOf (x : AfVal) (ε : Nat → Rat) (δ : Rat) : Rat :=
  f32Val x.c + (x.terms.map (fun t => f32Val t.2 * ε t.1)).sum + δ

/-- A value that holds as its registers are written: bounded, its components finite, its ids ascending. -/
def Proper (x : AfVal) : Prop := x.unb = false ∧ ∃ b, Holds b x

end Sys2Proof.Claims

section
open Sys2Proof Machine Claims

/-- R192 and R197 for `AFADD`, `AFSUB`, `AFSCL` and `AFCST`: coefficients and centre to nearest, the radius above every
error, folded to ten terms, unbounded with OVF on overflow; no linear operation mints. -/
def Obligations.AffineLinearOperations : Prop :=
  (∀ (o : OpAfBin) (i : Instr) (sy : Rat), (i, sy) ∈ [(Instr.afadd o, 1), (.afsub o, -1)] →
    Completes i false o.pred (useAf o.d ++ useAf o.a ++ useAf o.b)
      (fun v => AfReady v o.a o.raw ∧ AfReady v o.b o.raw)
      (fun v r => ∃ x y p z ovf, Holds (afBitsAt v o.a) x ∧ Holds (afBitsAt v o.b) y ∧
        Linear x y 0x3F800000 0 sy p ∧ Fresh p none z ovf ∧ AfResult o.d z r ∧
        r.flags = voidAf v o.a ||| voidAf v o.b ||| (if ovf then flOVF else 0#7))) ∧
  (∀ o : OpAfScl, Completes (.afscl o) false o.pred (useAf o.d ++ useAf o.a ++ useSrc o.s ++ useSrc o.t)
    (fun v => AfReady v o.a o.raw ∧ ScalarReady v o.s o.raw ∧ ScalarReady v o.t o.raw)
    (fun v r => ∃ x p z ovf, Holds (afBitsAt v o.a) x ∧
      Linear x {} (srcBits v .f32 o.s) (srcBits v .f32 o.t) 0 p ∧ Fresh p none z ovf ∧ AfResult o.d z r ∧
      r.flags = voidAf v o.a ||| voidFlags v [(.f32, o.s), (.f32, o.t)] ||| (if ovf then flOVF else 0#7))) ∧
  (∀ o : OpAfCst, Completes (.afcst o) false o.pred (useAf o.d ++ useSrc o.a) (fun v => ScalarReady v o.a)
    (fun v r => r.flags = voidFlags v [(.f32, o.a)] ∧ ∃ z, AfResult o.d z r ∧
      if finite32 (srcBits v .f32 o.a) then z = { c := srcBits v .f32 o.a } else z.unb = true))

/-- R187, R193, R196 and R198 for `AFNEW`, `AFMUL`, `AFSQR` and `AFCND`. -/
def Obligations.AffineProductsAndConstruction : Prop :=
  (∀ o : OpAfBin, Mints (.afmul o) o.d o.pred (useAf o.d ++ useAf o.a ++ useAf o.b)
    (fun v => AfReady v o.a o.raw ∧ AfReady v o.b o.raw)
    (fun v p fl => fl = voidAf v o.a ||| voidAf v o.b ∧ ∃ x y, Holds (afBitsAt v o.a) x ∧ Holds (afBitsAt v o.b) y ∧
      if x.unb || y.unb then Unbounded false p
      else ∃ ids, IdsOf x y ids ∧
        Composed ids (fun i => f32Val x.c * coefAt y i + f32Val y.c * coefAt x i) (f32Val x.c * f32Val y.c)
          (mag (f32Val x.c) * f32Val y.r + mag (f32Val y.c) * f32Val x.r) (x.folded || y.folded)
          (deviation x * deviation y) p)) ∧
  (∀ o : OpAfUn, Mints (.afsqr o) o.d o.pred (useAf o.d ++ useAf o.a) (fun v => AfReady v o.a o.raw)
    (fun v p fl => fl = voidAf v o.a ∧ ∃ x, Holds (afBitsAt v o.a) x ∧
      if x.unb then Unbounded false p
      else Composed (x.terms.map Prod.fst) (fun i => 2 * f32Val x.c * coefAt x i)
        (f32Val x.c * f32Val x.c + deviation x * deviation x / 2) (2 * mag (f32Val x.c) * f32Val x.r) x.folded
        (deviation x * deviation x / 2) p)) ∧
  (∀ o : OpAfNew, Mints (.afnew o) o.d o.pred (useAf o.d ++ useSrc o.a ++ useSrc o.b)
    (fun v => ScalarReady v o.a ∧ ScalarReady v o.b ∧ NewReady o.cw (srcBits v .f32 o.a) (srcBits v .f32 o.b))
    (fun v p fl => fl = voidFlags v [(.f32, o.a), (.f32, o.b)] ∧
      Made o.cw (srcBits v .f32 o.a) (srcBits v .f32 o.b) p)) ∧
  (∀ o : OpAfCnd, Mints (.afcnd o) o.d o.pred (useAf o.d ++ useAf o.a ++ useSrc o.k)
    (fun v => AfReady v o.a o.raw ∧ Readable v .n32 o.k o.raw)
    (fun v p fl => fl = voidAf v o.a ||| voidFlags v [(.n32, o.k)] ∧ ∃ x, Holds (afBitsAt v o.a) x ∧
      Condensed x (srcBits v .n32 o.k) o.tor p))

/-- R184: the linear operations and the products are sound. At every point of the operands' joint set, with shared ids
taking one ε, the exact result is a point of the result; a product takes some value of its fresh symbol. -/
def Obligations.AffineSoundness : Prop :=
  ∀ (x y : AfVal) (ε : Nat → Rat) (δx δy : Rat), Proper x → Proper y → (∀ i, mag (ε i) ≤ 1) →
    mag δx ≤ f32Val x.r → mag δy ≤ f32Val y.r →
    (∀ (s t : Nat) (sy : Int), finite32 s = true → finite32 t = true → (sy = 1 ∨ sy = -1 ∨ sy = 0) →
      (afLinearDone (afLinear x y s t sy)).v.unb = false →
      ∃ δ, mag δ ≤ f32Val (afLinearDone (afLinear x y s t sy)).v.r ∧
        f32Val s * pointOf x ε δx + sy * pointOf y ε δy + f32Val t =
          pointOf (afLinearDone (afLinear x y s t sy)).v ε δ) ∧
    (∀ id, id ∉ x.terms.map Prod.fst → id ∉ y.terms.map Prod.fst →
      ((afFinish (afMulPre x y) (some id)).v.unb = false →
        ∃ e δ, mag e ≤ 1 ∧ mag δ ≤ f32Val (afFinish (afMulPre x y) (some id)).v.r ∧
          pointOf x ε δx * pointOf y ε δy =
            pointOf (afFinish (afMulPre x y) (some id)).v (fun i => if i = id then e else ε i) δ) ∧
      ((afFinish (afSqrPre x) (some id)).v.unb = false →
        ∃ e δ, mag e ≤ 1 ∧ mag δ ≤ f32Val (afFinish (afSqrPre x) (some id)).v.r ∧
          pointOf x ε δx * pointOf x ε δx =
            pointOf (afFinish (afSqrPre x) (some id)).v (fun i => if i = id then e else ε i) δ))

/-- R194 for `AFRCP`, `AFSQRT` and `AFEXP`: on operands inside the domain they complete with the min-range result, and an
`AFEXP` whose upper end reaches 128 is unbounded with OVF. Of the other results of `AFEXP` this says that its result is
folded and written by R187 and R188. R199 for `AFRNG` and `AFGET`. R190, R195: an affine instruction whose operand is
malformed in some thread raises the format fault, and `AFRCP` on an interval that contains 0 or `AFSQRT` below 0 the affine
domain fault; then the trap is the only effect. -/
def Obligations.AffineFunctionsAndExtraction : Prop :=
  ((∀ o : OpAfUn, Mints (.afrcp o) o.d o.pred (useAf o.d ++ useAf o.a)
    (fun v => AfRegs v o.a o.raw ∧ ∃ x, Holds (afBitsAt v o.a) x ∧
      (x.unb = true ∨ ∃ lo hi, Range x lo hi ∧ (0 < f32Val lo ∨ f32Val hi < 0)))
    (fun v p fl => fl = voidAf v o.a ∧ ∃ x, Holds (afBitsAt v o.a) x ∧ Reciprocal x p)) ∧
  (∀ o : OpAfUn, Mints (.afsqrt o) o.d o.pred (useAf o.d ++ useAf o.a)
    (fun v => AfRegs v o.a o.raw ∧ ∃ x, Holds (afBitsAt v o.a) x ∧ (x.unb = true ∨ ∃ lo hi, Range x lo hi ∧ 0 ≤ f32Val lo))
    (fun v p fl => fl = voidAf v o.a ∧ ∃ x, Holds (afBitsAt v o.a) x ∧ Root x p)) ∧
  (∀ o : OpAfUn, Mints (.afexp o) o.d o.pred (useAf o.d ++ useAf o.a) (fun v => AfReady v o.a o.raw)
    (fun v p fl => fl = voidAf v o.a ∧ ∃ x, Holds (afBitsAt v o.a) x ∧
      (x.unb = true → Unbounded false p) ∧
      (x.unb = false → ∀ lo hi, Range x lo hi → (finite32 hi = false ∨ 128 ≤ f32Val hi) → Unbounded true p)))) ∧
  ((∀ o : OpAfRng, Completes (.afrng o) false o.pred (useReg o.d 2 ++ useAf o.a) (fun v => AfReady v o.a o.raw)
    (fun v r => r.preds = [] ∧ r.flags = voidAf v o.a ∧ ∃ x lo hi, Holds (afBitsAt v o.a) x ∧
      (x.unb = true → lo = 0xFF800000 ∧ hi = 0x7F800000) ∧
      (x.unb = false → ∃ l, Range x l hi ∧ lo = if f32Val x.c = deviation x then 2 ^ 31 else l) ∧
      r.regs = [(regNum o.d, ⟨BitVec.ofNat 32 lo, .f32⟩), (regNum o.d + 1, ⟨BitVec.ofNat 32 hi, .f32⟩)])) ∧
  (∀ o : OpAfGet, Completes (.afget o) false o.pred
    (useReg o.d ++ useAf o.a ++ (if o.selg = 2 then useSrc o.b else []))
    (fun v => AfReady v o.a o.raw ∧ (o.selg = 2 → Readable v .n32 o.b o.raw))
    (fun v r => ∃ x y, Holds (afBitsAt v o.a) x ∧ TypedResult o.d (if o.selg = 3 then .n32 else .f32) y r ∧
      r.flags = voidAf v o.a ||| (if o.selg = 2 then voidFlags v [(.n32, o.b)] else 0#7) |||
        (if x.unb = true ∧ (o.selg = 0 ∨ o.selg = 2) then flINV else 0#7) ∧
      (o.selg = 0 → y = if x.unb then 0x7FC00000 else x.c) ∧
      (o.selg = 1 → y = if x.unb then 0x7F800000 else x.r) ∧
      (o.selg = 2 → (x.unb = true → y = 0x7FC00000) ∧
        (x.unb = false → (∀ a, (srcBits v .n32 o.b, a) ∈ x.terms → y = a) ∧
          (srcBits v .n32 o.b ∉ x.terms.map Prod.fst → y = 0))) ∧
      (o.selg = 3 → y = if x.unb then 0x10 else x.terms.length + if x.folded then 32 else 0)))) ∧
  (∀ (o : OpAfUn) (i : Instr) (s : State) (c : Ctx), i ∈ [Instr.afrcp o, .afsqrt o, .afsqr o, .afexp o] →
    Issues i (useAf o.d ++ useAf o.a) s c →
    (∀ l ∈ activeLanes c o.pred, AfRegs (viewOf c s (activeLanes c o.pred) l) o.a o.raw) →
    ((activeLanes c o.pred ≠ [] ∧ ∀ l ∈ activeLanes c o.pred,
        ¬ ∃ x, Holds (afBitsAt (viewOf c s (activeLanes c o.pred) l) o.a) x) →
      exec i s = .next (trapLanes c s cMalformed (activeLanes c o.pred))) ∧
    (activeLanes c o.pred ≠ [] → (∀ l ∈ activeLanes c o.pred, ∃ x lo hi,
        Holds (afBitsAt (viewOf c s (activeLanes c o.pred) l) o.a) x ∧ x.unb = false ∧ Range x lo hi ∧
          f32Val lo < 0 ∧ 0 ≤ f32Val hi) →
      i = .afrcp o ∨ i = .afsqrt o → exec i s = .next (trapLanes c s cAffine (activeLanes c o.pred))))

end

/-! ## Predicates and cross-lane instructions (R150..R158) -/

namespace Sys2Proof.Claims

open Machine

/-- A lane that a participation mask names and that has not ended (R152, R153). -/
def named (g : Group) (gang : List Nat) (mask : LaneMask) (l : Nat) : Bool :=
  match mask with
  | .gang => gang.contains l
  | .all => (liveLanes g).contains l
  | .kregs n =>
    let x := mget {} g.uni.k (4 * n.val + l / 32)
    (liveLanes g).contains l && x.tag != .void && x.bits.getLsbD (l % 32)

/-- VOID where a register of a mask is void (R103). -/
def voidMask (v : View) (mask : LaneMask) : Flags :=
  match mask with
  | .kregs n => if (List.range 4).any (fun i => (mget {} v.uni.k (4 * n.val + i)).tag == .void) then flVOID else 0#7
  | _ => 0#7

/-- The contributors with which a lane executes (R153): the active lanes of the mask, or the lane alone where the mask
does not name it. -/
def contributorsOf (v : View) (mask : LaneMask) : List Nat :=
  if named v.g v.gang mask v.lane then v.active.filter (named v.g v.gang mask) else [v.lane]

/-- A result described by `ok`, and VOID beside its flags where the mask reads a void register. -/
def UnderMask (mask : LaneMask) (ok : View → Result → Prop) (v : View) (r : Result) : Prop :=
  ∃ fl, r.flags = voidMask v mask ||| fl ∧ ok v { r with flags := fl }

/-- A cross-lane instruction completes once every named lane has reached it (R153). -/
def Crosses (i : Instr) (waits : Bool) (p : Pred) (mask : LaneMask) (us : List RegUse) (ready : View → Prop)
    (ok : View → Result → Prop) : Prop :=
  ∀ s c, Issues i (us ++ useMask mask) s c →
    (waits = true → ∀ l, named c.g c.gang mask l = true → l ∈ c.gang) →
    (∀ l ∈ activeLanes c p, ready (viewOf c s (activeLanes c p) l)) →
    ∃ t, exec i s = .next t ∧ ThreadsDone c p (UnderMask mask ok) s t

/-- A mask of lanes in four registers tagged b32. -/
def MaskResult (d : Reg) (has : Nat → Prop) (r : Result) : Prop :=
  r.regs.length = 4 ∧ ∀ i, i < 4 → ∃ x : Word, r.regs[i]? = some (regNum d + i, ⟨x, .b32⟩) ∧
    ∀ j, j < 32 → (x.getLsbD j = true ↔ has (32 * i + j))

/-- The vote of a lane (R154). -/
def voteOf (v : View) (o : OpVote) (l : Nat) : Bool := predBit (threadOf v.g l).rf.p o.psrc.val != o.neg

/-- The source operand of another lane of the group. -/
def peerBits (v : View) (t : Tag) (a : Src) (l : Nat) : Nat := srcBits (v.peer l) t a

/-- One step of a reduction (R156). -/
def ReduceStep (o : OpGroup) (a b y : Nat) (fl : Flags) : Prop :=
  match o.op with
  | .add =>
    if o.t = .f32 then Delivers .f32 o.rm false (exactSum .f32 o.rm a b) y fl
    else intOf o.t y = fit o.t o.sat (intOf o.t a + intOf o.t b) ∧ y < 2 ^ elemWidth o.t ∧ fl = 0#7
  | .min =>
    if o.t = .f32 then y = chosen .f32 (fun x y => decide (x < y)) a b ∧
      fl = if signalling .f32 a || signalling .f32 b then flINV else 0#7
    else intOf o.t y = min (intOf o.t a) (intOf o.t b) ∧ y < 2 ^ elemWidth o.t ∧ fl = 0#7
  | .max =>
    if o.t = .f32 then y = chosen .f32 (fun x y => decide (y < x)) a b ∧
      fl = if signalling .f32 a || signalling .f32 b then flINV else 0#7
    else intOf o.t y = max (intOf o.t a) (intOf o.t b) ∧ y < 2 ^ elemWidth o.t ∧ fl = 0#7
  | .and => (∀ i, y.testBit i = (a.testBit i && b.testBit i)) ∧ fl = 0#7
  | .or => (∀ i, y.testBit i = (a.testBit i || b.testBit i)) ∧ fl = 0#7
  | .xor => (∀ i, y.testBit i = (a.testBit i != b.testBit i)) ∧ fl = 0#7

/-- The reduction of values in lane order, with the flags of its roundings (R156): the first value stands as it is, but
a NaN is delivered as the canonical one, and a signalling one raises INV (R101, R103). -/
inductive Reduced (o : OpGroup) : List Nat → Nat → Flags → Prop
  | one (x : Nat) (h : ¬ (o.t = .f32 ∧ nanBits .f32 x = true)) : Reduced o [x] x 0#7
  | nan (x : Nat) (h : o.t = .f32 ∧ nanBits .f32 x = true) :
    Reduced o [x] 0x7FC00000 (if signalling .f32 x then flINV else 0#7)
  | more (xs : List Nat) (x acc y : Nat) (fl fl' : Flags) (h : Reduced o xs acc fl) (hs : ReduceStep o acc x y fl') :
    Reduced o (xs ++ [x]) y (fl ||| fl')

/-- The identity of a reduction (R156). -/
def Identity (o : OpGroup) (y : Nat) : Prop :=
  match o.op with
  | .min => if o.t = .f32 then y = 0x7F800000 else intOf o.t y = highest_ o.t ∧ y < 2 ^ elemWidth o.t
  | .max => if o.t = .f32 then y = 0xFF800000 else intOf o.t y = lowest_ o.t ∧ y < 2 ^ elemWidth o.t
  | .and => y = 2 ^ elemWidth o.t - 1
  | _ => y = 0

/-- The least element of a list, where it has one. -/
def Least (xs : List Nat) (e : Option Nat) : Prop :=
  (xs = [] → e = none) ∧ (xs ≠ [] → ∃ x ∈ xs, e = some x ∧ ∀ y ∈ xs, x ≤ y)

end Sys2Proof.Claims

section
open Sys2Proof Machine Claims

/-- R150 and R151 for `PLOP` and both forms of `PMOV`. -/
def Obligations.PredicateInstructions : Prop :=
  (∀ o : OpPlop, Completes (.plop o) o.uni o.pred [] (fun _ => True)
    (fun v r =>
      let p := if o.uni then v.uni.q else v.rf.p
      r.regs = [] ∧ r.flags = 0#7 ∧ r.preds = [(o.pd.val, o.lut.getLsbD ((if predBit p o.pa.val then 4 else 0) +
        (if predBit p o.pb.val then 2 else 0) + (if predBit p o.pc.val then 1 else 0)))])) ∧
  (∀ (p : Pred) (d : Reg), Completes (.pmov (.get p d)) (isK d) p (useReg d) (fun _ => True)
    (fun v r => r.flags = 0#7 ∧ r.preds = [] ∧ ∃ x : Word, r.regs = [(regNum d, ⟨x, .b32⟩)] ∧
      ∀ i, x.getLsbD i = (decide (i < 8) && predBit (if isK d then v.uni.q else v.rf.p) i))) ∧
  (∀ (p : Pred) (uni : Bool) (a : Src) (mask : Fin 128),
    Completes (.pmov (.set p uni a mask)) uni p (useSrc a) (fun v => Readable v .b32 a)
      (fun v r => r.flags = voidFlags v [(.b32, a)] ∧ r.regs = [] ∧
        r.preds = ((List.range 7).filter mask.val.testBit).map (fun i => (i, (srcBits v .b32 a).testBit i))))

/-- R154 and R155 for `VOTE` and `SHFL`, once every lane of the mask has reached them. R157 and R158 for `MATCH` and both
forms of `ELECT`, which never waits. -/
def Obligations.VotesShufflesAndMatches : Prop :=
  ((∀ o : OpVote, Crosses (.vote o) true o.pred o.mask (useReg o.d (if o.mode = 3 then 4 else 1)) (fun _ => True)
    (fun v r => r.flags = 0#7 ∧
      (o.mode = 3 → r.preds = [] ∧ MaskResult o.d (fun l => l ∈ contributorsOf v o.mask ∧ voteOf v o l = true) r) ∧
      (o.mode ≠ 3 → ∃ b : Bool, r.regs = [(regNum o.d, ⟨if b then 0xFFFFFFFF#32 else 0#32, .b32⟩)] ∧
        r.preds = [(o.pd.val, b)] ∧
        (o.mode = 0 → (b = true ↔ ∃ l ∈ contributorsOf v o.mask, voteOf v o l = true)) ∧
        (o.mode = 1 → (b = true ↔ ∀ l ∈ contributorsOf v o.mask, voteOf v o l = true)) ∧
        (o.mode = 2 → (b = true ↔ ∀ l ∈ contributorsOf v o.mask, ∀ k ∈ contributorsOf v o.mask,
          voteOf v o l = voteOf v o k))))) ∧
  (∀ (o : OpShfl) (a : Reg), o.a = .reg a →
    Crosses (.shfl o) true o.pred o.mask (useReg o.d ++ useSrc o.a ++ useSrc o.b) (fun v => Readable v .n32 o.b)
      (fun v r => r.preds = [] ∧
        ∃ src : Int,
          (o.mode = 0 → src = srcBits v .n32 o.b) ∧ (o.mode = 1 → src = (v.lane : Int) - srcBits v .n32 o.b) ∧
          (o.mode = 2 → src = (v.lane : Int) + srcBits v .n32 o.b) ∧
          (o.mode = 3 → src = (Nat.xor v.lane (srcBits v .n32 o.b) : Nat)) ∧
          ((src < 0 ∨ 128 ≤ src) → r.regs = [(regNum o.d, readReg v a)] ∧ r.flags = voidFlags v [(.n32, o.b)]) ∧
          (∀ k : Nat, src = k → k < 128 →
            (k ∈ contributorsOf v o.mask →
              r.regs = [(regNum o.d, readReg (v.peer k) a)] ∧ r.flags = voidFlags v [(.n32, o.b)]) ∧
            (k ∉ contributorsOf v o.mask →
              r.regs = [(regNum o.d, readReg v a)] ∧ r.flags = voidFlags v [(.n32, o.b)] ||| flXLANE))))) ∧
  ((∀ o : OpMatch, Crosses (.matchLanes o) true o.pred o.mask (useReg o.d 4 ++ useSrc o.a (tagRegs o.t))
    (fun v => ∀ l ∈ contributorsOf v o.mask, Readable (v.peer l) o.t o.a)
    (fun v r => r.flags = voidFlags v [(o.t, o.a)] ∧
      MaskResult o.d (fun l => l ∈ contributorsOf v o.mask ∧ peerBits v o.t o.a l = srcBits v o.t o.a) r ∧
      ∃ b : Bool, r.preds = [(o.pd.val, b)] ∧
        (b = true ↔ ∀ l ∈ contributorsOf v o.mask, peerBits v o.t o.a l = srcBits v o.t o.a))) ∧
  (∀ o : OpElect, isK o.d = false → Crosses (.elect o) false o.pred o.mask (useReg o.d) (fun _ => True)
    (fun v r => r.flags = 0#7 ∧ ∃ e, (v.active.Pairwise (· < ·) → Least (contributorsOf v o.mask) e) ∧
      r.regs = [(regNum o.d, ⟨BitVec.ofNat 32 (e.getD 0xFFFFFFFF), .n32⟩)] ∧
      r.preds = [(o.pd.val, decide (e = some v.lane))])) ∧
  (∀ o : OpElect, isK o.d = true → Completes (.elect o) true o.pred (useReg o.d ++ useMask o.mask) (fun _ => True)
    (fun v r => r.flags = voidMask v o.mask ∧ ∃ e,
      (v.gang.Pairwise (· < ·) → (liveLanes v.g).Pairwise (· < ·) →
        Least (if o.mask = .gang then v.gang else (liveLanes v.g).filter (named v.g v.gang o.mask)) e) ∧
      r.regs = [(regNum o.d, ⟨BitVec.ofNat 32 (e.getD 0xFFFFFFFF), .n32⟩)] ∧
      r.preds = [(o.pd.val, decide (∃ x, e = some x ∧ x ∈ v.gang))])))

/-- R156 for `GRED` and `GSCAN`: reductions in lane order with one rounding for each step. R153: while a lane of the mask is
not in the gang, the gang waits as one at the instruction: no register, predicate or PC of any thread changes, and every
thread of the gang is blocked. -/
def Obligations.ReductionsScansAndWaits : Prop :=
  ((∀ o : OpGroup, Crosses (.gred o) true o.pred o.mask (useReg o.d (tagRegs o.t) ++ useSrc o.a (tagRegs o.t))
    (fun v => ∀ l ∈ contributorsOf v o.mask, Readable (v.peer l) o.t o.a)
    (fun v r => ∃ y fl, Reduced o ((contributorsOf v o.mask).map (peerBits v o.t o.a)) y fl ∧
      TypedResult o.d o.t y r ∧ r.flags = voidFlags v [(o.t, o.a)] ||| fl)) ∧
  (∀ o : OpGroup, Crosses (.gscan o) true o.pred o.mask (useReg o.d (tagRegs o.t) ++ useSrc o.a (tagRegs o.t))
    (fun v => ∀ l ∈ contributorsOf v o.mask, Readable (v.peer l) o.t o.a)
    (fun v r =>
      let before := (contributorsOf v o.mask).filter (fun l => if o.exc then l < v.lane else l ≤ v.lane)
      ∃ y fl, TypedResult o.d o.t y r ∧ r.flags = voidFlags v [(o.t, o.a)] ||| fl ∧
        (v.active.Pairwise (· < ·) → before = [] → Identity o y ∧ fl = 0#7) ∧
        (v.active.Pairwise (· < ·) → before ≠ [] → Reduced o (before.map (peerBits v o.t o.a)) y fl)))) ∧
  (∀ (i : Instr) (p : Pred) (mask : LaneMask) (us : List RegUse) (s : State) (c : Ctx),
    ((∃ o : OpVote, i = .vote o ∧ p = o.pred ∧ mask = o.mask ∧ us = useReg o.d (if o.mode = 3 then 4 else 1)) ∨
      (∃ o : OpShfl, i = .shfl o ∧ p = o.pred ∧ mask = o.mask ∧ us = useReg o.d ++ useSrc o.a ++ useSrc o.b) ∨
      (∃ o : OpGroup, (i = .gred o ∨ i = .gscan o) ∧ p = o.pred ∧ mask = o.mask ∧
        us = useReg o.d (tagRegs o.t) ++ useSrc o.a (tagRegs o.t)) ∨
      (∃ o : OpMatch, i = .matchLanes o ∧ p = o.pred ∧ mask = o.mask ∧ us = useReg o.d 4 ++ useSrc o.a (tagRegs o.t))) →
    Issues i (us ++ useMask mask) s c → (∃ l, named c.g c.gang mask l = true ∧ l ∉ c.gang) →
    ∃ t, exec i s = .next t ∧
      (∀ gid, gid ≠ c.gid → mfind t.groups gid = mfind s.groups gid) ∧
      (groupOf t c.gid).uni = (groupOf s c.gid).uni ∧
      ∀ l, (threadOf (groupOf t c.gid) l).rf = (threadOf (groupOf s c.gid) l).rf ∧
        (threadOf (groupOf t c.gid) l).pc = (threadOf (groupOf s c.gid) l).pc ∧
        (l ∈ c.gang → (mfind (groupOf s c.gid).threads l).isSome →
          (threadOf (groupOf t c.gid) l).run = .blocked .retry) ∧
        (l ∉ c.gang → (threadOf (groupOf t c.gid) l).run = (threadOf (groupOf s c.gid) l).run))

end

/-! ## Memory instructions (R242..R275, R397, R403) -/

namespace Sys2Proof.Claims

open Machine

/-- A generic address: the pair plus the signed offset (R258). -/
def genericVa (v : View) (ab : Src) (off : BitVec 19) : DWord := BitVec.ofNat 64 (pairBits v ab) + off.signExtend 64

/-- An offset of the block's grant, modulo 2^32 (R258). -/
def offsetVa (v : View) (ab : Src) (off : BitVec 19) : DWord :=
  BitVec.ofNat 64 (BitVec.ofNat 32 (srcBits v .n32 ab) + off.signExtend 32).toNat

/-- How the lanes of an instruction find their places. -/
abbrev Locator := State → Group → Nat → DWord → Locate

/-- Generic addresses of threads, aligned to the access (R229..R232, R259). -/
def generic (size : Nat) (u : PageUse) : Locator := fun s g l va => locateAligned s g l false va size u

/-- Generic addresses of a uniform access, which has no private memory (R264). -/
def genericUni (size : Nat) (u : PageUse) : Locator := fun s g l va => locateAligned s g l true va size u

/-- Offsets of the grant on the issuing core (R258). -/
def ofGrant (size : Nat) : Locator := fun s g _ va => locateGrant s g va.toNat size

/-- A lane's access has a place. -/
def At (loc : Locator) (s : State) (c : Ctx) (x : Spot) : Prop := loc s c.g x.lane x.va = .at x.place x.pt x.commons

/-- A lane's access has a place, and nothing holds it at issue (R236, R246, R247). -/
def Placed (loc : Locator) (s : State) (c : Ctx) (x : Spot) : Prop := At loc s c x ∧ mustWait s c x = false

/-- A uniform access has a place, and nothing that a lane of the gang has issued holds it (R247, R264). -/
def UniPlaced (loc : Locator) (s : State) (c : Ctx) (x : Spot) : Prop :=
  At loc s c x ∧ ∀ l ∈ c.gang, mustWait s c { x with lane := l } = false

/-- The scope at which an access is performed: `.blk` outside the global window (R242). -/
def scopeOf (x : Spot) (sc : Scope) : Scope := if x.va.toNat / 2 ^ 56 = 0 then sc else .blk

/-- An outstanding load as it was issued. -/
structure LoadOf (c : Ctx) (x : Spot) (uni : Bool) (sc : Scope) (ord : Order) (mt : MemType) (size dest : Nat) (af : Bool)
    (a : Access) : Prop where
  kind : a.kind = .load
  group : a.group = c.gid
  lane : a.lane = x.lane
  uniform : a.uniform = uni
  va : a.va = x.va
  place : a.place = x.place
  ptype : a.ptype = x.pt
  size : a.size = size
  scope : a.scope = scopeOf x sc
  order : a.order = ord
  mt : a.mt = mt
  dest : a.dest = dest
  af : a.af = af
  captured : a.captured = none

/-- A result that only raises flags. -/
def FlagsOnly (void : View → Flags) (v : View) (r : Result) : Prop := r.regs = [] ∧ r.preds = [] ∧ r.flags = void v

/-- Accesses put behind the outstanding ones of the gang's core. -/
def withAccesses (c : Ctx) (as : List Access) (s : State) : State :=
  modCore s c.g.core (fun k => { k with acc := k.acc ++ as })

/-- Loads of threads issue (R261): the gang goes on, each active lane's access is outstanding at its place, and nothing
else changes but VOID: no register, and no byte of memory. -/
def IssuesLoads (i : Instr) (p : Pred) (us : List RegUse) (ready : View → Prop) (va : View → DWord) (loc : Locator)
    (sc : Scope) (ord : Order) (mt : MemType) (size : Nat) (dest : View → Nat) (af : Bool) (void : View → Flags) : Prop :=
  ∀ (s : State) (c : Ctx) (xs : List Spot), Issues i us s c → activeLanes c p ≠ [] →
    (∀ l ∈ activeLanes c p, ready (viewOf c s (activeLanes c p) l)) →
    xs.map Spot.lane = activeLanes c p →
    (∀ x ∈ xs, x.va = va (viewOf c s (activeLanes c p) x.lane) ∧ Placed loc s c x) →
    ∃ t t' as, exec i s = .next t ∧ ThreadsDone c p (FlagsOnly void) s t' ∧ t = withAccesses c as t' ∧
      as.length = xs.length ∧ ∀ (n : Nat) (x : Spot), xs[n]? = some x → ∃ a, as[n]? = some a ∧
        LoadOf c x false sc ord mt size (dest (viewOf c s (activeLanes c p) x.lane)) af a

/-- A uniform load of one or more words issues (R264). -/
def IssuesUniLoads (i : Instr) (p : Pred) (us : List RegUse) (ready : View → Prop) (vas : View → List DWord) (sc : Scope)
    (ord : Order) (mt : MemType) (size dest : Nat) (void : View → Flags) : Prop :=
  ∀ (s : State) (c : Ctx) (xs : List Spot), Issues i us s c → predVal c.g.uni.q p = true → ready (viewOf c s c.gang (lowest c.gang)) →
    xs.map Spot.va = vas (viewOf c s c.gang (lowest c.gang)) →
    (∀ x ∈ xs, x.lane = lowest c.gang ∧ UniPlaced (genericUni size .read) s c x) →
    ∃ t t' as, exec i s = .next t ∧ UniformDone c (FlagsOnly void) s t' ∧ t = withAccesses c as t' ∧
      (∀ l ∈ c.gang, ∀ th, mfind (groupOf t c.gid).threads l = some th → th.region = none) ∧ as.length = xs.length ∧
      ∀ (n : Nat) (x : Spot), xs[n]? = some x → ∃ a, as[n]? = some a ∧ LoadOf c x true sc ord mt size (dest + n) false a

/-- A register that names a lane's index, and the register it selects within the limit: BASE in the index register's
bits [15:8], LIMIT in [7:0] (R121, R269, R270). -/
def IndexReady (o : OpMX) (v : View) : Prop :=
  let x := readReg v (.v o.idx)
  let ix := (getIx v.rf o.ixn.val).toNat
  (x.tag = .void ∨ x.tag = .b32 ∨ x.tag = .n32 ∨ x.tag = .s32) ∧ regBits x < ix % 2 ^ 8 ∧
    ix / 2 ^ 8 + regBits x < declaredV v.s v.g

/-- The register that `LDX` and `STX` select (R270). -/
def indexed (o : OpMX) (v : View) : Nat := (getIx v.rf o.ixn.val).toNat / 2 ^ 8 + regBits (readReg v (.v o.idx))

/-- VOID of an index register. -/
def voidIdx (o : OpMX) (v : View) : Flags := if (readReg v (.v o.idx)).tag = .void then flVOID else 0#7

/-- The registers that a load fills from its data (R106, R200, R261): four registers of an affine one, one register of up
to four bytes, with the sign of s8 and s16 extended, or one register for each word. -/
def Loaded (a : Access) (data : Nat) (ws : List (Nat × Val)) : Prop :=
  (a.af = true → ws.length = 4 ∧ ∀ w, w < 4 → ws[w]? = some (a.dest + w, ⟨BitVec.ofNat 32 (data / 2 ^ (32 * w)), .af⟩)) ∧
  (a.af = false → a.size ≤ 4 → ∃ x : Word, ws = [(a.dest, ⟨x, loadTag a.mt⟩)] ∧
    (a.mt = .s8 → data < 2 ^ 8 → x = (BitVec.ofNat 8 data).signExtend 32) ∧
    (a.mt = .s16 → data < 2 ^ 16 → x = (BitVec.ofNat 16 data).signExtend 32) ∧
    (a.mt ≠ .s8 → a.mt ≠ .s16 → x = BitVec.ofNat 32 data)) ∧
  (a.af = false → 4 < a.size → ws.length = a.size / 4 ∧ ∀ w, w < a.size / 4 →
    ws[w]? = some (a.dest + w, ⟨BitVec.ofNat 32 (data / 2 ^ (32 * w)), loadTag a.mt⟩))

/-- Data delivered to the registers of an access, and nothing else of any group changed. -/
def Delivered (a : Access) (ws : List (Nat × Val)) (s t : State) : Prop :=
  t.groups = (modGroup s a.group (fun g =>
    if a.uniform then { g with
      uni := { g.uni with k := putRegs g.uni.k ws }
      uniShadow := { g.uniShadow with k := putRegs g.uniShadow.k ws } }
    else modThread g a.lane (fun th => { th with
      rf := { th.rf with v := putRegs th.rf.v ws }
      shadow := th.shadow.map (fun x => { x with v := putRegs x.v ws }) }))).groups

/-- An outstanding access that can return now: its core runs, no line of it is poisoned or owed a promotion. -/
def CanReturn (s : State) (core : Nat) (a : Access) : Prop :=
  (coreOf s core).stopped = false ∧ a.captured = none ∧ (∀ pa ∈ placePas a.place, lineOf pa ∉ s.poison) ∧
    ∀ pa ∈ placePas a.place, ∀ o, mfind s.owner (lineOf pa) = some o → o = core

/-- Every thread keeps its registers but for the flags raised in active lanes, and the gang goes on. -/
def ThreadsGoOn (c : Ctx) (p : Pred) (void : View → Flags) (s t : State) : Prop :=
  ∀ gid l th, mfind (groupOf s gid).threads l = some th →
    (groupOf t gid).uni = (groupOf s gid).uni ∧ ∃ th', mfind (groupOf t gid).threads l = some th' ∧ th'.run = th.run ∧
      th'.pc = (if gid = c.gid ∧ l ∈ c.gang then th.pc + 8#64 else th.pc) ∧
      th'.rf = (if gid = c.gid ∧ l ∈ activeLanes c p then
        { th.rf with fp := th.rf.fp ||| void (viewOf c s (activeLanes c p) l) } else th.rf)

/-- The byte that stores, in order, leave at a physical address, where one writes it (R263). -/
def storedByte (xs : List (Spot × Nat)) (pa : Nat) : Option Byte :=
  (xs.flatMap (fun x => match x.1.place with | .phys ps => pieceData ps x.2 | .scratch .. => [])).foldl
    (fun b e => if e.1 ≤ pa ∧ pa < e.1 + e.2.1 then some (BitVec.ofNat 8 (e.2.2 / 256 ^ (pa - e.1))) else b) none

/-- The byte that stores, in order, leave in a block's scratchpad. -/
def storedScratch (xs : List (Spot × Nat)) (size b pos off : Nat) : Option Byte :=
  xs.foldl (fun y x =>
    match x.1.place with
    | .scratch b' pos' o _ =>
      if b' = b ∧ pos' = pos ∧ o ≤ off ∧ off < o + size then some (BitVec.ofNat 8 (x.2 / 256 ^ (off - o))) else y
    | .phys _ => y) none

/-- Every scratchpad byte of some places lies in a core's 512 KiB. -/
def InScratch (xs : List Spot) (size : Nat) : Prop :=
  ∀ x ∈ xs, ∀ b pos o n, x.place = .scratch b pos o n → o + size ≤ 2 ^ 19

/-- The one access of a store, with its data. -/
def whole (x : Spot) (d : Nat) : List (Spot × Nat) := [(x, d)]

/-- The physical address of byte `i` of some pieces. -/
def pieceByte : List (Nat × Nat) → Nat → Option Nat
  | [], _ => none
  | (pa, n) :: rest, i => if i < n then some (pa + i) else pieceByte rest (i - n)

/-- A place of 16 bytes that is quarter `q` of a place of 64 (R200). -/
def QuarterOf (p : Place) (q : Nat) (x : Place) : Prop :=
  match p with
  | .phys ps => ∃ qs, x = .phys qs ∧
      ∀ j, pieceByte qs j = if j < 16 then pieceByte ps (16 * q + j) else none
  | .scratch b pos off _ => x = .scratch b pos (off + 16 * q) 16

/-- The four accesses of an `AFST`, in ascending address order, each with its part of the data (R200). -/
def quarters (x : Spot) (d : Nat) : List (Spot × Nat) :=
  (List.range 4).map (fun q => (quarterSpot x q, d / 2 ^ (128 * q) % 2 ^ 128))

/-- Loads of four 16-byte accesses in each lane issue (R200): each fills four registers from its quarter of the lane's
64 bytes; the gang goes on and nothing else changes but VOID. -/
def IssuesAfLoads (i : Instr) (p : Pred) (us : List RegUse) (ready : View → Prop) (va : View → DWord)
    (sc : Scope) (ord : Order) (dest : Nat) (void : View → Flags) : Prop :=
  ∀ (s : State) (c : Ctx) (xs : List Spot), Issues i us s c → activeLanes c p ≠ [] →
    (∀ l ∈ activeLanes c p, ready (viewOf c s (activeLanes c p) l)) →
    xs.map Spot.lane = activeLanes c p →
    (∀ x ∈ xs, x.va = va (viewOf c s (activeLanes c p) x.lane) ∧ At (generic 64 .read) s c x ∧
      ∀ q, q < 4 → mustWait s c (quarterSpot x q) = false) →
    ∃ t t' as, exec i s = .next t ∧ ThreadsDone c p (FlagsOnly void) s t' ∧ t = withAccesses c as t' ∧
      as.length = 4 * xs.length ∧ ∀ (n q : Nat) (x : Spot), xs[n]? = some x → q < 4 →
        ∃ a, as[4 * n + q]? = some a ∧ QuarterOf x.place q a.place ∧ a.kind = .load ∧ a.group = c.gid ∧ a.lane = x.lane ∧
          a.uniform = false ∧ a.va = x.va + BitVec.ofNat 64 (16 * q) ∧ a.ptype = x.pt ∧ a.size = 16 ∧
          a.scope = scopeOf x sc ∧ a.order = ord ∧ a.dest = dest + 4 * q ∧ a.af = true ∧ a.captured = none

/-- Stores of threads are performed (R262, R263): the gang goes on; of plain ones that no store buffer holds, the
threads read the bytes stored, the highest lane's where lanes overlap, and every other byte as before; and where the
block's store buffer holds all of them, memory does not change and they stand in it in lane order. `cut` gives the
accesses of one lane, of `size` bytes each. -/
def PerformsStores (i : Instr) (p : Pred) (us : List RegUse) (ready : View → Prop) (va : View → DWord) (loc : Locator)
    (ord : Order) (cut : Spot → Nat → List (Spot × Nat)) (size : Nat) (data : View → Nat) (void : View → Flags) : Prop :=
  ∀ (s : State) (c : Ctx) (zs : List Spot), Issues i us s c → activeLanes c p ≠ [] →
    (∀ l ∈ activeLanes c p, ready (viewOf c s (activeLanes c p) l)) →
    zs.map Spot.lane = activeLanes c p →
    (∀ x ∈ zs, x.va = va (viewOf c s (activeLanes c p) x.lane) ∧ At loc s c x) →
    (releases ord = true → c.g.sweepMark = none ∧ quiet s c.gid c.g (activeLanes c p) = true) →
    let ys := zs.flatMap (fun x => cut x (data (viewOf c s (activeLanes c p) x.lane)))
    let xs := ys.map Prod.fst
    let buffered (x : Spot) : Bool := !(placePas x.place).isEmpty && buffers s c.g x.pt (isPrivate x.va)
    (∀ x ∈ xs, mustWait s c x = false) →
    ∃ t, exec i s = .next t ∧ ThreadsGoOn c p void s t ∧
      (coreOf t c.g.core).stPend =
        (coreOf s c.g.core).stPend + (xs.filter (fun x => !(placePas x.place).isEmpty)).length ∧
      (releases ord = false → (blockOf s c.g.block).buffer = [] →
        (∀ x ∈ xs, buffered x = false) → InScratch xs size →
        (∀ pa, groupByte t (groupOf t c.gid) pa = (storedByte ys pa).getD (groupByte s (groupOf s c.gid) pa)) ∧
        ∀ b pos off, off < 2 ^ 19 →
          scratchByte t b pos off = (storedScratch ys size b pos off).getD (scratchByte s b pos off)) ∧
      (releases ord = false → (∀ x ∈ xs, buffered x = true ∧ ∃ pa, x.place = .phys [(pa, size)]) →
        (mfind s.blocks c.g.block).isSome = true → bufferBytes (blockOf s c.g.block) + size * xs.length ≤ 262144 →
        t.mem = s.mem ∧ ∃ es : List Buffered, (blockOf t c.g.block).buffer = (blockOf s c.g.block).buffer ++ es ∧
          es.length = ys.length ∧ ∀ (n : Nat) (y : Spot × Nat), ys[n]? = some y → ∃ e, es[n]? = some e ∧ y.1.place = .phys [(e.pa, size)] ∧
            e.size = size ∧ e.data = y.2 % 256 ^ size ∧ e.red = none)

/-- The raw bits of registers from one on (R262). -/
def rawBits (v : View) (r : Reg) : Nat → Nat
  | 0 => 0
  | n + 1 => regBits (readReg v r) + 2 ^ 32 * rawBits v (regPlus r 1) n

/-- A source of a store that its type allows (R262). -/
def StoreReady (v : View) (ds : Src) (mt : MemType) : Prop :=
  match mt with
  | .n8 | .s8 | .n16 | .s16 => Counts v ds
  | .b32 | .b64 | .b128 => True
  | _ => Readable v (storeType mt) ds

/-- The data of a store (R262). -/
def storeData (v : View) (ds : Src) (mt : MemType) : Nat :=
  (match ds with
  | .reg r => rawBits v r (memRegs mt)
  | s => srcBits v (storeType mt) s) % 2 ^ (8 * memSize mt)

/-- VOID of some registers from one on. -/
def voidRun (v : View) (r : Reg) : Nat → Flags
  | 0 => 0#7
  | n + 1 => (if (readReg v r).tag = .void then flVOID else 0#7) ||| voidRun v (regPlus r 1) n

/-- VOID of a store's source. -/
def voidStore (v : View) (ds : Src) (mt : MemType) : Flags :=
  match ds with
  | .reg r => voidRun v r (memRegs mt)
  | _ => 0#7

/-- The bits of 16 registers as `AFST` stores them: tags af, b32 or void (R200). -/
def AfStorable (v : View) (r : Fin 4) : Prop := AfRegs v r false

/-- What an atomic leaves (R266), or none where a compare-and-swap fails. -/
def AtomLeaves (op : AtomOp) (t : Tag) (old b n : Nat) (x : Option Nat) : Prop :=
  let w := elemWidth t
  match op with
  | .add => ∃ y, x = some y ∧ y < 2 ^ w ∧ (y : Int) = ((old : Int) + b) % 2 ^ w
  | .min => ∃ y, x = some y ∧ (y = old ∨ y = b) ∧ intOf t y = min (intOf t old) (intOf t b)
  | .max => ∃ y, x = some y ∧ (y = old ∨ y = b) ∧ intOf t y = max (intOf t old) (intOf t b)
  | .and => ∃ y, x = some y ∧ ∀ i, y.testBit i = (old.testBit i && b.testBit i)
  | .or => ∃ y, x = some y ∧ ∀ i, y.testBit i = (old.testBit i || b.testBit i)
  | .xor => ∃ y, x = some y ∧ ∀ i, y.testBit i = (old.testBit i != b.testBit i)
  | .exch => x = some b
  | .cas => (old = b → x = some n) ∧ (old ≠ b → x = none)
  | .inc => x = some (if b ≤ old then 0 else old + 1)
  | .dec => x = some (if old = 0 ∨ b < old then b else old - 1)
  | .fadd => ∃ y fl, x = some y ∧ Delivers .f32 .ne false (exactSum .f32 .ne old b) y fl
  | .fmin => x = some (chosen .f32 (fun x y => decide (x < y)) old b)
  | .fmax => x = some (chosen .f32 (fun x y => decide (y < x)) old b)
  | .bf16add => ∃ (y : Nat) (fl : Nat → Flags), x = some y ∧ y < 2 ^ 32 ∧ ∀ e, e < 2 →
      Delivers .bf16 .ne false (exactSum .bf16 .ne (elemOf .bf16x2 old e) (elemOf .bf16x2 b e)) (elemOf .bf16x2 y e) (fl e)
  | .f16add => ∃ (y : Nat) (fl : Nat → Flags), x = some y ∧ y < 2 ^ 32 ∧ ∀ e, e < 2 →
      Delivers .f16 .ne false (exactSum .f16 .ne (elemOf .f16x2 old e) (elemOf .f16x2 b e)) (elemOf .f16x2 y e) (fl e)

/-- The operands of an atomic beside its address may be read (R266). -/
def AtomReady (v : View) (o : OpN) : Prop :=
  Readable v o.t o.b ∧ ∀ r, o.aop = .cas → o.b = .reg r → Readable v o.t (.reg (regPlus r (tagRegs o.t)))

/-- The new value of a compare-and-swap. -/
def atomNewBits (v : View) (o : OpN) : Nat :=
  match o.aop, o.b with
  | .cas, .reg r => srcBits v o.t (.reg (regPlus r (tagRegs o.t)))
  | _, _ => 0

/-- VOID of an atomic's operands. -/
def voidAtom (v : View) (o : OpN) : Flags :=
  voidOf v o.t o.b ||| (match o.aop, o.b with
    | .cas, .reg r => voidOf v o.t (.reg (regPlus r (tagRegs o.t)))
    | _, _ => 0#7)

/-- An outstanding atomic as it was issued. -/
def AtomOf (c : Ctx) (o : OpN) (x : Spot) (uni : Bool) (sc : Scope) (v : View) (a : Access) : Prop :=
  a.kind = .atomic ∧ a.group = c.gid ∧ a.lane = x.lane ∧ a.uniform = uni ∧ a.va = x.va ∧ a.place = x.place ∧
    a.scope = scopeOf x sc ∧ a.order = o.ord ∧ a.dest = regNum o.d ∧ a.aop = o.aop ∧ a.t = o.t ∧
    a.b = srcBits v o.t o.b ∧ a.c = atomNewBits v o ∧ a.captured = none

/-- Atomics of threads issue (R266, R267): the gang goes on, each active lane's access is outstanding, in lane order, and
where the block's store buffer is empty no byte of memory changes. -/
def IssuesAtoms (i : Instr) (o : OpN) (us : List RegUse) (ready : View → Prop) (va : View → DWord) (loc : Locator)
    (sc : Scope) (void : View → Flags) : Prop :=
  ∀ (s : State) (c : Ctx) (xs : List Spot), Issues i us s c → activeLanes c o.pred ≠ [] →
    (∀ l ∈ activeLanes c o.pred, ready (viewOf c s (activeLanes c o.pred) l)) →
    xs.map Spot.lane = activeLanes c o.pred →
    (∀ x ∈ xs, x.va = va (viewOf c s (activeLanes c o.pred) x.lane) ∧ Placed loc s c x) →
    (releases o.ord = true → c.g.sweepMark = none ∧ quiet s c.gid c.g (activeLanes c o.pred) = true) →
    ∃ t as, exec i s = .next t ∧ ThreadsGoOn c o.pred void s t ∧
      ((blockOf s c.g.block).buffer = [] → t.mem = s.mem ∧
        (coreOf t c.g.core).acc = (coreOf s c.g.core).acc ++ as) ∧
      as.length = xs.length ∧ ∀ (n : Nat) (x : Spot), xs[n]? = some x → ∃ a, as[n]? = some a ∧
        AtomOf c o x false sc (viewOf c s (activeLanes c o.pred) x.lane) a

end Sys2Proof.Claims

section
open Sys2Proof Machine Claims

/-- R258 to R261, R264 and R270 for `LD`, `LDS`, `LDX`, `LDK` and `AFLD`: loads issue with every register and byte of memory
unchanged, and the state form of `AFLD` copies state words. R122 and R261: `LOAD_RETURN` writes the data of an outstanding
load, little-endian from its place, to its registers; memory and every other register are unchanged, and the load is no
longer outstanding. -/
def Obligations.Loads : Prop :=
  ((∀ (o : OpM) (d : Reg), o.ds = .reg d → isK d = false →
    IssuesLoads (.ld o) o.pred (useReg d (memRegs o.mt) ++ useSrc o.ab 2) (fun v => Addresses v o.ab)
      (fun v => genericVa v o.ab o.off) (generic (memSize o.mt) .read) o.sc o.ord o.mt (memSize o.mt)
      (fun _ => regNum d) false (fun v => voidFlags v [(.n64, o.ab)])) ∧
  (∀ (o : OpM) (d : Reg), o.ds = .reg d → isK d = true →
    IssuesUniLoads (.ld o) o.pred (useReg d (memRegs o.mt) ++ useSrc o.ab 2) (fun v => Addresses v o.ab)
      (fun v => [genericVa v o.ab o.off]) o.sc o.ord o.mt (memSize o.mt) (regNum d)
      (fun v => voidFlags v [(.n64, o.ab)])) ∧
  (∀ (o : OpM) (d : Reg), o.ds = .reg d →
    IssuesLoads (.lds o) o.pred (useReg d (memRegs o.mt) ++ useSrc o.ab) (fun v => Counts v o.ab)
      (fun v => offsetVa v o.ab o.off) (ofGrant (memSize o.mt)) .blk o.ord o.mt (memSize o.mt)
      (fun _ => regNum d) false (fun v => voidFlags v [(.n32, o.ab)])) ∧
  (∀ o : OpMX,
    IssuesLoads (.ldx o) o.pred (useV o.idx.val 1 ++ useSrc o.ab 2) (fun v => Addresses v o.ab ∧ IndexReady o v)
      (fun v => genericVa v o.ab o.off) (generic (memSize o.mt) .read) o.sc o.ord o.mt (memSize o.mt)
      (indexed o) false (fun v => voidFlags v [(.n64, o.ab)] ||| voidIdx o v)) ∧
  (∀ (o : OpLdk) (r : Reg), o.ab = .reg r →
    IssuesUniLoads (.ldk o) o.pred (useReg o.d (o.cntm1.val + 1) ++ useReg r 2) (fun v => Addresses v o.ab)
      (fun v => (List.range (o.cntm1.val + 1)).map (fun i => genericVa v o.ab o.off + BitVec.ofNat 64 (4 * i)))
      o.sc o.ord .b32 4 (regNum o.d) (fun v => voidFlags v [(.n64, o.ab)])) ∧
  (∀ o : OpLdk, (∀ r, o.ab ≠ .reg r) →
    IssuesUniLoads (.ldk o) o.pred (useReg o.d (o.cntm1.val + 1)) (fun _ => True)
      (fun v => (List.range (o.cntm1.val + 1)).map (fun i =>
        BitVec.ofNat 64 (lrArgs (launchOf v.s v.g.launch).rcd) + o.off.signExtend 64 + BitVec.ofNat 64 (4 * i)))
      o.sc o.ord .b32 4 (regNum o.d) (fun _ => 0#7)) ∧
  (∀ (o : OpAfMem) (r : Reg), o.ab = .reg r →
    IssuesAfLoads (.afld o) o.pred (useAf o.r ++ useReg r 2) (fun v => Addresses v (.reg r))
      (fun v => genericVa v (.reg r) o.off) o.sc o.ord (192 + 16 * o.r.val)
      (fun v => voidFlags v [(.n64, .reg r)])) ∧
  (∀ o : OpAfMem, (∀ r, o.ab ≠ .reg r) →
    Completes (.afld o) false o.pred (useAf o.r)
      (fun v => (threadOf v.g v.lane).act.isSome = true ∧ o.off.toNat % 64 = 0 ∧ o.off.toNat ≤ 192 ∧
        o.off.toNat / 4 + 16 ≤ stateSize v)
      (fun v r => r.preds = [] ∧ r.regs.length = 16 ∧
        r.flags = (if (List.range 16).any (fun w => (mget {} v.rf.v (o.off.toNat / 4 + w)).tag == .void) then flVOID
          else 0#7) ∧
        ∀ w, w < 16 → r.regs[w]? = some (192 + 16 * o.r.val + w,
          ⟨BitVec.ofNat 32 (regBits (mget {} v.rf.v (o.off.toNat / 4 + w))), .af⟩)))) ∧
  (∀ s core n a, (coreOf s core).acc[n]? = some a → a.kind = .load → CanReturn s core a →
    ∃ t ws, exec (.loadReturn core n) s = .next t ∧ t.mem = s.mem ∧
      (coreOf t core).acc = (coreOf s core).acc.take n ++ (coreOf s core).acc.drop (n + 1) ∧
      Loaded a (readPlace s (groupOf s a.group) a.place a.size) ws ∧ Delivered a ws s t)

/-- R266 and R267: `ATOM` and `ATOMS` issue their accesses. R249 and R266: `ATOMIC_RETURN` performs one atomic: the old
value goes to D with tag T, the new one to its place, and every other byte is unchanged; a failing compare-and-swap writes
nothing. -/
def Obligations.Atomics : Prop :=
  ((∀ o : OpN, isK o.d = false → IssuesAtoms (.atom o) o (useReg o.d (tagRegs o.t) ++ useSrc o.a 2 ++ useAtomB o)
    (fun v => Addresses v o.a ∧ AtomReady v o ∧ isPrivate (genericVa v o.a 0#19) = false)
    (fun v => genericVa v o.a 0#19) (generic (atomSize o.t) .write) o.sc
    (fun v => voidFlags v [(.n64, o.a)] ||| voidAtom v o)) ∧
  (∀ o : OpN, IssuesAtoms (.atoms o) o (useReg o.d (tagRegs o.t) ++ useSrc o.a ++ useAtomB o)
    (fun v => Counts v o.a ∧ AtomReady v o) (fun v => BitVec.ofNat 64 (srcBits v .n32 o.a)) (ofGrant (atomSize o.t)) .blk
    (fun v => voidFlags v [(.n32, o.a)] ||| voidAtom v o)) ∧
  (∀ (o : OpN) (s : State) (c : Ctx) (x : Spot), isK o.d = true →
    Issues (.atom o) (useReg o.d (tagRegs o.t) ++ useSrc o.a 2 ++ useAtomB o) s c → predVal c.g.uni.q o.pred = true →
    let v := viewOf c s c.gang (lowest c.gang)
    Addresses v o.a → AtomReady v o → x.va = genericVa v o.a 0#19 → isPrivate x.va = false → x.lane = lowest c.gang →
    UniPlaced (genericUni (atomSize o.t) .write) s c x →
    (releases o.ord = true → c.g.sweepMark = none ∧ quiet s c.gid c.g c.gang = true) →
    ∃ t a, exec (.atom o) s = .next t ∧ AtomOf c o x true o.sc v a ∧
      (∀ l th, mfind (groupOf s c.gid).threads l = some th → ∃ th', mfind (groupOf t c.gid).threads l = some th' ∧
        th'.rf.v = th.rf.v ∧ th'.pc = if l ∈ c.gang then th.pc + 8#64 else th.pc) ∧
      (groupOf t c.gid).uni = (groupOf s c.gid).uni ∧
      ((blockOf s c.g.block).buffer = [] → t.mem = s.mem ∧
        (coreOf t c.g.core).acc = (coreOf s c.g.core).acc ++ [a]))) ∧
  (∀ s core n a pa, (coreOf s core).acc[n]? = some a → a.kind = .atomic → CanReturn s core a →
    (∀ b ∈ (coreOf s core).acc.take n, overlap b.place a.place = false) →
    a.place = .phys [(pa, atomSize a.t)] → a.t ≠ .af →
    ∃ t x, exec (.atomicReturn core n) s = .next t ∧
      (coreOf t core).acc = (coreOf s core).acc.take n ++ (coreOf s core).acc.drop (n + 1) ∧
      AtomLeaves a.aop a.t (readPlace s (groupOf s a.group) a.place (atomSize a.t)) a.b a.c x ∧
      (∀ y i, x = some y → i < atomSize a.t → readMem t (pa + i) = BitVec.ofNat 8 (y / 256 ^ i)) ∧
      (∀ k, (k < pa ∨ pa + atomSize a.t ≤ k) → readMem t k = readMem s k) ∧ (x = none → t.mem = s.mem) ∧
      Delivered a (if is64 a.t then
          [(a.dest, ⟨BitVec.ofNat 32 (readPlace s (groupOf s a.group) a.place (atomSize a.t)), a.t⟩),
            (a.dest + 1, ⟨BitVec.ofNat 32 (readPlace s (groupOf s a.group) a.place (atomSize a.t) / 2 ^ 32), a.t⟩)]
        else [(a.dest, ⟨BitVec.ofNat 32 (readPlace s (groupOf s a.group) a.place (atomSize a.t)), a.t⟩)]) s t)

/-- R262, R263, R270, R397 for `ST`, `STS`, `STX` and `AFST`: what is stored where, and that every other byte is unchanged.
R266, R268 and R397 for `RED`: it goes on, writes no register, and changes memory at its place alone; one lane leaves what
R266 says. In a contained launch it waits in the store buffer. -/
def Obligations.StoresAndReductions : Prop :=
  ((∀ o : OpM, PerformsStores (.st o) o.pred (useSrc o.ds (memRegs o.mt) ++ useSrc o.ab 2)
    (fun v => Addresses v o.ab ∧ StoreReady v o.ds o.mt) (fun v => genericVa v o.ab o.off)
    (generic (memSize o.mt) .write) o.ord whole (memSize o.mt) (fun v => storeData v o.ds o.mt)
    (fun v => voidFlags v [(.n64, o.ab)] ||| voidStore v o.ds o.mt)) ∧
  (∀ o : OpM, PerformsStores (.sts o) o.pred (useSrc o.ds (memRegs o.mt) ++ useSrc o.ab)
    (fun v => Counts v o.ab ∧ StoreReady v o.ds o.mt) (fun v => offsetVa v o.ab o.off)
    (ofGrant (memSize o.mt)) o.ord whole (memSize o.mt) (fun v => storeData v o.ds o.mt)
    (fun v => voidFlags v [(.n32, o.ab)] ||| voidStore v o.ds o.mt)) ∧
  (∀ o : OpMX, PerformsStores (.stx o) o.pred (useV o.idx.val 1 ++ useSrc o.ab 2)
    (fun v => Addresses v o.ab ∧ IndexReady o v ∧ StoreReady v (.reg (.v (finOf 256 (indexed o v)))) o.mt)
    (fun v => genericVa v o.ab o.off) (generic (memSize o.mt) .write) o.ord whole (memSize o.mt)
    (fun v => storeData v (.reg (.v (finOf 256 (indexed o v)))) o.mt)
    (fun v => voidFlags v [(.n64, o.ab)] ||| voidIdx o v |||
      voidStore v (.reg (.v (finOf 256 (indexed o v)))) o.mt)) ∧
  (∀ (o : OpAfMem) (r : Reg), o.ab = .reg r → PerformsStores (.afst o) o.pred (useAf o.r ++ useReg r 2)
    (fun v => Addresses v (.reg r) ∧ AfStorable v o.r) (fun v => genericVa v (.reg r) o.off) (generic 64 .write)
    o.ord quarters 16 (fun v => afBitsAt v o.r) (fun v => voidFlags v [(.n64, .reg r)] ||| voidAf v o.r)) ∧
  (∀ o : OpAfMem, (∀ r, o.ab ≠ .reg r) →
    Completes (.afst o) false o.pred (useAf o.r)
      (fun v => (threadOf v.g v.lane).act.isSome = true ∧ o.off.toNat % 64 = 0 ∧ o.off.toNat ≤ 192 ∧
        o.off.toNat / 4 + 16 ≤ stateSize v ∧ AfStorable v o.r)
      (fun v r => r.preds = [] ∧ r.flags = voidAf v o.r ∧ r.regs.length = 16 ∧ ∀ w, w < 16 →
        r.regs[w]? = some (o.off.toNat / 4 + w,
          ⟨BitVec.ofNat 32 (regBits (readReg v (.v (finOf 256 (192 + 16 * o.r.val + w))))), .af⟩)))) ∧
  (∀ (o : OpN) (s : State) (c : Ctx) (x : Spot) (pa : Nat),
    Issues (.red o) (useSrc o.a 2 ++ useSrc o.b (tagRegs o.t)) s c → activeLanes c o.pred = [x.lane] →
    let v := viewOf c s (activeLanes c o.pred) x.lane
    Addresses v o.a → Readable v o.t o.b → x.va = genericVa v o.a 0#19 → isPrivate x.va = false →
    Placed (generic (atomSize o.t) .write) s c x → x.place = .phys [(pa, atomSize o.t)] →
    (releases o.ord = true → c.g.sweepMark = none ∧ quiet s c.gid c.g [x.lane] = true) →
    (blockOf s c.g.block).buffer = [] → (∀ k, mfind s.owner (lineOf pa) = some k → k = c.g.core) →
    ∃ t, exec (.red o) s = .next t ∧
      ThreadsGoOn c o.pred (fun v => voidFlags v [(.n64, o.a), (o.t, o.b)]) s t ∧
      (buffers s c.g x.pt false = false →
        ∃ y, AtomLeaves o.aop o.t (readPlace s (groupOf s c.gid) x.place (atomSize o.t)) (srcBits v o.t o.b) 0 y ∧
          (∀ z i, y = some z → i < atomSize o.t → readMem t (pa + i) = BitVec.ofNat 8 (z / 256 ^ i)) ∧
          ∀ k, (k < pa ∨ pa + atomSize o.t ≤ k) → readMem t k = readMem s k) ∧
      (buffers s c.g x.pt false = true → t.mem = s.mem))

/-- R269, R271, R272 and R273 for `IXSET`, `FENCE`, `PREF` and `CCTL`. -/
def Obligations.FencesAndCacheControl : Prop :=
  (∀ o : OpIxset, ∀ s c, Issues (.ixset o) (useSrc o.a ++ useSrc o.b) s c →
    (∀ l ∈ activeLanes c o.pred, let v := viewOf c s (activeLanes c o.pred) l
      Readable v .n32 o.a ∧ Readable v .n32 o.b ∧ srcBits v .n32 o.a ≤ 255 ∧ srcBits v .n32 o.b ≤ 255) →
    ∃ t, exec (.ixset o) s = .next t ∧ t.mem = s.mem ∧
      ∀ l th, mfind (groupOf s c.gid).threads l = some th → ∃ th', mfind (groupOf t c.gid).threads l = some th' ∧
        th'.pc = (if l ∈ c.gang then th.pc + 8#64 else th.pc) ∧ th'.rf.v = th.rf.v ∧ th'.rf.p = th.rf.p ∧
        ∀ n, n < 4 → let v := viewOf c s (activeLanes c o.pred) l
          getIx th'.rf n = if l ∈ activeLanes c o.pred ∧ n = o.ixn.val then
            BitVec.ofNat 16 (256 * srcBits v .n32 o.a + srcBits v .n32 o.b) else getIx th.rf n) ∧
  (∀ o : OpFence, ∀ s c, Issues (.fence o) [] s c → activeLanes c o.pred ≠ [] → c.g.sweepMark = none →
    quiet s c.gid c.g (activeLanes c o.pred) = true →
    ∃ t, exec (.fence o) s = .next t ∧ ThreadsGoOn c o.pred (fun _ => 0#7) s t ∧
      (isNarrow o.sc = true ∨ (blockOf s c.g.block).buffer = [] → t.mem = s.mem) ∧
      (isNarrow o.sc = false → ∀ b, mfind s.blocks c.g.block = some b → (blockOf t c.g.block).seen = true) ∧
      (releases o.ord = true → ∀ l ∈ activeLanes c o.pred, (threadOf (groupOf t c.gid) l).region = none)) ∧
  (∀ o : OpPref, Completes (.pref o) false o.pred (useSrc o.ab 2) (fun _ => True)
    (fun v r => ∀ a, o.ab = .reg a → FlagsOnly (fun v => voidFlags v [(.n64, .reg a)]) v r)) ∧
  (∀ o : OpCctl, ∀ s c, Issues (.cctl o) (useSrc o.ab 2) s c → (blockOf s c.g.block).buffer = [] →
    (coreOf s c.g.core).held.Pairwise (fun x y => x.1 < y.1) →
    (∀ k ∈ quadCores s c.g.core, k ≠ c.g.core → ∀ pa, mfind (coreOf s k).held pa ≠ none →
      mfind (coreOf s c.g.core).held pa = none) →
    (o.cop.val < 2 → ∃ xs : List Spot, xs.map Spot.lane = activeLanes c o.pred ∧ ∀ x ∈ xs,
      Addresses (viewOf c s (activeLanes c o.pred) x.lane) o.ab ∧
        x.va = genericVa (viewOf c s (activeLanes c o.pred) x.lane) o.ab o.off ∧
        generic 1 .read s c.g x.lane x.va = .at x.place x.pt x.commons) →
    ∃ t, exec (.cctl o) s = .next t ∧
      ThreadsGoOn c o.pred (fun v => if o.cop.val < 2 then voidFlags v [(.n64, o.ab)] else 0#7) s t ∧
      (∀ pa, groupByte t (groupOf t c.gid) pa = groupByte s (groupOf s c.gid) pa) ∧
      (o.cop = 2 → activeLanes c o.pred ≠ [] → (coreOf t c.g.core).iinvAt = s.now) ∧
      (o.cop = 3 → activeLanes c o.pred ≠ [] → (coreOf t c.g.core).held = []))

end

/-! ## The symbol allocator (R186, R187, R202) -/

section
open Sys2Proof Machine Claims

/-- R202 for the four forms of `AFSYM`: what D receives, and what becomes of *S*, NEXT, `s.afnext` and `s.afmode`; and the
illegal-operation faults that it names. R186 and R187 for a draw: the lowest gang of a group that waits for one receives the
next chunk and issues again; NEXT advances by 32, so that no two groups ever hold one id; a draw past *S* raises the
symbol-exhaustion trap. -/
def Obligations.Symbols : Prop :=
  (∀ (o : OpAfSym) (s : State) (c : Ctx), Issues (.afsym o) (useReg o.d ++ useSrc o.a) s c → predVal c.g.uni.q o.pred = true →
    let v := viewOf c s c.gang (lowest c.gang)
    let a := srcBits v .n32 o.a
    let l := launchOf s c.g.launch
    let last := if l.symNext = 1 then 0 else min (l.symNext - 1) l.symS
    (o.sop = 0 ∨ o.sop = 2 → Readable v .n32 o.a) →
    ((o.sop = 0 ∧ (a = 0 ∨ 4095 < a ∨ a < last)) ∨ (o.sop = 2 ∧ 1 < a) → exec (.afsym o) s = .next (trapLanes c s cIllegalOp c.gang)) ∧
    (¬ ((o.sop = 0 ∧ (a = 0 ∨ 4095 < a ∨ a < last)) ∨ (o.sop = 2 ∧ 1 < a)) →
      ∃ t d, exec (.afsym o) s = .next t ∧ t.mem = s.mem ∧
        (groupOf t c.gid).uni.k = putRegs (groupOf s c.gid).uni.k [(regNum o.d, ⟨BitVec.ofNat 32 d, .n32⟩)] ∧
        (groupOf t c.gid).uni.q = (groupOf s c.gid).uni.q ∧
        (∀ n th, mfind (groupOf s c.gid).threads n = some th → ∃ th', mfind (groupOf t c.gid).threads n = some th' ∧
          th'.rf.v = th.rf.v ∧ th'.rf.p = th.rf.p ∧ th'.pc = (if n ∈ c.gang then th.pc + 8#64 else th.pc) ∧
          (n ∈ c.gang → th'.region = none)) ∧
        (o.sop = 0 → d = l.symS ∧ (launchOf t c.g.launch).symS = a) ∧ (o.sop ≠ 0 → (launchOf t c.g.launch).symS = l.symS) ∧
        (o.sop = 1 → l.symNext ≤ l.symS → d = l.symNext ∧ (launchOf t c.g.launch).symNext = l.symNext + 32) ∧
        (o.sop = 1 → l.symS < l.symNext → d = 0 ∧ (launchOf t c.g.launch).symNext = l.symNext) ∧
        (o.sop = 1 → (groupOf t c.gid).afnext = d) ∧
        (o.sop ≠ 1 → (launchOf t c.g.launch).symNext = l.symNext ∧ (groupOf t c.gid).afnext = c.g.afnext) ∧
        (o.sop = 2 → d = c.g.afmode ∧ (groupOf t c.gid).afmode = a) ∧ (o.sop ≠ 2 → (groupOf t c.gid).afmode = c.g.afmode) ∧
        (o.sop = 3 → 1 ≤ l.symNext → (d : Int) = max 0 ((l.symS : Int) - (l.symNext - 1))))) ∧
  (∀ s gid g, mfind s.groups gid = some g → (∃ e ∈ g.threads, drawing e.2 = true) → g.threads.Pairwise (fun x y => x.1 < y.1) →
    g.where_ = .resident → (coreOf s g.core).stopped = false →
    let l := launchOf s g.launch
    (g.afnext = 0 → l.symNext ≤ l.symS → ∃ t, exec (.symbolDraw gid) s = .next t ∧ t.mem = s.mem ∧
      (groupOf t gid).afnext = l.symNext ∧ (launchOf t g.launch).symNext = l.symNext + 32 ∧
      (∀ h, h ≠ gid → groupOf t h = groupOf s h) ∧
      ∀ n th, mfind g.threads n = some th → drawing th = true →
        (∀ e ∈ g.threads, drawing e.2 = true → th.pc.toNat ≤ e.2.pc.toNat) →
        ∃ th', mfind (groupOf t gid).threads n = some th' ∧ th' = { th with run := .ready, region := none }) ∧
    (g.afnext = 0 → l.symS < l.symNext → ∃ c lanes, c.gid = gid ∧
      exec (.symbolDraw gid) s = .next (trapLanes c (readyLanes s gid c.gang) cSymbols lanes) ∧
      ∀ n, n ∈ lanes → ∃ th, mfind g.threads n = some th ∧ th.run = .blocked (.draw true)) ∧
    (g.afnext ≠ 0 → ∃ t, exec (.symbolDraw gid) s = .next t ∧ (groupOf t gid).afnext = g.afnext ∧ t.launches = s.launches))

end

/-! ## False predicates, and reaching no instruction (R65, R78) -/

namespace Sys2Proof.Claims

open Machine

/-- The predicate, of each thread, of the words that complete for their gang at once where it is false in every thread. -/
def threadPred : Instr → Option Pred
  | .ld o | .st o | .lds o | .sts o => some o.pred
  | .ldx o | .stx o => some o.pred
  | .fence o => some o.pred
  | .pref o => some o.pred
  | .cctl o => some o.pred
  | .atom o | .atoms o | .red o => some o.pred
  | .afld o | .afst o => some o.pred
  | .exitT p | .yield p | .wend p | .wclose p => some p
  | .bar o => some o.pred
  | .lnch o | .nsend o | .nrecv o => some o.pred
  | .wwait o => some o.pred
  | .wwake o => some o.pred
  | .wemit o => some o.pred
  | .wpnld o | .wpnst o => some o.pred
  | .wfwd o => some o.pred
  | .trap o | .bkpt o => some o.pred
  | .sysc o => some o.pred
  | .movyw o => some o.pred
  | .tlbi o => some o.pred
  | _ => none

/-- Whether a word executes once for its gang, under a q predicate (R63). -/
def onceFor : Instr → Bool
  | .ld o => (match o.ds with | .reg r => isK r | _ => false)
  | .atom o => isK o.d
  | .wwait o => isK o.a
  | .wwake o => isK o.a
  | .sysc o => isK o.d
  | .movyw o => srcIsK o.a
  | .tlbi o => decide (o.scope.val ≤ 1) && isK o.d
  | _ => false

end Sys2Proof.Claims

section
open Sys2Proof Machine Claims

/-- R65: where its predicate is false in every thread (for a word that executes once for its gang: where its q predicate
is false), a word only goes on: nothing changes but the PC of the gang's threads. -/
def Obligations.FalsePredicates : Prop :=
  ∀ (i : Instr) (p : Pred) (s : State) (c : Ctx), threadPred i = some p → ctxOf s = some c → wfInstr i = true →
    (∀ o l, i = .wwait o → l = lowest c.gang ∨ l ∈ c.gang → (threadOf c.g l).wwait = none) →
    (onceFor i = false → activeLanes c p = [] → exec i s = .next (modGroup s c.gid (fun g => modThreads g c.gang goesOn))) ∧
    (onceFor i = true → predVal c.g.uni.q p = false → exec i s = .next (modGroup s c.gid (fun g => modThreads g c.gang goesOn)))

/-- R78: a word whose fields do not all take values that R78 accepts raises the illegal-instruction trap in every thread
of the gang that reaches it, whatever its predicate, and has no other effect. -/
def Obligations.IllegalWordsTrap : Prop :=
  ∀ (i : Instr) (s : State) (c : Ctx), i.isWord = true → ctxOf s = some c → wfInstr i = false →
    exec i s = .next (trapLanes c s cIllegal c.gang)

end

/-! ## Branches, calls and returns (R159..R161) -/

namespace Sys2Proof.Claims

open Machine

/-- The lanes of a gang that a branch transfers (R65, R159). -/
def taken (c : Ctx) (qpred : Bool) (p : Pred) (l : Nat) : Bool :=
  if qpred then predVal c.g.uni.q p else predVal (threadOf c.g l).rf.p p

/-- The next PC of a lane. -/
def afterJump (c : Ctx) (goes : Nat → Bool) (dest : Nat → DWord) (l : Nat) : DWord := if goes l then dest l else c.pc + 8#64

/-- A branch diverges: its gang's threads reach more than one next PC (R160). -/
def Diverges (c : Ctx) (goes : Nat → Bool) (dest : Nat → DWord) : Prop :=
  ∃ l ∈ c.gang, ∃ k ∈ c.gang, afterJump c goes dest l ≠ afterJump c goes dest k

/-- The header of the block that the gang is in, and its reconvergence block (R36). -/
def headOf (c : Ctx) : DWord := (threadOf c.g (lowest c.gang)).hword
def meetingPlace (c : Ctx) : DWord := (threadOf c.g (lowest c.gang)).hdr + BitVec.ofInt 64 (8 * hdrRcv (headOf c))

/-- What a branch may do: stay together, or diverge where its header lets it. -/
def MayGo (c : Ctx) (s : State) (goes : Nat → Bool) (dest : Nat → DWord) : Prop :=
  Diverges c goes dest → hdrDiv (headOf c) = true ∧ (hdrRcv (headOf c) = 0 ∨ reconvergeOf s c (meetingPlace c) = .ok)

/-- The gang has branched: each of its threads is at its next PC with its register file as `rf` has it, and a split record
where the branch diverged (R36); no other group, no k or q register and no other thread's PC or register has changed. -/
def Branched (c : Ctx) (goes : Nat → Bool) (dest : Nat → DWord) (rf : Nat → RegFile → RegFile) (s t : State) : Prop :=
  (∀ gid, gid ≠ c.gid → groupOf t gid = groupOf s gid) ∧ (groupOf t c.gid).uni = (groupOf s c.gid).uni ∧
  ∀ l th, mfind (groupOf s c.gid).threads l = some th → ∃ th', mfind (groupOf t c.gid).threads l = some th' ∧
    (l ∉ c.gang → th'.pc = th.pc ∧ th'.rf = th.rf) ∧
    (l ∈ c.gang → th'.pc = afterJump c goes dest l ∧ th'.rf = rf l th.rf ∧
      (¬ Diverges c goes dest → th'.run = th.run ∧ th'.split = th.split) ∧
      (Diverges c goes dest → hdrRcv (headOf c) = 0 → th'.split = none) ∧
      (Diverges c goes dest → hdrRcv (headOf c) ≠ 0 → th'.split = some ⟨meetingPlace c, maskOfLanes c.gang⟩))

/-- A register file with flags raised. -/
def raised (fl : Flags) (rf : RegFile) : RegFile := { rf with fp := rf.fp ||| fl }

/-- A branch of an instruction without a stack: where it goes, where it may not go (R57, R59, R160). -/
def Jumps (i : Instr) (us : List RegUse) (qpred : Bool) (p : Pred) (ready : View → Prop) (dest : Ctx → View → DWord)
    (void : View → Flags) : Prop :=
  ∀ (s : State) (c : Ctx), Issues i us s c →
    let lanes := c.gang.filter (taken c qpred p)
    let to_ (l : Nat) : DWord := dest c (viewOf c s lanes l)
    let v (l : Nat) : View := viewOf c s lanes l
    (∀ l ∈ lanes, ready (v l)) →
    let bad := lanes.filter (fun l => targetOf s c (to_ l) == .bad)
    (atLast (threadOf c.g (lowest c.gang)) = false →
      (bad = [] → exec i s = .next (trapLanes c s cIllegal c.gang)) ∧
      (bad ≠ [] → exec i s = .next (trapLanes c s (cTarget (to_ (lowest bad))) bad))) ∧
    (atLast (threadOf c.g (lowest c.gang)) = true →
      ((∀ l ∈ lanes, targetOf s c (to_ l) = .ok ∨ targetOf s c (to_ l) = .bad) → bad ≠ [] →
        exec i s = .next (trapLanes c s (cTarget (to_ (lowest bad))) bad)) ∧
      ((∀ l ∈ lanes, targetOf s c (to_ l) = .ok) →
        (Diverges c (taken c qpred p) to_ → hdrDiv (headOf c) = false →
          exec i s = .next (trapLanes c s (cTarget c.pc) c.gang)) ∧
        (MayGo c s (taken c qpred p) to_ → ∃ t, exec i s = .next t ∧ t.mem = s.mem ∧
          Branched c (taken c qpred p) to_ (fun l => raised (if taken c qpred p l then void (v l) else 0#7)) s t)))

/-- A stack slot of a lane: a place in private memory, eight bytes aligned to eight, that nothing holds at issue (R161). -/
def StackSlot (s : State) (c : Ctx) (u : PageUse) (x : Spot) : Prop :=
  isPrivate x.va = true ∧ Placed (generic 8 u) s c x

/-- The register file of a thread whose stack pointer has moved (R161). -/
def spMoved (c : Ctx) (s : State) (p : Pred) (sp : Reg) (delta : DWord) (void : View → Flags) (l : Nat) (rf : RegFile) :
    RegFile :=
  let v := viewOf c s (activeLanes c p) l
  if l ∈ activeLanes c p then
    fileAfter { regs := writeVal sp .n64 (BitVec.ofNat 64 (pairBits v (.reg sp)) + delta).toNat, flags := void v } rf
  else rf

end Sys2Proof.Claims


/-! ## Ending, yielding and barriers (R162, R163, R376..R378) -/

namespace Sys2Proof.Claims

open Machine

/-- A group has arrived at a barrier (R377): each of its threads that has not ended waits there or has arrived. -/
def Arrived (threads : Map Thread) (n : Nat) (at_ : Nat → Thread → Prop) : Prop :=
  ∀ e ∈ threads, e.2.run ≠ .ended → e.2.run = .blocked (.bar n) ∨ e.2.arrived.getLsbD n = true ∨ at_ e.1 e.2

end Sys2Proof.Claims

section
open Sys2Proof Machine Claims

/-- R159 and R160 for `BRA` and `BRI`, with R36 on divergence and R59 on targets. R161 for `CALL` and `RET`: the return
address pushed below the stack pointer, and popped from it; and R36 where the threads part. R161: a stack pointer outside
the private window raises the address-space fault, before anything is written. R162 and R163: `EXIT` ends the threads whose
predicate is true and `YIELD` demotes them for 256 issue opportunities; no register changes and the other threads of the
gang go on. -/
def Obligations.ControlTransfers : Prop :=
  ((∀ o : OpBra, Jumps (.bra o) [] o.qpred o.pred (fun _ => True) (fun c _ => c.pc + o.disp.signExtend 64 * 8#64)
    (fun _ => 0#7)) ∧
  (∀ o : OpBri, Jumps (.bri o) (useReg o.a 2) o.qpred o.pred (fun v => Addresses v (.reg o.a))
    (fun _ v => BitVec.ofNat 64 (pairBits v (.reg o.a))) (fun v => voidFlags v [(.n64, .reg o.a)]))) ∧
  ((∀ (o : OpCall) (s : State) (c : Ctx) (xs : List Spot), Issues (.call o) (useCall o) s c →
    atLast (threadOf c.g (lowest c.gang)) = true → activeLanes c o.pred ≠ [] →
    let v (l : Nat) : View := viewOf c s (activeLanes c o.pred) l
    let goes (l : Nat) : Bool := predVal (threadOf c.g l).rf.p o.pred
    let dest (l : Nat) : DWord := match o.target with
      | .direct d => c.pc + d.signExtend 64 * 8#64
      | .indirect r => BitVec.ofNat 64 (pairBits (v l) (.reg r))
    let void (v : View) : Flags := voidFlags v ((.n64, .reg o.sp) :: (match o.target with
      | .direct _ => []
      | .indirect r => [(.n64, .reg r)]))
    (∀ l ∈ activeLanes c o.pred, Addresses (v l) (.reg o.sp) ∧ (∀ r, o.target = .indirect r → Addresses (v l) (.reg r)) ∧
      targetOf s c (dest l) = .ok) →
    xs.map Spot.lane = activeLanes c o.pred →
    (∀ x ∈ xs, x.va = BitVec.ofNat 64 (pairBits (v x.lane) (.reg o.sp)) - 8#64 ∧ StackSlot s c .write x) →
    MayGo c s goes dest →
    ∃ t, exec (.call o) s = .next t ∧ Branched c goes dest (spMoved c s o.pred o.sp (-8#64) void) s t ∧
      (coreOf t c.g.core).stPend = (coreOf s c.g.core).stPend + xs.length ∧
      ((blockOf s c.g.block).buffer = [] → ∀ pa, groupByte t (groupOf t c.gid) pa =
        (storedByte (xs.map (fun x => (x, (c.pc + 8#64).toNat))) pa).getD (groupByte s (groupOf s c.gid) pa))) ∧
  (∀ (o : OpR) (s : State) (c : Ctx) (xs : List Spot), Issues (.ret o) (useReg o.a 2) s c →
    atLast (threadOf c.g (lowest c.gang)) = true → activeLanes c o.pred ≠ [] →
    let v (l : Nat) : View := viewOf c s (activeLanes c o.pred) l
    let goes (l : Nat) : Bool := predVal (threadOf c.g l).rf.p o.pred
    let dest (l : Nat) : DWord := match xs.find? (fun x => x.lane == l) with
      | some x => BitVec.ofNat 64 (readPlace s (groupOf s c.gid) x.place 8)
      | none => 0#64
    c.gang.Nodup → xs.map Spot.lane = activeLanes c o.pred →
    (∀ l ∈ activeLanes c o.pred, Addresses (v l) (.reg o.a) ∧ targetOf s c (dest l) = .ok) →
    (∀ x ∈ xs, x.va = BitVec.ofNat 64 (pairBits (v x.lane) (.reg o.a)) ∧ StackSlot s c .read x ∧
      ∀ line ∈ placeLines x.place, line ∉ s.poison) →
    MayGo c s goes dest →
    ∃ t, exec (.ret o) s = .next t ∧ t.mem = s.mem ∧
      Branched c goes dest (spMoved c s o.pred o.a 8#64 (fun v => voidFlags v [(.n64, .reg o.a)])) s t)) ∧
  ((∀ (o : OpCall) (s : State) (c : Ctx) (d : BitVec 32), Issues (.call o) (useCall o) s c → o.target = .direct d →
    atLast (threadOf c.g (lowest c.gang)) = true → targetOf s c (c.pc + d.signExtend 64 * 8#64) = .ok →
    MayGo c s (fun l => predVal (threadOf c.g l).rf.p o.pred) (fun _ => c.pc + d.signExtend 64 * 8#64) →
    let v (l : Nat) : View := viewOf c s (activeLanes c o.pred) l
    let out := (activeLanes c o.pred).filter (fun l => !isPrivate (BitVec.ofNat 64 (pairBits (v l) (.reg o.sp)) - 8#64))
    (∀ l ∈ activeLanes c o.pred, Addresses (v l) (.reg o.sp)) → out ≠ [] →
    exec (.call o) s = .next (trapLanes c s
      (cWindow (BitVec.ofNat 64 (pairBits (v (lowest out)) (.reg o.sp)) - 8#64)) out)) ∧
  (∀ (o : OpR) (s : State) (c : Ctx), Issues (.ret o) (useReg o.a 2) s c → atLast (threadOf c.g (lowest c.gang)) = true →
    let v (l : Nat) : View := viewOf c s (activeLanes c o.pred) l
    let out := (activeLanes c o.pred).filter (fun l => !isPrivate (BitVec.ofNat 64 (pairBits (v l) (.reg o.a))))
    (∀ l ∈ activeLanes c o.pred, Addresses (v l) (.reg o.a)) → out ≠ [] →
    exec (.ret o) s = .next (trapLanes c s (cWindow (BitVec.ofNat 64 (pairBits (v (lowest out)) (.reg o.a)))) out))) ∧
  ((∀ (p : Pred) (s : State) (c : Ctx), ctxOf s = some c →
    ∃ t, exec (.exitT p) s = .next t ∧ (c.g.activation = false → t.mem = s.mem) ∧
      (∀ pa, (∀ l ∈ activeLanes c p, ∀ w ∈ privateWords s c.g l, pa < w ∨ w + 4 ≤ pa) → readMem t pa = readMem s pa) ∧
      (groupOf t c.gid).uni = (groupOf s c.gid).uni ∧
      ∀ l th, mfind (groupOf s c.gid).threads l = some th → ∃ th', mfind (groupOf t c.gid).threads l = some th' ∧
        th'.rf = th.rf ∧ (l ∈ activeLanes c p → th'.run = .ended ∧ th'.split = none) ∧
        (l ∈ c.gang → l ∉ activeLanes c p → th.run = .ready → th'.run = .ready ∧ th'.pc = th.pc + 8#64)) ∧
  (∀ (p : Pred) (s : State) (c : Ctx), ctxOf s = some c →
    ∃ t, exec (.yield p) s = .next t ∧ t.mem = s.mem ∧ (∀ gid, gid ≠ c.gid → groupOf t gid = groupOf s gid) ∧
      (groupOf t c.gid).uni = (groupOf s c.gid).uni ∧
      ∀ l th, mfind (groupOf s c.gid).threads l = some th → ∃ th', mfind (groupOf t c.gid).threads l = some th' ∧
        th'.rf = th.rf ∧ th'.pc = (if l ∈ c.gang then th.pc + 8#64 else th.pc) ∧
        (l ∈ activeLanes c p → th'.demote = 257 ∧ th'.spin = none ∧ th'.split = none) ∧
        (l ∉ activeLanes c p → th'.demote = th.demote)))

/-- R376 and R377: a `BAR` waits for the accesses before it, its threads then wait at it (or, with `.arrive`, go on), and
the barrier completes exactly when every group of the block that has a thread left has arrived: then all its waiting
threads go on and its phase flips. -/
def Obligations.Barriers : Prop :=
  ∀ (o : OpBar) (s : State) (c : Ctx) (b : Block), ctxOf s = some c → wfInstr (.bar o) = true →
    activeLanes c o.pred ≠ [] → c.g.activation = false → mfind s.blocks c.g.block = some b →
    s.groups.Pairwise (fun x y => x.1 < y.1) → (∀ gid, ((groupOf s gid).threads.map Prod.fst).Nodup) →
    (∀ l ∈ c.gang, ∃ th, (l, th) ∈ c.g.threads ∧ th.run = .ready) →
    let n := o.n.val
    let x := mget {} b.bars n
    let live := liveGroups s c.g.block
    (∀ g ∈ x.arrived, g ∈ live) → x.arrived.Nodup →
    let all := ∀ gid ∈ live, gid ∈ x.arrived ∨
      (gid = c.gid ∧ Arrived (groupOf s gid).threads n (fun l _ => l ∈ activeLanes c o.pred)) ∨
      (gid ≠ c.gid ∧ Arrived (groupOf s gid).threads n (fun _ _ => False))
    (c.g.sweepMark = none → quiet s c.gid c.g (activeLanes c o.pred) = false →
      ∃ t, exec (.bar o) s = .next t ∧ t.blocks = s.blocks ∧
        ∀ l th, mfind (groupOf s c.gid).threads l = some th → l ∈ c.gang →
          mfind (groupOf t c.gid).threads l = some { th with run := .blocked .retry }) ∧
    (c.g.sweepMark = none → quiet s c.gid c.g (activeLanes c o.pred) = true →
      ∃ t, exec (.bar o) s = .next t ∧ t.mem = s.mem ∧
        (all → (mget {} (blockOf t c.g.block).bars n).phase = !x.phase ∧ (mget {} (blockOf t c.g.block).bars n).arrived = []) ∧
        (¬ all → (mget {} (blockOf t c.g.block).bars n).phase = x.phase) ∧
        (∀ m, m ≠ n → mget {} (blockOf t c.g.block).bars m = mget {} b.bars m) ∧
        (∀ gid l th, mfind (groupOf s gid).threads l = some th → ∃ th', mfind (groupOf t gid).threads l = some th' ∧
          th'.rf = th.rf ∧
          (gid = c.gid → l ∈ c.gang →
            (o.arrive = true ∨ l ∉ activeLanes c o.pred → th'.run = .ready ∧ th'.pc = th.pc + 8#64) ∧
            (o.arrive = false → l ∈ activeLanes c o.pred →
              (all → th'.run = .ready ∧ th'.pc = th.pc + 8#64) ∧ (¬ all → th'.run = .blocked (.bar n) ∧ th'.pc = th.pc))) ∧
          (gid ≠ c.gid → (groupOf s gid).block = c.g.block → th.run = .blocked (.bar n) → all →
            th'.run = .ready ∧ th'.pc = th.pc + 8#64)))

end

/-! ## Sweeps (R276..R294) -/

namespace Sys2Proof.Claims

open Machine

/-- The sweeps with their opcodes (R280). -/
def sweepRows (o : OpV) : List (Instr × Nat) :=
  [(.vadd o, 0xA0), (.vsub o, 0xA1), (.vmul o, 0xA2), (.vfma o, 0xA3), (.vmin o, 0xA4), (.vmax o, 0xA5), (.vexp o, 0xA6),
   (.vrsq o, 0xA7), (.vrcp o, 0xA8), (.vtanh o, 0xA9), (.vcvt o, 0xAA), (.vred o, 0xAB), (.vscan o, 0xAC), (.vgth o, 0xAD),
   (.vsct o, 0xAE), (.vmov o, 0xAF), (.vsel o, 0xB0), (.vcmp o, 0xB1), (.vlrec o, 0xB2)]

/-- A k register that an engine captures as a number (R276). -/
def Captures (v : View) (n : Nat) : Prop :=
  let x := readReg v (.k (finOf 1024 n))
  x.tag = .void ∨ x.tag = .b32 ∨ x.tag = .n32 ∨ x.tag = .s32

/-- The gang of an engine's instruction has gone on: no register of any thread, and no k or q register, has changed but
that VOID is raised where `void`; regions of the gang are closed. -/
def EngineGoesOn (c : Ctx) (void : Bool) (s t : State) : Prop :=
  (∀ gid, gid ≠ c.gid → groupOf t gid = groupOf s gid) ∧ (groupOf t c.gid).uni = (groupOf s c.gid).uni ∧
  ∀ l th, mfind (groupOf s c.gid).threads l = some th → ∃ th', mfind (groupOf t c.gid).threads l = some th' ∧
    th'.run = th.run ∧ th'.pc = (if l ∈ c.gang then th.pc + 8#64 else th.pc) ∧
    th'.rf = (if l ∈ c.gang ∧ void = true then { th.rf with fp := th.rf.fp ||| flVOID } else th.rf) ∧
    (l ∈ c.gang → th'.region = none)

/-- Whether one of some captured registers is void. -/
def anyVoid (v : View) (ns : List Nat) : Bool := ns.any (fun n => (readReg v (.k (finOf 1024 n))).tag == .void)

/-- What an engine has captured: the word's block, PC and registers, each as it was at issue (R276). -/
structure CapturedAs (c : Ctx) (s : State) (v : View) (code : Nat) (ns : List Nat) (x : Captured) : Prop where
  id : x.id = s.nextId
  group : x.group = c.gid
  block : x.block = c.g.block
  pos : x.pos = corePlace s c.g.block c.g.core
  pc : x.pc = c.pc
  op : x.op = code
  regs : ∀ n, n ∈ ns → capReg x.regs n = BitVec.ofNat 32 (regBits (readReg v (.k (finOf 1024 n))))
  only : ∀ n, n ∉ ns → capReg x.regs n = 0#32

/-- The gang's earlier accesses have returned (R253). -/
def Performed (s : State) (c : Ctx) : Prop := ∀ a ∈ (coreOf s c.g.core).acc, ∀ l ∈ c.gang, accOf c.gid l a = false

/-- One element of a sweep (R281..R283, R293), from those of the first source, the second and the destination. -/
def SweptElement (op : SweepOp) (t : Tag) (sat : Bool) (cc a b d y : Nat) : Prop :=
  let whole (x : Int) : Prop := intOf t y = fit t sat x ∧ y < 2 ^ elemWidth t
  let via (fn : ApproxFn) : Prop := ∃ x fx z, Delivers .f32 .ne false (exactConversion (fmtOf t) .f32 a) x fx ∧
    (∀ w, special fn x = some w → z = w.1) ∧ (special fn x = none → nanBits .f32 z = false ∧ z < 2 ^ 32) ∧
    if t = .f32 then y = (limited sat (z, 0#7)).1 else ∃ fy, Delivers (fmtOf t) .ne sat (exactConversion .f32 (fmtOf t) z) y fy
  match op with
  | .add => (match floatElem t with | some f => ∃ fl, Delivers f .ne sat (exactSum f .ne a b) y fl | none => whole (intOf t a + intOf t b))
  | .sub => (match floatElem t with
    | some f => ∃ fl, Delivers f .ne sat (exactSum f .ne a (if signOf f b then magBits f b else f.signBit + magBits f b)) y fl
    | none => whole (intOf t a - intOf t b))
  | .mul => (match floatElem t with | some f => ∃ fl, Delivers f .ne sat (exactProduct f a b) y fl | none => whole (intOf t a * intOf t b))
  | .fma => (match floatElem t with | some f => ∃ fl, Delivers f .ne sat (exactFma f .ne a b d) y fl | none => whole (intOf t d + intOf t a * intOf t b))
  | .min => (match floatElem t with
    | some f => y = chosen f (fun x y => decide (x < y)) a b
    | none => intOf t y = min (intOf t a) (intOf t b) ∧ y < 2 ^ elemWidth t)
  | .max => (match floatElem t with
    | some f => y = chosen f (fun x y => decide (y < x)) a b
    | none => intOf t y = max (intOf t a) (intOf t b) ∧ y < 2 ^ elemWidth t)
  | .exp => via .exp2
  | .rsq => via .rsq
  | .rcp => via .rcp
  | .tanh => via .tanh
  | .sel => ∀ i, y.testBit i = (if d.testBit i then a.testBit i else b.testBit i)
  | .cmp =>
    (match floatElem t with
    | some f => (floatCondition f cc a b → y = 2 ^ elemWidth t - 1) ∧ (¬ floatCondition f cc a b → y = 0)
    | none => (condition t cc a b → y = 2 ^ elemWidth t - 1) ∧ (¬ condition t cc a b → y = 0))
  | .and => ∀ i, y.testBit i = (a.testBit i && b.testBit i)
  | .or => ∀ i, y.testBit i = (a.testBit i || b.testBit i)
  | .xor => ∀ i, y.testBit i = (a.testBit i != b.testBit i)
  | _ => y = a

/-- The sweeps that compute element by element from their operands. -/
def elementwise : SweepOp → Bool
  | .cvt | .red | .scan | .gth | .sct | .lrec => false
  | _ => true

/-- Memory before and after each iteration `lo`..`hi`-1 (R277, R279). -/
def Iterations (lo hi : Nat) (before after : Nat → Byte) (one : Nat → (Nat → Byte) → (Nat → Byte) → Prop) : Prop :=
  ∃ f : Nat → Nat → Byte, f lo = before ∧ f hi = after ∧ ∀ i, lo ≤ i → i < hi → one i (f i) (f (i + 1))

/-- Bytes outside a run are as before. -/
def SameBut (a n : Nat) (f g : Nat → Byte) : Prop := ∀ k, (k < a ∨ a + n ≤ k) → g k = f k

/-- The address of an operand in an iteration. -/
def spanAt (op : SweepOp) (o : OpV) (r : Map Word) (n i : Nat) : Nat := (((spansOf op o r)[n]?).getD ⟨0, 0, 0, 1⟩).at i |>.toNat

/-- One iteration of a sweep that computes element by element (R279, R281). -/
def SweptOnce (op : SweepOp) (o : OpV) (sat : Bool) (cc : Nat) (r : Map Word) (i : Nat) (f g : Nat → Byte) : Prop :=
  let w := elemWidth o.t
  let d := spanAt op o r 0 i
  (∀ k, k < 4096 / w → SweptElement op o.t sat cc (memElem f (spanAt op o r 1 i) w k) (memElem f (spanAt op o r 2 i) w k)
    (memElem f d w k) (memElem g d w k)) ∧ SameBut d 512 f g

/-- The bytes of a block's scratchpad on one of its cores. -/
def scratchOf (s : State) (w : Sweep) : Nat → Byte := fun off => if off < 2 ^ 19 then scratchByte s w.cap.block w.cap.pos off else 0#8

/-- A sweep that runs first in its engine, as the checks at issue have let it in (R278). -/
structure Sweeping (s : State) (core : Nat) (w : Sweep) (ws : List Sweep) : Prop where
  engine : (coreOf s core).sweeps = w :: ws
  started : w.started = true
  runs : (coreOf s core).stopped = false
  block : (mfind s.blocks w.cap.block).isSome = true
  inside : ∀ x ∈ spansOf (sweepOpOf w.cap.op w.word.mod.val) w.word w.cap.regs, x.inside w.word.cnt.val (2 ^ 19) = true
  done : w.done ≤ w.word.cnt.val
  count : 0 < w.word.cnt.val
  legal : ∃ i, (i, w.cap.op) ∈ sweepRows w.word ∧ wfInstr i = true
  partials : (w.partials = [] ∨ w.partials.length = 128) ∧ ∀ x ∈ w.partials, x < 2 ^ 32

/-- A sweep has completed: it has left its engine, and nothing has changed but its block's scratchpad on its core and the
mark of R285. -/
def SweepLeaves (s t : State) (core : Nat) (w : Sweep) (ws : List Sweep) : Prop :=
  (coreOf t core).sweeps = ws ∧ t.mem = s.mem ∧ t.launches = s.launches ∧
    (∀ gid, { groupOf t gid with sweepMark := none } = { groupOf s gid with sweepMark := none }) ∧
    ∀ b p off, off < 2 ^ 19 → (b ≠ w.cap.block ∨ p ≠ w.cap.pos) → scratchByte t b p off = scratchByte s b p off

/-- The bits of a pair keep the spread limit (R109). -/
def Spread (p : Nat) : Prop :=
  p / 256 % 256 ≤ p % 256 ∧ p % 256 ≤ p / 256 % 256 + 15 ∧ p % 256 ≠ 255 ∧ p / 256 % 256 ≠ 255

/-- The exact value of an element of `VCVT`, in units of a format's smallest subnormal (R108, R284). -/
def sourceIn (t : Tag) (pair a : Nat) (g : FloatFmt) : Exact :=
  match floatElem t with
  | some f => exactConversion f g a
  | none =>
    if isElectrum t then
      let b := if t = .dx8x4 then 8 else 4
      let neg := a.testBit (b - 1)
      let e := if a.testBit (b - 2) then pair / 256 % 256 else pair % 256
      let m : Int := (a % 2 ^ (b - 2) * 2 ^ (e + unitExp g) : Nat)
      number (if neg then -m else m) (2 ^ (if t = .dx8x4 then 132 else 128)) neg
    else number (intOf t a * 2 ^ unitExp g) 1 false

/-- An element that `VCVT` converts to an integer or a float type (R284). -/
def Converted (t dt : Tag) (pair a y : Nat) : Prop :=
  match floatElem dt with
  | some g => ∃ fl, Delivers g .ne false (sourceIn t pair a g) y fl
  | none =>
    y < 2 ^ 32 ∧
    match sourceIn t pair a .f32 with
    | .nan _ => y = 0
    | .inf neg => intOf dt y = if neg then lowest_ dt else highest_ dt
    | .zero _ => y = 0
    | .num neg cut => ∃ n, RoundsTo id .ne neg (fun a d => cut (a * 2 ^ 149) d) n ∧
        intOf dt y = min (max (if neg then -(n : Int) else n) (lowest_ dt)) (highest_ dt)

/-- One step of a running value (R286). -/
def RunStep (o : OpV) (a b y : Nat) : Prop :=
  let op : Nat := o.mod.val % 4
  if o.t = .f32 then
    (op = 0 → ∃ fl, Delivers .f32 .ne false (exactSum .f32 .ne a b) y fl) ∧
      (op = 1 → y = chosen .f32 (fun x y => decide (x < y)) a b) ∧ (op = 2 → y = chosen .f32 (fun x y => decide (y < x)) a b)
  else
    y < 2 ^ 32 ∧ (op = 0 → y = (a + b) % 2 ^ 32) ∧ (op = 1 → intOf o.t y = min (intOf o.t a) (intOf o.t b)) ∧
      (op = 2 → intOf o.t y = max (intOf o.t a) (intOf o.t b))

end Sys2Proof.Claims

section
open Sys2Proof Machine Claims

/-- R276 to R279, R285, R289 and R290 for the nineteen sweeps: one is accepted behind those of its core, with its registers
captured, and its gang goes on; a range outside the grant, a misaligned base or step and a marked group trap with nothing
accepted; and with eight sweeps accepted the gang waits. R279: a sweep begins only as the oldest of its core, and when none
runs. -/
def Obligations.SweepsAreAcceptedAndRun : Prop :=
  (∀ (o : OpV) (i : Instr) (code : Nat) (s : State) (c : Ctx), (i, code) ∈ sweepRows o →
    let op := sweepOpOf code o.mod.val
    let v := viewOf c s c.gang (lowest c.gang)
    let ns := (sweepReads op o).map Prod.fst
    Issues i (useSweep op o) s c → (∀ n ∈ ns, Captures v n) →
    (∀ a, c.g.sweepMark = some a → exec i s =
      .next (trapLanes c (modGroup s c.gid (fun g => { g with sweepMark := none })) (cMarked a) c.gang)) ∧
    (c.g.sweepMark = none → ∀ r : Map Word, (∀ n, capReg r n =
        if n ∈ ns then BitVec.ofNat 32 (regBits (readReg v (.k (finOf 1024 n)))) else 0#32) →
      let spans := spansOf op o r
      let size := lrShared (launchOf s c.g.launch).rcd
      (∀ x, spans.find? (fun x => !x.inside o.cnt.val size) = some x →
        exec i s = .next (trapLanes c s (cGrant (BitVec.ofInt 64 x.base)) c.gang)) ∧
      ((∀ x ∈ spans, x.inside o.cnt.val size = true) → ∀ x, spans.find? (fun x => !x.aligned) = some x →
        exec i s = .next (trapLanes c s (cAlign (BitVec.ofInt 64 x.base)) c.gang)) ∧
      ((∀ x ∈ spans, x.inside o.cnt.val size = true ∧ x.aligned = true) → Performed s c →
        (8 ≤ (coreOf s c.g.core).sweeps.length → ∃ t, exec i s = .next t ∧ (coreOf t c.g.core).sweeps = (coreOf s c.g.core).sweeps ∧
          ∀ l th, mfind (groupOf s c.gid).threads l = some th → l ∈ c.gang →
            mfind (groupOf t c.gid).threads l = some { th with run := .blocked .retry }) ∧
        ((coreOf s c.g.core).sweeps.length < 8 → ∃ t w, exec i s = .next t ∧ EngineGoesOn c false s t ∧
          t.mem = s.mem ∧ t.blocks = s.blocks ∧ (coreOf t c.g.core).sweeps = (coreOf s c.g.core).sweeps ++ [w] ∧
          w.word = o ∧ w.started = false ∧ w.done = 0 ∧ w.partials = [] ∧ w.rev = coreRev s c.g.core ∧ CapturedAs c s v code ns w.cap)))) ∧
  (∀ s core,
    (∀ w ws, (coreOf s core).sweeps = w :: ws → w.started = false → (coreOf s core).stopped = false →
      ∃ t, exec (.sweepStart core) s = .next t ∧ (coreOf t core).sweeps = { w with started := true } :: ws ∧
        t.mem = s.mem ∧ t.blocks = s.blocks ∧ t.groups = s.groups) ∧
    ((∀ w ws, (coreOf s core).sweeps = w :: ws → w.started = true) → exec (.sweepStart core) s = .refused .notEnabled) ∧
    ((∀ w ws, (coreOf s core).sweeps = w :: ws → w.started = false) → exec (.sweepComplete core) s = .refused .notEnabled))

/-- R277 to R283 for a sweep that computes element by element: its iterations in ascending order, in each every read before
any write, and each element as R281, R282 and R283 give it; the rest of the scratchpad is unchanged. R286, R287 and R288 for
`VRED`, `VSCAN`, `VGTH`, `VSCT` and `VLREC`. R284 and R285 for `VCVT`: each element converted with one rounding; the 32
elements of a source block that breaks the spread limit receive 0 and its group is marked with the sweep's address; an
Electrum destination receives its blocks and their exponent pairs. -/
def Obligations.SweepResults : Prop :=
  (∀ s core w ws, Sweeping s core w ws →
    let op := sweepOpOf w.cap.op w.word.mod.val
    let m := w.word.mod.val
    elementwise op = true →
    ∃ t, exec (.sweepComplete core) s = .next t ∧ SweepLeaves s t core w ws ∧
      Iterations w.done w.word.cnt.val (scratchOf s w) (scratchOf t w)
        (SweptOnce op w.word (m % 2 == 1) (m % 8) w.cap.regs)) ∧
  (∀ s core w ws, Sweeping s core w ws →
    let o := w.word
    let r := w.cap.regs
    let hi := o.cnt.val
    let f := scratchOf s w
    let op := sweepOpOf w.cap.op o.mod.val
    ∃ t, exec (.sweepComplete core) s = .next t ∧ SweepLeaves s t core w ws ∧
      let g := scratchOf t w
      (op = .red → elemWidth o.t = 32 →
        let d := spanAt .red o r 0 0
        ∃ acc : Nat → Nat → Nat,
          (∀ i k, w.done ≤ i → i < hi → k < 128 → RunStep o (acc i k) (memElem f (spanAt .red o r 1 i) 32 k) (acc (i + 1) k)) ∧
          (o.mod.val < 8 → (∀ k, k < 128 → acc w.done k = memElem f d 32 k) ∧ (∀ k, k < 128 → memElem g d 32 k = acc hi k) ∧
            SameBut d 512 f g) ∧
          (8 ≤ o.mod.val → (∀ k, k < 128 → (w.partials = [] → Identity (redOp o) (acc w.done k)) ∧
              (w.partials.length = 128 → w.partials[k]? = some (acc w.done k))) ∧
            (w.partials = [] ∨ w.partials.length = 128 →
              ∃ run : Nat → Nat, run 0 = memElem f d 32 0 ∧ (∀ k, k < 128 → RunStep o (run k) (acc hi k) (run (k + 1))) ∧
                memElem g d 32 0 = run 128 ∧ SameBut d 4 f g))) ∧
      (op = .scan → elemWidth o.t = 32 →
        let carry := spanAt .scan o r 2 0
        ∃ (m : Nat → Nat → Byte) (run : Nat → Nat), m w.done = f ∧
          run (128 * w.done) = (if o.t = .f32 ∧ nanBits .f32 (memElem f carry 32 0) = true then 0x7FC00000
            else memElem f carry 32 0) ∧
          (∀ i, w.done ≤ i → i < hi → SameBut (spanAt .scan o r 0 i) 512 (m i) (m (i + 1)) ∧
            ∀ k, k < 128 → RunStep o (run (128 * i + k)) (memElem (m i) (spanAt .scan o r 1 i) 32 k) (run (128 * i + k + 1)) ∧
              memElem (m (i + 1)) (spanAt .scan o r 0 i) 32 k =
                run (if o.mod.val / 4 % 2 = 1 then 128 * i + k else 128 * i + k + 1)) ∧
          memElem g carry 32 0 = run (128 * hi) ∧ SameBut carry 4 (m hi) g) ∧
      (op = .gth → o.t = .b32 →
        let z := tableSize o
        Iterations w.done hi f g (fun i m m' => SameBut (spanAt .gth o r 0 i) (128 * z) m m' ∧
          ∀ k, k < 128 → memElem m' (spanAt .gth o r 0 i) (8 * z) k =
            let j := memElem m (spanAt .gth o r 1 i) 32 k
            if j < (capReg r (2 * o.ks2.val + 1)).toNat then memElem m (spanAt .gth o r 2 0) (8 * z) j else 0)) ∧
      (op = .sct → o.t = .b32 →
        let z := tableSize o
        let table := spanAt .sct o r 0 0
        let len := (capReg r (2 * o.kd.val + 1)).toNat
        Iterations w.done hi f g (fun i m m' => SameBut table (len * z) m m' ∧
          ∀ j, j < len →
            ((∀ k, k < 128 → memElem m (spanAt .sct o r 1 i) 32 k ≠ j) → memElem m' table (8 * z) j = memElem m table (8 * z) j) ∧
            ∀ k, k < 128 → memElem m (spanAt .sct o r 1 i) 32 k = j →
              (∀ n, k < n → n < 128 → memElem m (spanAt .sct o r 1 i) 32 n ≠ j) →
              memElem m' table (8 * z) j = memElem m (spanAt .sct o r 2 i) (8 * z) k)) ∧
      (op = .lrec → o.t = .f32 →
        let st := spanAt .lrec o r 2 0
        ∃ (m : Nat → Nat → Byte) (h : Nat → Nat → Nat), m w.done = f ∧ (∀ k, k < 128 → h w.done k = memElem f st 32 k) ∧
          (∀ i, w.done ≤ i → i < hi → SameBut (spanAt .lrec o r 0 i) 512 (m i) (m (i + 1)) ∧
            ∀ k, k < 128 → memElem (m (i + 1)) (spanAt .lrec o r 0 i) 32 k = h (i + 1) k ∧
              ∃ fl, Delivers .f32 .ne false (exactFma .f32 .ne (memElem (m i) (spanAt .lrec o r 1 i) 32 k) (h i k)
                (memElem (m i) (spanAt .lrec o r 3 i) 32 k)) (h (i + 1) k) fl) ∧
          (∀ k, k < 128 → memElem g st 32 k = h hi k) ∧ SameBut st 512 (m hi) g)) ∧
  (∀ s core w ws, Sweeping s core w ws → w.cap.op = 0xAA →
    let o := w.word
    let r := w.cap.regs
    let dt := cvtDst o
    let n := 4096 / max (elemWidth o.t) (elemWidth dt)
    let wd := elemWidth dt
    let dst (i : Nat) := spanAt .cvt o r 0 i
    let src (i : Nat) := spanAt .cvt o r 1 i
    let plane (i : Nat) := spanAt .cvt o r 2 i
    let pairOf (m : Nat → Byte) (i k : Nat) : Nat := if isElectrum o.t then readN m (plane i + 2 * (k / 32)) 2 else 0
    ∃ t, exec (.sweepComplete core) s = .next t ∧ SweepLeaves s t core w ws ∧
      (isElectrum o.t = false → t.groups = s.groups) ∧
      (isElectrum o.t = true → w.done < o.cnt.val → (∃ k, k < n ∧ ¬ Spread (pairOf (scratchOf s w) w.done k)) →
        (mfind s.groups w.cap.group).isSome = true → (groupOf t w.cap.group).sweepMark = some w.cap.pc) ∧
      Iterations w.done o.cnt.val (scratchOf s w) (scratchOf t w) (fun i m m' =>
        (isElectrum dt = false → SameBut (dst i) (n * wd / 8) m m' ∧ ∀ k, k < n →
          (isElectrum o.t = true → ¬ Spread (pairOf m i k) → memElem m' (dst i) wd k = 0) ∧
          (isElectrum o.t = false ∨ Spread (pairOf m i k) →
            Converted o.t dt (pairOf m i k) (memElem m (src i) (elemWidth o.t) k) (memElem m' (dst i) wd k))) ∧
        (isElectrum dt = true → (dst i + n * wd / 8 ≤ plane i ∨ plane i + n / 16 ≤ dst i) →
          (∀ a, (a < dst i ∨ dst i + n * wd / 8 ≤ a) → (a < plane i ∨ plane i + n / 16 ≤ a) → m' a = m a) ∧
          ∀ b, b < n / 32 →
            let x := dxEncode (dt == .dx8x4) ((List.range 32).map (fun k => sweepValue o.t (memElem m (src i) (elemWidth o.t) (32 * b + k))))
            readN m' (plane i + 2 * b) 2 = x.2 ∧ ∀ k, k < 32 → x.1[k]? = some (memElem m' (dst i) wd (32 * b + k)))))

end

/-! ## BOP (R292..R294) -/

namespace Sys2Proof.Claims

open Machine

/-- An offset that an iteration of a `BOP` touches. -/
def BopTouches (w : Sweep) (off : Nat) : Prop :=
  ∃ x ∈ spansOf (sweepOpOf 0x7E w.word.mod.val) w.word w.cap.regs, ∃ i, i < w.word.cnt.val ∧
    (x.at i).toNat ≤ off ∧ off < (x.at i).toNat + x.bytes

/-- Commons as the banks read it for a `BOP`, by offset from the commons base. -/
def commonsOf (s : State) (core : Nat) (w : Sweep) : Nat → Byte := fun off =>
  coreByte s core (pageByte w.pages (lrCbase (launchOf s (groupOf s w.cap.group).launch).rcd + off))

/-- Two readings agree where a `BOP` touches. -/
def AgreeOn (w : Sweep) (f g : Nat → Byte) : Prop := ∀ off, BopTouches w off → f off = g off

end Sys2Proof.Claims

section
open Sys2Proof Machine Claims

/-- R292 and R294: a `BOP` whose pages are all in commons and whose ranges and alignments fit is accepted, after the gang's
accesses, with its registers and translations captured; its block passes a visibility point and its gang goes on. A range
that passes 2^32 and a misaligned base trap. R293 and R294: the bank units perform the iterations of a `BOP` in ascending
order, in each every read before any write, with the elements of R281 and R293; its word leaves the core, and what no
iteration touches is unchanged. Where two offsets lie on one byte of memory this says nothing. -/
def Obligations.BlockOperations : Prop :=
  (∀ (o : OpV) (s : State) (c : Ctx) (r : Map Word) (m : Map Nat),
    let op := sweepOpOf 0x7E o.mod.val
    let v := viewOf c s c.gang (lowest c.gang)
    let ns := (sweepReads op o).map Prod.fst
    let base := lrCbase (launchOf s c.g.launch).rcd
    let spans := spansOf op o r
    Issues (.bop o) (useSweep op o) s c → (∀ n ∈ ns, Captures v n) → c.g.sweepMark = none →
    (∀ n, capReg r n = if n ∈ ns then BitVec.ofNat 32 (regBits (readReg v (.k (finOf 1024 n)))) else 0#32) →
    (∀ x, spans.find? (fun x => !x.inside o.cnt.val (2 ^ 32)) = some x →
      exec (.bop o) s = .next (trapLanes c s (cGrant (BitVec.ofInt 64 (base + x.base))) c.gang)) ∧
    ((∀ x ∈ spans, x.inside o.cnt.val (2 ^ 32) = true) → ∀ x, spans.find? (fun x => !x.aligned) = some x →
      exec (.bop o) s = .next (trapLanes c s (cAlign (BitVec.ofInt 64 (base + x.base))) c.gang)) ∧
    ((∀ x ∈ spans, x.inside o.cnt.val (2 ^ 32) = true ∧ x.aligned = true) →
      pagesAt s c ((spans.zip (List.range spans.length)).flatMap (fun x =>
        (spanPages base x.1 o.cnt.val).map (fun p => (p, bopUses op x.2)))) (fun pa pt => !isCommons pa || pt != .normal) = .ok m →
      Performed s c → (blockOf s c.g.block).buffer = [] →
      ∃ t w, exec (.bop o) s = .next t ∧ EngineGoesOn c false s t ∧ t.mem = s.mem ∧
        (∀ b, mfind s.blocks c.g.block = some b → (blockOf t c.g.block).seen = true) ∧
        (coreOf t c.g.core).bops = (coreOf s c.g.core).bops ++ [w] ∧ w.word = o ∧ w.pages = m ∧
        CapturedAs c s v 0x7E ns w.cap)) ∧
  (∀ s core w, (coreOf s core).bops.find? (fun x => x.cap.id == w.cap.id) = some w → (coreOf s core).stopped = false → s.poison = [] →
    let op := sweepOpOf 0x7E w.word.mod.val
    let base := lrCbase (launchOf s (groupOf s w.cap.group).launch).rcd
    held s (groupOf s w.cap.group).launch .hbm = false → wfInstr (.bop w.word) = true → 0 < w.word.cnt.val →
    (∀ x ∈ spansOf op w.word w.cap.regs, x.inside w.word.cnt.val (2 ^ 32) = true) →
    (∀ a b, BopTouches w a → BopTouches w b → pageByte w.pages (base + a) = pageByte w.pages (base + b) → a = b) →
    ∃ t, exec (.bopComplete core w.cap.id) s = .next t ∧ t.groups = s.groups ∧ t.blocks = s.blocks ∧
      (∀ x ∈ (coreOf t core).bops, x.cap.id ≠ w.cap.id) ∧
      (∀ pa, (∀ off, BopTouches w off → pageByte w.pages (base + off) ≠ pa) → coreByte t core pa = coreByte s core pa) ∧
      ∃ f : Nat → Nat → Byte, AgreeOn w (f 0) (commonsOf s core w) ∧ AgreeOn w (f w.word.cnt.val) (commonsOf t core w) ∧
        ∀ i, i < w.word.cnt.val → SweptOnce op w.word false 0 w.cap.regs i (f i) (f (i + 1)))

end

/-! ## Sync words and copies (R295..R305, R370..R375) -/

namespace Sys2Proof.Claims

open Machine

/-- The fields of a sync word (R370). -/
structure SyncWord where
  target : Nat
  count : Nat
  gen : Nat
  ovr : Nat

/-- The word at an offset of a block's scratchpad has these fields (R370). -/
def SyncIs (s : State) (bid pos off : Nat) (w : SyncWord) : Prop :=
  w.target < 2 ^ 24 ∧ w.count < 2 ^ 24 ∧ w.gen < 2 ^ 15 ∧ w.ovr < 2 ∧
    readN (scratchByte s bid pos) off 8 = w.target * 2 ^ 40 + w.count * 2 ^ 16 + w.gen * 2 + w.ovr

/-- An arrival of n bytes (R371). -/
def Arrives (n : Nat) (w x : SyncWord) : Prop :=
  x.target = w.target ∧ ∃ turns rest,
    (w.target = 0 → turns = 0) ∧ (w.target ≠ 0 → rest < w.target) ∧ w.count + n = turns * w.target + rest ∧
    x.gen = (w.gen + turns) % 2 ^ 15 ∧ x.count = min rest (2 ^ 24 - 1) ∧ x.ovr = if 2 ^ 24 - 1 < rest then 1 else w.ovr

/-- Every scratchpad byte but a run is as before. -/
def ScratchBut (s t : State) (bid pos off n : Nat) : Prop :=
  ∀ b p k, k < 2 ^ 19 → (b ≠ bid ∨ p ≠ pos ∨ k < off ∨ off + n ≤ k) → scratchByte t b p k = scratchByte s b p k

/-- A sync instruction whose operands can be read and whose word lies in the grant, aligned (R372, R374). -/
structure Syncs (i : Instr) (o : OpQ) (nd : Nat) (ks : Bool) (s : State) (c : Ctx) : Prop where
  issues : Issues i (useSync o nd ks) s c
  pred : predVal c.g.uni.q o.pred = true
  ky : Readable (viewOf c s c.gang (lowest c.gang)) .n32 (.reg (.k o.ky))
  kx : ks = true → Readable (viewOf c s c.gang (lowest c.gang)) .n32 (.reg (.k o.ks))
  block : (mfind s.blocks c.g.block).isSome = true

/-- The number in a k register that a word names. -/
def kBits (c : Ctx) (s : State) (r : Fin 1024) : Nat := srcBits (viewOf c s c.gang (lowest c.gang)) .n32 (.reg (.k r))

/-- The gang goes on from a uniform instruction that writes some k registers; VOID is raised where an operand is void. -/
def WritesK (c : Ctx) (ws : List (Nat × Val)) (void : Flags) (s t : State) : Prop :=
  (∀ gid, gid ≠ c.gid → groupOf t gid = groupOf s gid) ∧
  (groupOf t c.gid).uni = { (groupOf s c.gid).uni with k := putRegs (groupOf s c.gid).uni.k ws } ∧
  ∀ l th, mfind (groupOf s c.gid).threads l = some th → ∃ th', mfind (groupOf t c.gid).threads l = some th' ∧
    th'.run = th.run ∧ th'.pc = (if l ∈ c.gang then th.pc + 8#64 else th.pc) ∧
    th'.rf = (if l ∈ c.gang then { th.rf with fp := th.rf.fp ||| void } else th.rf)

/-- VOID of the two operands of a sync instruction. -/
def voidSync (c : Ctx) (s : State) (o : OpQ) (ks : Bool) : Flags :=
  voidFlags (viewOf c s c.gang (lowest c.gang)) ((.n32, .reg (.k o.ky)) :: if ks then [(.n32, .reg (.k o.ks))] else [])

/-- The word's place lies in the grant, aligned (R374). -/
def SyncPlace (s : State) (c : Ctx) (off : Nat) : Prop :=
  off + 8 ≤ lrShared (launchOf s c.g.launch).rcd ∧ off % 8 = 0 ∧ off + 8 ≤ 2 ^ 19

/-- Every thread of the gang waits at its instruction, and nothing else changes but the splits that lapse (R37). -/
def GangWaits (c : Ctx) (s t : State) : Prop :=
  t.mem = s.mem ∧ t.blocks = s.blocks ∧ (groupOf t c.gid).uni = (groupOf s c.gid).uni ∧
    ∀ l th, mfind (groupOf s c.gid).threads l = some th → ∃ th', mfind (groupOf t c.gid).threads l = some th' ∧
      th'.rf = th.rf ∧ th'.pc = th.pc ∧ (l ∈ c.gang → th'.run = .blocked .retry)

/-- The gang issues its instruction for the first time: none of its threads waits at it already. -/
def FirstIssue (c : Ctx) : Prop := c.gang ≠ [] ∧ ∀ l ∈ c.gang, awaitOf c l = none

/-- Every thread of the gang begins to wait at its instruction with what it captured (R217, R372): VOID is raised where an
operand is void, and nothing else changes but the splits that lapse (R37). -/
def BeginsToWait (c : Ctx) (a : Await) (void : Flags) (s t : State) : Prop :=
  t.mem = s.mem ∧ t.blocks = s.blocks ∧ (groupOf t c.gid).uni = (groupOf s c.gid).uni ∧
    ∀ l th, mfind (groupOf s c.gid).threads l = some th → ∃ th', mfind (groupOf t c.gid).threads l = some th' ∧
      th'.pc = th.pc ∧ (l ∈ c.gang → th'.run = .blocked .retry ∧ th'.await = some a) ∧
      th'.rf = (if l ∈ c.gang then { th.rf with fp := th.rf.fp ||| void } else th.rf)

/-- The whole gang waits at its instruction already, with what it captured when it issued it. -/
structure TriesAgain (i : Instr) (s : State) (c : Ctx) (a : Await) : Prop where
  gang : ctxOf s = some c
  wf : wfInstr i = true
  waits : c.gang ≠ [] ∧ ∀ l ∈ c.gang, awaitOf c l = some a
  block : (mfind s.blocks c.g.block).isSome = true

end Sys2Proof.Claims

section
open Sys2Proof Machine Claims

/-- R372 and R373 for `SYNCI`, `SYNCA`, `SYNCW` and `SYNCT`; a `SYNCW` that waits goes on with the operands that it captured
when it first issued, whatever its registers hold meanwhile. R374: where a sync instruction stops: outside the grant, at a
position that the block does not hold, misaligned, and with k(KS) above its limit. -/
def Obligations.SyncWords : Prop :=
  ((∀ (o : OpQ) (s : State) (c : Ctx) (w : SyncWord), Syncs (.synci o) o 1 true s c →
    let off := kBits c s o.ky
    let x := kBits c s o.ks
    let pos := corePlace s c.g.block c.g.core
    SyncPlace s c off → x < 2 ^ 24 → SyncIs s c.g.block pos off w →
    ∃ t, exec (.synci o) s = .next t ∧ t.mem = s.mem ∧
      WritesK c [(o.kd.val, ⟨BitVec.ofNat 32 w.gen, .n32⟩)] (voidSync c s o true) s t ∧
      SyncIs t c.g.block pos off ⟨x, 0, w.gen, 0⟩ ∧ ScratchBut s t c.g.block pos off 8) ∧
  (∀ (o : OpQ) (s : State) (c : Ctx) (w : SyncWord), Syncs (.synca o) o 0 true s c → o.mask = 0 →
    let off := kBits c s o.ky
    let n := kBits c s o.ks
    let pos := corePlace s c.g.block c.g.core
    SyncPlace s c off → n < 2 ^ 24 → c.g.sweepMark = none → quiet s c.gid c.g c.gang = true → SyncIs s c.g.block pos off w →
    ∃ t x, exec (.synca o) s = .next t ∧ t.mem = s.mem ∧ WritesK c [] (voidSync c s o true) s t ∧
      SyncIs t c.g.block pos off x ∧ Arrives n w x ∧ ScratchBut s t c.g.block pos off 8) ∧
  (∀ (o : OpQ) (s : State) (c : Ctx) (ps : List Nat), Syncs (.synca o) o 0 true s c → o.mask ≠ 0 →
    let off := kBits c s o.ky
    let n := kBits c s o.ks
    SyncPlace s c off → n < 2 ^ 24 → c.g.sweepMark = none → quiet s c.gid c.g c.gang = true →
    maskPlaces s c.g o.mask.val = some ps → ps.Nodup →
    ∃ t, exec (.synca o) s = .next t ∧ t.mem = s.mem ∧ WritesK c [] (voidSync c s o true) s t ∧
      (∀ p ∈ ps, ∀ w, SyncIs s c.g.block p off w → ∃ x, SyncIs t c.g.block p off x ∧ Arrives n w x) ∧
      ∀ b p k, k < 2 ^ 19 → (b ≠ c.g.block ∨ p ∉ ps ∨ k < off ∨ off + 8 ≤ k) → scratchByte t b p k = scratchByte s b p k) ∧
  (∀ (o : OpQ) (s : State) (c : Ctx) (w : SyncWord), Syncs (.syncw o) o 1 true s c → FirstIssue c →
    let off := kBits c s o.ky
    let x := kBits c s o.ks
    SyncPlace s c off → x < 2 ^ 15 → SyncIs s c.g.block (corePlace s c.g.block c.g.core) off w →
    (w.gen ≠ x → ∃ t, exec (.syncw o) s = .next t ∧ t.mem = s.mem ∧ t.blocks = s.blocks ∧
      WritesK c [(o.kd.val, ⟨BitVec.ofNat 32 w.gen, .n32⟩)] (voidSync c s o true) s t) ∧
    (w.gen = x → ∃ t, exec (.syncw o) s = .next t ∧
      BeginsToWait c { pc := c.pc, vals := [off, x] } (voidSync c s o true) s t)) ∧
  (∀ (o : OpQ) (s : State) (c : Ctx) (w : SyncWord) (a : Await) (off x : Nat),
    TriesAgain (.syncw o) s c a → a = { pc := c.pc, vals := [off, x] } → off + 8 ≤ 2 ^ 19 → x < 2 ^ 15 →
    SyncIs s c.g.block (corePlace s c.g.block c.g.core) off w →
    (w.gen ≠ x → ∃ t, exec (.syncw o) s = .next t ∧ t.mem = s.mem ∧ t.blocks = s.blocks ∧
      WritesK c [(o.kd.val, ⟨BitVec.ofNat 32 w.gen, .n32⟩)] 0#7 s t) ∧
    (w.gen = x → ∃ t, exec (.syncw o) s = .next t ∧ BeginsToWait c a 0#7 s t)) ∧
  (∀ (o : OpQ) (s : State) (c : Ctx), Syncs (.synct o) o 2 false s c →
    let off := kBits c s o.ky
    let x := readN (scratchByte s c.g.block (corePlace s c.g.block c.g.core)) off 8
    SyncPlace s c off →
    ∃ t, exec (.synct o) s = .next t ∧ t.mem = s.mem ∧ t.blocks = s.blocks ∧
      WritesK c [(o.kd.val, ⟨BitVec.ofNat 32 x, .b32⟩), (o.kd.val + 1, ⟨BitVec.ofNat 32 (x / 2 ^ 32), .b32⟩)]
        (voidSync c s o false) s t)) ∧
  (∀ (o : OpQ) (i : Instr) (nd limit : Nat) (s : State) (c : Ctx),
    (i, nd, limit) ∈ [(Instr.synci o, 1, 2 ^ 24 - 1), (.synca o, 0, 2 ^ 24 - 1), (.syncw o, 1, 2 ^ 15 - 1)] →
    Syncs i o nd true s c → FirstIssue c →
    let off := kBits c s o.ky
    let size := lrShared (launchOf s c.g.launch).rcd
    let held := ∀ p, p < 4 → o.mask.val.testBit p = true → (blockPos s (blockOf s c.g.block) p).isSome = true
    (size < off + 8 → exec i s = .next (trapLanes c s (cGrant (BitVec.ofNat 64 off)) c.gang)) ∧
    (off + 8 ≤ size → ¬ held → exec i s = .next (trapLanes c s (cAbsent (BitVec.ofNat 64 off)) c.gang)) ∧
    (off + 8 ≤ size → held → off % 8 ≠ 0 → exec i s = .next (trapLanes c s (cAlign (BitVec.ofNat 64 off)) c.gang)) ∧
    (off + 8 ≤ size → held → off % 8 = 0 → limit < kBits c s o.ks → exec i s = .next (trapLanes c s cIllegalOp c.gang)))

end

namespace Sys2Proof.Claims

open Machine

/-- The copies with their opcodes. -/
def copyRows (o : OpQ) : List (Instr × Nat) := [(.cpy o, 0x90), (.cpym o, 0x91), (.cpyx o, 0x92), (.cpyw o, 0x93)]

/-- The k registers of a copy's operands: offset or slot, handle, box index, metadata handle for `CPYX`, sync word (R295). -/
def copyNames (op : Nat) (o : OpQ) : List Nat :=
  [o.kd.val, o.ks.val, o.ks.val + 1] ++ (if op = 0x92 then [o.ks.val + 2] else []) ++ [o.ky.val]

/-- The operands of a copy. -/
def copyIn (op : Nat) (c : Ctx) (s : State) (o : OpQ) : CopyIn :=
  let k (n : Nat) : Nat := kBits c s (finOf 1024 n)
  ⟨k o.kd.val, k o.ks.val, k (o.ks.val + 1), if op = 0x92 then k (o.ks.val + 2) else 0, k o.ky.val⟩

/-- The half bytes of a row of box `i` that lie inside the tensor, from its first (R296). -/
def halvesIn (r : BitVec 512) (i row : Nat) : Nat :=
  if ∀ d, d < 4 → rowCoord r i row (d + 1) < shDim r (d + 1) then
    min (shBox r 0) (shDim r 0 - boxOrigin r i 0) * fmtSize2 (shFmt r)
  else 0

/-- The byte of box `i` that a load delivers at byte `k` of a row: that of the tensor, and zeros outside it (R296). -/
def boxByte (rd : Nat → Byte) (r : BitVec 512) (i row k : Nat) : Byte :=
  if 2 * k + 2 ≤ halvesIn r i row then rd (rowAddr r i row + k)
  else if 2 * k + 1 ≤ halvesIn r i row then rd (rowAddr r i row + k) &&& 0x0F#8
  else 0#8

end Sys2Proof.Claims

section
open Sys2Proof Machine Claims

/-- R295, R297 and R305 for the four copies: one that passes its checks and whose pages translate is accepted behind those
of its core, with its word, records and translations captured; nothing lands yet; regions of its gang close and it goes on.
A failed check traps with nothing accepted; 64 copies in flight make the gang wait. R298, R299 and R301 for `COPY_LANDING`:
the landing's bytes are written once at its receiver and counted in the sync word of that receiver, and every other byte is
as before; a load delivers the tensor's bytes and zeros outside it, a store writes what lies inside the tensor. -/
def Obligations.Copies : Prop :=
  (∀ (o : OpQ) (i : Instr) (op : Nat) (s : State) (c : Ctx), (i, op) ∈ copyRows o →
    let v := viewOf c s c.gang (lowest c.gang)
    let x := copyIn op c s o
    Issues i (useCopy op o) s c → predVal c.g.uni.q o.pred = true →
    (∀ n ∈ copyNames op o, Readable v .n32 (.reg (.k (finOf 1024 n)))) →
    (∀ e, checkCopy s c op o x = .error e → exec i s = .next (trapLanes c s e c.gang)) ∧
    (∀ r md ps pages place vpages, checkCopy s c op o x = .ok (r, md, ps) →
      pagesAt s c (copyPages op o r md x.i) (fun _ pt => pt == .device || pt == .strong) = .ok pages →
      scaleAt s c (if op = 0x93 ∧ fmtElectrum (shFmt r) = true then shScale r else 0) = .ok place vpages →
      Performed s c → (op = 0x93 → slotBusy s c x.d = false) →
      (64 ≤ (coreOf s c.g.core).copies.length → ∃ t, exec i s = .next t ∧ GangWaits c s t ∧
        (coreOf t c.g.core).copies = (coreOf s c.g.core).copies) ∧
      ((coreOf s c.g.core).copies.length < 64 → (o.dir = 1 → (blockOf s c.g.block).buffer = []) →
        ∃ t w, exec i s = .next t ∧
          EngineGoesOn c (anyVoid v (copyNames op o)) s t ∧ t.mem = s.mem ∧
          (coreOf t c.g.core).copies = (coreOf s c.g.core).copies ++ [w] ∧ w.word = o ∧ w.shapes = [r, md] ∧ w.pages = pages ∧
          w.done = [] ∧ w.cap.op = op ∧ w.cap.pc = c.pc ∧ w.cap.block = c.g.block ∧ w.cap.group = c.gid ∧ w.cap.id = s.nextId ∧
          (capReg w.cap.regs 0).toNat = x.d % 2 ^ 32 ∧ (capReg w.cap.regs 1).toNat = x.y % 2 ^ 32 ∧
          (capReg w.cap.regs 2).toNat = x.i % 2 ^ 32 ∧ (∀ p, p < 4 → (ps.Nodup → ((capReg w.cap.regs 3).toNat.testBit p = true ↔ p ∈ ps))) ∧
          (∀ b p k, scratchByte t b p k = scratchByte s b p k) ∧
          (op = 0x93 → ∀ b, mfind s.blocks c.g.block = some b →
            let z := slotOf (blockOf t c.g.block) (corePlace s c.g.block c.g.core) x.d
            z.filling = true ∧ z.rows = boxRows r ∧ z.fmt = matOfCode (shFmt r) ∧ z.scales = readScales s c.g place)))) ∧
  (∀ (s : State) (core n : Nat) (w : Copy) (x : Landing) (place : Nat) (y : SyncWord),
    (coreOf s core).copies.find? (fun z => z.cap.id == w.cap.id) = some w →
    let r := w.shapes.headD 0#512
    let d := (capReg w.cap.regs 0).toNat
    let i := (capReg w.cap.regs 2).toNat
    let off := (capReg w.cap.regs 1).toNat
    let ls := landings w.cap.op w.word r d i
    ls[n % ls.length]? = some x → (receivers w)[n / ls.length]? = some place →
    n ∉ w.done → (coreOf s core).stopped = false → held s (blockOf s w.cap.block).launch .copy = false → s.poison = [] →
    (n < ls.length → hbmHeld s (blockOf s w.cap.block).launch = false) →
    (∃ o i, (i, w.cap.op) ∈ copyRows o ∧ w.word = o ∧ wfInstr i = true) → (mfind s.blocks w.cap.block).isSome = true →
    off + 8 ≤ 2 ^ 19 → SyncIs s w.cap.block place off y →
    let bid := w.cap.block
    let rd := copyReader s core w
    ∃ t, exec (.copyLanding core w.cap.id n) s = .next t ∧
      (w.word.dir ≠ 1 → t.mem = s.mem) ∧
      (w.word.dir ≠ 1 → w.cap.op ≠ 0x93 → x.dst + x.n ≤ 2 ^ 19 → (x.dst + x.n ≤ off ∨ off + 8 ≤ x.dst) →
        (∃ z, SyncIs t bid place off z ∧ Arrives x.n y z) ∧
        (w.cap.op ≠ 0x92 → x.pairs = false → ∀ k, k < x.n →
          scratchByte t bid place (x.dst + k) = boxByte rd r i x.row (x.off + k)) ∧
        (∀ b p k, k < 2 ^ 19 → (b ≠ bid ∨ p ≠ place ∨ ((k < x.dst ∨ x.dst + x.n ≤ k) ∧ (k < off ∨ off + 8 ≤ k))) →
          scratchByte t b p k = scratchByte s b p k)) ∧
      (w.word.dir = 1 → (∃ z, SyncIs t bid place off z ∧ Arrives x.n y z) ∧ ScratchBut s t bid place off 8 ∧
        (∀ pa, (∀ k, k < x.n → pageByte w.pages x.dst + k ≠ pa) → readMem t pa = readMem s pa) ∧
        (x.pairs = false → ∀ k, k < x.n → 2 * (x.off + k) + 2 ≤ halvesIn r i x.row → readMem t (pageByte w.pages x.dst + k) =
          scratchByte s bid place (d + x.row * copyPitch w.cap.op w.word r + x.off + k))) ∧
      (w.cap.op = 0x93 → (∃ z, SyncIs t bid place off z ∧ Arrives x.n y z) ∧ ScratchBut s t bid place off 8 ∧
        ∀ k, k < x.n → slotByte (slotOf (blockOf t bid) place d) (x.dst + k) = imageByte rd r i (x.off + k)) ∧
      (w.done.length + 1 < w.total → (∀ z ∈ (coreOf s core).copies, ∀ z' ∈ (coreOf s core).copies, z.cap.id = z'.cap.id → z = z') →
        ∃ w' ∈ (coreOf t core).copies, w' = { w with done := insertNat n w.done }) ∧
      (w.total ≤ w.done.length + 1 → (∀ z ∈ (coreOf t core).copies, z.cap.id ≠ w.cap.id) ∧
        (w.cap.op = 0x93 → w.cap.pos = place → (slotOf (blockOf t bid) place d).filling = false)))

end

/-! ## Matrix instructions (R205..R226) -/

namespace Sys2Proof.Claims

open Machine

/-- The array operations with their opcodes (R214). -/
def matrixRows (o : OpX) : List (Instr × Nat) :=
  [(.mma o, 0xC0), (.mmap o, 0xC1), (.mmas o, 0xC2), (.mzero o, 0xC5), (.mldc o, 0xC6), (.mstc o, 0xC7)]

/-- Whether an operation is a multiply. -/
def multiplies (op : Nat) : Bool := op == 0xC0 || op == 0xC1 || op == 0xC2

/-- The k operands of an array operation with the type that each is read under (R214). -/
def matrixSrcs (op : Nat) (o : OpX) : List (Tag × Src) :=
  (if op = 0xC5 then [] else [(.n32, .reg (.k o.ka))]) ++
  (if multiplies op then [(.n32, .reg (.k o.kb))] else if op = 0xC7 then [(.f32, .reg (.k o.kb))] else []) ++
  (if op = 0xC2 ∨ (op = 0xC7 ∧ o.kn.val / 2 = 1) then [(.n32, .reg (.k o.km))] else [])

/-- The operands of an array operation. -/
def matrixIn (op : Nat) (c : Ctx) (s : State) (o : OpX) : MatIn :=
  let w (r : Fin 1024) : Word := BitVec.ofNat 32 (kBits c s r)
  ⟨if op = 0xC5 then 0#32 else w o.ka, if multiplies op ∨ op = 0xC7 then w o.kb else 0#32,
   if op = 0xC2 ∨ (op = 0xC7 ∧ o.kn.val / 2 = 1) then w o.km else 0#32⟩

/-- A finite pattern. -/
def finite (f : FloatFmt) (b : Nat) : Bool := !nanBits f b && !infinite f b

/-- The sum of a function over 0..n-1. -/
def sumOf (n : Nat) (f : Nat → Int) : Int := (List.range n).foldl (fun x k => x + f k) 0

/-- One chunk of c products added to an accumulator with one rounding (R113). -/
def ChunkAdded (fa fb : FloatFmt) (c : Nat) (a b : Nat → Nat) (acc y : Nat) : Prop :=
  y < 2 ^ 32 ∧
  ((∃ k, k < c ∧ (nanBits fa (a k) = true ∨ nanBits fb (b k) = true)) → y = 0x7FC00000) ∧
  (nanBits .f32 acc = true → y = 0x7FC00000) ∧
  (finite .f32 acc = true → (∀ k, k < c → finite fa (a k) = true ∧ finite fb (b k) = true) →
    let d := unitExp fa + unitExp fb
    let x := amount .f32 acc * 2 ^ d + sumOf c (fun k => amount fa (a k) * amount fb (b k)) * 2 ^ 149
    (x = 0 → y = 0 ∨ y = 2 ^ 31) ∧ (x ≠ 0 → ∃ fl, Delivers .f32 .ne false (number x (2 ^ d) false) y fl))

/-- An Electrum element in units of 2^-132 for DX8 and of 2^-128 for DX4 (R108). -/
def dxAmount (eight : Bool) (pair a : Nat) : Int :=
  let b := if eight then 8 else 4
  let m : Int := (a % 2 ^ (b - 2) * 2 ^ (if a.testBit (b - 2) then pair / 256 % 256 else pair % 256) : Nat)
  if a.testBit (b - 1) then -m else m

/-- One Electrum block added to an accumulator (R115), its scales finite. -/
def BlockAdded (ea eb : Bool) (pa pb : Nat) (sa sb : Nat) (a b : Nat → Nat) (acc y : Nat) : Prop :=
  ∃ sc fs, Delivers .f32 .ne false (exactProduct .f32 sa sb) sc fs ∧ (finite .f32 sc = true →
    let d := (if ea then 132 else 128) + (if eb then 132 else 128)
    let x := sumOf 32 (fun k => dxAmount ea pa (a k) * dxAmount eb pb (b k)) * amount .f32 sc
    ∃ p fp fl, (x = 0 → p = 0 ∨ p = 2 ^ 31) ∧ (x ≠ 0 → Delivers .f32 .ne false (number x (2 ^ d) false) p fp) ∧
      Delivers .f32 .ne false (exactSum .f32 .ne acc p) y fl)

/-- The dense element of a 2:4-compressed row at a position (R211): two kept elements of each group of four, at the two
positions that the metadata's nibble names. -/
def denseElem (rd : Nat → Byte) (size2 row meta_ k : Nat) : Nat :=
  let b := (rd (meta_ + k / 8)).toNat
  let nib := if k / 4 % 2 = 0 then b % 16 else b / 16
  if k % 4 = nib / 4 then runElem rd size2 row (k / 4 * 2 + 1)
  else if k % 4 = nib % 4 then runElem rd size2 row (k / 4 * 2)
  else 0

/-- The element A[i][k] of a multiply (R210, R211, R219): only the follower of an `MMAP` reads its A transposed. -/
def matrixA (w : MatOp) (rd : Nat → Byte) (i k : Nat) : Nat :=
  let r := w.shapes.headD 0#512
  let base := offsetOf (shBase0 r)
  let z := fmtSize2 (matCode w.word.fa)
  if w.cap.op = 0xC2 then
    denseElem rd z (base + i * shStride r 1) (offsetOf (shBase0 ((w.shapes[1]?).getD 0#512)) + i * (w.k / 8)) k
  else if w.word.ta = true ∧ (w.cap.op = 0xC0 ∨ w.follower = true) then runElem rd z (base + k * shStride r 1) i
  else runElem rd z (base + i * shStride r 1) k

/-- The earlier operations of a core's array (R216). -/
def earlierOps (s : State) (core : Nat) (w : MatOp) : List MatOp :=
  (coreOf s core).matrix.takeWhile (fun e => e.cap.id != w.cap.id)

/-- Readers of the scratchpads at each position of an operation's block: each 64-byte segment as it stood when the
operation was accepted, or as it stands now (R224). -/
def ScratchRead (s : State) (w : MatOp) (sp : Nat → Nat → Byte) : Prop :=
  ∀ pos n, (∀ k, k < 64 → sp pos (64 * n + k) = scratchByte s w.cap.block pos (64 * n + k)) ∨
    (∀ k, k < 64 → sp pos (64 * n + k) = mget 0#8 w.old (scratchKey pos (64 * n + k)))

/-- A tile as an operation reads it: as it stands, or in each segment of 16 elements of a row as the result of an earlier
operation that has not retired leaves it (R224). -/
def TileRead (s : State) (core : Nat) (w : MatOp) (x : Tile) : Prop :=
  let t := tileOf (blockOf s w.cap.block) w.cap.pos w.word.mt.val
  let formed (z : Tile) : Prop :=
    ∃ e ∈ earlierOps s core w, e.cap.block = w.cap.block ∧ e.word.mt = w.word.mt ∧ e.result = some z
  ((∀ z, ¬ formed z) → x = t) ∧
  ∀ i n, i < 64 → n < 4 → (∀ j, j < 16 → tileElem x i (16 * n + j) = tileElem t i (16 * n + j)) ∨
    ∃ z, formed z ∧ ∀ j, j < 16 → tileElem x i (16 * n + j) = tileElem z i (16 * n + j)

/-- The scale of row i of A: the word of the operation's scale vector, or 1.0 where it has none (R210, R115). -/
def rowScale (s : State) (core : Nat) (w : MatOp) (sp : Nat → Nat → Byte) (i : Nat) : Nat :=
  match w.scale with
  | none => 0x3F800000
  | some (.scratch _ pos off _) => readN (sp pos) (off + 4 * i) 4
  | some (.phys ps) =>
    readN (fun k => overBuffer (blockOf s w.cap.block).buffer (coreByte s core) (pieceAt ps k)) (4 * i) 4

/-- The slot that a multiply reads: for the follower of an `MMAP`, its leader's (R219). -/
def matrixSlot (s : State) (w : MatOp) : Slot :=
  slotOf (blockOf s w.cap.block)
    (if w.follower = true then (w.peerCore.map (corePlace s w.cap.block)).getD w.cap.pos else w.cap.pos)
    (capReg w.cap.regs 1).toNat

/-- The pair of block b of row i of A, and that of column j of the slot (R207, R210). -/
def matrixPairA (w : MatOp) (rd : Nat → Byte) (i b : Nat) : Nat :=
  readN rd (offsetOf (shBase1 (w.shapes.headD 0#512)) + 2 * (i * (w.k / 32) + b)) 2
def matrixPairB (s : State) (w : MatOp) (b j : Nat) : Nat := slotPair (matrixSlot s w) w.word.fb b j

/-- The tile that a multiply leaves (R113..R115, R218): each element accumulates its chunks from the first that is left on,
in ascending order, from +0 with ZERO. -/
def Multiplied (s : State) (core : Nat) (w : MatOp) (sp : Nat → Nat → Byte) (old new : Tile) : Prop :=
  let rd := sp w.cap.pos
  let c := if matElectrum w.word.fa then 32 else match w.word.fa with | .bf16 | .f16 => 4 | _ => 8
  let sa (i : Nat) : Nat := rowScale s core w sp i
  let slot := matrixSlot s w
  new.tag = .f32 ∧ ∀ i j, i < 64 → j < 64 → ∃ acc : Nat → Nat,
    acc w.chunks = (if w.word.zero = true ∧ w.chunks = 0 then 0 else tileElem old i j) ∧
    tileElem new i j = acc (max w.chunks (w.k / c)) ∧
    ∀ b, w.chunks ≤ b → b < w.k / c →
      let a (n : Nat) : Nat := matrixA w rd i (c * b + n)
      let e (n : Nat) : Nat := slotElem slot w.word.fb (c * b + n) j
      (matElectrum w.word.fa = false → ChunkAdded (matFloat w.word.fa) (matFloat w.word.fb) c a e (acc b) (acc (b + 1))) ∧
      (matElectrum w.word.fa = true →
        (Spread (matrixPairA w rd i b) ∧ Spread (matrixPairB s w b j) →
          BlockAdded (w.word.fa == .dx8) (w.word.fb == .dx8) (matrixPairA w rd i b) (matrixPairB s w b j) (sa i)
            (slotScale slot j) a e (acc b) (acc (b + 1))) ∧
        (¬ (Spread (matrixPairA w rd i b) ∧ Spread (matrixPairB s w b j)) → acc (b + 1) = acc b))

/-- An operation accepted at a core discards what a tile of the block holds: `MZERO`, or a multiply with ZERO (R223). -/
def Discarded (s : State) (bid core n : Nat) : Prop :=
  ∃ w ∈ (coreOf s core).matrix, w.cap.block = bid ∧ w.word.mt.val = n ∧
    (w.cap.op = 0xC5 ∨ (multiplies w.cap.op = true ∧ w.word.zero = true))

/-- An instruction finds a tile of a block at a core poisoned (R223). -/
def Poisoned (s : State) (bid core n : Nat) (a : DWord) : Prop :=
  ¬ Discarded s bid core n ∧ (tileOf (blockOf s bid) (corePlace s bid core) n).poison = some a

/-- An instruction finds a tile of a block at a core clean (R223). -/
def Clean (s : State) (bid core n : Nat) : Prop :=
  Discarded s bid core n ∨ (tileOf (blockOf s bid) (corePlace s bid core) n).poison = none

/-- An operation writes its tile: all but an `MSTC` without ZERO (R216, R221). -/
def Writes (w : MatOp) : Prop := w.cap.op ≠ 0xC7 ∨ w.word.zero = true

/-- Two operations name the same tile. -/
def SameTile (w e : MatOp) : Prop := e.cap.block = w.cap.block ∧ e.word.mt = w.word.mt

/-- An operation waits until an earlier one has retired: every writer of its tile, and where it only reads the tile those
of its own group (R216). -/
def Waits (w e : MatOp) : Prop := SameTile w e ∧ Writes e ∧ (Writes w ∨ e.cap.group = w.cap.group)

/-- An operation may start past the one at a place among those accepted before it: that one has started, or itself waits
for an earlier one and names another tile; none passes a follower's half (R216, R219). -/
def MayPass (w : MatOp) (before : List MatOp) (n : Nat) (e : MatOp) : Prop :=
  ¬ Waits w e ∧ e.follower = false ∧
    (e.started = true ∨ e.released = true ∨
      ((∃ d ∈ before.take n, Waits e d) ∧ ¬ SameTile w e ∧ w.follower = false))

/-- No operation of a queue runs: each has not started or has released its operands. -/
def Idle (ws : List MatOp) : Prop := ∀ e ∈ ws, e.started = false ∨ e.released = true

/-- An operation as its array finds it. -/
structure InArray (s : State) (core : Nat) (w : MatOp) : Prop where
  there : (coreOf s core).matrix.find? (fun z => z.cap.id == w.cap.id) = some w
  runs : (coreOf s core).stopped = false
  legal : ∃ i, (i, w.cap.op) ∈ matrixRows w.word ∧ wfInstr i = true
  block : (mfind s.blocks w.cap.block).isSome = true
  plain : blockProt s w.cap.block = false

end Sys2Proof.Claims

section
open Sys2Proof Machine Claims

/-- R214, R215, R219, R222 and R223 for the six array operations: one that passes its checks is accepted behind those of its
core (an `MMAP` behind those of both cores of its pair) and its gang goes on, no tile, slot or scratchpad byte changing; a
tile that is not declared, a failed check and a poisoned tile (of either core of an `MMAP`'s pair) trap, unless an accepted
operation discards the poison; a full queue and a filling slot make the gang wait. R217 and R223 for `MWAIT` and `MOPR`: the
gang waits while an operation accepted before it first issued that names the tile (or any of the block) has not retired, or
while one of its group has not released its operands, and then goes on; a poisoned tile traps. R216 and R219: which operation
of an array starts, one at a time; the two halves of an `MMAP` start together. -/
def Obligations.MatrixAcceptanceAndStart : Prop :=
  (∀ (o : OpX) (i : Instr) (op : Nat) (s : State) (c : Ctx), (i, op) ∈ matrixRows o →
    let v := viewOf c s c.gang (lowest c.gang)
    let x := matrixIn op c s o
    let pos := corePlace s c.g.block c.g.core
    let peer := pairPeer c.g.core
    let bid := c.g.block
    Issues i (useMat op o) s c → (∀ y ∈ matrixSrcs op o, Readable v y.1 y.2) →
    (lrTiles (launchOf s c.g.launch).rcd ≤ o.mt.val → exec i s = .next (trapLanes c s cRange c.gang)) ∧
    (o.mt.val < lrTiles (launchOf s c.g.launch).rcd →
      (∀ e, checkMat s c op o x = .error e → exec i s = .next (trapLanes c s e c.gang)) ∧
      (∀ k shapes, checkMat s c op o x = .ok (k, shapes) →
        (∀ a, (op = 0xC6 ∨ op = 0xC7 ∨ (multiplies op = true ∧ o.zero = false)) →
          (Poisoned s bid c.g.core o.mt.val a ∨
            (op = 0xC1 ∧ Clean s bid c.g.core o.mt.val ∧ Poisoned s bid peer o.mt.val a)) →
          exec i s = .next (trapLanes c s (cPoison a) c.gang)) ∧
        (((Clean s bid c.g.core o.mt.val ∧ (op = 0xC1 → Clean s bid peer o.mt.val)) ∨ op = 0xC5 ∨
            (multiplies op = true ∧ o.zero = true)) → ∀ place pages,
          scaleAt s c (if multiplies op = true ∧ matElectrum o.fa = true then shScale (shapes.headD 0#512) else 0) = .ok place pages →
          let filling := multiplies op = true ∧ (slotOf (blockOf s bid) pos x.b.toNat).filling = true
          let full := 4 ≤ (coreOf s c.g.core).matrix.length ∨ (op = 0xC1 ∧ 4 ≤ (coreOf s peer).matrix.length)
          (filling ∨ full → ∃ t, exec i s = .next t ∧ GangWaits c s t) ∧
          (¬ filling → ¬ full → (op = 0xC1 → peer ≠ c.g.core) → Performed s c →
            ∃ t w, exec i s = .next t ∧ t.mem = s.mem ∧ t.blocks = s.blocks ∧
              WritesK c [] (voidFlags v (matrixSrcs op o)) s t ∧
              (coreOf t c.g.core).matrix = (coreOf s c.g.core).matrix ++ [w] ∧ w.word = o ∧ w.shapes = shapes ∧ w.k = k ∧
              w.cap.op = op ∧ w.cap.pc = c.pc ∧ w.cap.block = c.g.block ∧ w.cap.group = c.gid ∧ w.cap.id = s.nextId ∧
              w.started = false ∧ w.released = false ∧ w.chunks = 0 ∧ w.follower = false ∧ w.scale = place ∧ w.pages = pages ∧
              w.old = (blockOf s bid).scratch ∧ w.result = none ∧ w.out = [] ∧
              capReg w.cap.regs 0 = x.handle ∧ capReg w.cap.regs 1 = x.b ∧ capReg w.cap.regs 2 = x.meta_ ∧
              (op = 0xC1 → ∃ z, (coreOf t peer).matrix = (coreOf s peer).matrix ++ [z] ∧ z.word = o ∧ z.follower = true ∧
                z.shapes = shapes ∧ z.k = k ∧ z.cap.op = op ∧ z.cap.id = w.cap.id + 1 ∧ z.peerCore = some c.g.core ∧
                w.peerCore = some peer)))))) ∧
  ((∀ (o : OpX) (s : State) (c : Ctx) (bound : Nat), isProt s c.g = false →
    ((Issues (.mwait o) [] s c ∧ FirstIssue c ∧ bound = s.nextId) ∨ ∃ a, TriesAgain (.mwait o) s c a ∧ a = { pc := c.pc, bound := bound }) →
    let named (w : MatOp) : Prop := w.cap.block = c.g.block ∧ w.cap.id < bound ∧ (o.zero = false → w.word.mt = o.mt)
    let tiles (n : Nat) : Prop := if o.zero then n < lrTiles (launchOf s c.g.launch).rcd else n = o.mt.val
    (FirstIssue c → o.zero = false → lrTiles (launchOf s c.g.launch).rcd ≤ o.mt.val →
      exec (.mwait o) s = .next (trapLanes c s cRange c.gang)) ∧
    (o.zero = true ∨ o.mt.val < lrTiles (launchOf s c.g.launch).rcd →
      ((∃ n a, tiles n ∧ Poisoned s c.g.block c.g.core n a) →
        ∃ n a, tiles n ∧ Poisoned s c.g.block c.g.core n a ∧ exec (.mwait o) s = .next (trapLanes c s (cPoison a) c.gang)) ∧
      ((∀ n, tiles n → Clean s c.g.block c.g.core n) →
        ((∃ w ∈ (coreOf s c.g.core).matrix, named w) →
          ∃ t, exec (.mwait o) s = .next t ∧ BeginsToWait c { pc := c.pc, bound := bound } 0#7 s t) ∧
        ((∀ w ∈ (coreOf s c.g.core).matrix, ¬ named w) →
          exec (.mwait o) s = .next (endAwait c (modGroup s c.gid (fun g => modThreads g c.gang goesOn))))))) ∧
  (∀ (o : OpX) (s : State) (c : Ctx) (bound : Nat),
    ((Issues (.mopr o) [] s c ∧ FirstIssue c ∧ bound = s.nextId) ∨ ∃ a, TriesAgain (.mopr o) s c a ∧ a = { pc := c.pc, bound := bound }) →
    ((∃ k ∈ s.cores, ∃ w ∈ k.2.matrix, w.cap.group = c.gid ∧ w.cap.id < bound ∧ w.released = false) →
      ∃ t, exec (.mopr o) s = .next t ∧ BeginsToWait c { pc := c.pc, bound := bound } 0#7 s t) ∧
    ((∀ k ∈ s.cores, ∀ w ∈ k.2.matrix, w.cap.group = c.gid → w.cap.id < bound → w.released = true) →
      exec (.mopr o) s = .next (endAwait c (modGroup s c.gid (fun g => modThreads g c.gang goesOn)))))) ∧
  (∀ s core w before after, InArray s core w → w.started = false → w.released = false → w.follower = false →
    (coreOf s core).matrix = before ++ w :: after → (∀ e ∈ before, e.cap.id ≠ w.cap.id) →
    (Idle (before ++ after) → (∀ n e, before[n]? = some e → MayPass w before n e) →
      (w.peerCore = none → ∃ t, exec (.matrixOpStart core w.cap.id) s = .next t ∧ t.blocks = s.blocks ∧ t.mem = s.mem ∧
        (coreOf t core).matrix = before ++ { w with started := true } :: after) ∧
      (∀ p x ys xs, w.peerCore = some p → p ≠ core → (coreOf s p).matrix = ys ++ x :: xs → x.cap.id = w.cap.id + 1 →
        (∀ e ∈ ys, e.cap.id ≠ x.cap.id) → x.started = false → x.released = false → (coreOf s p).stopped = false →
        Idle (ys ++ xs) → (∀ n e, ys[n]? = some e → MayPass x ys n e) →
        ∃ t, exec (.matrixOpStart core w.cap.id) s = .next t ∧ t.blocks = s.blocks ∧ t.mem = s.mem ∧
          (coreOf t core).matrix = before ++ { w with started := true } :: after ∧
          (coreOf t p).matrix = ys ++ { x with started := true } :: xs)) ∧
    (¬ Idle (before ++ after) ∨ (∃ n e, before[n]? = some e ∧ ¬ MayPass w before n e) →
      exec (.matrixOpStart core w.cap.id) s = .refused .notEnabled))

/-- R113..R115, R218, R220 and R224 for `MATRIX_OPERAND_RELEASE`: a started operation has read its operands, each 64-byte
segment of its tile and of the scratchpad as it stood before or after a write made meanwhile, and its result is that of R218
or R220 on what it read; a multiply that met a block outside the spread limit poisons its tile. Only an `MSTC` may have
written some segments of its output already. -/
def Obligations.MatrixResults : Prop :=
  ∀ s core w, InArray s core w → w.started = true → w.released = false → w.out = [] →
    let r := w.shapes.headD 0#512
    ∃ t w' old sp, TileRead s core w old ∧ ScratchRead s w sp ∧
      let rd := sp w.cap.pos
      exec (.matrixOperandRelease core w.cap.id) s = .next t ∧ (w.cap.op ≠ 0xC7 → t.blocks = s.blocks) ∧ t.mem = s.mem ∧
      t.groups = s.groups ∧
      (coreOf t core).matrix.find? (fun z => z.cap.id == w.cap.id) = some w' ∧ w'.released = true ∧ w'.word = w.word ∧ w'.cap = w.cap ∧
      (w.cap.op = 0xC5 → ∃ z, w'.result = some z ∧ z.tag = .f32 ∧ z.poison = none ∧ ∀ i j, tileElem z i j = 0) ∧
      (w.cap.op = 0xC6 → ∃ z, w'.result = some z ∧ z.poison = none ∧ z.tag = (if shFmt r = 6 then .f32 else .bf16x2) ∧
        ∀ i j, i < 64 → j < 64 → tileElem z i j =
          if shFmt r = 6 then readN rd (offsetOf (shBase0 r) + i * shStride r 1 + 4 * j) 4
          else readN rd (offsetOf (shBase0 r) + i * shStride r 1 + 2 * j) 2 * 2 ^ 16) ∧
      (multiplies w.cap.op = true → ∃ z, w'.result = some z ∧ Multiplied s core w sp old z ∧
        (matElectrum w.word.fa = true → w.chunks = 0 →
          ((∃ b n, b < w.k / 32 ∧ n < 64 ∧ ¬ (Spread (matrixPairA w rd n b) ∧ Spread (matrixPairB s w b n))) → z.poison = some w.cap.pc)) ∧
        (matElectrum w.word.fa = false → w.word.zero = true → w.chunks = 0 → z.poison = none))

/-- R221 and R224 for `MSTC`: the epilogue of each element, and its format, in bytes that its scratchpad holds by whole
64-byte segments at once or when it retires; ZERO clears the tile. R215, R216 and R219 for `MATRIX_OP_RETIRE`: the tile and
the remaining scratchpad bytes of an operation that has released its operands are written; of an `MMAP`, those of both
halves; and nothing else of the block changes. -/
def Obligations.MatrixStoresAndRetirement : Prop :=
  (∀ s core w, InArray s core w → w.cap.op = 0xC7 → w.started = true → w.released = false →
    let r := w.shapes.headD 0#512
    let base := offsetOf (shBase0 r)
    let z := fmtSize2 (shFmt r)
    shFmt r < 4 ∨ shFmt r = 6 → 64 * z / 2 ≤ shStride r 1 → base + 63 * shStride r 1 + 64 * z / 2 ≤ 2 ^ 19 →
    ∃ t w' tile sp, TileRead s core w tile ∧ ScratchRead s w sp ∧
      let rd := sp w.cap.pos
      exec (.matrixOperandRelease core w.cap.id) s = .next t ∧
      (∀ p n, tileOf (blockOf t w.cap.block) p n = tileOf (blockOf s w.cap.block) p n) ∧
      (coreOf t core).matrix.find? (fun y => y.cap.id == w.cap.id) = some w' ∧ w'.released = true ∧
      w'.result = (if w.word.zero then some { tag := .f32 } else none) ∧
      (∀ a, (∀ i, i < 64 → ¬ (base + i * shStride r 1 ≤ a ∧ a < base + i * shStride r 1 + 64 * z / 2)) → mfind w'.out a = none) ∧
      (∀ b p k, k < 2 ^ 19 → scratchByte t b p k ≠ scratchByte s b p k →
        b = w.cap.block ∧ p = w.cap.pos ∧ (∀ k', k' / 64 = k / 64 → mfind w'.out k' = none) ∧
          ∃ i, i < 64 ∧ base + i * shStride r 1 ≤ k ∧ k < base + i * shStride r 1 + 64 * z / 2) ∧
      ∀ i j, i < 64 → j < 64 → ∃ y fy x fx out, Delivers .f32 .ne false (exactProduct .f32 (tileElem tile i j) (capReg w.cap.regs 1).toNat) y fy ∧
        (w.word.kn.val / 2 = 1 → Delivers .f32 .ne false
          (exactSum .f32 .ne y (readN rd (offsetOf (shBase0 ((w.shapes[1]?).getD 0#512)) + 4 * j) 4)) x fx) ∧
        (w.word.kn.val / 2 ≠ 1 → x = y) ∧
        (shFmt r = 6 → out = (limited (w.word.kn.val % 2 == 1) (x, 0#7)).1) ∧
        (shFmt r < 4 → ∃ fl, Delivers (matFloat (matOfCode (shFmt r))) .ne (w.word.kn.val % 2 == 1)
          (exactConversion .f32 (matFloat (matOfCode (shFmt r))) x) out fl) ∧
        runElem (fun a => (mfind w'.out a).getD (scratchByte t w.cap.block w.cap.pos a)) z (base + i * shStride r 1) j = out) ∧
  ((∀ s core w, InArray s core w → w.released = true → w.follower = false → w.peerCore = none → (∀ e ∈ w.out, e.1 < 2 ^ 19) →
    w.out.Pairwise (fun x y => x.1 < y.1) →
    ∃ t, exec (.matrixOpRetire core w.cap.id) s = .next t ∧ t.mem = s.mem ∧
      (∀ y ∈ (coreOf t core).matrix, y.cap.id ≠ w.cap.id) ∧
      (∀ z, w.result = some z → tileOf (blockOf t w.cap.block) w.cap.pos w.word.mt.val = z) ∧
      (∀ p n, (p ≠ w.cap.pos ∨ n ≠ w.word.mt.val ∨ w.result = none) → n < 32 →
        tileOf (blockOf t w.cap.block) p n = tileOf (blockOf s w.cap.block) p n) ∧
      ∀ b p k, k < 2 ^ 19 → scratchByte t b p k =
        if b = w.cap.block ∧ p = w.cap.pos then (mfind w.out k).getD (scratchByte s b p k) else scratchByte s b p k) ∧
  (∀ s core w p x, InArray s core w → w.released = true → w.follower = false → w.peerCore = some p → p ≠ core →
    (coreOf s p).matrix.find? (fun z => z.cap.id == w.cap.id + 1) = some x → x.released = true → (coreOf s p).stopped = false →
    x.cap.block = w.cap.block → x.cap.pos ≠ w.cap.pos → x.word = w.word →
    ∃ t, exec (.matrixOpRetire core w.cap.id) s = .next t ∧ t.mem = s.mem ∧
      (∀ y ∈ (coreOf t core).matrix, y.cap.id ≠ w.cap.id) ∧ (∀ y ∈ (coreOf t p).matrix, y.cap.id ≠ w.cap.id + 1) ∧
      (∀ z, w.result = some z → tileOf (blockOf t w.cap.block) w.cap.pos w.word.mt.val = z) ∧
      (∀ z, x.result = some z → tileOf (blockOf t w.cap.block) x.cap.pos w.word.mt.val = z)))

end

/-! ## Traps and the system instructions (R379..R393) -/

namespace Sys2Proof.Claims

open Machine

/-- The 32-bit word at an offset of a group's trap frame, through the pages that its addresses map to (R383). -/
def frameWord (u : State) (pages : Map Nat) (base off : Nat) : Nat := readN (fun a => readMem u (pageByte pages a)) (base + off) 4

/-- The word of a lane in a row of a frame (R383). -/
def laneWord (w : Nat → Nat) (row lane : Nat) : Nat := w (row * 512 + 4 * lane)

/-- A table that lists no key twice, each below a bound. -/
def Listed {α : Type} (m : Map α) (n : Nat) : Prop := (m.map Prod.fst).Nodup ∧ ∀ e ∈ m, e.1 < n

/-- The rows of a lane that holds a thread (R383). -/
structure LaneRows (w : Nat → Nat) (f : FaultInfo) (l : Nat) (th : Thread) : Prop where
  regs : ∀ n, n < 256 → laneWord w n l = (mget {} th.rf.v n).bits.toNat
  tags : ∀ n, n < 256 → laneWord w (256 + n / 8) l / 16 ^ (n % 8) % 16 = tagCode (mget {} th.rf.v n).tag
  pc : laneWord w 288 l + laneWord w 289 l * 2 ^ 32 =
    (if f.skip && f.lanes.getLsbD l then th.pc + 8#64 else th.pc).toNat
  preds : ∀ n, n < 7 → (laneWord w 290 l).testBit n = th.rf.p.getLsbD n
  ended : (laneWord w 290 l).testBit 7 = decide (th.run = .ended)
  faulted : (laneWord w 290 l).testBit 8 = f.lanes.getLsbD l
  ingang : (laneWord w 290 l).testBit 9 = f.gang.getLsbD l
  ix : laneWord w 291 l = th.rf.ix0.toNat + th.rf.ix1.toNat * 2 ^ 16 ∧ laneWord w 292 l = th.rf.ix2.toNat + th.rf.ix3.toNat * 2 ^ 16
  fpstat : laneWord w 293 l = th.rf.fp.toNat
  header : laneWord w 294 l + laneWord w 295 l * 2 ^ 32 = (th.split.getD {}).hdr.toNat
  set : ∀ n, n < 128 → (laneWord w (296 + n / 32) l).testBit (n % 32) = (th.split.getD {}).set.getLsbD n

/-- The words of a group in its frame (R383, R384). -/
structure GroupRows (w : Nat → Nat) (g : Group) (f : FaultInfo) : Prop where
  k : ∀ n, n < 1024 → w (300 * 512 + 4 * n) = (mget {} g.uni.k n).bits.toNat
  tags : ∀ n, n < 1024 → w (308 * 512 + 4 * (n / 8)) / 16 ^ (n % 8) % 16 = tagCode (mget {} g.uni.k n).tag
  q : w (309 * 512) = g.uni.q.toNat
  afmode : w (309 * 512 + 4) = g.afmode % 2 ^ 32
  afnext : w (309 * 512 + 8) = g.afnext % 2 ^ 32
  progress : w (309 * 512 + 12) = g.progress % 2 ^ 32
  cause : w (309 * 512 + 16) = causeCode f
  address : w (309 * 512 + 24) + w (309 * 512 + 28) * 2 ^ 32 = f.pc.toNat
  faultAt : w (309 * 512 + 32) + w (309 * 512 + 36) * 2 ^ 32 = f.addr.toNat
  count : w (309 * 512 + 40) = g.replay.length
  gang : ∀ n, n < 128 → (w (309 * 512 + 48 + 4 * (n / 32))).testBit (n % 32) = f.gang.getLsbD n
  lanes : ∀ n, n < 128 → (w (309 * 512 + 64 + 4 * (n / 32))).testBit (n % 32) = f.lanes.getLsbD n
  poisoner : w (309 * 512 + 80) + w (309 * 512 + 84) * 2 ^ 32 = f.poisoner.toNat

end Sys2Proof.Claims

section
open Sys2Proof Machine Claims

/-- R383 and R384: what the frame of a group holds, word by word, where its pages translate to distinct places; nothing
else of memory is written. -/
def Obligations.TrapFrames : Prop :=
  ∀ (s u : State) (gid : Nat) (f : FaultInfo) (pages : Map Nat),
    framePages s gid = some pages → writeFrame s gid f = some u →
    let g := groupOf s gid
    let base := frameBase s g
    let w := frameWord u pages base
    base + frameBytes ≤ 2 ^ 64 → (∀ p ∈ pages, p.2 % 4096 = 0) → (pages.map Prod.snd).Nodup →
    Listed g.threads 128 → (∀ e ∈ g.threads, Listed e.2.rf.v 256) → Listed g.uni.k 1024 →
    g.replay.length ≤ 16 → (∀ r ∈ g.replay, ∀ e ∈ r.operands, e.1 < 128) →
    (∀ l th, mfind g.threads l = some th → LaneRows w f l th) ∧
    (∀ l, l < 128 → mfind g.threads l = none → laneWord w 290 l = 128 ∧ ∀ row, row < 300 → row ≠ 290 → laneWord w row l = 0) ∧
    GroupRows w g f ∧
    (∀ row x, 440 ≤ row → row < 448 → x < 128 → w (row * 512 + 4 * x) = 0) ∧
    (∀ e r, g.replay[e]? = some r → w (310 * 512 + 64 * e) + w (310 * 512 + 64 * e + 4) * 2 ^ 32 = r.word.toNat ∧
      w (310 * 512 + 64 * e + 8) + w (310 * 512 + 64 * e + 12) * 2 ^ 32 = r.pc.toNat ∧
      w (310 * 512 + 64 * e + 48) = r.state.toNat) ∧
    ∀ pa, (∀ a, base ≤ a → a < base + frameBytes → pageByte pages a ≠ pa) → readMem u pa = readMem s pa

end

namespace Sys2Proof.Claims

open Machine

/-- The two instructions that trap by themselves, with their classes and whether the frame PC is past them (R387). -/
def selfTraps (o : OpCode) : List (Instr × Nat × Bool) := [(.trap o, 0x0F, true), (.bkpt o, 0x10, false)]

/-- The group's threads stand at the handler (R382): the ready ones at TRAPBASE with their registers as they were. -/
def AtHandler (base : DWord) (g g' : Group) : Prop :=
  g'.uni = g.uni ∧ ∀ l th, mfind g.threads l = some th → ∃ th', mfind g'.threads l = some th' ∧ th'.rf = th.rf ∧
    (th.run = .ended → th' = th) ∧ (th.run ≠ .ended → th'.pc = base ∧ th'.run = .ready)

end Sys2Proof.Claims

section
open Sys2Proof Machine Claims

/-- R381, R382 and R387 for `TRAP` and `BKPT`: older accesses complete, the frame is written, TRAPFRAME and the cause are
set and every thread that has not ended stands at TRAPBASE with its registers unchanged; the launch fails with the cause
where it has no handler, the group is already in it, or its header cannot be entered; `BKPT` without a handler parks the
group and is recorded; a frame that cannot be written parks it. An older access that finds an error is delivered to the
recovery ladder instead (R382 step 2). -/
def Obligations.TrapsAndBreakpoints : Prop :=
  ∀ (o : OpCode) (i : Instr) (cls : Nat) (skip : Bool) (s : State) (c : Ctx), (i, cls, skip) ∈ selfTraps o →
    ctxOf s = some c → wfInstr i = true → activeLanes c o.pred ≠ [] →
    let act := activeLanes c o.pred
    let f : FaultInfo := { cls := cls, detail := o.code.toNat, lanes := maskOfLanes act, gang := maskOfLanes c.gang, pc := c.pc,
                           skip := skip }
    let code := cls * 2 ^ 24 + o.code.toNat
    let z := completeOlder (closeRegions c s act) c.gid
    let g := groupOf z c.gid
    let l := launchOf s g.launch
    (∀ x, olderFault (closeRegions c s act) c.gid = some x → exec i s = .next (recover z c.gid x)) ∧
    (olderFault (closeRegions c s act) c.gid = none →
    let failed (t : State) : Prop := (mfind s.launches g.launch).isSome = true → l.final = false →
      (launchOf t g.launch).final = true ∧ (launchOf t g.launch).status = .failed ∧ (launchOf t g.launch).detail = code
    (l.trapbase ≠ 0#64 → g.trapframe = 0#64 → ∀ u, writeFrame z c.gid f = some u →
      (handlerOk u (groupOf u c.gid) = true → ∃ t, exec i s = .next t ∧ t.mem = u.mem ∧
        (∀ gid, gid ≠ c.gid → groupOf t gid = groupOf s gid) ∧ AtHandler l.trapbase g (groupOf t c.gid) ∧
        (groupOf t c.gid).trapframe = BitVec.ofNat 64 (frameBase s g) ∧ (groupOf t c.gid).trapcause = BitVec.ofNat 32 code) ∧
      (handlerOk u (groupOf u c.gid) = false → ∃ t, exec i s = .next t ∧ failed t)) ∧
    (l.trapbase ≠ 0#64 → g.trapframe = 0#64 → writeFrame z c.gid f = none → ∃ t, exec i s = .next t ∧ t.mem = z.mem ∧
      (groupOf t c.gid).park = .frame ∧ (groupOf t c.gid).fault = some f ∧ (groupOf t c.gid).threads = g.threads) ∧
    (l.trapbase ≠ 0#64 → g.trapframe ≠ 0#64 → ∃ t, exec i s = .next t ∧ failed t) ∧
    (l.trapbase = 0#64 → cls = 0x0F → ∃ t, exec i s = .next t ∧ failed t) ∧
    (l.trapbase = 0#64 → cls = 0x10 → ∃ t, exec i s = .next t ∧ t.mem = z.mem ∧ (groupOf t c.gid).park = .bkpt ∧
      (groupOf t c.gid).threads = g.threads ∧ ((sliceOf s l.slice).errs.length < 256 →
        (sliceOf t l.slice).errs = (sliceOf s l.slice).errs ++ [⟨.bkpt, c.gid, c.pc.toNat, o.code.toNat⟩])))

/-- R388: `ERET` restores the group from its frame: each lane that has not ended its registers, tags, predicates, index
registers, flags, split and PC (past the instruction in the trapping gang with `.skip`), the group its k and q registers
and progress; lanes that the frame marks end, none is revived, and TRAPFRAME and the cause become 0. Outside a handler it
raises the illegal-operation fault. -/
def Obligations.ExceptionReturn : Prop :=
  ∀ (skip : Bool) (s : State) (c : Ctx), ctxOf s = some c →
    (c.g.trapframe = 0#64 → exec (.eret skip) s = .next (trapLanes c s cMisuse c.gang)) ∧
    (c.g.trapframe ≠ 0#64 → c.g.sweepMark = none → quiet s c.gid c.g (liveLanes c.g) = true → ∀ w, readFrame s c.g = some w →
      ∃ t, exec (.eret skip) s = .next t ∧ (c.g.activation = false → t.mem = s.mem) ∧
        let g := groupOf s c.gid
        let g' := groupOf t c.gid
        g'.trapframe = 0#64 ∧ g'.trapcause = 0#32 ∧ g'.afnext = g.afnext ∧ g'.afmode = g.afmode ∧
        g'.progress = w (309 * 512 + 12) ∧ g'.uni.q = BitVec.ofNat 7 (w (309 * 512)) ∧
        (∀ n, n < declaredK s c.g → (mget {} g'.uni.k n).bits = BitVec.ofNat 32 (w (300 * 512 + 4 * n)) ∧
          (Machine.tagOf (w (308 * 512 + 4 * (n / 8)) / 16 ^ (n % 8) % 16) ≠ Tag.af →
            (mget {} g'.uni.k n).tag = Machine.tagOf (w (308 * 512 + 4 * (n / 8)) / 16 ^ (n % 8) % 16))) ∧
        ∀ l th, mfind g.threads l = some th → ∃ th', mfind g'.threads l = some th' ∧
          (th.run = .ended ∨ (laneWord w 290 l).testBit 7 = true → th'.run = .ended) ∧
          (th.run ≠ .ended → (laneWord w 290 l).testBit 7 = false → th'.run = .ready ∧
            th'.pc = BitVec.ofNat 64 (laneWord w 288 l + laneWord w 289 l * 2 ^ 32) +
              (if skip = true ∧ (laneWord w 290 l).testBit 9 = true then 8#64 else 0#64) ∧
            th'.rf.p = BitVec.ofNat 7 (laneWord w 290 l) ∧ th'.rf.fp = BitVec.ofNat 7 (laneWord w 293 l) ∧
            th'.rf.ix0.toNat + th'.rf.ix1.toNat * 2 ^ 16 = laneWord w 291 l % 2 ^ 32 ∧
            th'.rf.ix2.toNat + th'.rf.ix3.toNat * 2 ^ 16 = laneWord w 292 l % 2 ^ 32 ∧
            ∀ n, n < declaredV s c.g → (mget {} th'.rf.v n).bits = BitVec.ofNat 32 (laneWord w n l) ∧
              (mget {} th'.rf.v n).tag = Machine.tagOf (laneWord w (256 + n / 8) l / 16 ^ (n % 8) % 16)))

end

namespace Sys2Proof.Claims

open Machine

/-- The value of a system register for a group (R127). -/
def systemRegister (s : State) (g : Group) (r : SysReg) : Nat :=
  match r with
  | .trapbase => (launchOf s g.launch).trapbase.toNat
  | .trapframe => g.trapframe.toNat
  | .noprebudget => (launchOf s g.launch).nopreBudget
  | .budgetperiod => (launchOf s g.launch).budgetPeriod
  | .partid => (launchOf s g.launch).part
  | .tenant => (launchOf s g.launch).tenant
  | .gentag => (coreOf s g.core).gentag.toNat
  | .fpclear => 0

/-- The type under which a system register is read and written (R389). -/
def systemType (r : SysReg) : Tag := if r = .trapbase ∨ r = .trapframe then .n64 else .n32

/-- The values that a system register takes (R127). -/
def systemRange (r : SysReg) (x : Nat) : Prop :=
  (r = .noprebudget → 1 ≤ x ∧ x ≤ 100000) ∧ (r = .budgetperiod → 10000 ≤ x ∧ x ≤ 10000000)

/-- A launch, and the period of its partition, after a write of a system register; nothing else of them changes. -/
def SystemWritten (s t : State) (lid : Nat) (r : SysReg) (x : Nat) : Prop :=
  (∀ l, mfind s.launches lid = some l → launchOf t lid =
    (match r with
     | .trapbase => { l with trapbase := BitVec.ofNat 64 x }
     | .noprebudget => { l with nopreBudget := x }
     | .budgetperiod => { l with budgetPeriod := x }
     | _ => l)) ∧
  (∀ n, n ≠ lid → launchOf t n = launchOf s n) ∧
  ∀ n, partOf t n = (if r = .budgetperiod ∧ n = (launchOf s lid).part then { partOf s n with period := x } else partOf s n)

/-- The gang has gone on, with some change of the register file of each of its lanes, and nothing else in any group. -/
def GangGoesOn (c : Ctx) (rf : Nat → RegFile → RegFile) (s t : State) : Prop :=
  (∀ gid, gid ≠ c.gid → groupOf t gid = groupOf s gid) ∧ (groupOf t c.gid).uni = (groupOf s c.gid).uni ∧
  ∀ l th, mfind (groupOf s c.gid).threads l = some th → ∃ th', mfind (groupOf t c.gid).threads l = some th' ∧ th'.run = th.run ∧
    th'.pc = (if l ∈ c.gang then th.pc + 8#64 else th.pc) ∧ th'.rf = (if l ∈ c.gang then rf l th.rf else th.rf)

end Sys2Proof.Claims

section
open Sys2Proof Machine Claims

/-- R127 and R389 for `MOVY` and `MOVYW`: a register read at its level, with its tag; a register written at its level and in
its range, by the last lane where threads write; FPCLEAR clears the sticky flags that its operand names; the privilege fault
below the level and the illegal-operation fault out of the range. R393 for `NOPRE` and the end of its budget, and what
Mbotum does with a parked group (R387, R393). -/
def Obligations.SystemRegistersAndRegions : Prop :=
  ((∀ o : OpMovy, Completes (.movy o) (isK o.d) o.pred (useReg o.d (if systemType o.sys = .n64 then 2 else 1))
    (fun v => o.sys = .gentag → 1 ≤ (launchOf v.s v.g.launch).level)
    (fun v r => TypedResult o.d (systemType o.sys) (systemRegister v.s v.g o.sys) r ∧ r.flags = 0#7)) ∧
  (∀ (o : OpMovy) (s : State) (c : Ctx), Issues (.movy o) (useReg o.d) s c → o.sys = .gentag →
    (launchOf s c.g.launch).level = 0 →
    (isK o.d = false → activeLanes c o.pred ≠ [] → exec (.movy o) s = .next (trapLanes c s cPrivilege (activeLanes c o.pred))) ∧
    (isK o.d = true → predVal c.g.uni.q o.pred = true → exec (.movy o) s = .next (trapLanes c s cPrivilege c.gang))) ∧
  (∀ (o : OpMovyw) (s : State) (c : Ctx), Issues (.movyw o) (useSrc o.a (if systemType o.sys = .n64 then 2 else 1)) s c →
    let t := systemType o.sys
    let lanes := if srcIsK o.a then c.gang else activeLanes c o.pred
    let view (l : Nat) : View := if srcIsK o.a then viewOf c s c.gang (lowest c.gang) else viewOf c s (activeLanes c o.pred) l
    let x (l : Nat) : Nat := srcBits (view l) t o.a
    lanes ≠ [] → (srcIsK o.a = true → predVal c.g.uni.q o.pred = true) →
    (o.sys ≠ .fpclear → (launchOf s c.g.launch).level = 0 → exec (.movyw o) s = .next (trapLanes c s cPrivilege lanes)) ∧
    ((o.sys ≠ .fpclear → 1 ≤ (launchOf s c.g.launch).level) → (∀ l ∈ lanes, Readable (view l) t o.a) →
      ((∀ l ∈ lanes, ¬ systemRange o.sys (x l)) → exec (.movyw o) s = .next (trapLanes c s cIllegalOp lanes)) ∧
      ((∀ l ∈ lanes, systemRange o.sys (x l)) → ∃ u, exec (.movyw o) s = .next u ∧ u.mem = s.mem ∧
        SystemWritten s u c.g.launch o.sys (x (lanes.getLastD 0)) ∧
        GangGoesOn c (fun l rf => if l ∈ lanes then
          { rf with fp := (rf.fp ||| voidOf (view l) t o.a) &&&
              (if o.sys = .fpclear then ~~~BitVec.ofNat 7 (x l) else ~~~0#7) } else rf) s u)))) ∧
  ((∀ (leave : Bool) (s : State) (c : Ctx), ctxOf s = some c → ∃ t, exec (.nopre leave) s = .next t ∧ t.mem = s.mem ∧
    GangGoesOn c (fun _ rf => rf) s t ∧
    (groupOf t c.gid).nopre = (if leave then none
      else some ((groupOf s c.gid).nopre.getD (s.now * 20 / 17 + (launchOf s (groupOf s c.gid).launch).nopreBudget)))) ∧
  (∀ gid g s n, mfind s.groups gid = some g → g.nopre = some n →
    (s.now * 20 / 17 ≤ n → exec (.nopreBudgetExpiry gid) s = .refused .notEnabled) ∧
    (n < s.now * 20 / 17 → g.park = .none → ∃ t, exec (.nopreBudgetExpiry gid) s = .next t ∧ t.mem = s.mem ∧
      (∀ k, k ≠ gid → groupOf t k = groupOf s k) ∧ (groupOf t gid).nopre = none ∧ (groupOf t gid).park = .budget ∧
      (groupOf t gid).threads = g.threads ∧ (groupOf t gid).uni = g.uni) ∧
    (n < s.now * 20 / 17 → g.park ≠ .none → ∃ t, exec (.nopreBudgetExpiry gid) s = .next t ∧ t.mem = s.mem ∧
      (∀ k, k ≠ gid → groupOf t k = groupOf s k) ∧ groupOf t gid = { g with nopre := none })) ∧
  (∀ gid g s f, mfind s.groups gid = some g → g.fault = some f →
    let l := launchOf s g.launch
    (g.park = .bkpt ∨ g.park = .budget → ∃ t, exec (.parkedGroupResolution gid true) s = .next t ∧ t.mem = s.mem ∧
      (groupOf t gid).park = .none ∧ (groupOf t gid).uni = g.uni ∧ ∀ n th, mfind g.threads n = some th →
        ∃ th', mfind (groupOf t gid).threads n = some th' ∧ th'.rf = th.rf ∧ th'.run = th.run ∧
          th'.pc = (if g.park = .bkpt ∧ n < 128 ∧ f.gang.getLsbD n = true then th.pc + 8#64 else th.pc)) ∧
    ((mfind s.launches g.launch).isSome = true → l.final = false → g.park = .bkpt ∨ g.park = .budget →
      ∃ t, exec (.parkedGroupResolution gid false) s = .next t ∧ (launchOf t g.launch).final = true ∧
        (g.park = .bkpt → (launchOf t g.launch).status = .killed) ∧
        (g.park = .budget → (launchOf t g.launch).status = .failed ∧ (launchOf t g.launch).detail = causeCode f))))

end

namespace Sys2Proof.Claims

open Machine

/-- A thread that waits for a page goes on trying, with the answer of the walk (R239). -/
def triesAgain (page : Nat) (found : Option Leaf) (th : Thread) : Thread :=
  if waitsPage page th then { th with run := .ready, walked := found } else th

/-- A thread that drops the answer of a walk where a `TLBI` covers it (R241). -/
def forgets (x : Tlbi) (part : Nat) (th : Thread) : Thread :=
  { th with walked := th.walked.filter (fun z => !(z.part == part && tlbiCovers x z.asid z.page z.log)) }

end Sys2Proof.Claims

section
open Sys2Proof Machine Claims

/-- R390 and R241 for `TLBI`: at level 1, after the gang's accesses, its threads wait while the partition holds the
invalidation; when it completes, no translation cache of a slice, core or sub-core holds a translation that it covers and its
threads go on. At level 0 it raises the privilege fault. R233, R235, R238, R239 and R240 for a walk that completes, and for a
translation fault that Mbotum resolves: one translation answers every thread that waits for its page and fills the caches,
and a page without one parks its groups whole and queues it; a resolved group is issued again, and a refused one that cannot
enter a handler fails its launch. -/
def Obligations.Translation : Prop :=
  ((∀ (o : OpTlbi) (s : State) (c : Ctx), Issues (.tlbi o) (useTlbi o) s c →
    let uni := decide (o.scope.val ≤ 1) && isK o.d
    let lanes := if uni then c.gang else activeLanes c o.pred
    let src := if uni then [lowest c.gang] else activeLanes c o.pred
    let view (l : Nat) : View := viewOf c s (if uni then c.gang else activeLanes c o.pred) l
    let l := launchOf s c.g.launch
    lanes ≠ [] → (uni = true → predVal c.g.uni.q o.pred = true) →
    (l.level = 0 → exec (.tlbi o) s = .next (trapLanes c s cPrivilege lanes)) ∧
    (1 ≤ l.level → (∀ n ∈ src, (o.scope.val ≤ 1 → Readable (view n) .n32 (.reg o.d)) ∧
        (o.scope.val = 0 → Addresses (view n) (.reg o.a))) →
      c.g.sweepMark = none → quiet s c.gid c.g c.gang = true → (mfind s.blocks c.g.block).isSome = true →
      ∃ t, exec (.tlbi o) s = .next t ∧ (blockOf t c.g.block).seen = true ∧ ((blockOf s c.g.block).buffer = [] → t.mem = s.mem) ∧
        (partOf t l.part).tlbis = (partOf s l.part).tlbis ++ [⟨s.nextId, c.gid, o.scope.val,
          src.map (fun n => (if o.scope.val ≤ 1 then srcBits (view n) .n32 (.reg o.d) else 0,
            if o.scope.val = 0 then pairBits (view n) (.reg o.a) / 4096 else 0))⟩] ∧
        ∀ n th, mfind (groupOf s c.gid).threads n = some th → ∃ th', mfind (groupOf t c.gid).threads n = some th' ∧
          (n ∉ c.gang → th' = th) ∧ (n ∈ c.gang → th'.run = .blocked (.tlbi s.nextId) ∧ th'.pc = c.pc ∧ th'.region = none ∧
            th'.rf.v = th.rf.v ∧ th'.rf.p = th.rf.p))) ∧
  (∀ (s : State) (part : Nat) (x : Tlbi), (partOf s part).tlbis.find? (fun y => y.id == x.id) = some x →
    tlbiHeld s x part = false → (∀ y ∈ s.slices, ∀ w ∈ y.2.walks, tlbiHits x part w = false) →
    ∃ t, exec (.tlbiComplete part x.id) s = .next t ∧ t.mem = s.mem ∧
      (∀ n y, mfind t.slices n = some y → ∀ z ∈ y.tlb, z.part = part → tlbiCovers x z.asid z.page z.log = false) ∧
      (∀ n y, mfind s.slices n = some y → ∀ z ∈ y.tlb, z.part ≠ part ∨ tlbiCovers x z.asid z.page z.log = false →
        z ∈ (sliceOf t n).tlb) ∧
      (∀ n k, mfind t.cores n = some k → (∀ z ∈ k.tlb, z.part = part → tlbiCovers x z.asid z.page z.log = false) ∧
        ∀ j u, mfind k.utlbs j = some u → ∀ z ∈ u, z.part = part → tlbiCovers x z.asid z.page z.log = false) ∧
      (∀ y ∈ (partOf t part).tlbis, y.id ≠ x.id) ∧
      ∀ gid n th, mfind (groupOf s gid).threads n = some th → ∃ th', mfind (groupOf t gid).threads n = some th' ∧ th'.rf = th.rf ∧
        (gid = x.group → th.run = .blocked (.tlbi x.id) → th'.run = .ready ∧ th'.pc = th.pc + 8#64) ∧
        (gid ≠ x.group ∨ th.run ≠ .blocked (.tlbi x.id) → th' = forgets x part th))) ∧
  ((∀ (s : State) (slice n : Nat) (w : Walk) (e : DWord) (b g : Nat), (∀ gid, ((groupOf s gid).threads.map Prod.fst).Nodup) →
    (sliceOf s slice).walks[n]? = some w →
    walkTable s w.part w.asid (w.page * 4096) = .leaf e b g →
    let z : Leaf := ⟨w.part, w.asid, w.page * 4096 / 2 ^ g, e, b, g⟩
    ∃ t, exec (.pageWalk slice n) s = .next t ∧ t.mem = s.mem ∧ z ∈ (sliceOf t slice).tlb ∧
      (∀ gid ∈ w.groups, ∀ x, mfind s.groups gid = some x → z ∈ (coreOf t x.core).tlb ∧
        z ∈ mget [] (coreOf t x.core).utlbs x.sub) ∧
      (sliceOf t slice).walks.length = (sliceOf s slice).walks.length - 1 + min 1 (sliceOf s slice).waiting.length ∧
      ∀ gid k th, mfind (groupOf s gid).threads k = some th →
        mfind (groupOf t gid).threads k = some (if gid ∈ w.groups then triesAgain w.page (some z) th else th)) ∧
  (∀ (s : State) (slice n gid : Nat) (w : Walk) (x : Group), (x.threads.map Prod.fst).Nodup → (sliceOf s slice).walks[n]? = some w →
    walkTable s w.part w.asid (w.page * 4096) = .bad → w.groups = [gid] → mfind s.groups gid = some x →
    (∃ e ∈ x.threads, waitsPage w.page e.2 = true) →
    ∃ t, exec (.pageWalk slice n) s = .next t ∧ t.mem = s.mem ∧ (groupOf t gid).park = .translation ∧
      (∃ f, (groupOf t gid).fault = some f ∧ f.cls = 9 ∧
        ((sliceOf s (launchOf s x.launch).slice).faultq.length < 1024 ∨
          (∃ e ∈ (sliceOf s (launchOf s x.launch).slice).faultq, e.part = (launchOf s x.launch).part ∧
            e.asid = (launchOf s x.launch).asid ∧ e.page = f.addr.toNat / 4096) →
          ∃ e ∈ (sliceOf t (launchOf s x.launch).slice).faultq, gid ∈ e.groups ∧ e.page = f.addr.toNat / 4096)) ∧
      ∀ k th, mfind x.threads k = some th → mfind (groupOf t gid).threads k = some (triesAgain w.page none th)) ∧
  (∀ (s : State) (slice n gid : Nat) (e : TransFault) (x : Group) (f : FaultInfo), (sliceOf s slice).faultq[n]? = some e →
    e.groups = [gid] → mfind s.groups gid = some x → x.park = .translation → x.fault = some f →
    (∃ t, exec (.translationFaultResolution slice n true) s = .next t ∧ t.mem = s.mem ∧ (groupOf t gid).park = .none ∧
      (groupOf t gid).fault = none ∧ (groupOf t gid).threads = x.threads ∧ (groupOf t gid).uni = x.uni) ∧
    ((launchOf s x.launch).trapbase = 0#64 ∨ x.trapframe ≠ 0#64 →
      (mfind s.launches x.launch).isSome = true → (launchOf s x.launch).final = false →
      ∃ t, exec (.translationFaultResolution slice n false) s = .next t ∧ (launchOf t x.launch).final = true ∧
        (launchOf t x.launch).status = .failed ∧ (launchOf t x.launch).detail / 2 ^ 24 = 0x0A)))

end

/-! ## Service requests (R355, R391, R392) -/

namespace Sys2Proof.Claims

open Machine

/-- A gang's accesses can be performed at once: what it issued before is performed, and no line is marked poisoned. -/
structure Quiet (s : State) (c : Ctx) (lanes : List Nat) : Prop where
  unmarked : c.g.sweepMark = none
  quiet : quiet s c.gid c.g lanes = true
  clean : s.poison = []
  buffer : (blockOf s c.g.block).buffer = []
  block : (mfind s.blocks c.g.block).isSome = true

/-- A request as its instruction sends it (R391): words 0..3 of its block are its arguments. -/
structure Requested (s : State) (c : Ctx) (o : OpSysc) (uni : Bool) (x : Spot) (r : SyscReq) : Prop where
  group : r.group = c.gid
  lane : r.lane = x.lane
  uniform : r.uniform = uni
  service : r.service = o.service.toNat
  block : r.block = x.va
  dest : r.dest = o.d
  done : r.done = false
  args : ∀ i, i < 4 → r.args[i]? = some (BitVec.ofNat 64 (readPlace s (groupOf s c.gid) x.place 64 / 2 ^ (64 * i)))

/-- A thread that waits for a reply, with its registers as they were but for flags raised. -/
def WaitsReply (id : Nat) (th th' : Thread) : Prop :=
  th'.run = .blocked (.sysc id) ∧ th'.pc = th.pc ∧ th'.rf.v = th.rf.v ∧ th'.rf.p = th.rf.p ∧ th'.region = none

/-- A thread that goes on with a status in D (R391). -/
def HasStatus (d : Reg) (status : Nat) (th th' : Thread) : Prop :=
  th'.run = .ready ∧ th'.pc = th.pc + 8#64 ∧ th'.rf.p = th.rf.p ∧
    th'.rf.v = (if isK d then th.rf.v else putRegs th.rf.v [(regNum d, ⟨BitVec.ofNat 32 status, .n32⟩)])

end Sys2Proof.Claims


namespace Sys2Proof.Claims

open Machine

/-- A request that a service core has to serve. -/
def Waiting (s : State) (slice : Nat) (r : SyscReq) (service : Nat) : Prop :=
  (sliceOf s slice).reqs.find? (fun y => y.id == r.id) = some r ∧ r.done = false ∧ r.service = service

/-- A request served: its status and its results wait for the reply (R391). -/
def ServedWith (t : State) (slice : Nat) (r : SyscReq) (status : Nat) (res : List DWord) : Prop :=
  (sliceOf t slice).reqs.find? (fun y => y.id == r.id) = some { r with done := true, status := status, res := res }

/-- The results stand in the words from RES0 on of the request's block (R391). -/
def ResultsWritten (s t : State) (r : SyscReq) (res : List DWord) : Prop :=
  ∀ pas, servicePas s r .write (r.block.toNat + 32) (8 * res.length) = some pas → pas.Nodup →
    ∀ i pa, pas[i]? = some pa → ∃ x, res[i / 8]? = some x ∧ readMem t pa = BitVec.ofNat 8 (x.toNat / 256 ^ (i % 8))

/-- The launch that a request comes from. -/
def askedBy (s : State) (r : SyscReq) : Launch := launchOf s (groupOf s r.group).launch

/-- The first argument of a request. -/
def firstArg (r : SyscReq) : Nat := (argOf r 0).toNat

end Sys2Proof.Claims

section
open Sys2Proof Machine Claims

/-- R391 for `SYSC` and its reply: after the group's accesses each thread whose predicate is true sends one request, in
ascending lane order, and waits; a block in the scratchpad window gives BADSPACE at once; the reply writes D with the status
and the thread goes on; while the group is in a handler with no thread that waits for it, the reply stays. R329, R331, R355 and R392 for the services of a service core: what each does for a request that is
accepted, and the status of one that is not. -/
def Obligations.SystemCallsAndServices : Prop :=
  ((∀ (o : OpSysc) (s : State) (c : Ctx) (xs : List Spot), Issues (.sysc o) (useSysc o) s c → isK o.d = false →
    let act := activeLanes c o.pred
    let home := (launchOf s c.g.launch).slice
    act ≠ [] → (∀ l ∈ act, Addresses (viewOf c s act l) (.reg o.a)) → xs.map Spot.lane = act → c.gang.Nodup →
    (∀ x ∈ xs, x.va = BitVec.ofNat 64 (pairBits (viewOf c s act x.lane) (.reg o.a)) ∧
      Placed (fun s g l va => locateBlock s g l false va) s c x) →
    Quiet s c c.gang → (∀ r ∈ (sliceOf s home).reqs, r.group ≠ c.gid) →
    ∃ t rs, exec (.sysc o) s = .next t ∧ t.mem = s.mem ∧ (blockOf t c.g.block).seen = true ∧
      (groupOf t c.gid).uni = (groupOf s c.gid).uni ∧ (sliceOf t home).reqs = (sliceOf s home).reqs ++ rs ∧
      rs.length = (xs.filter (fun x => !isScratchVa x.va)).length ∧
      (∀ (n : Nat) (x : Spot) (r : SyscReq), (xs.filter (fun x => !isScratchVa x.va))[n]? = some x → rs[n]? = some r →
        Requested s c o false x r) ∧
      (rs.map SyscReq.id).Nodup ∧
      ∀ l th, mfind (groupOf s c.gid).threads l = some th → ∃ th', mfind (groupOf t c.gid).threads l = some th' ∧
        (l ∉ c.gang → th' = th) ∧ (l ∈ c.gang → l ∉ act → th' = goesOn th) ∧
        (∀ r ∈ rs, r.lane = l → WaitsReply r.id th th') ∧
        (∀ x ∈ xs, x.lane = l → isScratchVa x.va = true → HasStatus o.d 1 th th')) ∧
  (∀ (o : OpSysc) (s : State) (c : Ctx) (x : Spot), Issues (.sysc o) (useSysc o) s c → isK o.d = true →
    predVal c.g.uni.q o.pred = true →
    let v := viewOf c s c.gang (lowest c.gang)
    let home := (launchOf s c.g.launch).slice
    Addresses v (.reg o.a) → x.lane = lowest c.gang → x.va = BitVec.ofNat 64 (pairBits v (.reg o.a)) → isScratchVa x.va = false →
    Placed (fun s g l va => locateBlock s g l true va) s c x → Quiet s c c.gang →
    (∀ r ∈ (sliceOf s home).reqs, r.group ≠ c.gid) →
    ∃ t r, exec (.sysc o) s = .next t ∧ t.mem = s.mem ∧ (sliceOf t home).reqs = (sliceOf s home).reqs ++ [r] ∧
      Requested s c o true x r ∧ ∀ l th, mfind (groupOf s c.gid).threads l = some th →
        ∃ th', mfind (groupOf t c.gid).threads l = some th' ∧ (l ∉ c.gang → th' = th) ∧ (l ∈ c.gang → WaitsReply r.id th th')) ∧
  (∀ (s : State) (slice : Nat) (r : SyscReq) (g : Group), (sliceOf s slice).reqs.find? (fun y => y.id == r.id && y.done) = some r →
    mfind s.groups r.group = some g → (g.threads.map Prod.fst).Nodup → g.where_ = .resident → (coreOf s g.core).stopped = false →
    ((∃ e ∈ g.threads, e.2.run = .blocked (.sysc r.id)) ∨ g.trapframe = 0#64) →
    ∃ t, exec (.syscReply slice r.id) s = .next t ∧ t.mem = s.mem ∧ (∀ y ∈ (sliceOf t slice).reqs, y.id ≠ r.id) ∧
      (isK r.dest = false → (groupOf t r.group).uni = g.uni) ∧
      (isK r.dest = true → (∃ e ∈ g.threads, e.2.run = .blocked (.sysc r.id)) →
        (groupOf t r.group).uni.k = putRegs g.uni.k [(regNum r.dest, ⟨BitVec.ofNat 32 r.status, .n32⟩)]) ∧
      ∀ l th, mfind g.threads l = some th → ∃ th', mfind (groupOf t r.group).threads l = some th' ∧
        (th.run ≠ .blocked (.sysc r.id) → th' = th) ∧ (th.run = .blocked (.sysc r.id) → HasStatus r.dest r.status th th'))) ∧
  ((∀ s slice r, Waiting s slice r 0 → ∃ t, exec (.syscNull slice r.id) s = .next t ∧ t.mem = s.mem ∧ ServedWith t slice r 0 []) ∧
  (∀ s slice r slot x, Waiting s slice r 1 → serviceRead s r (firstArg r) 64 = some x →
    let p := (askedBy s r).part
    let old := mget {} (partOf s p).shapes slot
    let gen := if old.gen = 4095 then 1 else old.gen + 1
    let h := BitVec.ofNat 64 (slot * 4096 + gen)
    (shapeOk (BitVec.ofNat 512 x) = false → ∃ t, exec (.shapeInstall slice r.id slot) s = .next t ∧ t.mem = s.mem ∧
      ServedWith t slice r 5 [] ∧ t.parts = s.parts) ∧
    (shapeOk (BitVec.ofNat 512 x) = true → ((partOf s p).shapes.filter (fun y => y.2.live)).length < 2 ^ 20 → slot < 2 ^ 20 →
      old.live = false → ∃ t, exec (.shapeInstall slice r.id slot) s = .next t ∧ ServedWith t slice r 0 [h] ∧
        ResultsWritten s t r [h] ∧ mget {} (partOf t p).shapes slot = ⟨BitVec.ofNat 512 x, gen, (askedBy s r).tenant, true⟩ ∧
        ∀ n, n ≠ slot → mget {} (partOf t p).shapes n = mget {} (partOf s p).shapes n) ∧
    (shapeOk (BitVec.ofNat 512 x) = true → 2 ^ 20 ≤ ((partOf s p).shapes.filter (fun y => y.2.live)).length →
      ∃ t, exec (.shapeInstall slice r.id slot) s = .next t ∧ ServedWith t slice r 6 [] ∧ t.parts = s.parts)) ∧
  (∀ s slice r slot, Waiting s slice r 1 → serviceRead s r (firstArg r) 64 = none →
    ∃ t, exec (.shapeInstall slice r.id slot) s = .next t ∧ t.mem = s.mem ∧ ServedWith t slice r 1 [] ∧ t.parts = s.parts) ∧
  (∀ s slice r, Waiting s slice r 2 →
    let p := (askedBy s r).part
    let n := firstArg r / 4096
    let x := mget {} (partOf s p).shapes n
    let ok := firstArg r < 2 ^ 32 ∧ x.live = true ∧ firstArg r % 4096 = x.gen ∧ x.gen ≠ 0 ∧ x.tenant = (askedBy s r).tenant
    (ok → ∃ t, exec (.shapeFree slice r.id) s = .next t ∧ t.mem = s.mem ∧ ServedWith t slice r 0 [] ∧
      (mget {} (partOf t p).shapes n).live = false ∧
      (mget {} (partOf t p).shapes n).gen = (if x.gen = 4095 then 1 else x.gen + 1) ∧
      ∀ k, k ≠ n → mget {} (partOf t p).shapes k = mget {} (partOf s p).shapes k) ∧
    (¬ ok → ∃ t, exec (.shapeFree slice r.id) s = .next t ∧ t.mem = s.mem ∧ ServedWith t slice r 3 [] ∧ t.parts = s.parts)) ∧
  (∀ s slice r y, Waiting s slice r 3 → firstArg r < 4096 →
    let l := askedBy s r
    let at_ := specAddr (partOf s l.part) (firstArg r)
    entryOf s r at_ 128 = some y →
    let e := BitVec.ofNat 1024 y
    let x := if bitsOf e 415 384 = 0 then e ||| (BitVec.ofNat 1024 l.number <<< 384) else e
    let u := writeMem s at_ (bytesOf 128 x.toNat)
    (∀ n, specCause u l (firstArg r) x = n → n ≠ 0 → ∃ t, exec (.specInstall slice r.id) s = .next t ∧
      ServedWith t slice r 3 [BitVec.ofNat 64 n] ∧ (partOf t l.part).specs = (partOf u l.part).specs) ∧
    (specCause u l (firstArg r) x = 0 → ∃ t lid, exec (.specInstall slice r.id) s = .next t ∧ ServedWith t slice r 0 [] ∧
      (launchOf s lid).part = l.part ∧ (launchOf s lid).tenant = l.tenant ∧ (launchOf s lid).number = bitsOf x 415 384 ∧
      specOf t l.part (firstArg r) = some ⟨x, lid, l.tenant⟩ ∧
      ∀ n, n ≠ firstArg r → specOf t l.part n = specOf s l.part n)) ∧
  (∀ s slice r, Waiting s slice r 4 → firstArg r < 4096 →
    let l := askedBy s r
    let n := firstArg r
    (specOf s l.part n = none → ∃ t, exec (.specRemove slice r.id) s = .next t ∧ ServedWith t slice r 0 [] ∧ t.parts = s.parts) ∧
    (∀ x, specOf s l.part n = some x →
      (x.tenant ≠ l.tenant → ∃ t, exec (.specRemove slice r.id) s = .next t ∧ ServedWith t slice r 4 [] ∧ t.parts = s.parts) ∧
      (x.tenant = l.tenant → ∃ t, exec (.specRemove slice r.id) s = .next t ∧ specOf t l.part n = none ∧
        ∀ i, i < 16 → (partOf s l.part).slices.getLsbD i = true →
          (∀ w ∈ (sliceOf t i).windows, w.2.spec ≠ n) ∧ (∀ q ∈ (sliceOf t i).keyqs, q.spec ≠ n) ∧
          (∀ a ∈ (sliceOf t i).actq, a.spec ≠ n)))) ∧
  (∀ s slice r tail y, Waiting s slice r 5 → firstArg r < 4096 →
    let l := askedBy s r
    let at_ := streamAddr (partOf s l.part) (firstArg r)
    entryOf s r at_ 64 = some y →
    let e := BitVec.ofNat 512 y
    (streamOk s l.part e = false → ∃ t, exec (.streamInstall slice r.id tail) s = .next t ∧ ServedWith t slice r 3 []) ∧
    (streamOk s l.part e = true →
      (bitsOf e 17 16 = 2 → (xlateDirect s l.part l.asid l.level tail.toNat .write).any (fun z => z.1 == at_ + 28) = true) →
      ∃ t st, exec (.streamInstall slice r.id tail) s = .next t ∧ ServedWith t slice r 0 [if bitsOf e 17 16 = 2 then tail else 0#64] ∧
        streamOf t l.part (firstArg r) = some st ∧ st.src = bitsOf e 17 16 ∧ st.specs = entrySpecs e ∧ st.wmark = -2 ^ 63 ∧
        st.maxt = -2 ^ 63 ∧ st.seq = 0 ∧ st.pending = [] ∧ (st.wmx = true ↔ e.getLsbD 18 = true) ∧ st.maxooo = bitsOf e 63 32)) ∧
  (∀ s slice r n status res, Waiting s slice r n → 6 ≤ n →
    (n < 0x100 → ∃ t, exec (.mbotumService slice r.id status res) s = .next t ∧ ServedWith t slice r 2 [] ∧ t.mem = s.mem) ∧
    (0x100 ≤ n → res.length ≤ 4 → status < 2 ^ 32 → ∃ t, exec (.mbotumService slice r.id status res) s = .next t ∧
      ServedWith t slice r status res ∧ ResultsWritten s t r res)))

end

/-! ## LNCH, NSEND, NRECV and NCTR (R41, R322..R327, R468) -/

namespace Sys2Proof.Claims

open Machine

/-- A lane that has posted goes on: VOID raised where its address is void, its region closed (R34, R324). -/
def Posted (void : Flags) (th th' : Thread) : Prop :=
  th'.pc = th.pc + 8#64 ∧ th'.run = th.run ∧ th'.rf = raised void th.rf ∧ th'.region = none

/-- Where the lanes of a posting instruction find what they post: in the global window, aligned, and free at once. -/
structure Posting (s : State) (c : Ctx) (o : OpR) (size : Nat) (xs : List Spot) : Prop where
  some_ : activeLanes c o.pred ≠ []
  nodup : c.gang.Nodup
  readable : ∀ l ∈ activeLanes c o.pred, Addresses (viewOf c s (activeLanes c o.pred) l) (.reg o.a)
  lanes : xs.map Spot.lane = activeLanes c o.pred
  place : ∀ x ∈ xs, x.va = BitVec.ofNat 64 (pairBits (viewOf c s (activeLanes c o.pred) x.lane) (.reg o.a)) ∧
    x.va.toNat < 2 ^ 56 ∧ locateAligned s c.g x.lane false x.va size .read = .at x.place x.pt x.commons
  clean : s.poison = []
  buffer : (blockOf s c.g.block).buffer = []
  block : (mfind s.blocks c.g.block).isSome = true

/-- VOID of a lane's address. -/
def voidAddr (s : State) (c : Ctx) (o : OpR) (l : Nat) : Flags :=
  voidFlags (viewOf c s (activeLanes c o.pred) l) [(.n64, .reg o.a)]

/-- A message from a work request, with what the peer table gives for it (R323, R468). -/
structure MessageOf (s : State) (c : Ctx) (x : Spot) (m : NetMsg) : Prop where
  req : m.req = BitVec.ofNat 512 (readPlace s (groupOf s c.gid) x.place 64)
  addr : m.addr = x.va
  part : m.part = (launchOf s c.g.launch).part
  asid : m.asid = (launchOf s c.g.launch).asid
  level : m.level = (launchOf s c.g.launch).level
  budget : m.budget = (launchOf s c.g.launch).budget
  dfa : m.dfa = bitsOf (mget 0#128 (sliceOf s (wrPort m.req)).peers (wrPeer m.req)) 127 96
  jobid : m.jobid = bitsOf (mget 0#128 (sliceOf s (wrPort m.req)).peers (wrPeer m.req)) 95 72
  retry : m.retry = bitsOf (mget 0#128 (sliceOf s (wrPort m.req)).peers (wrPeer m.req)) 71 64
  fresh : m.sent = [] ∧ m.acked = [] ∧ m.lost = [] ∧ m.placed = []

/-- The two instructions that post work requests. -/
def posts (o : OpR) : List (Instr × Bool) := [(.nsend o, false), (.nrecv o, true)]

/-- The queue of a port into which they post. -/
def portQueue (s : State) (recv : Bool) (port : Nat) : List NetMsg :=
  if recv then (sliceOf s port).recvq else (sliceOf s port).sendq

end Sys2Proof.Claims

section
open Sys2Proof Machine Claims

/-- R41 and R322 for `LNCH`: the records of the threads are copied into the group's pending-launch queue in ascending lane
order; the threads that find it full wait at the instruction. R323, R324 and R468 for `NSEND` and `NRECV` on ports with
room: every request is posted to its port in ascending lane order with what the peer table gives, and the gang goes on; one
request that is not accepted traps its lanes with nothing posted. R327 for `NCTR`: a count of a port of the partition. -/
def Obligations.LaunchAndNetworkPosts : Prop :=
  (∀ (o : OpR) (s : State) (c : Ctx) (xs : List Spot), Issues (.lnch o) (useReg o.a 2) s c → Posting s c o 128 xs →
    (∀ x ∈ xs, mustWait s c x = false) → c.g.sweepMark = none → quiet s c.gid c.g (activeLanes c o.pred) = true →
    let room := 4 - (groupOf s c.gid).pending.length
    ∃ t, exec (.lnch o) s = .next t ∧ t.mem = s.mem ∧ (∀ gid, gid ≠ c.gid → groupOf t gid = groupOf s gid) ∧
      (groupOf t c.gid).uni = (groupOf s c.gid).uni ∧
      (groupOf t c.gid).pending = (groupOf s c.gid).pending ++
        (xs.take room).map (fun x => (x.va, BitVec.ofNat 1024 (readPlace s (groupOf s c.gid) x.place 128))) ∧
      ((groupOf s c.gid).pending.length < 4 → (blockOf t c.g.block).seen = true) ∧
      ∀ l th, mfind (groupOf s c.gid).threads l = some th → ∃ th', mfind (groupOf t c.gid).threads l = some th' ∧
        (l ∉ c.gang → th' = th) ∧ (l ∈ c.gang → l ∉ activeLanes c o.pred → th' = goesOn th) ∧
        (∀ x ∈ xs.take room, x.lane = l → Posted (voidAddr s c o l) th th') ∧
        (∀ x ∈ xs.drop room, x.lane = l → th'.run = .blocked .retry ∧ th'.pc = th.pc ∧ th'.rf = th.rf)) ∧
  (∀ (o : OpR) (i : Instr) (recv : Bool) (s : State) (c : Ctx) (xs : List Spot), (i, recv) ∈ posts o →
    Issues i (useReg o.a 2) s c → Posting s c o 64 xs →
    let part := (launchOf s c.g.launch).part
    let req (x : Spot) : BitVec 512 := BitVec.ofNat 512 (readPlace s (groupOf s c.gid) x.place 64)
    let bad := xs.filter (fun x => !requestOk s part recv (req x))
    (bad ≠ [] → exec i s = .next (trapLanes c s cIllegalOp (bad.map Spot.lane))) ∧
    (bad = [] → Performed s c → (∀ p, (portQueue s recv p).length + xs.length ≤ 4096) →
      (∀ x ∈ xs, recv = false → peerOk (mget 0#128 (sliceOf s (wrPort (req x))).peers (wrPeer (req x))) = true) →
      ∃ (t : State) (ms : List NetMsg), exec i s = .next t ∧ t.mem = s.mem ∧ ms.length = xs.length ∧ (ms.map NetMsg.id).Nodup ∧
        (∀ (n : Nat) (x : Spot) (m : NetMsg), xs[n]? = some x → ms[n]? = some m → MessageOf s c x m) ∧
        (∀ p, portQueue t recv p = portQueue s recv p ++ ms.filter (fun m => wrPort m.req == p) ∧
          portQueue t (!recv) p = portQueue s (!recv) p) ∧
        (blockOf t c.g.block).seen = true ∧ (∀ gid, gid ≠ c.gid → groupOf t gid = groupOf s gid) ∧
        (groupOf t c.gid).uni = (groupOf s c.gid).uni ∧
        ∀ l th, mfind (groupOf s c.gid).threads l = some th → ∃ th', mfind (groupOf t c.gid).threads l = some th' ∧
          (l ∉ c.gang → th' = th) ∧ (l ∈ c.gang → l ∉ activeLanes c o.pred → th' = goesOn th) ∧
          (l ∈ activeLanes c o.pred → Posted (voidAddr s c o l) th th'))) ∧
  ((∀ o : OpNctr, Completes (.nctr o) (isK o.a) o.pred (useReg o.a 2)
    (fun v => (partOf v.s (launchOf v.s v.g.launch).part).slices.getLsbD o.port.val = true)
    (fun v r =>
      let part := (launchOf v.s v.g.launch).part
      let x := sliceOf v.s o.port.val
      let n := match o.sel.val with
        | 4 => (x.sendq.filter (fun m => m.part == part)).length
        | 5 => (x.recvq.filter (fun m => m.part == part)).length + (x.inbound.filter (fun m =>
            m.recv.any (fun y => y.part == part) && m.placed.length * 2 ^ m.pktlog < m.len)).length
        | k => mget 0 x.counts (part * 16 + k)
      TypedResult o.a .n64 n r ∧ r.flags = 0#7)) ∧
  (∀ (o : OpNctr) (s : State) (c : Ctx), Issues (.nctr o) (useReg o.a 2) s c → isK o.a = false → activeLanes c o.pred ≠ [] →
    (partOf s (launchOf s c.g.launch).part).slices.getLsbD o.port.val = false →
    exec (.nctr o) s = .next (trapLanes c s cIllegalOp (activeLanes c o.pred))))

end

/-! ## Wait and wake (R358..R363) -/

namespace Sys2Proof.Claims

open Machine

/-- The condition of a `WWAIT` on the value of its word (R360). -/
def WaitHolds (cc v b : Nat) : Prop :=
  match cc with
  | 0 => v = b
  | 1 => v ≠ b
  | 2 => b ≤ v
  | 3 => b < v
  | 4 => ∃ i, v.testBit i = true ∧ b.testBit i = true
  | _ => ∀ i, b.testBit i = true → v.testBit i = true

/-- The type of a `WWAIT`'s word, and its bytes. -/
def waitType (o : OpWwait) : Tag := if o.w64 then .n64 else .n32
def waitSize (o : OpWwait) : Nat := if o.w64 then 8 else 4

/-- The operands of a `WWAIT` that can be read. -/
def WaitReady (o : OpWwait) (v : View) : Prop :=
  Addresses v (.reg o.a) ∧ Readable v (waitType o) o.b ∧ (o.tmo = true → Readable v .n32 (.reg (.k o.k)))

/-- The place of a `WWAIT`'s word: on a normal page of the global window, and no line of it owned by a core. -/
structure WaitPlace (s : State) (c : Ctx) (o : OpWwait) (uni : Bool) (v : View) (x : Spot) : Prop where
  va : x.va = BitVec.ofNat 64 (pairBits v (.reg o.a))
  window : x.va.toNat < 2 ^ 56
  place : locateAligned s c.g x.lane uni x.va (waitSize o) .read = .at x.place x.pt x.commons
  page : x.pt = .normal
  free : mustWait s c x = false
  unowned : ∀ pa ∈ placePas x.place, mfind s.owner (lineOf pa) = none

/-- A wait that goes on: blocked at its instruction, with its operands as it has read them. -/
def WaitsOn (s : State) (o : OpWwait) (v : View) (th th' : Thread) : Prop :=
  th'.run = .blocked .wwait ∧ th'.pc = th.pc ∧ th'.rf.v = th.rf.v ∧ th'.rf.p = th.rf.p ∧
    ∃ w, th'.wwait = some w ∧ w.addr = BitVec.ofNat 64 (pairBits v (.reg o.a)) ∧ w.value = srcBits v (waitType o) o.b ∧
      w.limit = (if o.tmo then some (srcBits v .n32 (.reg (.k o.k))) else none) ∧ w.since = s.now * 20 / 17 ∧ w.released = false

/-- The wake entries that some wakes leave: each entry of a woken line owes one more evaluation for each (R362). -/
def WakesOwed (s t : State) (part asid : Nat) (lines : List Nat) (all : Bool) : Prop :=
  ∀ n e, mfind (partOf s part).wakes n = some e → mfind (partOf t part).wakes n =
    some { e with due := e.due ++ List.replicate (lines.filter (fun l => e.asid == asid && l == e.line)).length all }

/-- No two entries of a wake table have one line of one address space, and none is listed twice. -/
def OneEntryEach (m : Map WakeEntry) : Prop :=
  (m.map Prod.fst).Nodup ∧ (m.map (fun e => (e.2.asid, e.2.line))).Nodup

end Sys2Proof.Claims

section
open Sys2Proof Machine Claims

/-- R358, R360 and R361 for a `WWAIT` that begins: where the condition holds of the word, its predicate becomes true and the
thread goes on; where it does not, the thread blocks with its operands, or, with a timeout of 0, ends with false. A uniform
wait does so once for its gang, with a q predicate. R359, R361, R362 and R363: `WWAKE` and a host's write owe each line's
entry an evaluation; an evaluation makes every registered waiter of the line on a running core read again and counts
WAKESEQ; a wait whose time is over, and one that is registered nowhere after a microsecond, reads again. -/
def Obligations.WaitsAndWakes : Prop :=
  ((∀ (o : OpWwait) (s : State) (c : Ctx) (xs : List Spot), Issues (.wwait o) (useWait o) s c → isK o.a = false →
    let act := activeLanes c o.pred
    let v (l : Nat) : View := viewOf c s act l
    c.gang.Nodup → act ≠ [] → (∀ l ∈ c.gang, (threadOf c.g l).wwait = none) → (∀ l ∈ act, WaitReady o (v l)) →
    xs.map Spot.lane = act → s.poison = [] → (∀ x ∈ xs, WaitPlace s c o false (v x.lane) x) →
    ∃ t, exec (.wwait o) s = .next t ∧ t.mem = s.mem ∧ (groupOf t c.gid).uni = (groupOf s c.gid).uni ∧
      ∀ l th, mfind (groupOf s c.gid).threads l = some th → ∃ th', mfind (groupOf t c.gid).threads l = some th' ∧
        (l ∉ c.gang → th'.rf = th.rf ∧ th'.pc = th.pc ∧ th'.run = th.run) ∧
        (l ∈ c.gang → l ∉ act → th'.rf = th.rf ∧ th'.pc = th.pc + 8#64 ∧ th'.run = th.run) ∧
        ∀ x ∈ xs, x.lane = l →
          let value := readPlace s (groupOf s c.gid) x.place (waitSize o)
          let b := srcBits (v l) (waitType o) o.b
          let ends (y : Bool) : Prop := th'.pc = th.pc + 8#64 ∧ th'.run = th.run ∧ th'.wwait = none ∧ th'.rf.v = th.rf.v ∧
            th'.rf.p = putPreds th.rf.p [(o.pd.val, y)]
          (WaitHolds o.cc.val value b → ends true) ∧
          (¬ WaitHolds o.cc.val value b →
            (o.tmo = true → srcBits (v l) .n32 (.reg (.k o.k)) = 0 → ends false) ∧
            (o.tmo = false ∨ srcBits (v l) .n32 (.reg (.k o.k)) ≠ 0 → WaitsOn s o (v l) th th'))) ∧
  (∀ (o : OpWwait) (s : State) (c : Ctx) (x : Spot), Issues (.wwait o) (useWait o) s c → isK o.a = true →
    predVal c.g.uni.q o.pred = true → (∀ l ∈ c.gang, (threadOf c.g l).wwait = none) →
    let v := viewOf c s c.gang (lowest c.gang)
    WaitReady o v → x.lane = lowest c.gang → s.poison = [] → WaitPlace s c o true v x →
    (∀ l ∈ c.gang, mustWait s c { x with lane := l } = false) →
    let value := readPlace s (groupOf s c.gid) x.place (waitSize o)
    let b := srcBits v (waitType o) o.b
    (WaitHolds o.cc.val value b → ∃ t, exec (.wwait o) s = .next t ∧ t.mem = s.mem ∧
      (groupOf t c.gid).uni = { (groupOf s c.gid).uni with q := putPreds (groupOf s c.gid).uni.q [(o.pd.val, true)] } ∧
      ∀ l th, mfind (groupOf s c.gid).threads l = some th → ∃ th', mfind (groupOf t c.gid).threads l = some th' ∧
        th'.rf.v = th.rf.v ∧ th'.rf.p = th.rf.p ∧ th'.run = th.run ∧
        th'.pc = (if l ∈ c.gang then th.pc + 8#64 else th.pc)) ∧
    (¬ WaitHolds o.cc.val value b → o.tmo = false → ∃ t, exec (.wwait o) s = .next t ∧ t.mem = s.mem ∧
      (groupOf t c.gid).uni = (groupOf s c.gid).uni ∧
      ∀ l th, mfind (groupOf s c.gid).threads l = some th → l ∈ c.gang →
        ∃ th', mfind (groupOf t c.gid).threads l = some th' ∧ WaitsOn s o v th th'))) ∧
  ((∀ (o : OpWwake) (s : State) (c : Ctx) (xs : List Spot), Issues (.wwake o) (useReg o.a 2) s c →
    let uni := isK o.a
    let act := activeLanes c o.pred
    let src := if uni then [lowest c.gang] else act
    let v (l : Nat) : View := if uni then viewOf c s c.gang l else viewOf c s act l
    let l := launchOf s c.g.launch
    act ≠ [] ∨ uni = true → (uni = true → predVal c.g.uni.q o.pred = true) → (∀ n ∈ src, Addresses (v n) (.reg o.a)) →
    xs.map Spot.lane = src → (∀ x ∈ xs, x.va = BitVec.ofNat 64 (pairBits (v x.lane) (.reg o.a)) ∧ x.va.toNat < 2 ^ 56 ∧
      locateAligned s c.g x.lane uni x.va 4 .read = .at x.place .normal x.commons ∧ x.pt = .normal) →
    Quiet s c c.gang → OneEntryEach (partOf s l.part).wakes →
    ∃ t, exec (.wwake o) s = .next t ∧ t.mem = s.mem ∧ (blockOf t c.g.block).seen = true ∧
      WakesOwed s t l.part l.asid (xs.map (fun x => wakeLine x.va)) o.all ∧
      (groupOf t c.gid).uni = (groupOf s c.gid).uni ∧
      ∀ n th, mfind (groupOf s c.gid).threads n = some th → ∃ th', mfind (groupOf t c.gid).threads n = some th' ∧
        th'.rf.v = th.rf.v ∧ th'.rf.p = th.rf.p ∧ th'.run = th.run ∧ th'.pc = (if n ∈ c.gang then th.pc + 8#64 else th.pc)) ∧
  (∀ (s : State) (part asid : Nat) (value : DWord), (partOf s part).state ≠ .free → OneEntryEach (partOf s part).wakes →
    (value.toNat < 2 ^ 56 → value.toNat / 2 % 32 = 0 → ∃ t, exec (.hostWakeWrite part asid value) s = .next t ∧ t.mem = s.mem ∧
      t.groups = s.groups ∧ WakesOwed s t part asid [value.toNat / 64] (value.getLsbD 0)) ∧
    (¬ (value.toNat < 2 ^ 56 ∧ value.toNat / 2 % 32 = 0) → ∃ t, exec (.hostWakeWrite part asid value) s = .next t ∧
      t.mem = s.mem ∧ t.parts = s.parts ∧ (let slice := Config.home (value.toNat % 2 ^ 56 / 64) % 16
        (sliceOf s slice).errs.length < 256 →
        (sliceOf t slice).errs = (sliceOf s slice).errs ++ [⟨.badWake, part, asid, value.toNat⟩]))) ∧
  (∀ (s : State) (part n : Nat) (e : WakeEntry) (all : Bool) (rest : List Bool), mfind (partOf s part).wakes n = some e →
    e.due = all :: rest →
    ∃ t, exec (.waitEvaluation part n) s = .next t ∧ t.mem = s.mem ∧
      mfind (partOf t part).wakes n = some { e with wakeseq := e.wakeseq + 1#32, due := rest } ∧
      t.outbox = s.outbox ++ (if e.host then [.hostData e.hostline (e.wakeseq + 1#32).toNat] else []) ∧
      ∀ gid g l th, mfind s.groups gid = some g → mfind g.threads l = some th → ∃ th', mfind (groupOf t gid).threads l = some th' ∧
        (th.wwait = none → th.run ≠ .blocked .wwait → th' = th) ∧
        ((launchOf s g.launch).part ≠ part ∨ (launchOf s g.launch).asid ≠ e.asid → th' = th) ∧
        (∀ w, th.run ≠ .ended → th.wwait = some w → w.registered = true → wakeLine w.addr = e.line →
          (launchOf s g.launch).part = part → (launchOf s g.launch).asid = e.asid →
          g.where_ = .swappedOut ∨ (g.where_ = .resident ∧ (coreOf s g.core).stopped = false) →
          th'.run = (if th.run = .blocked .wwait then .ready else th.run) ∧ th'.pc = th.pc ∧ th'.rf = th.rf ∧ th'.wwait = some { w with released := w.released || all })) ∧
  (∀ (s : State) (gid l : Nat) (g : Group) (th : Thread) (w : WaitReg), mfind s.groups gid = some g →
    mfind g.threads l = some th → th.run = .blocked .wwait → th.wwait = some w → g.where_ = .resident →
    (coreOf s g.core).stopped = false →
    let again (i : Instr) : Prop := ∃ t, exec i s = .next t ∧ t.mem = s.mem ∧
      mfind (groupOf t gid).threads l = some { th with run := .ready }
    (∀ n, w.limit = some n → w.since + 1000 * n ≤ s.now * 20 / 17 → again (.wwaitTimeout gid l)) ∧
    (w.registered = false → w.polled + 850 ≤ s.now → again (.unregisteredWaitPoll gid l))))

end

/-! ## Window handlers and window engines (R328..R349) -/

namespace Sys2Proof.Claims

open Machine

/-- The activation of a lane, with the installed spec that it runs under. -/
def RunsUnder (s : State) (g : Group) (l : Nat) (a : Activation) (x : Spec) : Prop :=
  (threadOf g l).act = some a ∧ specOf s (launchOf s g.launch).part a.spec = some x

/-- Two registers as raw bits, a void one as 0 (R345). -/
def rawPairBits (v : View) (r : Reg) : DWord :=
  BitVec.ofNat 64 ((rawReg (readReg v r)).bits.toNat + (rawReg (readReg v (regPlus r 1))).bits.toNat * 2 ^ 32)

/-- A window instruction that only changes the activations of its active threads: they and the rest of the gang go on. -/
def ChangesActs (c : Ctx) (p : Pred) (f : Nat → Activation → Activation) (void : Nat → Flags) (closes : Bool) (s t : State) :
    Prop :=
  t.mem = s.mem ∧ t.slices = s.slices ∧ t.parts = s.parts ∧ (∀ gid, gid ≠ c.gid → groupOf t gid = groupOf s gid) ∧
    (groupOf t c.gid).uni = (groupOf s c.gid).uni ∧
    ∀ l th, mfind (groupOf s c.gid).threads l = some th → ∃ th', mfind (groupOf t c.gid).threads l = some th' ∧
      (l ∉ c.gang → th' = th) ∧ (l ∈ c.gang → th'.pc = th.pc + 8#64 ∧ th'.run = th.run) ∧
      (l ∈ c.gang → l ∉ activeLanes c p → th'.rf = th.rf ∧ th'.act = th.act) ∧
      (l ∈ activeLanes c p → th'.rf = raised (void l) th.rf ∧ th'.act = th.act.map (f l) ∧ (closes = true → th'.region = none))

/-- The instructions that are legal only in an activation (R345), with the registers that they name. -/
def windowRows : List (Instr × Pred × List RegUse) → Prop
  | [(i, p, us)] =>
    (i = .wend p ∧ us = []) ∨ (i = .wclose p ∧ us = []) ∨
    (∃ o : OpWemit, i = .wemit o ∧ p = o.pred ∧ us = useReg o.key 2 ++ useReg o.time 2 ++ useV o.first.val 12) ∨
    (∃ o : OpWfwd, i = .wfwd o ∧ p = o.pred ∧ us = (if o.keep then [] else useReg o.a 2)) ∨
    (∃ o : OpPane, (i = .wpnld o ∨ i = .wpnst o) ∧ p = o.pred ∧ us = useReg o.a ++ useSrc o.b)
  | _ => False

/-- A pane that a close activation may name (R348). -/
structure PaneReady (s : State) (c : Ctx) (o : OpPane) (l : Nat) (a : Activation) (x : Spec) : Prop where
  act : RunsUnder s c.g l a x
  index : Counts (viewOf c s (activeLanes c o.pred) l) o.b
  kind : a.kind = .close
  pane : spPane x.rcd = true
  inside : srcBits (viewOf c s (activeLanes c o.pred) l) .n32 o.b < spSize x.rcd / spSlide x.rcd
  declared : regNum o.a + spL x.rcd ≤ declaredV s c.g

/-- The committed words of a pane: zeros, void, where it has received no record (R348). -/
def paneState (s : State) (a : Activation) (x : Spec) (j i : Nat) : Val :=
  match (sliceOf s a.slice).windows.find? (fun w => w.2.spec == a.spec && w.2.key == a.key && w.2.isPane &&
      w.2.start == a.winStart.toInt + (j * spSlide x.rcd : Nat)) with
  | some w => (w.2.words[i]?).getD {}
  | none => {}

end Sys2Proof.Claims

section
open Sys2Proof Machine Claims

/-- R345, R347 and R348 for `WEMIT`, `WFWD`, `WCLOSE`, `WPNLD` and `WPNST`: what each buffers in its activation or writes;
and the illegal-operation fault outside an activation. R346 for `WEND` in one thread: its activation's state, records and
close flag are committed together, its key's next activation is queued where the slice has room, its private memory is
discarded, and the thread ends. -/
def Obligations.WindowHandlersAndCommits : Prop :=
  ((∀ (i : Instr) (p : Pred) (us : List RegUse) (s : State) (c : Ctx), windowRows [(i, p, us)] → Issues i us s c →
    c.g.activation = false → activeLanes c p ≠ [] → exec i s = .next (trapLanes c s cIllegalOp (activeLanes c p))) ∧
  (∀ (o : OpWemit) (s : State) (c : Ctx) (a : Nat → Activation) (x : Nat → Spec), c.g.activation = true →
    Issues (.wemit o) (useReg o.key 2 ++ useReg o.time 2 ++ useV o.first.val 12) s c →
    (∀ l ∈ activeLanes c o.pred, RunsUnder s c.g l (a l) (x l) ∧ spOut (x l).rcd = true ∧ (a l).emits.length < 16) →
    ∃ t, exec (.wemit o) s = .next t ∧ ChangesActs c o.pred (fun l a =>
      let v := viewOf c s (activeLanes c o.pred) l
      { a with emits := a.emits ++ [⟨spOutStream (x l).rcd, ⟨rawPairBits v o.key, rawPairBits v o.time,
          (List.range 12).map (fun i => (rawReg (mget {} v.rf.v (o.first.val + i))).bits)⟩⟩] }) (fun _ => 0#7) true s t) ∧
  (∀ (o : OpWfwd) (s : State) (c : Ctx) (a : Nat → Activation) (x : Nat → Spec) (r : Nat → Record) (st : Stream),
    c.g.activation = true → Issues (.wfwd o) (if o.keep then [] else useReg o.a 2) s c →
    streamOf s (launchOf s c.g.launch).part o.stream.val = some st → st.src = 3 →
    (∀ l ∈ activeLanes c o.pred, RunsUnder s c.g l (a l) (x l) ∧ (a l).kind ≠ .close ∧ (a l).rcd = some (r l) ∧
      (a l).emits.length < 16) →
    ∃ t, exec (.wfwd o) s = .next t ∧ ChangesActs c o.pred (fun l a =>
      { a with emits := a.emits ++ [⟨o.stream.val, if o.keep then r l else
          { r l with key := rawPairBits (viewOf c s (activeLanes c o.pred) l) o.a }⟩] }) (fun _ => 0#7) true s t) ∧
  (∀ (p : Pred) (s : State) (c : Ctx), c.g.activation = true → Issues (.wclose p) [] s c →
    ∃ t, exec (.wclose p) s = .next t ∧ ChangesActs c p (fun _ a =>
      { a with closeFlag := a.closeFlag || (a.kind != .close && a.kind != .late && !a.isPane) }) (fun _ => 0#7) false s t) ∧
  (∀ (o : OpPane) (s : State) (c : Ctx) (a : Nat → Activation) (x : Nat → Spec), c.g.activation = true →
    Issues (.wpnld o) (useReg o.a ++ useSrc o.b) s c →
    (∀ l ∈ activeLanes c o.pred, PaneReady s c o l (a l) (x l)) →
    ∃ t, exec (.wpnld o) s = .next t ∧ ThreadsDone c o.pred (fun v r => r.preds = [] ∧
      r.flags = voidFlags v [(.n32, o.b)] ∧ r.regs = (List.range (spL (x v.lane).rcd)).map (fun i =>
        (regNum o.a + i, paneState s (a v.lane) (x v.lane) (srcBits v .n32 o.b) i))) s t) ∧
  (∀ (o : OpPane) (s : State) (c : Ctx) (a : Nat → Activation) (x : Nat → Spec), c.g.activation = true → c.gang.Nodup →
    Issues (.wpnst o) (useReg o.a ++ useSrc o.b) s c →
    (∀ l ∈ activeLanes c o.pred, PaneReady s c o l (a l) (x l)) →
    let v (l : Nat) : View := viewOf c s (activeLanes c o.pred) l
    ∃ t, exec (.wpnst o) s = .next t ∧ ChangesActs c o.pred (fun l a =>
      let words := (List.range (spL (x l).rcd)).map (fun i => mget {} (v l).rf.v (regNum o.a + i))
      { a with panes := mput a.panes (srcBits (v l) .n32 o.b) words })
      (fun l => voidFlags (v l) [(.n32, o.b)]) false s t)) ∧
  (∀ (p : Pred) (s : State) (c : Ctx) (l : Nat) (a : Activation) (x : Spec), c.g.activation = true → Issues (.wend p) [] s c →
    activeLanes c p = [l] → RunsUnder s c.g l a x → c.g.sweepMark = none → quiet s c.gid c.g [l] = true →
    let words := (List.range (spL x.rcd)).map (fun i => mget {} (threadOf c.g l).rf.v i)
    let part := (launchOf s c.g.launch).part
    let ws (t : State) : Map Window := (sliceOf t a.slice).windows
    let q := keyQueue s a.slice a.spec a.key
    ∃ t, exec (.wend p) s = .next t ∧
      (∀ pa, (∀ w ∈ privateWords s c.g l, pa < w ∨ w + 4 ≤ pa) → readMem t pa = readMem s pa) ∧ (groupOf t c.gid).uni = (groupOf s c.gid).uni ∧
      (∀ n th, mfind (groupOf s c.gid).threads n = some th → ∃ th', mfind (groupOf t c.gid).threads n = some th' ∧
        th'.rf = th.rf ∧ (n = l → th'.run = .ended) ∧ (n ≠ l → th' = if n ∈ c.gang then goesOn th else th)) ∧
      (a.kind = .record ∨ a.kind = .openA → ∀ w, mfind (ws s) a.win = some w →
        mfind (ws t) a.win = some { w with words := words, closing := w.closing || a.closeFlag }) ∧
      (a.kind = .late → a.closeFlag = false → ∀ n, mfind (ws t) n = mfind (ws s) n) ∧
      (a.kind = .merge → a.other ≠ a.win → mfind (ws t) a.other = none ∧ ∀ w, mfind (ws s) a.win = some w →
        ∃ w', mfind (ws t) a.win = some w' ∧ w'.words = words ∧ w'.start = a.winStart.toInt ∧ w'.stop = a.winEnd.toInt ∧
          w'.records = w.records + ((mfind (ws s) a.other).map Window.records).getD 0) ∧
      (a.kind = .close → mfind (ws t) a.win = none) ∧
      (∀ n st, streamOf s part n = some st → st.src = 3 → streamOf t part n =
        some { st with pending := st.pending ++ (a.emits.filter (fun e => e.stream == n)).map Emit.rcd }) ∧
      (keyQueue t a.slice a.spec a.key).events = (if a.closeFlag then [.close a.stream a.win none] else []) ++ q.events ∧
      (q.todo = [] → (keyQueue t a.slice a.spec a.key).running = 0) ∧
      ∀ b rest, q.todo = b :: rest → specFull s a.slice a.spec = false → (keyQueue t a.slice a.spec a.key).running = 1 ∧
        (keyQueue t a.slice a.spec a.key).todo = rest ∧ (sliceOf t a.slice).actq = (sliceOf s a.slice).actq ++ [b])

end

namespace Sys2Proof.Claims

open Machine

/-- A delivery that may have its turn at its slice (R336). -/
structure Delivers_ (s : State) (slice n : Nat) (k : DWord) (part : Nat) (x : Spec) (stream : Nat) (r : Record) (w : Int)
    (rest : List KeyEvent) : Prop where
  home : slicePart s slice = some part
  turn : keyIdle (keyQueue s slice n k) = true
  head : (keyQueue s slice n k).events = .deliver stream r w :: rest
  spec : specOf s part n = some x
  room : actFull s part slice x.tenant = false

/-- An activation queued for a window, with the record that it is for. -/
def QueuedFor (t : State) (slice n : Nat) (k : DWord) (kind : ActKind) (win : Nat) (r : Record) : Prop :=
  (keyQueue t slice n k).running = 1 ∧ ∃ a, (sliceOf t slice).actq.getLast? = some a ∧ a.spec = n ∧ a.key = k ∧ a.kind = kind ∧
    a.win = win ∧ a.rcd = some r

end Sys2Proof.Claims

section
open Sys2Proof Machine Claims

/-- R336..R338, R342 and R343 for a record of a tumbling spec at its turn: delivered to the live window of its time, to one
that it opens, or, where the watermark has passed that, to the late handler. R332, R333 and R341 for the ingest of a record,
a risen watermark and the closes of windows: SEQ, MAXT and WMARK after a record; the slice's copy after an update; and a
window that a watermark has passed closes by its handler or dies. R44, R47, R340 and R351: queued activations of one handler
start together as a group of a core with room, of the home cluster where it has one, each in a thread at its handler with its window's state in v0..v(L-1) and, for a
record, its payload behind. -/
def Obligations.WindowEngine : Prop :=
  (∀ (s : State) (slice n : Nat) (k : DWord) (part : Nat) (x : Spec) (stream : Nat) (r : Record) (w : Int)
    (rest : List KeyEvent), Delivers_ s slice n k part x stream r w rest → spKind x.rcd = 0 → spPane x.rcd = false →
    0 < spSize x.rcd →
    let size : Int := spSize x.rcd
    let start := r.time.toInt - r.time.toInt % size
    let ws := (sliceOf s slice).windows
    let late := start + size + spLateness x.rcd ≤ w
    let there := ws.find? (fun e => e.2.spec == n && e.2.key == k && e.2.isPane == false && e.2.start == start)
    (late → spLate x.rcd ≠ 0#64 → ∃ t, exec (.recordDelivery slice n k) s = .next t ∧ t.mem = s.mem ∧
      (keyQueue t slice n k).events = rest ∧ (sliceOf t slice).windows = ws ∧ QueuedFor t slice n k .late 0 r) ∧
    (late → spLate x.rcd = 0#64 → spFault x.rcd = 0 → spStop x.rcd = false → ∃ t, exec (.recordDelivery slice n k) s = .next t ∧
      t.mem = s.mem ∧ (keyQueue t slice n k).events = rest ∧ (sliceOf t slice).windows = ws ∧
      (sliceOf t slice).actq = (sliceOf s slice).actq) ∧
    (¬ late → ∀ id y, there = some (id, y) → mfind ws id = some y → ∃ t, exec (.recordDelivery slice n k) s = .next t ∧
      t.mem = s.mem ∧ (keyQueue t slice n k).events = rest ∧
      mfind (sliceOf t slice).windows id = some { y with records := y.records + 1 } ∧ QueuedFor t slice n k .record id r) ∧
    (¬ late → there = none → mfind ws (slice * 2 ^ 60 + (sliceOf s slice).wcount) = none →
      (spCapacity x.rcd = 0 ∨ specWindows s part n < spCapacity x.rcd) →
      (ws.filter (fun e => e.2.cls == storeClass (spL x.rcd))).length < ((sliceOf s slice).wclasses[storeClass (spL x.rcd)]?).getD 0 →
      ∃ t, exec (.recordDelivery slice n k) s = .next t ∧ t.mem = s.mem ∧ (keyQueue t slice n k).events = rest ∧
        (∃ y, mfind (sliceOf t slice).windows (slice * 2 ^ 60 + (sliceOf s slice).wcount) = some y ∧ y.spec = n ∧ y.key = k ∧
          y.start = start ∧ y.stop = start + size ∧ y.records = 1 ∧ y.isPane = false) ∧
        QueuedFor t slice n k (if spOpen x.rcd = 0#64 then .record else .openA) (slice * 2 ^ 60 + (sliceOf s slice).wcount) r)) ∧
  ((∀ (s : State) (part n : Nat) (st : Stream) (r : Record) (rest : List Record), streamOf s part n = some st → st.src ≠ 2 →
    st.stopped = false → (partOf s part).state = .running → st.pending = r :: rest →
    (∀ i ∈ st.specs, ∀ x, specOf s part i = some x → actFull s part (ingestSlice s part n st) x.tenant = false) →
    let mark := r.key = 0xFFFFFFFFFFFFFFFF#64
    ∃ t st', exec (.recordIngest part n) s = .next t ∧ streamOf t part n = some st' ∧ st'.pending = rest ∧
      st'.seq = (st.seq + 1) % 2 ^ 64 ∧ st'.maxt = (if mark then st.maxt else max st.maxt r.time.toInt) ∧
      st'.wmark = max st.wmark (if mark then r.time.toInt else if st.wmx then st.wmark else st'.maxt - st.maxooo) ∧
      st'.stopped = false ∧ st'.src = st.src) ∧
  (∀ (s : State) (slice part n : Nat) (w : Int) (rest : List SliceMsg), slicePart s slice = some part →
    (sliceOf s slice).inbox = .mark n w :: rest → ∃ t, exec (.watermarkUpdate slice n) s = .next t ∧ t.mem = s.mem ∧
      mfind (sliceOf t slice).wms n = some w ∧ (∀ m, m ≠ n → mfind (sliceOf t slice).wms m = mfind (sliceOf s slice).wms m) ∧
      (sliceOf t slice).windows = (sliceOf s slice).windows) ∧
  (∀ (s : State) (slice part n stream : Nat) (k : DWord) (x : Spec) (w : Int) (rest : List KeyEvent),
    slicePart s slice = some part → specOf s part n = some x → keyIdle (keyQueue s slice n k) = true →
    (keyQueue s slice n k).events = .mark stream w :: rest → ((sliceOf s slice).windows.map Prod.fst).Nodup →
    ∃ t closes, exec (.closeEvent slice n k) s = .next t ∧
      t.mem = s.mem ∧ (keyQueue t slice n k).events = closes ++ rest ∧ (sliceOf t slice).windows = (sliceOf s slice).windows ∧
      ∀ e, e ∈ closes ↔ ∃ id y, e = .close stream id (some w) ∧ (id, y) ∈ (sliceOf s slice).windows ∧ y.spec = n ∧ y.key = k ∧
        y.isPane = false ∧ y.closing = false ∧ (spKind x.rcd ≤ 1 ∨ spKind x.rcd = 4) ∧ y.stop + spLateness x.rcd ≤ w) ∧
  (∀ (s : State) (slice part n stream id : Nat) (k : DWord) (x : Spec) (m : Option Int) (y : Window) (rest : List KeyEvent),
    slicePart s slice = some part → specOf s part n = some x → keyIdle (keyQueue s slice n k) = true →
    (keyQueue s slice n k).events = .close stream id m :: rest → mfind (sliceOf s slice).windows id = some y →
    (∀ w, m = some w → y.stop + spLateness x.rcd ≤ w) →
    ∃ t, exec (.closeEvent slice n k) s = .next t ∧ t.mem = s.mem ∧ (keyQueue t slice n k).events = rest ∧
      (spClose x.rcd = 0#64 → mfind (sliceOf t slice).windows id = none) ∧
      (spClose x.rcd ≠ 0#64 → actFull s part slice x.tenant = false → mfind (sliceOf t slice).windows id = some y ∧ (keyQueue t slice n k).running = 1 ∧
        ∃ a, (sliceOf t slice).actq.getLast? = some a ∧ a.kind = .close ∧ a.win = id ∧ a.key = k ∧ a.spec = n))) ∧
  (∀ (s : State) (slice core part : Nat) (a : Activation) (x : Spec), slicePart s slice = some part →
    (sliceOf s slice).actq.find? (fun b => (specOf s part b.spec).any (fun y => tenantRuns (partOf s part) y.tenant)) = some a →
    specOf s part a.spec = some x → (partOf s part).state = .running → promiseDue s part = false →
    (partOf s part).slices.getLsbD (coreSlice core) = true → freeActIdx s x.launch < 24576 →
    (launchOf s x.launch).final = false → unitRoom s [core] [actNeed (launchOf s x.launch).rcd] = true →
    coreSlice core = slice ∨ (∀ k ∈ sliceCores s slice, unitRoom s [k] [actNeed (launchOf s x.launch).rcd] = false) →
    let l := launchOf s x.launch
    let pack := ((sliceOf s slice).actq.filter (fun b => b.spec == a.spec && b.kind == a.kind)).take (if lrProt l.rcd then 64 else 128)
    ∃ t gid g, exec (.activationStart slice core) s = .next t ∧ t.mem = s.mem ∧ mfind t.groups gid = some g ∧
      g.activation = true ∧ g.core = core ∧ g.launch = x.launch ∧ g.actIdx = some (freeActIdx s x.launch) ∧
      g.threads.length = pack.length ∧ (∀ k, k < 1024 → mget {} g.uni.k k = (match l.kpre[k]? with
        | some w => ⟨w, .b32⟩
        | none => {})) ∧
      (∃ more : List Activation, (sliceOf t slice).actq.length = (sliceOf s slice).actq.length - pack.length + more.length ∧
        ((∀ q ∈ (sliceOf s slice).keyqs, q.todo = [] ∨ q.running ≠ 0) → more = [])) ∧
      ∀ (n : Nat) (b : Activation), pack[n]? = some b → ∃ th a', mfind g.threads n = some th ∧ th.run = .ready ∧
        th.act = some a' ∧ a'.win = b.win ∧ a'.rcd = b.rcd ∧ a'.key = b.key ∧
        th.pc = (match b.kind with
          | .openA => spOpen x.rcd
          | .record => spRecord x.rcd
          | .merge => spMerge x.rcd
          | .close => spClose x.rcd
          | .late => spLate x.rcd) ∧
        (b.kind = .record → ∀ y, mfind (sliceOf s b.slice).windows b.win = some y → ∀ i, i < spL x.rcd →
          mget {} th.rf.v i = (y.words[i]?).getD {}) ∧
        (b.kind = .record → ∀ r, b.rcd = some r → r.payload.length = 12 → ∀ i, i < spF x.rcd → i < 12 →
          mget {} th.rf.v (spL x.rcd + i) = ⟨(r.payload[i]?).getD 0#32, .b32⟩))

end

/-! ## Groups, memory and recovery (R31..R50, R251, R382, R394..R398, R403, R410, R422) -/

namespace Sys2Proof.Claims

open Machine

/-- A run of bytes in memory of a partition's slices (R415). -/
def Homed (s : State) (part addr size : Nat) : Prop :=
  0 < size ∧ ∀ k, k < size → (partOf s part).slices.getLsbD (Config.home ((addr + k) / 64) % 16) = true

/-- Every group but one is as before. -/
def OtherGroups (gid : Nat) (s t : State) : Prop := ∀ k, k ≠ gid → groupOf t k = groupOf s k

/-- A group that parked at its frame, ready to try its trap entry again. -/
def unparked (s : State) (gid : Nat) : State :=
  completeOlder (modGroup (modSlice s (launchOf s (groupOf s gid).launch).slice (dropFaultGroup gid)) gid
    (fun g => { g with park := .none, fault := none })) gid

/-- A thread rolled back to the entry of its region (R396): its first LIVE registers, its p and ix registers and its flags
are those of the checkpoint. -/
def RolledBack (r : Region) (th th' : Thread) : Prop :=
  th'.pc = r.hdr ∧ th'.run = .ready ∧ th'.region = none ∧ th'.rf.p = r.rf.p ∧ th'.rf.fp = r.rf.fp ∧ th'.rf.ix0 = r.rf.ix0 ∧
    th'.rf.ix1 = r.rf.ix1 ∧ th'.rf.ix2 = r.rf.ix2 ∧ th'.rf.ix3 = r.rf.ix3 ∧
    ∀ n, mget {} th'.rf.v n = if n < r.live then mget {} r.rf.v n else mget {} th.rf.v n

/-- The ladder's cause (R379, R395). -/
def errorCode (sub : Nat) (mismatch : Bool) : Nat := if mismatch then 0x13 * 2 ^ 24 else 0x12 * 2 ^ 24 + sub * 2 ^ 16

/-- A bound that a launch has ended under (R43, R315). -/
def EndedAs (t : State) (lid : Nat) (st : LStatus) (detail : Nat) : Prop :=
  (launchOf t lid).final = true ∧ (launchOf t lid).status = st ∧ (launchOf t lid).detail = detail ∧
    ∀ b ∈ t.blocks, b.2.launch ≠ lid

end Sys2Proof.Claims

section
open Sys2Proof Machine Claims

/-- R251, R395, R403 and R422 for what the memory system does by itself: an acknowledgement, a promotion, an access of the
host, and an error in data that nobody consumes. -/
def Obligations.MemoryEvents : Prop :=
  (∀ s core n, (coreOf s core).stPend = n + 1 → (coreOf s core).stopped = false → ∃ t,
    exec (.storeAcknowledgement core) s = .next t ∧ coreOf t core = { coreOf s core with stPend := n } ∧ t.mem = s.mem ∧
      t.groups = s.groups ∧ ∀ k, k ≠ core → coreOf t k = coreOf s k) ∧
  (∀ s line core, mfind s.owner line = some core → (coreOf s core).stopped = false → ((coreOf s core).held.map Prod.fst).Nodup →
    ∃ t, exec (.promotionRequest line) s = .next t ∧ t.groups = s.groups ∧ (coreOf t core).held = [] ∧
      (∀ pa, readMem t pa = (mfind (coreOf s core).held pa).getD (readMem s pa)) ∧ (∀ o ∈ t.owner, o.2 ≠ core) ∧
      ∀ k, k ≠ core → coreOf t k = coreOf s k) ∧
  (∀ s part addr size, (partOf s part).state ≠ .free → Homed s part addr size → s.owner = [] → ∃ t,
    exec (.hostCxlAccess part (.read addr size)) s = .next t ∧ t.mem = s.mem ∧ t.groups = s.groups ∧
      t.outbox = s.outbox ++ [.hostData addr (readN (readMem s) addr size)]) ∧
  (∀ s part addr size data, (partOf s part).state ≠ .free → Homed s part addr size → ∃ t, exec (.hostCxlAccess part (.write addr size data)) s = .next t ∧
    t.groups = s.groups ∧ (∀ k, k < size → readMem t (addr + k) = BitVec.ofNat 8 (data / 256 ^ k)) ∧
    ∀ pa, (pa < addr ∨ addr + size ≤ pa) → readMem t pa = readMem s pa) ∧
  (∀ s line, ∃ t, exec (.errorInUnconsumedData line) s = .next t ∧ t.mem = s.mem ∧ t.groups = s.groups ∧ line ∈ t.poison ∧
    (∀ n ∈ s.poison, n ∈ t.poison) ∧ (∀ n ∈ t.poison, n = line ∨ n ∈ s.poison) ∧
    let slice := Config.home line % 16
    (sliceOf s slice).errs.length < 256 → (sliceOf t slice).errs = (sliceOf s slice).errs ++ [⟨.uncorrectable, line, 0, 0⟩])

/-- R395..R398 and R290: the recovery ladder for an error that threads of a group consume: rolled back where each of them is in
an open region, relaunched where their block has passed no visibility point and has been relaunched less than three times
(an activation is queued again whatever its block has passed, R45), and failed otherwise; a mismatch of the sweep engine
rolls nothing back. -/
def Obligations.RecoveryLadder : Prop :=
  ∀ (s : State) (gid : Nat) (g : Group) (lanes : BitVec 128) (sub : Nat) (mismatch : Bool), mfind s.groups gid = some g →
    g.where_ = .resident → sub ≤ 3 → (mismatch = true → isProt s g = true) → Listed g.threads 128 →
    let engine := mismatch = true ∧ sub = 1
    (engine → ∃ w ∈ (coreOf s g.core).sweeps, w.cap.group = gid ∧ w.started = true) →
    let hit (l : Nat) (th : Thread) : Prop := mfind g.threads l = some th ∧ lanes.getLsbD l = true ∧ th.run ≠ .ended
    let b := blockOf s g.block
    let i : Instr := .uncorrectableError gid lanes sub mismatch
    (∃ l th, hit l th) →
    (¬ engine → (∀ l th, hit l th → th.region.isSome = true) → ∃ t, exec i s = .next t ∧ t.mem = s.mem ∧ OtherGroups gid s t ∧
      (groupOf t gid).uni = g.uni ∧ ∀ l th, mfind g.threads l = some th → ∃ th', mfind (groupOf t gid).threads l = some th' ∧
        (∀ r, th.region = some r → th.run ≠ .ended → RolledBack r th th') ∧ (th.region = none ∨ th.run = .ended → th' = th)) ∧
    (engine ∨ (∃ l th, hit l th ∧ th.region = none) →
      (b.isAct = true → b.relaunches < 3 → ∃ t, exec i s = .next t ∧ mfind t.blocks g.block = none ∧
        (∀ e ∈ t.groups, e.2.block ≠ g.block) ∧
        ∀ l th a, mfind g.threads l = some th → th.run ≠ .ended → th.act = some a →
          { a with emits := [], panes := [], closeFlag := false, begun := false } ∈ (sliceOf t a.slice).actq) ∧
      (b.seen = false → b.relaunches < 3 → b.isAct = false → (mfind s.launches b.launch).isSome = true → ∃ t,
        exec i s = .next t ∧ t.mem = s.mem ∧ mfind t.blocks g.block = none ∧ (∀ e ∈ t.groups, e.2.block ≠ g.block) ∧
        (launchOf t b.launch).relaunch = (launchOf s b.launch).relaunch ++ [(b.idx, b.relaunches + 1, g.core / 16)]) ∧
      ((b.seen = true ∧ b.isAct = false) ∨ 3 ≤ b.relaunches → (mfind s.launches g.launch).isSome = true → (launchOf s g.launch).final = false → ∃ t,
        exec i s = .next t ∧ EndedAs t g.launch .failed (errorCode sub mismatch)))

/-- R38, R48, R77 and R382: a demotion ends, a starvation count reaches 256, a group parked at its frame enters its handler
once the frame can be written, and an unassigned opcode traps its gang. R27 and R410: a waiting group whose accesses are
done is swapped out with its registers (of a thread at a header, those from LIVE on may be dropped, R56), and resumes on a
core of its block that has room, where its waiting threads try their instruction again. -/
def Obligations.GroupEventsAndSwaps : Prop :=
  ((∀ s gid g pc, mfind s.groups gid = some g → (g.threads.map Prod.fst).Nodup →
    (∃ e ∈ g.threads, e.2.pc = pc ∧ e.2.demote = 1) → ∃ t, exec (.demotionEnd gid pc) s = .next t ∧ t.mem = s.mem ∧
      OtherGroups gid s t ∧ (groupOf t gid).uni = g.uni ∧ ∀ l th, mfind g.threads l = some th → mfind (groupOf t gid).threads l =
        some (if th.pc = pc ∧ th.demote = 1 then { th with demote := 0, spin := none } else th)) ∧
  (∀ s gid g, mfind s.groups gid = some g →
    (g.starve = 255 → ranked s g = true → ∃ t, exec (.groupStarved gid) s = .next t ∧ t.mem = s.mem ∧ OtherGroups gid s t ∧
      groupOf t gid = { g with starve := 256 }) ∧
    (g.starve ≠ 255 ∨ ranked s g = false → exec (.groupStarved gid) s = .refused .notEnabled)) ∧
  (∀ s gid g f, mfind s.groups gid = some g → g.park = .frame → g.fault = some f → g.where_ = .resident →
    (coreOf s g.core).stopped = false → (writeFrame s gid f).isSome = true → s.poison = [] →
    let z := unparked s gid
    let l := launchOf s g.launch
    l.trapbase ≠ 0#64 → g.trapframe = 0#64 → ∀ u, writeFrame z gid f = some u → handlerOk u (groupOf u gid) = true →
    ∃ t, exec (.trapEntry gid) s = .next t ∧ t.mem = u.mem ∧ OtherGroups gid s t ∧
      AtHandler l.trapbase (groupOf z gid) (groupOf t gid) ∧ (groupOf t gid).park = .none ∧
      (groupOf t gid).trapframe = BitVec.ofNat 64 (frameBase s g) ∧ (groupOf t gid).trapcause = BitVec.ofNat 32 (causeCode f)) ∧
  (∀ s c w, ctxOf s = some c → exec (.unassignedOpcode w) s = .next (trapLanes c s cIllegal c.gang))) ∧
  ((∀ s gid g, mfind s.groups gid = some g → g.where_ = .resident → (coreOf s g.core).stopped = false → liveLanes g ≠ [] →
    allWait g = true → g.nopre = none → accessesDone s gid g = true →
    bytesUsed (sliceOf s (g.core / 16)).portable + (448 * 512 + 32) ≤ 8 * 2 ^ 20 → (blockOf s g.block).cores.length ≤ 1 →
    (∀ e ∈ g.threads, e.2.run ≠ .ended → ∀ a, e.2.act = some a → a.begun = true) →
    let atHeader (th : Thread) (n : Nat) : Prop := inBlock th = false ∧ ∃ w,
      unitFetch s (launchOf s g.launch).part (launchOf s g.launch).asid (launchOf s g.launch).level th.pc = some w ∧
      bitsOf w 63 56 = 0xFF ∧ hdrLive w ≤ n
    ∃ t, exec (.groupSwapOut gid) s = .next t ∧ t.mem = s.mem ∧ OtherGroups gid s t ∧
      groupOf t gid = { g with where_ := .swappedOut, threads := (groupOf t gid).threads } ∧
      ∀ l th, mfind g.threads l = some th → ∃ th', mfind (groupOf t gid).threads l = some th' ∧
        th' = { th with rf := { th.rf with v := th'.rf.v }, shadow := th'.shadow } ∧
        ∀ n, mget {} th'.rf.v n = mget {} th.rf.v n ∨ (mget {} th'.rf.v n = {} ∧ atHeader th n)) ∧
  (∀ s gid g core sub, mfind s.groups gid = some g → g.where_ = .swappedOut → (blockOf s g.block).cores.contains core = true →
    (blockOf s g.block).where_ = .resident → (coreOf s core).stopped = false → sub < 12 → subGroups s core sub < 8 →
    ((coreUse s core).plus (groupNeed (launchOf s g.launch).rcd g.idx)).fits coreStorage = true →
    ∃ t, exec (.groupResume gid core sub) s = .next t ∧ t.mem = s.mem ∧ OtherGroups gid s t ∧
      (groupOf t gid).where_ = .resident ∧ (groupOf t gid).core = core ∧ (groupOf t gid).sub = sub ∧
      (groupOf t gid).uni = g.uni ∧ (groupOf t gid).park = g.park ∧
      ∀ l th, mfind g.threads l = some th → ∃ th', mfind (groupOf t gid).threads l = some th' ∧ th'.rf = th.rf ∧ th'.pc = th.pc ∧
        (th.run = .blocked .retry → th'.run = .ready) ∧ (th.run = .ready ∨ th.run = .ended ∨ th.run = .held → th'.run = th.run)))

end

/-! ## Launches (R22..R50, R313..R318, R398) -/

namespace Sys2Proof.Claims

open Machine

/-- A fresh group of a block (R47): every thread at ENTRY with no register written, and the preloaded k registers. -/
def FreshGroup (l : Launch) (lid bid core : Nat) (g : Group) : Prop :=
  g.block = bid ∧ g.launch = lid ∧ g.core = core ∧ g.where_ = .resident ∧ g.park = .none ∧ g.afnext = 0 ∧ g.afmode = 0 ∧
    g.progress = 0 ∧ g.trapframe = 0#64 ∧ g.trapcause = 0#32 ∧ g.uni.q = 0#7 ∧
    (∀ n, n < l.kpre.length → mget {} g.uni.k n = ⟨(l.kpre[n]?).getD 0#32, .b32⟩) ∧
    (∀ n, l.kpre.length ≤ n → mget {} g.uni.k n = {}) ∧
    ∀ n, mfind g.threads n = (if n < (if lrProt l.rcd then 64 else 128) then
      some { pc := lrEntry l.rcd, run := .ready, shadow := if lrProt l.rcd then some {} else none } else none)

/-- What the distributor keeps of a record that it has taken (R314). -/
def TakenFrom (s : State) (src : Source) (r : BitVec 1024) (l : Launch) : Prop :=
  l.rcd = r ∧ l.number = (partOf s src.part).nextLaunch ∧ l.part = src.part ∧ l.tenant = src.tenant ∧ l.level = src.level ∧
    l.asid = src.asid ∧ l.budget = src.budget ∧ l.slice = src.slice ∧ l.queue = src.queue ∧ l.prio = min (lrPrio r) src.prioMax ∧
    l.trapbase = BitVec.ofNat 64 (lrTrapbase r) ∧ l.symS = lrAfspace r ∧ l.nextBlock = 0 ∧ l.retired = 0

/-- A record taken: accepted and running, or refused with its code (R314, R315). -/
def RecordTaken (s t : State) (src : Source) (r : BitVec 1024) : Prop :=
  (∃ l, mfind t.launches s.nextId = some l ∧ TakenFrom s src r l ∧
    (refusalOf s src.part src.asid src.level r = none → l.status = .running ∧ l.final = false) ∧
    (∀ st d, refusalOf s src.part src.asid src.level r = some (st, d) → l.status = st ∧ l.detail = d ∧ l.final = true)) ∧
    (partOf t src.part).nextLaunch = ((partOf s src.part).nextLaunch + 1) % 2 ^ 32

end Sys2Proof.Claims

section
open Sys2Proof Machine Claims

/-- R314 and R315: which code refuses a record: the version first, then its fields, its entry, its map and its size. R26,
R30, R41..R43, R47, R50, R314, R315 and R318 for the distributor: a record taken from a group's pending launches or from a
queue; a block placed whole with fresh groups where no queued activation can start; a saved block restored; a group, a block and a launch that retire; and
launches that time out or are killed. -/
def Obligations.LaunchRecordsAndDistributor : Prop :=
  (∀ (s : State) (part asid level : Nat) (r : BitVec 1024),
    let code := (refusalOf s part asid level r).map Prod.fst
    let groups := bitsOf r 47 40
    (bitsOf r 15 0 ≠ 0x0100 → code = some .badVersion) ∧
    (bitsOf r 15 0 = 0x0100 →
      (groups = 0 ∨ 128 < groups ∨ 16 < bitsOf r 868 864 ∨ 1024 < bitsOf r 330 320 ∨ 8 < bitsOf r 340 337 ∨ 4096 < bitsOf r 365 353 ∨
        (bitsOf r 16 16 = 1 ∧ bitsOf r 17 17 = 1) ∨ (bitsOf r 17 17 = 1 ∧ groups % 2 = 1) ∨ bitsOf r 575 512 % 65536 ≠ 0 ∨
        bitsOf r 447 384 % 64 ≠ 0 ∨ bitsOf r 831 768 % 8 ≠ 0 ∨ bitsOf r 703 640 % 8 ≠ 0 ∨
        (bitsOf r 639 576 ≠ 0 ∧ bitsOf r 365 353 * 16 < 1792) ∨ bitsOf r 31 21 ≠ 0 →
        code = some .badField) ∧
      (fieldsOk r = true → bitsOf r 868 864 = 0 →
        (∀ w, unitFetch s part asid level (BitVec.ofNat 64 (bitsOf r 127 64)) = some w →
          (bitsOf w 63 56 ≠ 0xFF ∨ w.getLsbD 38 = true → code = some .badEntry)) ∧
        (unitFetch s part asid level (BitVec.ofNat 64 (bitsOf r 127 64)) = none → code = some .badEntry) ∧
        (badEntry s part asid level r = false → bitsOf r 767 704 = 0 →
          code = if oversize r = true then some .oversize else none)))) ∧
  ((∀ s gid g a r rest, mfind s.groups gid = some g → g.pending = (a, r) :: rest →
    intake s (launchOf s g.launch).part < 256 → (∀ b ∈ s.blocks, b.2.launch ≠ s.nextId) → ∃ t,
      exec (.launchAccept (.group gid)) s = .next t ∧ RecordTaken s t (childSource s g a.toNat) r ∧
      (groupOf t gid).pending = rest ∧ (groupOf t gid).threads = g.threads) ∧
  (∀ s slice q part z x r, slicePart s slice = some part → slotFor s slice q = some z → z.launching = true → intake s part < 256 →
    headPacket s part slice q = .packet x → s.owner = [] →
    unitBytes s part (qdAsid (descOf s slice q)) (qdLevel (descOf s slice q)) (pkAddr x) 128 = some r → ∃ t,
      exec (.launchAccept (.queue slice q)) s = .next t ∧
      RecordTaken s t (queueSource s part slice q (pkAddr x)) (BitVec.ofNat 1024 r) ∧
      qdHead (descOf t slice q) = (qdHead (descOf s slice q) + 1) % 2 ^ 32) ∧
  (∀ s part lid l i n av u, (partOf s part).state = .running → promiseDue s part = false → activationDue s part = false → dispatchable s part = [(lid, l)] →
    nextReady l = some (i, n, av) → placeFor s l i av = some u → mfind s.launches lid = some l → ∃ t,
      exec (.blockPlacement part) s = .next t ∧ t.mem = s.mem ∧
      mfind t.blocks s.nextId = some { launch := lid, idx := i, cores := u, relaunches := n } ∧
      (l.relaunch = [] → (launchOf t lid).nextBlock = l.nextBlock + 1) ∧
      (∀ k, k < lrGroups l.rcd → ∃ g, mfind t.groups (s.nextId + 1 + k) = some g ∧ g.idx = k ∧
        FreshGroup l lid s.nextId ((u[k % u.length]?).getD 0) g) ∧
      ∀ gid, gid < s.nextId → groupOf t gid = groupOf s gid) ∧
  (∀ s block u, promised s block = true → (blockOf s block).where_ = .saved →
    placeFor s (launchOf s (blockOf s block).launch) (blockOf s block).idx none = some u → ∃ t,
      exec (.dispatchPromiseRestore block) s = .next t ∧ t.mem = s.mem ∧ (blockOf t block).where_ = .resident ∧
      (blockOf t block).cores = u ∧ (blockOf t block).scratch = (blockOf s block).scratch ∧
      (blockOf t block).tiles = (blockOf s block).tiles ∧
      ∀ gid g, mfind s.groups gid = some g → g.block = block → ∃ g', mfind t.groups gid = some g' ∧ g'.where_ = .resident ∧
        g'.uni = g.uni ∧ g'.core = (u[g.idx % u.length]?).getD 0 ∧
        ∀ l th, mfind g.threads l = some th → ∃ th', mfind g'.threads l = some th' ∧ th'.rf = th.rf ∧ th'.pc = th.pc) ∧
  (∀ s gid g, mfind s.groups gid = some g → liveLanes g = [] → g.where_ = .resident →
    g.park = .none → g.pending = [] → groupBusy s gid g = false → ∃ t, exec (.groupRetire gid) s = .next t ∧
      mfind t.groups gid = none ∧
      ((∃ e ∈ s.groups, e.1 ≠ gid ∧ e.2.block = g.block) → t.mem = s.mem ∧ t.launches = s.launches ∧
        (blockOf t g.block).scratch = (blockOf s g.block).scratch ∧ (blockOf t g.block).cores = (blockOf s g.block).cores) ∧
      ((∀ e ∈ s.groups, e.1 ≠ gid → e.2.block ≠ g.block) → mfind t.blocks g.block = none ∧
        ∀ b l, mfind s.blocks g.block = some b → b.buffer = [] → b.isAct = false → mfind s.launches b.launch = some l →
          (launchOf t b.launch).retired = l.retired + 1 ∧
          (l.retired + 1 = bitsOf l.rcd 159 128 + 1 → ownsSpec s b.launch = false → l.final = false →
            (launchOf t b.launch).status = .done ∧ (launchOf t b.launch).final = true) ∧
          (l.retired + 1 ≠ bitsOf l.rcd 159 128 + 1 → t.mem = s.mem ∧ (launchOf t b.launch).status = l.status))) ∧
  (∀ s lid l, mfind s.launches lid = some l → l.final = false →
    (∃ t, exec (.launchKill lid) s = .next t ∧ EndedAs t lid .killed 0) ∧
    (bitsOf l.rcd 863 832 ≠ 0 → bitsOf l.rcd 863 832 * 850 ≤ s.now - l.accepted → l.status = .running → ∃ t,
      exec (.launchTimeout lid) s = .next t ∧ EndedAs t lid .timeout (lowestUnretired s lid))))

end

/-! ## Queues (R306..R312, R320, R321, R366, R367) -/

namespace Sys2Proof.Claims

open Machine

/-- A queue after the packet at its HEAD has completed (R310); the other queues of its slice are as before. -/
def PacketDone (s t : State) (slice q : Nat) : Prop :=
  qdHead (descOf t slice q) = (qdHead (descOf s slice q) + 1) % 2 ^ 32 ∧ qdTail (descOf t slice q) = qdTail (descOf s slice q) ∧
    ∀ n, n ≠ q → descOf t slice n = descOf s slice n

/-- A packet of a kind that the queue processor may take (R310, R311): the queue holds a slot, its previous packet has
completed, it is not stopped, and with DRAIN its launches have ended. -/
def AtHead (s : State) (slice q part : Nat) (z : QSlot) (kind : Nat) (x : BitVec 512) : Prop :=
  slicePart s slice = some part ∧ slotFor s slice q = some z ∧ z.launching = false ∧ z.waiting = none ∧
    q ∉ (sliceOf s slice).stopped ∧ headPacket s part slice q = .packet x ∧ bitsOf x 19 16 = kind ∧
    (bitsOf x 23 23 = 1 → ∀ l ∈ s.launches, l.2.queue = some (slice, q) → l.2.final = true)

/-- A queue that has stopped with a record (R310): HEAD stays. -/
def QueueStopped (s t : State) (slice q : Nat) (cause : ErrCause) : Prop :=
  q ∈ (sliceOf t slice).stopped ∧ descOf t slice q = descOf s slice q ∧ t.mem = s.mem ∧
    ((sliceOf s slice).errs.length < 256 →
      (sliceOf t slice).errs = (sliceOf s slice).errs ++ [⟨cause, q, qdHead (descOf s slice q), 0⟩])

/-- The condition of a wait packet (R312). -/
def SemaphoreReady (x : BitVec 512) (v : Nat) : Prop :=
  let value := bitsOf x 191 128
  let mask := bitsOf x 255 192
  match bitsOf x 22 20 with
  | 0 => v = value
  | 1 => v ≠ value
  | 2 => value ≤ v
  | 3 => value < v
  | 4 => Nat.land v mask ≠ 0
  | _ => Nat.land v mask = mask

/-- The value that a signal packet leaves (R312). -/
def signalled (x : BitVec 512) (v : Nat) : Nat :=
  match bitsOf x 22 20 with
  | 0 => bitsOf x 191 128
  | 1 => (v + bitsOf x 191 128) % 2 ^ 64
  | _ => Nat.lor v (bitsOf x 191 128)

/-- A wait read once (R312): the packet completes, or its queue waits on. -/
def WaitRead (s t : State) (slice q : Nat) (z : QSlot) (x : BitVec 512) (v since : Nat) : Prop :=
  t.mem = s.mem ∧ t.groups = s.groups ∧
    (SemaphoreReady x v → PacketDone s t slice q ∧ slotFor t slice q = some { z with waiting := none }) ∧
    (¬ SemaphoreReady x v → descOf t slice q = descOf s slice q ∧
      slotFor t slice q = some { z with waiting := some x, since := since, checked := s.now })

end Sys2Proof.Claims

section
open Sys2Proof Machine Claims

/-- R306, R308, R309, R321 and R367: what a notify does to a queue and its slot, and what a new period does to the entries
of a partition. R310..R312: a packet of each kind completes in the order of its ring, a wait waits until its condition
holds, and a malformed packet, an unreadable semaphore and a wait past its timeout stop the queue. -/
def Obligations.Queues : Prop :=
  ((∀ (s : State) (slice : Nat) (v : DWord),
    let q := v.toNat % 4096
    let i : Instr := .notify slice v
    let d := descOf s slice q
    let accepted := bitsOf d 15 0 = 0x0100 ∧ bitsOf d 511 216 = 0 ∧ bitsOf d 63 51 = 0 ∧ bitsOf d 39 29 = 0 ∧
      bitsOf d 23 19 = 0 ∧ bitsOf d 127 64 % 4096 = 0 ∧ 6 ≤ bitsOf d 28 24 ∧ bitsOf d 28 24 ≤ 16
    (slicePart s slice = none → exec i s = .next s) ∧
    (slicePart s slice ≠ none →
      (4096 ≤ v.toNat ∨ ¬ accepted → ∃ t, exec i s = .next t ∧ t.mem = s.mem ∧ t.groups = s.groups ∧
        (∀ n, slotFor t slice n = slotFor s slice n) ∧
        ((sliceOf s slice).errs.length < 256 →
          (sliceOf t slice).errs = (sliceOf s slice).errs ++ [⟨.badNotify, v.toNat, 0, 0⟩]) ∧
        (256 ≤ (sliceOf s slice).errs.length → (sliceOf t slice).errs = (sliceOf s slice).errs ∧ (sliceOf t slice).errOverflow = true)) ∧
      (v.toNat < 4096 → accepted → ∃ t, exec i s = .next t ∧ t.mem = s.mem ∧
        t.groups = s.groups ∧ q ∉ (sliceOf t slice).stopped ∧ (∀ n, n ≠ q → n ∈ (sliceOf s slice).stopped → n ∈ (sliceOf t slice).stopped) ∧
        (∀ n, descOf t slice n = descOf s slice n) ∧
        (∀ z, slotFor s slice q = some z → slotFor t slice q = some { z with notified := s.now }) ∧
        (slotFor s slice q = none → (sliceOf s slice).qslots.length < 64 →
          (sliceOf t slice).qslots = (sliceOf s slice).qslots ++ [{ queue := q, notified := s.now, mapped := s.now }] ∧
          q ∉ (sliceOf t slice).pend) ∧
        (slotFor s slice q = none → 64 ≤ (sliceOf s slice).qslots.length →
          (∀ e, evictable s slice = some e → slotFor t slice e.queue = none ∧
            slotFor t slice q = some { queue := q, notified := s.now, mapped := s.now }) ∧
          (evictable s slice = none → q ∈ (sliceOf t slice).pend ∧ (sliceOf t slice).qslots = (sliceOf s slice).qslots))))) ∧
  (∀ (s : State) (part : Nat), (partOf s part).state ≠ .free → (partOf s part).periodNext ≤ s.now * 20 / 17 → ∃ t,
    exec (.budgetPeriodBoundary part) s = .next t ∧ t.mem = s.mem ∧ t.groups = s.groups ∧ (partOf t part).periodStart = s.now ∧
      (partOf t part).periodNext = s.now * 20 / 17 + (partOf s part).period ∧
      ∀ n b, mfind (partOf s part).budgets n = some b → ∃ b', mfind (partOf t part).budgets n = some b' ∧ b'.bound = b'.entry ∧
        bitsOf b'.entry 351 320 = min (b.issue / 65536) (2 ^ 32 - 1) ∧ bitsOf b'.entry 319 288 = min (b.hbm / 1024) (2 ^ 32 - 1) ∧
        bitsOf b'.entry 287 256 = min (b.net / 1024) (2 ^ 32 - 1) ∧ bitsOf b'.entry 255 224 = min (b.copy / 1024) (2 ^ 32 - 1) ∧
        bitsOf b'.entry 223 208 = min b.test 65535 ∧ bitsOf b'.entry 511 352 = bitsOf b.entry 511 352 ∧
        bitsOf b'.entry 191 160 = (if heldAtEnd s part n b = true then min (bitsOf b.entry 191 160 + 1) (2 ^ 32 - 1) else bitsOf b.entry 191 160) ∧
        b'.heldAny = false ∧
        b'.issue = (if budgetLimit b.bound .issue = 0 then 0 else b.issue - budgetLimit b.bound .issue) ∧
        b'.hbm = (if budgetLimit b.bound .hbm = 0 then 0 else b.hbm - budgetLimit b.bound .hbm) ∧
        b'.net = (if budgetLimit b.bound .net = 0 then 0 else b.net - budgetLimit b.bound .net) ∧
        b'.copy = (if budgetLimit b.bound .copy = 0 then 0 else b.copy - budgetLimit b.bound .copy))) ∧
  ((∀ s slice q part z x, AtHead s slice q part z 0 x → ∃ t, exec (.nopPacket slice q) s = .next t ∧ t.mem = s.mem ∧
    t.groups = s.groups ∧ t.launches = s.launches ∧ PacketDone s t slice q ∧ slotFor t slice q = some z) ∧
  (∀ s slice q part z x, AtHead s slice q part z 1 x → ∃ t, exec (.launchPacket slice q) s = .next t ∧ t.mem = s.mem ∧
    t.groups = s.groups ∧ t.launches = s.launches ∧ descOf t slice q = descOf s slice q ∧
    slotFor t slice q = some { z with launching := true }) ∧
  (∀ s slice q part z x, AtHead s slice q part z 2 x → s.owner = [] →
    let d := descOf s slice q
    (∀ v, unitBytes s part (bitsOf d 207 192) (bitsOf d 17 17) (bitsOf x 127 64) 8 = some v → ∃ t,
      exec (.waitPacket slice q) s = .next t ∧ WaitRead s t slice q z x v s.now) ∧
    (unitBytes s part (bitsOf d 207 192) (bitsOf d 17 17) (bitsOf x 127 64) 8 = none → ∃ t,
      exec (.waitPacket slice q) s = .next t ∧ QueueStopped s t slice q .queueStop)) ∧
  (∀ s slice q part z x v pa a, AtHead s slice q part z 3 x → s.owner = [] →
    let d := descOf s slice q
    unitBytes s part (bitsOf d 207 192) (bitsOf d 17 17) (bitsOf x 127 64) 8 = some v →
    xlateDirect s part (bitsOf d 207 192) (bitsOf d 17 17) (bitsOf x 127 64) .write = some (pa, a) → ∃ t,
      exec (.signalPacket slice q) s = .next t ∧ t.groups = s.groups ∧ PacketDone s t slice q ∧
      readN (readMem t) pa 8 = signalled x v ∧ ∀ b, (b < pa ∨ pa + 8 ≤ b) → readMem t b = readMem s b) ∧
  (∀ s slice q part z x v, slicePart s slice = some part → slotFor s slice q = some z → z.waiting = some x → s.owner = [] →
    unitBytes s part (bitsOf (descOf s slice q) 207 192) (bitsOf (descOf s slice q) 17 17) (bitsOf x 127 64) 8 = some v → ∃ t,
      exec (.queueWaitRecheck slice q) s = .next t ∧ WaitRead s t slice q z x v z.since) ∧
  (∀ s slice q z x, slotFor s slice q = some z → z.waiting = some x → bitsOf x 63 32 ≠ 0 → bitsOf x 63 32 * 850 ≤ s.now - z.since →
    ∃ t, exec (.queueWaitTimeout slice q) s = .next t ∧ t.groups = s.groups ∧ QueueStopped s t slice q .waitTimeout) ∧
  (∀ s slice q part z i, slicePart s slice = some part → slotFor s slice q = some z → z.launching = false → z.waiting = none →
    q ∉ (sliceOf s slice).stopped → headPacket s part slice q = .bad →
    (i = .nopPacket slice q ∨ i = .launchPacket slice q ∨ i = .waitPacket slice q ∨ i = .signalPacket slice q) → ∃ t,
      exec i s = .next t ∧ t.groups = s.groups ∧ QueueStopped s t slice q .queueStop))

end

/-! ## The network (R325..R327, R365, R417, R423, R460, R468) -/

namespace Sys2Proof.Claims

open Machine

/-- A count of a port for a partition raised by one (R327). -/
def Counted (s t : State) (slice part sel : Nat) : Prop :=
  mget 0 (sliceOf t slice).counts (part * 16 + sel) = (mget 0 (sliceOf s slice).counts (part * 16 + sel) + 1) % 2 ^ 64

/-- A run of bytes on mapped pages, no two of which are one physical byte. -/
def Apart (pages : List (Nat × Nat)) (va n : Nat) : Prop :=
  ∀ i j, i < n → j < n → pageByte pages (va + i) = pageByte pages (va + j) → i = j

/-- A run of bytes written on mapped pages, and every other byte of memory as before. -/
def BytesWritten (s t : State) (pages : List (Nat × Nat)) (va : Nat) (bs : List Byte) : Prop :=
  (∀ i b, bs[i]? = some b → readMem t (pageByte pages (va + i)) = b) ∧
    ∀ a, (∀ i, i < bs.length → a ≠ pageByte pages (va + i)) → readMem t a = readMem s a

/-- A posted message of a port, by its number. -/
def sendOf (s : State) (slice msg : Nat) : Option NetMsg := (sliceOf s slice).sendq.find? (fun m => m.id == msg)

/-- The packets of a posted message (R323, R325): a read request has one, without payload. -/
def packetsOf (m : NetMsg) : Nat :=
  if bitsOf m.req 19 16 = 2 then 1 else (bitsOf m.req 159 128 + 2 ^ bitsOf m.req 51 48 - 1) / 2 ^ bitsOf m.req 51 48

/-- The arriving message of a packet at a port. -/
def arriving (s : State) (slice : Nat) (p : NetPacket) : Option Inbound :=
  (sliceOf s slice).inbound.find? (fun x => x.dfa == p.dfa && x.jobid == p.jobid && x.msg == p.msg)

/-- The message that a packet begins where no flow entry takes it: it follows a posted receive (R365). -/
def freshInbound (p : NetPacket) : Inbound :=
  { dfa := p.dfa, jobid := p.jobid, msg := p.msg, tag := p.tag, len := p.len, pktlog := p.pktlog }

/-- The message that a packet of a send belongs to: the one that has begun, or one that no flow entry takes (R365). -/
def Begun (s : State) (slice : Nat) (p : NetPacket) (x : Inbound) : Prop :=
  arriving s slice p = some x ∨ arriving s slice p = none ∧ matchFlow s slice p = none ∧ x = freshInbound p

/-- The message that a packet of a one-sided write belongs to, charged to the entry of its key (log 12, DESIGN CHOICE). -/
def WriteBegun (s : State) (slice : Nat) (p : NetPacket) (x : Inbound) : Prop :=
  arriving s slice p = some x ∧ x.recv = none ∨
    arriving s slice p = none ∧ x = { freshInbound p with act := 4, tenant := (Config.keyEntry p.tag).toNat }

/-- The first receive of a partition posted for a tag (R325). -/
def posted (s : State) (slice part tag : Nat) : Option NetMsg :=
  (sliceOf s slice).recvq.find? (fun m => m.part == part && bitsOf m.req 191 160 == tag)

/-- An answer to a read request, by its number. -/
def answerOf (s : State) (slice id : Nat) : Option Answer := (sliceOf s slice).answers.find? (fun a => a.id == id)

/-- An acknowledgement that leaves, naming the packets placed before and one more (R460). -/
def Acked (s t : State) (slice : Nat) (p : NetPacket) (before : List Nat) : Prop :=
  ∃ ks, t.outbox = s.outbox ++ [.ack slice p.dfa p.jobid p.msg ks] ∧ ∀ j, j ∈ ks ↔ j = p.k ∨ j ∈ before

/-- A packet that has been sent, and neither acknowledged nor declared lost, is declared lost (R460, R468): it is to be
resent, or with its retries used its message fails with a record. -/
def Lost (s t : State) (slice msg k : Nat) (m : NetMsg) : Prop :=
  t.groups = s.groups ∧ t.outbox = s.outbox ∧
    (mget 0 m.sent k ≤ m.retry → t.mem = s.mem ∧ ∃ m', sendOf t slice msg = some m' ∧ m'.sent = m.sent ∧ m'.acked = m.acked ∧
      ∀ j, j ∈ m'.lost ↔ j = k ∨ j ∈ m.lost) ∧
    (m.retry < mget 0 m.sent k → sendOf t slice msg = none ∧ Counted s t slice m.part 7 ∧
      (bitsOf m.req 383 320 = 0 → t.mem = s.mem) ∧
      (∀ v pa a, bitsOf m.req 383 320 ≠ 0 → s.owner = [] → unitBytes s m.part m.asid m.level (bitsOf m.req 383 320) 8 = some v →
        xlateDirect s m.part m.asid m.level (bitsOf m.req 383 320) .write = some (pa, a) →
        readN (readMem t) pa 8 = Nat.lor ((v + 1) % 2 ^ 64) (2 ^ 63)) ∧ ((sliceOf s slice).errs.length < 256 →
        (sliceOf t slice).errs = (sliceOf s slice).errs ++ [⟨.netFailure, m.addr.toNat, 0, 0⟩]))

end Sys2Proof.Claims

section
open Sys2Proof Machine Claims

/-- R325..R327, R460 and R468 on the sender's side: a packet leaves on its path with its payload; an acknowledgement names
the packets placed, and the last one raises the message's counter once; a packet is declared lost; the data that answer a
read leave, are acknowledged and are resent in the same way; and an unsupported peer is refused, and counted (R423, R427;
log 49, DEDUCED). R325, R365, R417 and R460 for a packet that reaches a port: turned away by a port being moved or outside every
running partition; a send whose flow entry drops it turned away, with one hit of the entry for the message; a send placed in
the posted receive of its tag and acknowledged, acknowledged and discarded where it is placed already, refused where nothing
takes it; a write placed once in memory; a read answered once; and the data of a read placed once and acknowledged. -/
def Obligations.Network : Prop :=
  ((∀ s slice msg k m, sendOf s slice msg = some m → k < packetsOf m → k ∉ m.acked →
    let n := mget 0 m.sent k
    let size := 2 ^ bitsOf m.req 51 48
    let len := if bitsOf m.req 19 16 = 2 then 0 else min size (bitsOf m.req 159 128 - k * size)
    n = 0 ∨ k ∈ m.lost → exhausted (budgetOf s m.part m.budget) .net = false →
    ∀ x, (if len = 0 then some 0 else unitBytes s m.part m.asid m.level (bitsOf m.req 127 64 + k * size) len) = some x → ∃ t,
      exec (.packetTransmission slice msg k) s = .next t ∧ t.mem = s.mem ∧ t.groups = s.groups ∧
      sendOf t slice msg = some { m with sent := mput m.sent k (n + 1), lost := m.lost.filter (fun j => j ≠ k) } ∧
      (if bitsOf m.req 19 16 = 2 then mget 0 (sliceOf t slice).counts (m.part * 16) = mget 0 (sliceOf s slice).counts (m.part * 16)
        else Counted s t slice m.part 0) ∧ (n ≠ 0 → Counted s t slice m.part 2) ∧
      t.outbox = s.outbox ++ [.packet slice m.dfa m.jobid msg m.req k ((k + n) % 2 ^ bitsOf m.req 23 22) (bytesOf len x)]) ∧
  (∀ s slice id k a, sendOf s slice id = none → answerOf s slice id = some a → k * 2 ^ a.pktlog < a.len → k ∉ a.acked →
    let n := mget 0 a.sent k
    let len := min (2 ^ a.pktlog) (a.len - k * 2 ^ a.pktlog)
    n = 0 ∨ k ∈ a.lost → exhausted (budgetOf s a.part a.budget) .net = false →
    ∀ x, unitBytes s a.part a.asid 0 (a.va + k * 2 ^ a.pktlog) len = some x → ∃ t,
      exec (.packetTransmission slice id k) s = .next t ∧ t.mem = s.mem ∧ t.groups = s.groups ∧
      answerOf t slice id = some { a with sent := mput a.sent k (n + 1), lost := a.lost.filter (fun j => j ≠ k) } ∧
      Counted s t slice a.part 0 ∧ (n ≠ 0 → Counted s t slice a.part 2) ∧
      t.outbox = s.outbox ++ [.readData slice a.dfa a.jobid a.msg k ((k + n) % 2 ^ a.spray) (bytesOf len x)]) ∧
  (∀ s slice id packets a, sendOf s slice id = none → answerOf s slice id = some a →
    let got (k : Nat) : Prop := k ∈ a.acked ∨ k ∈ packets ∧ mget 0 a.sent k ≠ 0
    (∃ k, k * 2 ^ a.pktlog < a.len ∧ ¬ got k) → ∃ t a', exec (.selectiveAckArrival slice id packets false) s = .next t ∧
      t.mem = s.mem ∧ t.groups = s.groups ∧ Counted s t slice a.part 3 ∧ answerOf t slice id = some a' ∧ a'.sent = a.sent ∧
      ∀ k, k ∈ a'.acked ↔ got k) ∧
  (∀ s slice id k a, sendOf s slice id = none → answerOf s slice id = some a → mget 0 a.sent k ≠ 0 → k ∉ a.acked → k ∉ a.lost →
    ∃ t a', exec (.lossDetection slice id k) s = .next t ∧ t.mem = s.mem ∧ t.groups = s.groups ∧ t.outbox = s.outbox ∧
      answerOf t slice id = some a' ∧ a'.sent = a.sent ∧ a'.acked = a.acked ∧ ∀ j, j ∈ a'.lost ↔ j = k ∨ j ∈ a.lost) ∧
  (∀ s slice msg packets m, sendOf s slice msg = some m → bitsOf m.req 19 16 ≠ 2 →
    let got (k : Nat) : Prop := k ∈ m.acked ∨ k ∈ packets ∧ mget 0 m.sent k ≠ 0
    let i : Instr := .selectiveAckArrival slice msg packets false
    ((∃ k, k < packetsOf m ∧ ¬ got k) → ∃ t m', exec i s = .next t ∧ t.mem = s.mem ∧ t.groups = s.groups ∧
      Counted s t slice m.part 3 ∧ sendOf t slice msg = some m' ∧ m'.sent = m.sent ∧ (∀ k, k ∈ m'.acked ↔ got k)) ∧
    ((∀ k, k < packetsOf m → got k) →
      (bitsOf m.req 383 320 = 0 → ∃ t, exec i s = .next t ∧ t.mem = s.mem ∧ sendOf t slice msg = none) ∧
      (∀ v pa a, bitsOf m.req 383 320 ≠ 0 → s.owner = [] →
        unitBytes s m.part m.asid m.level (bitsOf m.req 383 320) 8 = some v →
        xlateDirect s m.part m.asid m.level (bitsOf m.req 383 320) .write = some (pa, a) → ∃ t,
          exec i s = .next t ∧ sendOf t slice msg = none ∧ readN (readMem t) pa 8 = (v + 1) % 2 ^ 64 ∧
          ∀ b, (b < pa ∨ pa + 8 ≤ b) → readMem t b = readMem s b))) ∧
  (∀ s slice msg k m, sendOf s slice msg = some m → mget 0 m.sent k ≠ 0 → k ∉ m.acked → k ∉ m.lost →
    (∃ t, exec (.lossDetection slice msg k) s = .next t ∧ Lost s t slice msg k m) ∧
    ∃ t, exec (.selectiveAckArrival slice msg [k] true) s = .next t ∧ Lost s t slice msg k m) ∧
  (∀ s slice part (r : ConnRequest), slicePart s slice = some part →
    let served : Prop := r.aiFull = true ∧ r.security = false ∧
      ((r.delivery = .rud ∧ r.op ≤ 2) ∨ (r.delivery = .rudi ∧ 1 ≤ r.op ∧ r.op ≤ 2)) ∧
      (r.paths = 1 ∨ r.paths = 2 ∨ r.paths = 4 ∨ r.paths = 8) ∧
      (r.payload = 1024 ∨ r.payload = 2048 ∨ r.payload = 4096) ∧ r.lowest ≤ 0x0100 ∧ 0x0100 ≤ r.highest
    (served → exec (.connectionSetup slice part r) s = .next s) ∧
    (¬served → ∃ t, exec (.connectionSetup slice part r) s = .next t ∧ t.mem = s.mem ∧ t.groups = s.groups ∧
      Counted s t slice part 7 ∧ t.outbox = s.outbox ++ [.refusal slice]))) ∧
  (∀ (s : State) (slice : Nat) (p : NetPacket), slicePart s slice = none →
    exec (.networkPacketArrival slice p) s = .next { s with outbox := s.outbox ++ [.nack slice p.dfa p.jobid p.msg p.k] }) ∧
  (∀ (s : State) (slice part : Nat) (p : NetPacket), slicePart s slice = some part →
    let i : Instr := .networkPacketArrival slice p
    let nack : OutMsg := .nack slice p.dfa p.jobid p.msg p.k
    ((sliceOf s slice).barred = true → exec i s = .next { s with outbox := s.outbox ++ [nack] }) ∧
    ((sliceOf s slice).barred = false →
      (p.kind = 0 →
        (∀ x, arriving s slice p = some x → x.act = 3 → ∃ t, exec i s = .next t ∧ t.mem = s.mem ∧ t.groups = s.groups ∧
          Counted s t slice part 1 ∧ (sliceOf t slice).flows = (sliceOf s slice).flows ∧ t.outbox = s.outbox ++ [nack]) ∧
        (∀ n e, arriving s slice p = none → matchFlow s slice p = some (n, e) → bitsOf e 87 84 = 3 → ∃ t,
          exec i s = .next t ∧ t.mem = s.mem ∧ t.groups = s.groups ∧ Counted s t slice part 1 ∧
          (sliceOf t slice).flows = mput (sliceOf s slice).flows n (putBits e 79 16 (bitsOf e 79 16 + 1)) ∧
          (∃ x, arriving t slice p = some x ∧ x.act = 3) ∧ t.outbox = s.outbox ++ [nack]) ∧
        (∀ x, arriving s slice p = some x → p.k ∈ x.placed → x.act ≠ 3 → (x.act = 0 → x.recv ≠ none) →
          exhausted (budgetOf s part (inboundEntry x)) .net = false → ∃ t,
          exec i s = .next t ∧ t.mem = s.mem ∧ t.groups = s.groups ∧ Counted s t slice part 1 ∧ arriving t slice p = some x ∧
          t.outbox = s.outbox ++ [.ack slice p.dfa p.jobid p.msg x.placed]) ∧
        (∀ x, Begun s slice p x → x.act = 0 → x.recv = none → posted s slice part x.tag = none → ∃ t,
          exec i s = .next t ∧ t.mem = s.mem ∧ t.groups = s.groups ∧ Counted s t slice part 1 ∧ Counted s t slice part 6 ∧
          arriving t slice p = some x ∧ t.outbox = s.outbox ++ [nack]) ∧
        (∀ x m pages, Begun s slice p x → x.act = 0 → x.recv = none → x.placed = [] → posted s slice part x.tag = some m →
          let off := p.k * 2 ^ x.pktlog
          let bs := p.payload.take (bitsOf m.req 159 128 - off)
          let va := bitsOf m.req 127 64 + off
          2 ^ x.pktlog < x.len → mapPages s m.part m.asid m.level .write (pagesOf va (max 1 bs.length)) = some pages →
          Apart pages va bs.length → budgetLimit (budgetOf s part m.budget).bound .net = 0 → ∃ t,
            exec i s = .next t ∧ t.groups = s.groups ∧ Counted s t slice part 1 ∧ BytesWritten s t pages va bs ∧
            (sliceOf t slice).recvq = (sliceOf s slice).recvq.filter (fun y => y.id ≠ m.id) ∧
            arriving t slice p = some { x with recv := some m, placed := [p.k] } ∧
            t.outbox = s.outbox ++ [.ack slice p.dfa p.jobid p.msg [p.k]])) ∧
      (p.kind = 1 → ∀ x, WriteBegun s slice p x →
        let va := (Config.keyBase p.tag).toNat + p.offset
        let map := mapPages s part (Config.keyAsid p.tag) 0 .write (pagesOf va (max 1 p.payload.length))
        (p.k ∈ x.placed → exhausted (budgetOf s part x.tenant) .net = false → ∃ t, exec i s = .next t ∧ t.mem = s.mem ∧
          t.groups = s.groups ∧ Counted s t slice part 1 ∧ t.outbox = s.outbox ++ [.ack slice p.dfa p.jobid p.msg x.placed]) ∧
        (p.k ∉ x.placed → map = none → ∃ t, exec i s = .next t ∧ t.mem = s.mem ∧ t.groups = s.groups ∧ t.outbox = s.outbox ++ [nack]) ∧
        (∀ pages, p.k ∉ x.placed → map = some pages → Apart pages va p.payload.length →
          budgetLimit (budgetOf s part x.tenant).bound .net = 0 → ∃ t x', exec i s = .next t ∧ t.groups = s.groups ∧
          Counted s t slice part 1 ∧ BytesWritten s t pages va p.payload ∧ Acked s t slice p x.placed ∧
          arriving t slice p = some x' ∧ ∀ j, j ∈ x'.placed ↔ j = p.k ∨ j ∈ x.placed)) ∧
      (p.kind = 2 →
        let asid := Config.keyAsid p.tag
        let va := (Config.keyBase p.tag).toNat + p.offset
        let answered := (sliceOf s slice).answers.any (fun a => a.dfa == p.dfa && a.jobid == p.jobid && a.msg == p.msg)
        (answered = true → exec i s = .next s) ∧
        (answered = false → unitBytes s part asid 0 va p.len = none → exec i s = .next { s with outbox := s.outbox ++ [nack] }) ∧
        (∀ x, answered = false → unitBytes s part asid 0 va p.len = some x → ∃ t, exec i s = .next t ∧ t.mem = s.mem ∧
          t.groups = s.groups ∧ t.outbox = s.outbox ∧ (sliceOf t slice).answers = (sliceOf s slice).answers ++
            [{ id := s.nextId, part := part, asid := asid, budget := (Config.keyEntry p.tag).toNat, dfa := p.dfa, jobid := p.jobid, msg := p.msg, va := va, len := p.len, pktlog := p.pktlog, spray := p.spray }])) ∧
      (p.kind = 3 → ∀ m, (sliceOf s slice).sendq.find? (fun m => m.id == p.msg && bitsOf m.req 19 16 == 2) = some m →
        sendOf s slice p.msg = some m →
        let va := bitsOf m.req 127 64 + p.k * 2 ^ bitsOf m.req 51 48
        let others : Prop := ∃ k, k * 2 ^ bitsOf m.req 51 48 < bitsOf m.req 159 128 ∧ k ≠ p.k ∧ k ∉ m.placed
        ∀ pages, p.k ∉ m.placed → mapPages s m.part m.asid m.level .write (pagesOf va (max 1 p.payload.length)) = some pages →
        Apart pages va p.payload.length → budgetLimit (budgetOf s m.part m.budget).bound .net = 0 →
        (others → ∃ t m', exec i s = .next t ∧ t.groups = s.groups ∧ Counted s t slice part 1 ∧
          BytesWritten s t pages va p.payload ∧ Acked s t slice p m.placed ∧ sendOf t slice p.msg = some m' ∧
          ∀ k, k ∈ m'.placed ↔ k = p.k ∨ k ∈ m.placed) ∧
        (¬ others → bitsOf m.req 383 320 = 0 → ∃ t, exec i s = .next t ∧ t.groups = s.groups ∧ Counted s t slice part 1 ∧
          BytesWritten s t pages va p.payload ∧ Acked s t slice p m.placed ∧ sendOf t slice p.msg = none))))

end

/-! ## Images and the portable path (R225, R400..R414, R418) -/

namespace Sys2Proof.Claims

open Machine

/-- A thread carried with its registers, its place and what it waits for (R405). -/
def Carried (th th' : Thread) : Prop :=
  th'.rf = th.rf ∧ th'.pc = th.pc ∧ th'.shadow = th.shadow ∧ th'.split = th.split ∧ th'.region = th.region

/-- A group moved to another residency with all that its threads hold. -/
def GroupCarried (s t : State) (gid : Nat) (dest : Residency) : Prop :=
  ∀ g, mfind s.groups gid = some g → ∃ g', mfind t.groups gid = some g' ∧ g'.where_ = dest ∧ g'.uni = g.uni ∧
    g'.block = g.block ∧ g'.launch = g.launch ∧ g'.idx = g.idx ∧
    ∀ l th, mfind g.threads l = some th → ∃ th', mfind g'.threads l = some th' ∧ Carried th th' ∧
      (dest = .imaged ∨ dest = .saved → th'.run = th.run)

/-- A register file that has lost some of its v registers from one number on, whose bits and tag are then 0 and void (R56). -/
def Dropped (live : Nat) (rf rf' : RegFile) : Prop :=
  rf' = { rf with v := rf'.v } ∧ (∀ n, n < live → mfind rf'.v n = mfind rf.v n) ∧
    ∀ n, mfind rf'.v n = mfind rf.v n ∨ mfind rf'.v n = none

/-- A thread carried to a portable context: with its registers, but that one at a header may lose v(LIVE) and above (R56,
R409, R410); the header is read as memory stands then. -/
def PortThread (t : State) (g : Group) (th th' : Thread) : Prop :=
  th'.pc = th.pc ∧ th'.split = th.split ∧ th'.region = th.region ∧ th'.run = th.run ∧
    (headerLive t g th = none → th'.rf = th.rf ∧ th'.shadow = th.shadow) ∧
    ∀ live, headerLive t g th = some live → Dropped live th.rf th'.rf

/-- A group moved to a portable context with all that its threads hold. -/
def PortCarried (s t : State) (gid : Nat) (dest : Residency) : Prop :=
  ∀ g, mfind s.groups gid = some g → ∃ g', mfind t.groups gid = some g' ∧ g'.where_ = dest ∧ g'.uni = g.uni ∧
    g'.block = g.block ∧ g'.launch = g.launch ∧ g'.idx = g.idx ∧
    ∀ l th, mfind g.threads l = some th → ∃ th', mfind g'.threads l = some th' ∧ PortThread t g th th'

/-- Groups as before, but that a register of a thread may have been marked as poisoned (R401). -/
def OnlySoft (s t : State) : Prop :=
  ∀ gid g, mfind s.groups gid = some g → ∃ ts, mfind t.groups gid = some { g with threads := ts } ∧
    ∀ l th, mfind g.threads l = some th → ∃ x, mfind ts l = some { th with soft := x }

/-- The six image commands, with the number of each. -/
def imageCommands (slice : Nat) (cmd : DWord) : List (Nat × Instr) :=
  [(1, .imageStop slice cmd), (2, .imageRestore slice cmd), (3, .imageDiscard slice cmd),
   (4, .imageStopAndSelfTest slice cmd), (5, .imageMoveOut slice cmd), (6, .imageMoveIn slice cmd)]

/-- A command that may issue: of a running tenant, and a self-test within the test time (R320, R411, R412). -/
def MayIssue (s : State) (slice part : Nat) (cmd : DWord) : Prop :=
  slicePart s slice = some part ∧ (bitsOf cmd 3 0 = 4 → testsHeld s slice = false) ∧
    (bitsOf cmd 3 0 = 2 → ∀ im, sealedAt s (bitsOf cmd 39 36, bitsOf cmd 43 40) = some im →
      tenantRuns (partOf s part) im.tenant = true)

/-- An image command that ends at once: its slice's status shows the code and the detail, and no group, no core and no
memory has changed (R400). -/
def Answered (s t : State) (slice : Nat) (cmd : DWord) (code detail : Nat) : Prop :=
  t.mem = s.mem ∧ t.groups = s.groups ∧ t.cores = s.cores ∧ t.blocks = s.blocks ∧ (sliceOf t slice).imgCmd = cmd ∧
    (sliceOf t slice).imgStatus = BitVec.ofNat 64 (code + detail * 2 ^ 32)

/-- The image set of a stop command may stop now: its cores scan nothing, no earlier stop of the core is pending, and the
slot is free in the cluster's image area, with one for every other core of the set (R400..R402). -/
structure StopReady (s : State) (cmd : DWord) (set : List Nat) (slots : List (Nat × Nat)) : Prop where
  set_ : imageSet s (icCore cmd) = set
  fresh : deferredStop s (icCore cmd) = none ∧ pendingStop s (icCore cmd) = none
  idle : set.any (coreScans s) = false
  slots_ : stopSlots s cmd set = some slots

end Sys2Proof.Claims

section
open Sys2Proof Machine Claims

/-- R320, R393, R400..R404, R408, R411 and R414 for the image commands: a command whose fields are not accepted answers
BADCMD; a stop stops every core of its image set at once, joins a stop of it that is not sealed, or waits for a no-pre-emption
region of it; a restore of an
image that is not there, has no idle target, or belongs to another partition or revision is refused by code; a
discard zeroes its slot; and a move begins where the store has room. -/
def Obligations.ImageCommands : Prop :=
  (∀ s slice part cmd i, MayIssue s slice part cmd → (bitsOf cmd 3 0, i) ∈ imageCommands slice cmd →
    (bitsOf cmd 63 44 ≠ 0 ∨ bitsOf cmd 11 8 ≠ 0 ∨ 4 < bitsOf cmd 7 4 ∨ (partOf s part).slices.getLsbD (bitsOf cmd 39 36) = false ∨
      ((bitsOf cmd 3 0 = 1 ∨ bitsOf cmd 3 0 = 2 ∨ bitsOf cmd 3 0 = 4) ∧ (bitsOf cmd 27 12 ≠ 0 ∨
        (partOf s part).slices.getLsbD (bitsOf cmd 31 28) = false ∨
        configured s (bitsOf cmd 31 28 * 16 + bitsOf cmd 35 32) = false)) ∨
      ((bitsOf cmd 3 0 = 3 ∨ bitsOf cmd 3 0 = 5 ∨ bitsOf cmd 3 0 = 6) ∧ (bitsOf cmd 31 28 ≠ 0 ∨ bitsOf cmd 35 32 ≠ 0)) ∨
      (bitsOf cmd 3 0 = 3 ∧ bitsOf cmd 27 12 ≠ 0)) →
    ∃ t, exec i s = .next t ∧ Answered s t slice cmd 0x02 0) ∧
  (∀ s slice part cmd i set slots, MayIssue s slice part cmd → (bitsOf cmd 3 0, i) ∈ imageCommands slice cmd →
    bitsOf cmd 3 0 = 1 ∨ bitsOf cmd 3 0 = 4 → commandOk s part cmd = true → StopReady s cmd set slots →
    (s.groups.map Prod.fst).Nodup →
    (setNoPre s set = false → ∃ t, exec i s = .next t ∧
      (∀ pa, (∀ c ∈ set, ∀ d ∈ c :: quadCores s c, (coreOf s d).held = []) → readMem t pa = readMem s pa) ∧
      (∀ c ∈ set, (coreOf t c).stopped = true ∧ (coreOf t c).gentag = (coreOf s c).gentag + 1#32 ∧ (coreOf t c).held = [] ∧
        (coreOf t c).acc = (coreOf s c).acc) ∧
      (∀ c, c ∉ set → ∃ h, coreOf t c = { coreOf s c with held := h } ∧ ((∀ d ∈ set, c ∉ quadCores s d) → h = (coreOf s c).held)) ∧
      (∀ gid g, mfind s.groups gid = some g → g.where_ = .resident → g.core ∈ set → GroupCarried s t gid .imaged) ∧
      (∀ gid g, mfind s.groups gid = some g → g.where_ ≠ .resident ∨ g.core ∉ set → mfind t.groups gid = some g) ∧
      (sliceOf t slice).imgOps = (sliceOf s slice).imgOps ++ [{ cmd := cmd, cores := set, slots := slots, reports := [slice] }]) ∧
    (setNoPre s set = true → ∃ t, exec i s = .next t ∧ t.mem = s.mem ∧ t.groups = s.groups ∧ t.cores = s.cores ∧
      (sliceOf t slice).imgOps = (sliceOf s slice).imgOps ++ [{ cmd := cmd, waiting := true, reports := [slice] }])) ∧
  (∀ s slice part cmd i x, MayIssue s slice part cmd → (bitsOf cmd 3 0, i) ∈ imageCommands slice cmd →
    bitsOf cmd 3 0 = 1 ∨ bitsOf cmd 3 0 = 4 → commandOk s part cmd = true → deferredStop s (icCore cmd) = none →
    pendingStop s (icCore cmd) = some x → ∃ t, exec i s = .next t ∧ t.mem = s.mem ∧ t.groups = s.groups ∧ t.cores = s.cores) ∧
  (∀ s slice part cmd, MayIssue s slice part cmd → bitsOf cmd 3 0 = 2 → commandOk s part cmd = true →
    let x := (bitsOf cmd 39 36, bitsOf cmd 43 40)
    let core := bitsOf cmd 31 28 * 16 + bitsOf cmd 35 32
    let answers (code detail : Nat) : Prop := ∃ t, exec (.imageRestore slice cmd) s = .next t ∧ Answered s t slice cmd code detail
    (sealedAt s x = none → answers 0x15 0) ∧
    (∀ im, sealedAt s x = some im → im.set = [x] →
      (coreScans s core = true ∨ slotInUse s x = true → answers 0x01 0) ∧
      (coreScans s core = false → slotInUse s x = false →
        (coreIdle s core = false → answers 0x13 0) ∧
        (coreIdle s core = true →
          (im.part ≠ part → answers 0x12 0) ∧
          (im.part = part → im.rev ≠ coreRev s core → answers 0x10 (coreRev s core).toNat) ∧
          (im.part = part → im.rev = coreRev s core → im.corrupt = true → answers 0x11 0) ∧
          (im.part = part → im.rev = coreRev s core → im.corrupt = false → ∃ t, exec (.imageRestore slice cmd) s = .next t ∧
            t.mem = s.mem ∧ t.groups = s.groups ∧ (coreOf t core).image = some (x.1 * 16 + x.2) ∧
            (sliceOf t slice).imgOps = (sliceOf s slice).imgOps ++ [{ cmd := cmd, cores := [core], slots := [x], reports := [slice] }]))))) ∧
  (∀ s slice part cmd, MayIssue s slice part cmd → bitsOf cmd 3 0 = 3 → commandOk s part cmd = true →
    let x := (bitsOf cmd 39 36, bitsOf cmd 43 40)
    let i : Instr := .imageDiscard slice cmd
    (sealedAt s x = none → ∃ t, exec i s = .next t ∧ Answered s t slice cmd 0x15 0) ∧
    (∀ im, sealedAt s x = some im → slotInUse s x = true ∨ areaMoves s x.1 = true → ∃ t, exec i s = .next t ∧
      Answered s t slice cmd 0x01 0 ∧ imageAt t x = imageAt s x) ∧
    (∀ im, sealedAt s x = some im → slotInUse s x = false → areaMoves s x.1 = false → im.corrupt = false → ∃ t,
      exec i s = .next t ∧ Answered s t slice cmd 0x00 0 ∧ imageAt t x = none) ∧
    (∀ im, sealedAt s x = some im → slotInUse s x = false → areaMoves s x.1 = false → im.corrupt = true → ∃ t,
      exec i s = .next t ∧ imageAt t x = none ∧ ∀ b ∈ im.blocks, ∀ l, mfind s.launches (blockOf s b).launch = some l →
        l.final = false → EndedAs t (blockOf s b).launch .failed 0x12030000)) ∧
  (∀ s slice part cmd, MayIssue s slice part cmd → bitsOf cmd 3 0 = 5 → commandOk s part cmd = true →
    let x := (bitsOf cmd 39 36, bitsOf cmd 43 40)
    let e := bitsOf cmd 27 12
    let i : Instr := .imageMoveOut slice cmd
    (sealedAt s x = none → ∃ t, exec i s = .next t ∧ Answered s t slice cmd 0x15 0) ∧
    (∀ im, sealedAt s x = some im →
      ((partOf s part).storeSize ≤ e ∨ (mfind (partOf s part).store e).isSome = true → ∃ t, exec i s = .next t ∧
        Answered s t slice cmd 0x16 0) ∧
      (e < (partOf s part).storeSize → mfind (partOf s part).store e = none → slotInUse s x = false → areaMoves s x.1 = false →
        ∃ t, exec i s = .next t ∧ t.mem = s.mem ∧ t.groups = s.groups ∧ t.cores = s.cores ∧
          (sliceOf t slice).imgOps = (sliceOf s slice).imgOps ++ [{ cmd := cmd, slots := [x], entries := [e], reports := [slice] }]))) ∧
  (∀ s slice part cmd, MayIssue s slice part cmd → bitsOf cmd 3 0 = 6 → commandOk s part cmd = true →
    let e := bitsOf cmd 27 12
    let i : Instr := .imageMoveIn slice cmd
    ((partOf s part).storeSize ≤ e ∨ mfind (partOf s part).store e = none → ∃ t, exec i s = .next t ∧
      Answered s t slice cmd 0x16 0) ∧
    (∀ im, e < (partOf s part).storeSize → mfind (partOf s part).store e = some im →
      (∀ x ∈ im.set, slotInUse s x = false ∧ areaMoves s x.1 = false) →
      ((∃ x ∈ im.set, (imageAt s x).isSome = true) → ∃ t, exec i s = .next t ∧ Answered s t slice cmd 0x13 0) ∧
      ((∀ x ∈ im.set, imageAt s x = none) → ∃ t o, exec i s = .next t ∧ t.mem = s.mem ∧ t.groups = s.groups ∧ t.cores = s.cores ∧
        (sliceOf t slice).imgOps = (sliceOf s slice).imgOps ++ [o] ∧ o.cmd = cmd ∧ e ∈ o.entries)))

/-- R401, R403..R407, R412 and R414: a response, an acknowledgement and a `BOP` that reach a stopped core, or an
acknowledgement of an image sealed with its generation; the seal of an image set; a restore and a move that finish. R56,
R225, R409 and R418 for the portable path: a drained block without engine operations is saved with its groups where there
is room, and stays where there is none; a pre-emption during a no-pre-emption region is kept for its end (R393); and a
cooperative launch whose images all fit runs again. -/
def Obligations.ImagesAndContexts : Prop :=
  ((∀ s core n a, (coreOf s core).stopped = true → (coreOf s core).acc[n]? = some a → a.captured = none → a.replay = false →
    (∃ ps, a.place = .phys ps) → owedPromotion s core a = none → s.poison = [] →
    let i : Instr := .boundaryArrival core (.response n)
    let acc := (coreOf s core).acc
    (a.kind = .load → a.ptype = .normal ∨ a.ptype = .writeCombining → ∃ t, exec i s = .next t ∧ t.mem = s.mem ∧ t.groups = s.groups ∧
      (coreOf t core).acc = acc.take n ++ [{ a with replay := true }] ++ acc.drop (n + 1)) ∧
    (a.kind = .load → a.ptype = .device ∨ a.ptype = .strong → ∃ t, exec i s = .next t ∧ t.mem = s.mem ∧ t.groups = s.groups ∧
      (coreOf t core).acc = acc.take n ++
        [{ a with captured := some (readPlace s (groupOf s a.group) a.place a.size) }] ++ acc.drop (n + 1)) ∧
    (a.kind = .atomic → (∀ b ∈ acc.take n, b.kind = .atomic → b.captured = none → overlap b.place a.place = false) →
      let u := atomPerform s a.group core a.place a.scope a.order a.aop a.t a.b a.c
      ∃ t, exec i s = .next t ∧ t.mem = u.2.mem ∧ t.groups = u.2.groups ∧
        (coreOf t core).acc = acc.take n ++ [{ a with captured := some u.1 }] ++ acc.drop (n + 1))) ∧
  (∀ s core n, (coreOf s core).stopped = true → (coreOf s core).stPend = n + 1 → ∃ t,
    exec (.boundaryArrival core (.storeAck (coreOf s core).gentag.toNat)) s = .next t ∧ t.mem = s.mem ∧ t.groups = s.groups ∧
      coreOf t core = { coreOf s core with stPend := n }) ∧
  (∀ s core gen sl n im, (coreOf s core).stopped = false ∨ (coreOf s core).gentag.toNat ≠ gen →
    lateImage s core (fun im => im.gentag.toNat == gen && im.late < im.stPend) = some (true, sl, n, im) → ∃ t,
    exec (.boundaryArrival core (.storeAck gen)) s = .next t ∧ t.mem = s.mem ∧ t.groups = s.groups ∧ t.cores = s.cores ∧
      imageAt t (sl, n) = some { im with late := im.late + 1 }) ∧
  (∀ s core id w, (coreOf s core).stopped = true → (coreOf s core).bops.find? (fun w => w.cap.id == id) = some w →
    exec (.boundaryArrival core (.bopDone id)) s = .next (modCore (bopFinish s core w) core (dropBop id))) ∧
  (∀ s slice o, (sliceOf s slice).imgOps.find? (unsealed s) = some o → o.cores.Nodup → o.slots.Nodup →
    o.cores.length = o.slots.length → (∀ c ∈ o.cores, ∀ a ∈ (coreOf s c).acc, mustCapture a = false) →
    (∀ x ∈ o.slots, (imageAt s x).isSome = true) →
    ∃ t, exec (.imageSeal slice) s = .next t ∧ ((∀ c ∈ o.cores, (coreOf s c).held = []) → t.mem = s.mem) ∧ OnlySoft s t ∧
      t.blocks = s.blocks ∧
      (∀ (n c : Nat) (x : Nat × Nat), o.cores[n]? = some c → o.slots[n]? = some x → ∃ im im', imageAt s x = some im ∧ imageAt t x = some im' ∧
        im'.isSealed = true ∧ im'.stPend = (coreOf s c).stPend ∧ im'.groups = im.groups ∧ im'.set = im.set ∧
        im'.core.sweeps = (coreOf s c).sweeps ∧ im'.core.matrix = (coreOf s c).matrix ∧ im'.core.copies = (coreOf s c).copies ∧
        (coreOf t c).stopped = false ∧ (coreOf t c).image = none ∧ (coreOf t c).acc = [] ∧ (coreOf t c).stPend = 0 ∧
        (coreOf t c).gentag = (coreOf s c).gentag ∧ (coreOf t c).wear = (coreOf s c).wear ∧
        ((coreOf t c).selfTest = true ↔ bitsOf o.cmd 3 0 = 4 ∧ c = icCore o.cmd)) ∧
      (∀ n ∈ o.reports, (sliceOf t n).imgStatus = 0#64) ∧ (sliceOf t slice).imgIrq = true) ∧
  (∀ s slice part o, slicePart s slice = some part →
    (sliceOf s slice).imgOps.find? (fun o => !o.waiting &&
      (bitsOf o.cmd 3 0 == 2 || bitsOf o.cmd 3 0 == 5 || bitsOf o.cmd 3 0 == 6)) = some o →
    let i : Instr := .imageOperationComplete slice
    (∀ x im c, bitsOf o.cmd 3 0 = 2 → o.slots = [x] → o.cores = [c] → imageAt s x = some im → (∀ a ∈ im.core.acc, a.captured = none) →
      ∃ t, exec i s = .next t ∧ t.mem = s.mem ∧ imageAt t x = none ∧
        (∀ gid ∈ im.groups, GroupCarried s t gid .resident ∧ ((mfind s.groups gid).isSome = true → (groupOf t gid).core = c)) ∧
        (∀ gid, gid ∉ im.groups → groupOf t gid = groupOf s gid) ∧
        (coreOf t c).gentag = (coreOf s c).gentag ∧ (coreOf t c).sweeps = im.core.sweeps ∧
        (coreOf t c).copies = im.core.copies ∧ (coreOf t c).stPend = im.stPend - im.late ∧
        (coreOf t c).acc = im.core.acc.map (fun a =>
          if a.replay then { a with replay := false, gen := (coreOf s c).gentag } else a) ∧
        ∀ n ∈ o.reports, (sliceOf t n).imgStatus = 0#64) ∧
    (∀ x e im, bitsOf o.cmd 3 0 = 5 → o.slots = [x] → o.entries = [e] → imageAt s x = some im → ∃ t, exec i s = .next t ∧
      t.mem = s.mem ∧ t.groups = s.groups ∧ imageAt t x = none ∧ mfind (partOf t part).store e = some im ∧
      ∀ n ∈ o.reports, (sliceOf t n).imgStatus = 0#64) ∧
    (∀ x e im, bitsOf o.cmd 3 0 = 6 → o.slots = [x] → o.entries = [e] → mfind (partOf s part).store e = some im → ∃ t,
      exec i s = .next t ∧ t.mem = s.mem ∧ t.groups = s.groups ∧ imageAt t x = some im ∧ mfind (partOf t part).store e = none ∧
      ∀ n ∈ o.reports, (sliceOf t n).imgStatus = 0#64))) ∧
  ((∀ s block b, mfind s.blocks block = some b → b.where_ = .resident → drainedBlock s block = true → (s.groups.map Prod.fst).Nodup →
    let part := (launchOf s b.launch).part
    let slice := coreSlice (b.cores.headD 0)
    let n := bytesUsed (blockContexts s block)
    let i : Instr := .architecturalPreemption block
    (∀ c ∈ b.cores, (∀ w ∈ (coreOf s c).sweeps, w.cap.block ≠ block) ∧ ∀ w ∈ (coreOf s c).matrix, w.cap.block ≠ block) →
    (bytesUsed (sliceOf s slice).portable + n ≤ 8 * 2 ^ 20 ∨ bytesUsed (partOf s part).overflowUsed + n ≤ (partOf s part).overflow →
      ∃ t, exec i s = .next t ∧ (blockOf t block).where_ = .saved ∧ (blockOf t block).scratch = b.scratch ∧
        (blockOf t block).tiles = b.tiles ∧ (∀ gid g, mfind s.groups gid = some g → g.block = block → PortCarried s t gid .saved) ∧
        (∀ gid g, mfind s.groups gid = some g → g.block ≠ block → mfind t.groups gid = some g) ∧
        (∀ c ∈ b.cores, (coreOf t c).held = [] ∧ ∀ w ∈ (coreOf t c).copies, w.cap.block ≠ block)) ∧
    (8 * 2 ^ 20 < bytesUsed (sliceOf s slice).portable + n → (partOf s part).overflow < bytesUsed (partOf s part).overflowUsed + n →
      ∃ t, exec i s = .next t ∧ t.mem = s.mem ∧ t.groups = s.groups ∧ t.cores = s.cores ∧ blockOf t block = { b with preempt := false })) ∧
  (∀ s block b, mfind s.blocks block = some b → b.where_ = .resident → blockNoPre s block = true → b.preempt = false → ∃ t,
    exec (.architecturalPreemption block) s = .next t ∧ t.mem = s.mem ∧ t.groups = s.groups ∧ t.cores = s.cores ∧
      blockOf t block = { b with preempt := true }) ∧
  (∀ s lid u, (launchOf s lid).status = .coopUnplaceable → (launchOf s lid).final = false →
    (partOf s (launchOf s lid).part).state = .running → tenantRuns (partOf s (launchOf s lid).part) (launchOf s lid).tenant = true →
    (launchBlocks s lid).foldl (coopPlace (launchOf s lid).part) (some (s, [])) = some u → (mfind u.1.launches lid).isSome = true →
    ∃ t, exec (.coopRestore lid) s = .next t ∧ (launchOf t lid).status = .running ∧ t.groups = u.1.groups ∧ t.blocks = u.1.blocks))

end

/-! ## Partitions, wear and the device (R8, R320, R334, R364..R368, R411..R420, R425..R435) -/

namespace Sys2Proof.Claims

open Machine

/-- Nothing of a run has changed: no memory, no group, no block and no launch. -/
def SameRun (s t : State) : Prop := t.mem = s.mem ∧ t.groups = s.groups ∧ t.blocks = s.blocks ∧ t.launches = s.launches

/-- A partition ended (R416): its entry is free with a new epoch, no launch of it is left, no group and no block of one,
and the memory that its slices home reads as scrubbed. -/
def PartitionEnded (s t : State) (n : Nat) : Prop :=
  (partOf t n).state = .free ∧ (partOf t n).epoch = (partOf s n).epoch + 1 ∧ (partOf t n).slices = 0#16 ∧
    (∀ e ∈ t.launches, e.2.part ≠ n) ∧
    (∀ e ∈ t.groups, ∀ l ∈ s.launches, l.2.part = n → e.2.launch ≠ l.1) ∧
    (∀ e ∈ t.blocks, ∀ l ∈ s.launches, l.2.part = n → e.2.launch ≠ l.1) ∧
    ∀ pa, (partOf s n).slices.getLsbD (Config.home (pa / 64) % 16) = true → readMem t pa = 0#8

/-- A word of the health certificate for every core. -/
def coreBands (s : State) : List (Nat × Nat × Nat) :=
  (List.range 256).map (fun c => ((coreOf s c).wear.offset, (coreOf s c).wear.highest, (coreOf s c).wear.highestDay))

end Sys2Proof.Claims

section
open Sys2Proof Machine Claims

/-- R8, R334, R368, R411, R414, R416, R417, R420 and R425: the life of a partition, its tenants' slices and its stores. The
tables' bases are Plearo's free choice among addresses homed in the partition's slices (log 35, DESIGN CHOICE). -/
def Obligations.Partitions : Prop :=
  (∀ s n slices commons wsc key ok, s.booted = true → n < 16 → (partOf s n).state = .free →
    let i : Instr := .partitionCreate n slices commons wsc key ok
    let refused := slices = 0#16 ∨ 20 < commons ∨ 8 < wsc ∨ commons < wsc ∨ (∃ p ∈ s.parts, p.2.slices &&& slices ≠ 0#16) ∨
      ∃ k, k < 16 ∧ slices.getLsbD k = true ∧ (sliceOf s k).barred = true
    (refused → exec i s = .next { s with outbox := s.outbox ++ [.report .createRefused n] }) ∧
    (¬ refused → (∀ k, k < 4 → slices.getLsbD (Config.home ((freeBase s k).toNat / 64) % 16) = true) → ∃ t,
      exec i s = .next t ∧ t.groups = s.groups ∧ t.launches = s.launches ∧ (partOf t n).slices = slices ∧
      (partOf t n).shapeBase = freeBase s 0 ∧ (partOf t n).budgetBase = freeBase s 1 ∧ (partOf t n).winBase = freeBase s 2 ∧
      (partOf t n).wakeBase = freeBase s 3 ∧
      (partOf t n).commons = commons ∧ (partOf t n).wsc = wsc ∧ (partOf t n).keyId = key ∧
      (partOf t n).epoch = (partOf s n).epoch + 1 ∧ (partOf t n).state = (if ok = true then .running else .starting) ∧
      (∀ k, k ≠ n → partOf t k = partOf s k) ∧
      (∀ pa, slices.getLsbD (Config.home (pa / 64) % 16) = true → readMem t pa = 0#8) ∧
      (∀ pa, slices.getLsbD (Config.home (pa / 64) % 16) = false → readMem t pa = readMem s pa) ∧
      t.outbox = s.outbox ++ (if ok = true then [] else [.report .imageRefused n]))) ∧
  (∀ s n commons wsc, (partOf s n).state = .running →
    (20 < commons ∨ 8 < wsc ∨ commons < wsc →
      exec (.partitionChange n commons wsc) s = .next { s with outbox := s.outbox ++ [.report .changeRefused n] }) ∧
    (commons ≤ 20 → wsc ≤ 8 → wsc ≤ commons → ∃ t, exec (.partitionChange n commons wsc) s = .next t ∧ SameRun s t ∧
      partOf t n = { partOf s n with commons := commons, wsc := wsc, epoch := (partOf s n).epoch + 1 })) ∧
  (∀ s n, (partOf s n).state ≠ .free → ∃ t, exec (.partitionEnd n) s = .next t ∧ PartitionEnded s t n) ∧
  (∀ s slice src dst keep left u, src ≠ dst → (partOf s src).state = .running → (partOf s dst).state = .running →
    slice < 16 → (partOf s src).slices.getLsbD slice = true → (sliceOf s slice).barred = false →
    left = (partSlices s src).filter (fun k => k ≠ slice) → left ≠ [] → moveReady s slice src = true →
    (∀ k ∈ partSlices s dst, (sliceOf s k).inbox = []) → clearSlice (keep.foldl copyPage s) slice src left = some u → ∃ t,
      exec (.sliceMove slice src dst keep) s = .next t ∧ (partOf t src).slices.getLsbD slice = false ∧
      (partOf t dst).slices.getLsbD slice = true ∧
      ∀ k, k ≠ slice → (partOf t dst).slices.getLsbD k = (partOf u dst).slices.getLsbD k ∧
        (partOf t src).slices.getLsbD k = (partOf u src).slices.getLsbD k) ∧
  (∀ s slice part counts, slicePart s slice = some part → (partOf s part).specs = [] → counts.length = 4 →
    counts.foldl (· + ·) 0 ≤ 2 ^ 26 → ∃ t, exec (.windowStoreSizing slice counts) s = .next t ∧ SameRun s t ∧
      sliceOf t slice = { sliceOf s slice with wclasses := counts }) ∧
  (∀ s part slots, (partOf s part).state = .running → slots ≤ 65536 → ∃ t, exec (.imageStoreSizing part slots) s = .next t ∧
    SameRun s t ∧ (partOf t part).storeSize = slots ∧ ∀ e, e ∈ (partOf t part).store ↔ e ∈ (partOf s part).store ∧ e.1 < slots) ∧
  (∀ s part next, (partOf s part).state = .running → (partOf s part).sliceLength ≠ 0 →
    (partOf s part).sliceStart + (partOf s part).sliceLength ≤ s.now * 20 / 17 → next < 256 →
    (∀ c ∈ partCores s part, holdsTenant s (partOf s part).tenant c = false) → ∃ t,
      exec (.tenantSliceEnd part next) s = .next t ∧ SameRun s t ∧ (partOf t part).tenant = next ∧
        (partOf t part).sliceStart = s.now * 20 / 17) ∧
  (∀ s part next c, (partOf s part).state = .running → (partOf s part).sliceLength ≠ 0 →
    (partOf s part).sliceStart + (partOf s part).sliceLength ≤ s.now * 20 / 17 → next < 256 →
    (∀ k ∈ partCores s part, holdsTenant s (partOf s part).tenant k = true ↔ k = c) → c ∈ partCores s part →
    (partCores s part).Nodup → (s.groups.map Prod.fst).Nodup →
    let cmd := stopCmd s c 0
    ∀ set slots, StopReady s cmd set slots → setNoPre s set = false → ∃ t, exec (.tenantSliceEnd part next) s = .next t ∧
      (partOf t part).tenant = next ∧ (∀ k ∈ set, (coreOf t k).stopped = true) ∧
      ∀ gid g, mfind s.groups gid = some g → g.where_ = .resident → g.core ∈ set → GroupCarried s t gid .imaged)

/-- R364..R366, R419, R422 and R468 for what Mbotum does from a service core: a store to memory, its tables, and what it
alone sets for its partition. -/
def Obligations.ServiceCoreAccesses : Prop :=
  ∀ (s : State) (slice part : Nat), slicePart s slice = some part → (partOf s part).state = .running →
    let does (a : ServiceAccess) (ok : State → Prop) : Prop := ∃ t, exec (.serviceCoreMemoryAccess slice a) s = .next t ∧
      t.groups = s.groups ∧ ok t
    let same (t : State) : Prop := t.mem = s.mem
    (∀ addr size data, 1 ≤ size → size ≤ 8 → addr % size = 0 → Config.home (addr / 64) % 16 = slice → does (.write addr size data) (fun t =>
      (∀ k, k < size → readMem t (addr + k) = BitVec.ofNat 8 (data / 256 ^ k)) ∧
      ∀ pa, (pa < addr ∨ addr + size ≤ pa) → readMem t pa = readMem s pa)) ∧
    (∀ q d, q < 4096 → does (.queueDesc q d) (fun t => same t ∧ (∀ n, n ≠ q → descOf t slice n = descOf s slice n) ∧
      descOf t slice q = (if (slotFor s slice q).isSome = true then putBits d 159 128 (bitsOf (descOf s slice q) 159 128) else d))) ∧
    (∀ n e, n < 65536 → does (.flow n e) (fun t => same t ∧
      ∃ e', mget 0#256 (sliceOf t slice).flows n = e' ∧ bitsOf e' 79 16 = bitsOf (mget 0#256 (sliceOf s slice).flows n) 79 16 ∧
        bitsOf e' 255 80 = bitsOf e 255 80 ∧ bitsOf e' 15 0 = bitsOf e 15 0)) ∧
    (∀ n e, n < 65536 → does (.peer n e) (fun t => same t ∧ mget 0#128 (sliceOf t slice).peers n = e)) ∧
    (∀ n e, n < 256 → does (.budget n e) (fun t => same t ∧
      ∃ e', (budgetOf t part n).entry = e' ∧ (budgetOf t part n).bound = (budgetOf s part n).bound ∧
        bitsOf e' 511 352 = bitsOf e 511 352 ∧ bitsOf e' 351 208 = bitsOf (budgetOf s part n).entry 351 208 ∧
        bitsOf e' 191 160 = bitsOf (budgetOf s part n).entry 191 160)) ∧
    (∀ n e, n < 65536 → does (.asid n e) (fun t => same t ∧ mget 0#128 (partOf t part).asids n = e)) ∧
    (∀ n r, n < 4096 → does (.spec n r) (fun t => readN (readMem t) (specAddr (partOf s part) n) 128 = r.toNat)) ∧
    (∀ n e, n < 4096 → does (.stream n e) (fun t => readN (readMem t) (streamAddr (partOf s part) n) 64 = e.toNat)) ∧
    (∀ asid line host n e, asid < 65536 → line < 2 ^ 50 → host % 64 = 0 →
      wakeEntry s part asid line = some (n, e) → does (.wakeLine asid line host true) (fun t => same t ∧
        mfind (partOf t part).wakes n = some { e with host := true, hostline := host })) ∧
    (∀ bytes, does (.overflow bytes) (fun t => same t ∧ partOf t part = { partOf s part with overflow := bytes })) ∧
    (∀ ns, ns = 0 ∨ (100000 ≤ ns ∧ ns ≤ 100000000) → does (.sliceLength ns) (fun t => same t ∧
      partOf t part = { partOf s part with sliceLength := ns, sliceStart := s.now * 20 / 17 })) ∧
    (∀ on, does (.cxlMem on) (fun t => same t ∧ partOf t part = { partOf s part with cxlMem := on })) ∧
    (∀ pos r, pos < 16 → does (.core pos r) (fun t => same t ∧
      coreOf t (slice * 16 + pos) = { coreOf s (slice * 16 + pos) with reserved := r })) ∧
    does .readErrors (fun t => same t ∧ (sliceOf t slice).errs = [] ∧ (sliceOf t slice).errOverflow = false)

/-- R412, R425, R426 and R429..R435: boot, certificates, measurements of wear, the voltage offset of each core, in-field
tests, deconfiguration, and thermal limits. -/
def Obligations.WearAndHealth : Prop :=
  (∀ s ok, s.booted = false → exec (.boot ok) s = .next { s with booted := ok }) ∧
  (∀ s core slacks, core < 256 → slacks.length = 8 → ∃ t, exec (.invarAdjust core slacks) s = .next t ∧ SameRun s t ∧
    let w := (coreOf s core).wear
    let w' := (coreOf t core).wear
    w'.slack = slacks ∧ w'.made = w.made ∧ w'.bins = w.bins ∧
      ((∃ x ∈ slacks, x < 20) → w'.offset = min 40 (w.offset + 1) ∧ w'.above45 = 0 ∧ w'.highest = max w.highest w'.offset) ∧
      ((∀ x ∈ slacks, 20 ≤ x) → w'.highest = w.highest ∧
        ((∀ x ∈ slacks, 45 < x) → (w.above45 + 1 < 100 → w'.offset = w.offset ∧ w'.above45 = w.above45 + 1) ∧
          (100 ≤ w.above45 + 1 → w'.offset = max w.made (w.offset - 1) ∧ w'.above45 = 0)) ∧
        ((∃ x ∈ slacks, x ≤ 45) → w'.offset = w.offset ∧ w'.above45 = 0))) ∧
  (∀ s core temp volt, core < 256 → temp < 8 → volt < 8 → ∃ t, exec (.binHourTick core temp volt) s = .next t ∧ SameRun s t ∧
    t.hours = (if core = 0 then s.hours + 1 else s.hours) ∧
    ∀ b, mget 0 (coreOf t core).wear.bins b = if b = temp * 8 + volt then (mget 0 (coreOf s core).wear.bins b + 1) % 2 ^ 32
      else mget 0 (coreOf s core).wear.bins b) ∧
  (∀ s slice sram hbm, slice < 16 → ∃ t, exec (.marginMeasurement slice sram hbm) s = .next t ∧ SameRun s t ∧
    sliceOf t slice = { sliceOf s slice with sramMargin := sram, hbmMargin := hbm }) ∧
  (∀ s core, configured s core = true → (∀ c ∈ sliceCores s (core / 16), (coreOf s c).wear.testDue = false ∧ (coreOf s c).selfTest = false) →
    (coreOf s core).wear.tested + 86400000000000 ≤ s.now * 20 / 17 → ∃ t, exec (.fieldTestSchedule core) s = .next t ∧ SameRun s t ∧
      coreOf t core = { coreOf s core with wear := { (coreOf s core).wear with testDue := true } }) ∧
  (∀ s slice part o pass, slicePart s slice = some part → (sliceOf s slice).imgOps.find? (fun o =>
      !o.waiting && bitsOf o.cmd 3 0 == 4 && o.cores.any (fun c => (coreOf s c).selfTest)) = some o →
    let core := icCore o.cmd
    let w := (coreOf s core).wear
    let fails : Prop := pass = false ∨ (w.offset = 40 ∧ ∃ x ∈ w.slack, x < 20)
    (¬ fails ∨ clPairs s (core / 16) ≠ 6 → ∃ t, exec (.selfTestComplete slice pass) s = .next t ∧ SameRun s t ∧
      (coreOf t core).selfTest = false ∧ (coreOf t core).wear.testDue = false ∧ (coreOf t core).wear.tested = s.now * 20 / 17 ∧
      ((coreOf t core).wear.failed = true ↔ fails) ∧ (budgetOf t part 255).test = (budgetOf s part 255).test + 2000) ∧
    (fails → clPairs s (core / 16) = 6 → ∃ t, exec (.selfTestComplete slice pass) s = .next t ∧
      (sliceOf t (core / 16)).barred = true ∧ ∀ p ∈ s.parts, p.2.slices.getLsbD (core / 16) = true →
        (partOf t p.1).state = .free)) ∧
  (∀ s slice pair, slice < 16 → pair < 8 → pairGone s slice pair = false →
    let i : Instr := .deconfiguration slice pair
    (clPairs s slice ≤ 6 → pairAtLimit s slice pair = true → pairFailed s slice pair = false → ∃ t, exec i s = .next t ∧
      SameRun s t ∧ (sliceOf t slice).floor = true) ∧
    (clPairs s slice ≤ 6 → pairFailed s slice pair = true → ∃ t, exec i s = .next t ∧ (sliceOf t slice).barred = true) ∧
    (6 < clPairs s slice → pairAtLimit s slice pair = true ∨ pairFailed s slice pair = true → pairReady s slice pair = true →
      ∃ t, exec i s = .next t ∧ t.deconf = s.deconf ++ [{ slice := slice, pair := pair, time := s.now * 20 / 17 }] ∧
        pairGone t slice pair = true ∧ (∀ p, slicePart s slice = some p → (partOf t p).epoch = (partOf s p).epoch + 1) ∧
        (slicePart s slice = none → pairImages s slice pair = [] → leavingBlocks s slice pair = [] → t.groups = s.groups))) ∧
  (∀ s nonce time, s.booted = true →
    (∃ t c, exec (.healthCertificate nonce time) s = .next t ∧ SameRun s t ∧ t.certs = s.certs ++ [c] ∧ c.nonce = nonce ∧
      c.time = time ∧ c.spdm = false ∧ c.hours = s.hours ∧ c.bands = coreBands s ∧ c.log = s.deconf ∧
      c.pairs = (List.range 16).map (clPairs s) ∧
      c.margins = (List.range 16).map (fun k => ((sliceOf s k).sramMargin, (sliceOf s k).hbmMargin)) ∧
      c.bins = (List.range 256).map (fun k => (coreOf s k).wear.bins) ∧
      ∀ k, k < 16 → c.floor.getLsbD k = (sliceOf s k).floor) ∧
    ∃ t c, exec (.spdmAttestation nonce) s = .next t ∧ SameRun s t ∧ t.certs = s.certs ++ [c] ∧ c.nonce = nonce ∧ c.spdm = true ∧
      c.entries.length = 16 ∧ ∀ k, k < 16 → bitsOf ((c.entries[k]?).getD 0#512) 31 16 = (partOf s k).slices.toNat) ∧
  (∀ s on, exec (.thermalThrottle on) s = .next { s with temp := if on = true then .throttled else .normal }) ∧
  (∀ s, (s.parts.map Prod.fst).Nodup → ∃ t, exec .thermalShutdown s = .next t ∧ t.temp = .shutDown ∧
    ∀ p ∈ s.parts, (partOf t p.1).state = .free)

end

/-! ## The whole machine (R32, R52, R71, R77, R78, R368, R415, R425) -/

namespace Sys2Proof.Claims

open Machine

/-- A table in ascending order of its keys. -/
def Ascending {α : Type} (m : Map α) : Prop := m.Pairwise (fun x y => x.1 < y.1)

/-- The tables of launches, blocks and groups, and every group's table of threads, are in ascending order. -/
def TablesAscending (s : State) : Prop :=
  Ascending s.launches ∧ Ascending s.blocks ∧ Ascending s.groups ∧ ∀ e ∈ s.groups, Ascending e.2.threads

/-- A state in which the next step issues the word of a gang: nothing else is due, and it is the issue's turn (R32). -/
structure IssuesNext (s : State) (q : Issue) : Prop where
  agenda : s.agenda = []
  nothingDue : firstEnabled s (dueEvents s) = none
  next : nextIssue s = some q
  turn : (∀ e ∈ engineChoices s, enabled s e = false) ∨
    engineTurn s ((engineChoices s).filter (enabled s)) = none ∧ (anyStarved s = true ∨ freeChoice s 60007 = true)

/-- A word that nothing holds as it issues: no outstanding access meets its registers (R122), no region waits for its error
checks (R396), a credit (R13), a place among the unfinished instructions (R306) and the HBM budget are there (R320), and no
register that it reads has been poisoned (R401). -/
structure Unheld (s : State) (q : Issue) (i : Instr) : Prop where
  registers : scoreboard s q i = false
  regions : regionHolds s q i = false
  credits : creditHolds s q i = false
  replay : replayFull s q.gid = false
  budget : hbmHolds s q i = false
  soft : softLanes s q (sourceRegs i) = []

/-- What an issue leaves beside the effect of its instruction: its counts (R38, R48, R319, R320), and the poison that a
written register loses (R401). -/
def afterWord (u : State) (q : Issue) (w : DWord) (i : Instr) (t : State) : State :=
  clearSoft (countIssue (groupOf u q.gid).launch q w i t) q.gid (softLanes u q (destRegs i))

/-- Memory, the uniform registers, and the registers, places and waits of every thread are the same. -/
def SameThreads (s t : State) : Prop :=
  t.mem = s.mem ∧ t.issue = s.issue ∧ ∀ gid g, mfind s.groups gid = some g → ∃ g', mfind t.groups gid = some g' ∧ g'.uni = g.uni ∧
    ∀ l th, mfind g.threads l = some th → ∃ th', mfind g'.threads l = some th' ∧ th'.rf = th.rf ∧ th'.pc = th.pc ∧ th'.run = th.run

end Sys2Proof.Claims

section
open Sys2Proof Machine Claims

/-- R368, R415 and R425: right after reset no partition exists and nothing has booted; every other value is that of the
reset state of this model (logs 3, 4 and 5), whose memory lists nothing and whose tables are empty. -/
def Obligations.ResetState : Prop :=
  (∀ n, (partOf State.reset n).state = .free ∧ (partOf State.reset n).slices = 0#16) ∧ State.reset.booted = false ∧
    State.reset.groups = [] ∧ State.reset.launches = [] ∧ State.reset.now = 0 ∧
    (∀ pa, readMem State.reset pa = 0#8) ∧ Memory.wf State.reset.mem = true ∧ TablesAscending State.reset

/-- Every step keeps memory in its canonical form: addresses strictly rising, and no listed byte equal to what an unlisted
address reads as. -/
def Obligations.MemoryStaysCanonical : Prop :=
  ∀ s t : State, Memory.wf s.mem = true → step s = .next t → Memory.wf t.mem = true

/-- Every step keeps the tables of launches, blocks, groups and threads in ascending order, each key once: a launch, a
block, a group and a thread is one entry of the state. -/
def Obligations.TablesStayAscending : Prop :=
  ∀ s t : State, TablesAscending s → step s = .next t → TablesAscending t

/-- R32, R52 and R78: where the next step issues, the word at the gang's PC decodes and nothing holds it, the step is the
execution of that instruction, with the counts of an issue and the end of the step after it; a word that decodes to nothing
is executed as an unassigned opcode. The counts change no memory and no register, place or wait of a thread. An event of
the agenda is executed as it stands. -/
def Obligations.StepRunsDecodedInstruction : Prop :=
  (∀ (s : State) (q : Issue) (c : Ctx) (pa : Nat) (attr : PageType), IssuesNext s q →
    let u : State := { s with issue := some q }
    ctxOf u = some c → (groupOf s q.gid).replay = [] →
    xlate u c.g (threadOf c.g (lowest c.gang)).walked (launchOf s c.g.launch).part (launchOf s c.g.launch).asid
      (launchOf s c.g.launch).level q.pc.toNat .exec 512 = .ok pa attr →
    mfind s.stale (pa / 8) = none →
    let word := readN (readMem s) pa 8
    let runs (i : Instr) : Prop := Unheld u q i →
      (∀ t, exec i u = .next t → let t' := afterWord u q (BitVec.ofNat 64 word) i t
        step s = .next (finish (progressed q t') (if hasIssued q t' = true then some q.gid else none) t')) ∧
      (∀ r, exec i u = .refused r → step s = .refused r)
    (∀ i, decodeWord word = .ok i → runs i) ∧
    (∀ e, decodeWord word = .error e → runs (.unassignedOpcode (BitVec.ofNat 64 word)))) ∧
  (∀ (u t : State) (q : Issue) (w : DWord) (i : Instr), SameThreads t (afterWord u q w i t)) ∧
  (∀ (s : State) (i : Instr) (rest : List Instr), s.agenda = i :: rest →
    (∀ t, exec i { s with agenda := rest } = .next t → step s = .next (finish true none t)) ∧
    (∀ r, exec i { s with agenda := rest } = .refused r → step s = .next (finish true none { s with agenda := rest })))

/-- R71..R77: the words that the spec writes out decode to the instructions that it gives them. -/
def Obligations.SpecWordsDecode : Prop :=
  decodeWord 0x01700600C8280020 = .ok (.iadd ⟨⟨false, 7⟩, .v 3, .reg (.v 3), .imm 5, .reg (.v 0), .s32, .ne, false, false⟩) ∧
  decodeWord 0x0570080140300722 = .ok (.imad ⟨⟨false, 7⟩, .v 4, .reg (.v 5), .reg (.v 6), .reg (.v 7), .s32, .ne, true, false⟩) ∧
  decodeWord 0x33A00E0100280748 = .ok (.ffma ⟨⟨true, 2⟩, .v 7, .reg (.v 4), .reg (.v 5), .reg (.v 7), .f32, .up, false, false⟩) ∧
  decodeWord 0x1D7010000000000B = .ok (.movs ⟨⟨false, 7⟩, .v 8, .gang⟩) ∧
  decodeWord 0xD0000000FFFFFFFE = .ok (.bra ⟨⟨false, 0⟩, false, 0xFFFFFFFE#32⟩) ∧
  decodeWord 0xD0210000FFFFFFFB = .ok (.bra ⟨⟨false, 2⟩, true, 0xFFFFFFFB#32⟩) ∧
  decodeWord 0xD770008000000000 = .ok (.lnch ⟨⟨false, 7⟩, .v 4⟩) ∧
  decodeWord 0xF670100280000000 = .ok (.tlbi ⟨⟨false, 7⟩, .v 8, .v 10, 0⟩)

/-- R71..R77: reading back what the encoder writes: every well-formed instruction that has a word is what its word decodes
to, with every operand, and its word has 64 bits. -/
def Obligations.DecodeOfEncode : Prop :=
  ∀ i : Instr, i.isWord = true → i.WellFormed → decodeWord (encode i) = .ok i ∧ encode i < 2 ^ 64

/-- R71..R78: every word that is accepted is the encoding of the instruction that it decodes to: no bit of an accepted word
is without a meaning, and what is decoded is well-formed. -/
def Obligations.EncodeOfDecode : Prop :=
  ∀ (w : Nat) (i : Instr), w < 2 ^ 64 → decodeWord w = .ok i → encode i = w ∧ i.isWord = true ∧ i.WellFormed

end
end

