-- ==== Sys2Proof/Laws/Fields.lean ====
section
/-! SUPPORT. The fields of an instruction word read back as they were written: each code and its inverse, and
a word packed from fields. -/

namespace Sys2Proof

/-- A word packed from fields unpacks to those fields, each within its width. -/
theorem unpack_mk (ws xs : List Nat) (h : ws.length = xs.length) :
    unpack ws (mk ws xs) = (ws.zip xs).map (fun f => f.2 % 2 ^ f.1) := by
  induction ws generalizing xs with
  | nil => rfl
  | cons b bs ih =>
    cases xs with
    | nil => simp at h
    | cons x xs =>
      have hlt : x % 2 ^ b < 2 ^ b := Nat.mod_lt _ (Nat.two_pow_pos b)
      have htail := ih xs (by simpa using h)
      simp only [mk] at htail
      simp only [mk, List.zip_cons_cons, pack, unpack, List.map_cons, Nat.add_mul_mod_self_left,
        Nat.mod_mod, Nat.add_mul_div_left _ _ (Nat.two_pow_pos b), Nat.div_eq_of_lt hlt, Nat.zero_add,
        htail]

/-- The number a word packs is within the sum of its widths. -/
theorem pack_lt (fs : List (Nat × Nat)) : pack fs < 2 ^ (fs.map Prod.fst).sum := by
  induction fs with
  | nil => simp [pack]
  | cons f fs ih =>
    obtain ⟨b, x⟩ := f
    have hlt : x % 2 ^ b < 2 ^ b := Nat.mod_lt _ (Nat.two_pow_pos b)
    have h : 2 ^ b * (pack fs + 1) ≤ 2 ^ b * 2 ^ (fs.map Prod.fst).sum := Nat.mul_le_mul_left _ ih
    simp only [pack, List.map_cons, List.sum_cons, Nat.pow_add]
    rw [Nat.mul_add] at h
    omega

/-! ## Codes -/

@[simp] theorem predOf_code (p : Pred) : predOf (predCode p % 16) = p := by
  obtain ⟨n, ps⟩ := p
  revert n ps; decide

@[simp] theorem boolOf_code (b : Bool) : boolOf (boolCode b % 2) = b := by cases b <;> rfl

@[simp] theorem boolOf_code16 (b : Bool) : boolOf (boolCode b % 16) = b := by cases b <;> rfl

@[simp] theorem boolOf_code65536 (b : Bool) : boolOf (boolCode b % 65536) = b := by cases b <;> rfl

theorem boolCode_lt (b : Bool) : boolCode b < 2 := by cases b <;> decide

@[simp] theorem tagOf_code (t : Tag) : tagOf (tagCode t % 16) = t := by cases t <;> rfl

@[simp] theorem mtOf_code (t : MemType) : mtOf (mtCode t % 16) = t := by cases t <;> rfl

@[simp] theorem rndOf_code (r : Rnd) : rndOf (rndCode r % 4) = r := by cases r <;> rfl

@[simp] theorem scopeOf_code (x : Scope) : scopeOf (scopeCode x % 8) = .ok x := by cases x <;> rfl

@[simp] theorem orderOf_code (x : Order) : orderOf (orderCode x % 4) = x := by cases x <;> rfl

@[simp] theorem hintOf_code (x : Hint) : hintOf (hintCode x % 4) = x := by cases x <;> rfl

@[simp] theorem srOf_code (x : SpecialReg) : srOf (srCode x % 67108864) = .ok x := by cases x <;> rfl

@[simp] theorem sysOf_code (x : SysReg) : sysOf (sysCode x % 16384) = .ok x := by cases x <;> rfl

@[simp] theorem aopOf_code (x : AtomOp) : aopOf (aopCode x % 32) = .ok x := by cases x <;> rfl

@[simp] theorem gopOf_code (x : GroupOp) : gopOf (gopCode x % 16) = .ok x := by cases x <;> rfl

@[simp] theorem matOf_code (x : MatFmt) : matOf (matCode x % 16) = .ok x := by cases x <;> rfl

@[simp] theorem afOf_code (r : Fin 4) : afOf (afCode r % 2048) = .ok r := by
  match r with
  | 0 => rfl
  | 1 => rfl
  | 2 => rfl
  | 3 => rfl

theorem constCode_lt (c : NamedConst) : constCode c < 15 := by cases c <;> decide

theorem constOf_code (c : NamedConst) : constOf (constCode c) = some c := by cases c <;> rfl

theorem srcCode_lt (s : Src) : srcCode s < 2048 := by
  cases s with
  | reg r => cases r <;> simp only [srcCode, regCode] <;> omega
  | imm i => simp only [srcCode]; omega
  | const c => have := constCode_lt c; simp only [srcCode]; omega

@[simp] theorem srcOf_code (s : Src) : srcOf (srcCode s % 2048) = .ok s := by
  rw [Nat.mod_eq_of_lt (srcCode_lt s)]
  cases s with
  | reg r =>
    cases r with
    | v n => simp [srcCode, regCode, srcOf, n.isLt]
    | k n =>
      have h1 : ¬ (1024 + n.val < 256) := by omega
      have h2 : ¬ (1024 + n.val - 256 < 128) := by omega
      have h3 : ¬ (1024 + n.val < 1024) := by omega
      have h4 : 1024 + n.val - 1024 = n.val := by omega
      have h5 : 1024 + n.val - 1024 < 1024 := by omega
      have h6 : (⟨1024 + n.val - 1024, h5⟩ : Fin 1024) = n := Fin.ext h4
      show srcOf (1024 + n.val) = _
      unfold srcOf
      rw [dif_neg h1, dif_neg h2, if_neg h3, dif_pos h5, h6]
  | imm i =>
    have h1 : ¬ (256 + i.val < 256) := by omega
    simp [srcCode, srcOf, i.isLt]
  | const c =>
    have h := constCode_lt c
    have h1 : ¬ (384 + constCode c < 256) := by omega
    have h2 : ¬ (384 + constCode c - 256 < 128) := by omega
    have h3 : 384 + constCode c < 1024 := by omega
    have h4 : 384 + constCode c - 384 = constCode c := by omega
    show srcOf (384 + constCode c) = _
    unfold srcOf
    rw [dif_neg h1, dif_neg h2, if_pos h3, h4, constOf_code]

@[simp] theorem regOf_code (r : Reg) : regOf (regCode r % 2048) = .ok r := by
  have h := srcOf_code (.reg r)
  simp only [srcCode] at h
  simp [regOf, h]

@[simp] theorem maskOf_code (m : LaneMask) : maskOf (maskCode m % 2048) = .ok m := by
  cases m with
  | gang => rfl
  | all => rfl
  | kregs n =>
    have h0 : (1024 + 4 * n.val) % 2048 = 1024 + 4 * n.val := Nat.mod_eq_of_lt (by omega)
    have h1 : ¬ (1024 + 4 * n.val = 384) := by omega
    have h2 : ¬ (1024 + 4 * n.val = 386) := by omega
    have h3 : (1024 + 4 * n.val) % 4 = 0 := by omega
    have h4 : (1024 + 4 * n.val - 1024) / 4 = n.val := by omega
    simp [maskCode, maskOf, h0, h1, h2, h3, n.isLt]

/-- A field that holds a number of a finite type gives it back. -/
@[simp] theorem ofNat_fin_mod {n : Nat} [NeZero n] (m : Nat) (x : Fin n) (h : n ≤ m) :
    finOf n (x.val % m) = x := by
  have := x.isLt
  apply Fin.ext
  show x.val % m % n = x.val
  rw [Nat.mod_eq_of_lt (Nat.lt_of_lt_of_le this h), Nat.mod_eq_of_lt this]

/-- A field that holds the bits of a word gives it back. -/
@[simp] theorem ofNat_bits_mod {n : Nat} (x : BitVec n) (m : Nat) (h : 2 ^ n ≤ m) :
    BitVec.ofNat n (x.toNat % m) = x := by
  have := x.isLt
  rw [Nat.mod_eq_of_lt (Nat.lt_of_lt_of_le this h)]
  simp

end Sys2Proof
end

