-- ==== Sys2Proof/Laws/Maps.lean ====
section
/-! SUPPORT. The laws of sparse tables: what an entry reads as after a change, and the canonical form. -/

namespace Sys2Proof.Machine

variable {α β : Type}

/-! ## Reading after a change -/

@[simp] theorem mfind_mput_self (m : Map α) (n : Nat) (x : α) : mfind (mput m n x) n = some x := by
  induction m with
  | nil => simp [mput, mfind]
  | cons e m ih =>
    simp only [mput]
    split
    · simp [mfind]
    · split
      · simp [mfind]
      · rename_i h _
        simp [mfind, h, ih]

theorem mfind_mput_other (m : Map α) {n k : Nat} (x : α) (h : k ≠ n) : mfind (mput m n x) k = mfind m k := by
  induction m with
  | nil => simp [mput, mfind, h]
  | cons e m ih =>
    simp only [mput]
    split
    · rename_i he
      simp [mfind, h, ← he]
    · split
      · simp [mfind, h]
      · simp only [mfind, ih]

/-- A table in which one key has been put. -/
theorem mfind_mput (m : Map α) (n k : Nat) (x : α) :
    mfind (mput m n x) k = if k = n then some x else mfind m k := by
  split
  · rename_i h; rw [h, mfind_mput_self]
  · rename_i h; rw [mfind_mput_other m x h]

@[simp] theorem mget_mput_self (d : α) (m : Map α) (n : Nat) (x : α) : mget d (mput m n x) n = x := by
  simp [mget]

theorem mget_mput_other (d : α) (m : Map α) {n k : Nat} (x : α) (h : k ≠ n) :
    mget d (mput m n x) k = mget d m k := by
  simp [mget, mfind_mput_other m x h]

theorem mfind_mdel_other (m : Map α) {n k : Nat} (h : k ≠ n) : mfind (mdel m n) k = mfind m k := by
  induction m with
  | nil => rfl
  | cons e m ih =>
    simp only [mdel]
    split
    · rename_i he
      simp [mfind, h, ← he, ih]
    · simp only [mfind, ih]

theorem mget_mset_other [DecidableEq α] (d : α) (m : Map α) {n k : Nat} (x : α) (h : k ≠ n) :
    mget d (mset d m n x) k = mget d m k := by
  unfold mset
  split
  · simp [mget, mfind_mdel_other m h]
  · exact mget_mput_other d m x h

/-- A changed entry reads as the change of what it was; every other entry as before. -/
theorem mfind_mmod (m : Map α) (n k : Nat) (f : α → α) :
    mfind (mmod m n f) k = if k = n then (mfind m n).map f else mfind m k := by
  unfold mmod
  split
  · rename_i a ha
    rw [mfind_mput, ha]
    rfl
  · rename_i ha
    split
    · rename_i h; rw [h, ha]; rfl
    · rfl

@[simp] theorem mfind_mmap (m : Map α) (f : Nat → α → β) (n : Nat) :
    mfind (mmap f m) n = (mfind m n).map (f n) := by
  induction m with
  | nil => rfl
  | cons e m ih =>
    simp only [mmap, List.map_cons, mfind] at *
    split
    · rename_i h; rw [h]; rfl
    · exact ih

/-! ## The canonical form -/

theorem msorted_tail [DecidableEq α] {d : α} {e : Nat × α} {m : Map α} (h : msorted d (e :: m) = true) :
    msorted d m = true := by
  cases m with
  | nil => rfl
  | cons e' m => simp [msorted] at h; exact h.2

/-- In canonical form, every later key is above the first. -/
theorem msorted_lt [DecidableEq α] {d : α} {k : Nat} {a : α} {m : Map α} (h : msorted d ((k, a) :: m) = true) :
    ∀ e ∈ m, k < e.1 := by
  induction m generalizing k a with
  | nil => simp
  | cons e' m ih =>
    obtain ⟨k', a'⟩ := e'
    simp [msorted] at h
    intro e he
    rcases List.mem_cons.1 he with rfl | he
    · exact h.1.1
    · exact Nat.lt_trans h.1.1 (ih h.2 e he)

theorem msorted_cons [DecidableEq α] (d : α) (k : Nat) (a : α) (m : Map α) :
    msorted d ((k, a) :: m) = true ↔ a ≠ d ∧ (∀ e ∈ m, k < e.1) ∧ msorted d m = true := by
  constructor
  · intro h
    refine ⟨?_, msorted_lt h, msorted_tail h⟩
    cases m with
    | nil => simpa [msorted] using h
    | cons e m => simp [msorted] at h; exact h.1.2
  · rintro ⟨ha, hk, hm⟩
    cases m with
    | nil => simp [msorted, ha]
    | cons e m =>
      have h1 := hk e (List.mem_cons_self ..)
      simp [msorted, ha, h1, hm]

theorem mem_mput {m : Map α} {n : Nat} {x : α} {e : Nat × α} (h : e ∈ mput m n x) : e = (n, x) ∨ e ∈ m := by
  induction m with
  | nil => simpa [mput] using h
  | cons e' m ih =>
    simp only [mput] at h
    split at h
    · rcases List.mem_cons.1 h with h | h
      · exact .inl h
      · exact .inr (List.mem_cons_of_mem _ h)
    · split at h
      · rcases List.mem_cons.1 h with h | h
        · exact .inl h
        · exact .inr h
      · rcases List.mem_cons.1 h with h | h
        · exact .inr (h ▸ List.mem_cons_self ..)
        · exact (ih h).imp_right (List.mem_cons_of_mem _)

theorem mem_mdel {m : Map α} {n : Nat} {e : Nat × α} (h : e ∈ mdel m n) : e ∈ m := by
  induction m with
  | nil => exact h
  | cons e' m ih =>
    simp only [mdel] at h
    split at h
    · exact List.mem_cons_of_mem _ (ih h)
    · rcases List.mem_cons.1 h with h | h
      · exact h ▸ List.mem_cons_self ..
      · exact List.mem_cons_of_mem _ (ih h)

theorem msorted_mput [DecidableEq α] {d : α} {m : Map α} (n : Nat) {x : α} (hx : x ≠ d)
    (h : msorted d m = true) : msorted d (mput m n x) = true := by
  induction m with
  | nil => simp [mput, msorted, hx]
  | cons e m ih =>
    obtain ⟨k, a⟩ := e
    have hc := (msorted_cons d k a m).1 h
    simp only [mput]
    split
    · rename_i hn
      exact (msorted_cons ..).2 ⟨hx, hn ▸ hc.2.1, hc.2.2⟩
    · split
      · rename_i hlt
        refine (msorted_cons ..).2 ⟨hx, ?_, h⟩
        intro e he
        rcases List.mem_cons.1 he with rfl | he
        · exact hlt
        · exact Nat.lt_trans hlt (hc.2.1 e he)
      · rename_i hne hge
        refine (msorted_cons ..).2 ⟨hc.1, ?_, ih hc.2.2⟩
        intro e he
        rcases mem_mput he with rfl | he
        · simp only; omega
        · exact hc.2.1 e he

theorem msorted_mdel [DecidableEq α] {d : α} {m : Map α} (n : Nat) (h : msorted d m = true) :
    msorted d (mdel m n) = true := by
  induction m with
  | nil => exact h
  | cons e m ih =>
    obtain ⟨k, a⟩ := e
    have hc := (msorted_cons d k a m).1 h
    simp only [mdel]
    split
    · exact ih hc.2.2
    · exact (msorted_cons ..).2 ⟨hc.1, fun e he => hc.2.1 e (mem_mdel he), ih hc.2.2⟩

/-- Setting a key keeps the canonical form. -/
theorem msorted_mset [DecidableEq α] {d : α} {m : Map α} (n : Nat) (x : α) (h : msorted d m = true) :
    msorted d (mset d m n x) = true := by
  unfold mset
  split
  · exact msorted_mdel n h
  · rename_i hx; exact msorted_mput n hx h

/-- Leaving entries out keeps the canonical form. -/
theorem msorted_filter [DecidableEq α] {d : α} {m : Map α} (p : Nat × α → Bool) (h : msorted d m = true) :
    msorted d (m.filter p) = true := by
  induction m with
  | nil => exact h
  | cons e m ih =>
    obtain ⟨k, a⟩ := e
    have hc := (msorted_cons d k a m).1 h
    simp only [List.filter_cons]
    split
    · exact (msorted_cons ..).2 ⟨hc.1, fun e he => hc.2.1 e ((List.mem_filter.1 he).1), ih hc.2.2⟩
    · exact ih hc.2.2

/-- A deleted key is absent. -/
@[simp] theorem mfind_mdel_self (m : Map α) (n : Nat) : mfind (mdel m n) n = none := by
  induction m with
  | nil => rfl
  | cons e m ih =>
    simp only [mdel]
    split
    · exact ih
    · rename_i hn
      simp only [mfind, if_neg hn, ih]

/-- A set key reads as what was set. -/
@[simp] theorem mget_mset_self [DecidableEq α] (d : α) (m : Map α) (n : Nat) (x : α) : mget d (mset d m n x) n = x := by
  unfold mset
  split
  · rename_i hx
    simp [mget, hx]
  · exact mget_mput_self d m n x

/-- A set key reads as what was set, and every other key as before. -/
theorem mget_mset [DecidableEq α] (d : α) (m : Map α) (n k : Nat) (x : α) :
    mget d (mset d m n x) k = if k = n then x else mget d m k := by
  split
  · rename_i h; rw [h, mget_mset_self]
  · rename_i h; exact mget_mset_other d m x h

end Sys2Proof.Machine
end

