-- ==== Sys2Proof/Laws/State.lean ====
section
/-! SUPPORT. The fields of the state after a change of one core, slice, partition, launch, block or group: one
lemma for each field and each change. -/

namespace Sys2Proof.Machine

/-! ## modCore -/

@[simp] theorem now_modCore (s : State) (c : Nat) (f : Core → Core) : (modCore s c f).now = s.now := rfl

@[simp] theorem fresh_modCore (s : State) (c : Nat) (f : Core → Core) : (modCore s c f).fresh = s.fresh := rfl

@[simp] theorem agenda_modCore (s : State) (c : Nat) (f : Core → Core) : (modCore s c f).agenda = s.agenda := rfl

@[simp] theorem issue_modCore (s : State) (c : Nat) (f : Core → Core) : (modCore s c f).issue = s.issue := rfl

@[simp] theorem co_modCore (s : State) (c : Nat) (f : Core → Core) : (modCore s c f).co = s.co := rfl

@[simp] theorem mem_modCore (s : State) (c : Nat) (f : Core → Core) : (modCore s c f).mem = s.mem := rfl

@[simp] theorem stale_modCore (s : State) (c : Nat) (f : Core → Core) : (modCore s c f).stale = s.stale := rfl

@[simp] theorem poison_modCore (s : State) (c : Nat) (f : Core → Core) : (modCore s c f).poison = s.poison := rfl

@[simp] theorem owner_modCore (s : State) (c : Nat) (f : Core → Core) : (modCore s c f).owner = s.owner := rfl

@[simp] theorem parts_modCore (s : State) (c : Nat) (f : Core → Core) : (modCore s c f).parts = s.parts := rfl

@[simp] theorem slices_modCore (s : State) (c : Nat) (f : Core → Core) : (modCore s c f).slices = s.slices := rfl

@[simp] theorem launches_modCore (s : State) (c : Nat) (f : Core → Core) : (modCore s c f).launches = s.launches := rfl

@[simp] theorem blocks_modCore (s : State) (c : Nat) (f : Core → Core) : (modCore s c f).blocks = s.blocks := rfl

@[simp] theorem groups_modCore (s : State) (c : Nat) (f : Core → Core) : (modCore s c f).groups = s.groups := rfl

@[simp] theorem deconf_modCore (s : State) (c : Nat) (f : Core → Core) : (modCore s c f).deconf = s.deconf := rfl

@[simp] theorem booted_modCore (s : State) (c : Nat) (f : Core → Core) : (modCore s c f).booted = s.booted := rfl

@[simp] theorem temp_modCore (s : State) (c : Nat) (f : Core → Core) : (modCore s c f).temp = s.temp := rfl

@[simp] theorem hours_modCore (s : State) (c : Nat) (f : Core → Core) : (modCore s c f).hours = s.hours := rfl

@[simp] theorem certs_modCore (s : State) (c : Nat) (f : Core → Core) : (modCore s c f).certs = s.certs := rfl

@[simp] theorem outbox_modCore (s : State) (c : Nat) (f : Core → Core) : (modCore s c f).outbox = s.outbox := rfl

@[simp] theorem nextId_modCore (s : State) (c : Nat) (f : Core → Core) : (modCore s c f).nextId = s.nextId := rfl

/-! ## modSlice -/

@[simp] theorem now_modSlice (s : State) (n : Nat) (f : Slice → Slice) : (modSlice s n f).now = s.now := rfl

@[simp] theorem fresh_modSlice (s : State) (n : Nat) (f : Slice → Slice) : (modSlice s n f).fresh = s.fresh := rfl

@[simp] theorem agenda_modSlice (s : State) (n : Nat) (f : Slice → Slice) : (modSlice s n f).agenda = s.agenda := rfl

@[simp] theorem issue_modSlice (s : State) (n : Nat) (f : Slice → Slice) : (modSlice s n f).issue = s.issue := rfl

@[simp] theorem co_modSlice (s : State) (n : Nat) (f : Slice → Slice) : (modSlice s n f).co = s.co := rfl

@[simp] theorem mem_modSlice (s : State) (n : Nat) (f : Slice → Slice) : (modSlice s n f).mem = s.mem := rfl

@[simp] theorem stale_modSlice (s : State) (n : Nat) (f : Slice → Slice) : (modSlice s n f).stale = s.stale := rfl

@[simp] theorem poison_modSlice (s : State) (n : Nat) (f : Slice → Slice) : (modSlice s n f).poison = s.poison := rfl

@[simp] theorem owner_modSlice (s : State) (n : Nat) (f : Slice → Slice) : (modSlice s n f).owner = s.owner := rfl

@[simp] theorem parts_modSlice (s : State) (n : Nat) (f : Slice → Slice) : (modSlice s n f).parts = s.parts := rfl

@[simp] theorem cores_modSlice (s : State) (n : Nat) (f : Slice → Slice) : (modSlice s n f).cores = s.cores := rfl

@[simp] theorem launches_modSlice (s : State) (n : Nat) (f : Slice → Slice) : (modSlice s n f).launches = s.launches := rfl

@[simp] theorem blocks_modSlice (s : State) (n : Nat) (f : Slice → Slice) : (modSlice s n f).blocks = s.blocks := rfl

@[simp] theorem groups_modSlice (s : State) (n : Nat) (f : Slice → Slice) : (modSlice s n f).groups = s.groups := rfl

@[simp] theorem deconf_modSlice (s : State) (n : Nat) (f : Slice → Slice) : (modSlice s n f).deconf = s.deconf := rfl

@[simp] theorem booted_modSlice (s : State) (n : Nat) (f : Slice → Slice) : (modSlice s n f).booted = s.booted := rfl

@[simp] theorem temp_modSlice (s : State) (n : Nat) (f : Slice → Slice) : (modSlice s n f).temp = s.temp := rfl

@[simp] theorem hours_modSlice (s : State) (n : Nat) (f : Slice → Slice) : (modSlice s n f).hours = s.hours := rfl

@[simp] theorem certs_modSlice (s : State) (n : Nat) (f : Slice → Slice) : (modSlice s n f).certs = s.certs := rfl

@[simp] theorem outbox_modSlice (s : State) (n : Nat) (f : Slice → Slice) : (modSlice s n f).outbox = s.outbox := rfl

@[simp] theorem nextId_modSlice (s : State) (n : Nat) (f : Slice → Slice) : (modSlice s n f).nextId = s.nextId := rfl

/-! ## modPart -/

@[simp] theorem now_modPart (s : State) (n : Nat) (f : Partition → Partition) : (modPart s n f).now = s.now := rfl

@[simp] theorem fresh_modPart (s : State) (n : Nat) (f : Partition → Partition) : (modPart s n f).fresh = s.fresh := rfl

@[simp] theorem agenda_modPart (s : State) (n : Nat) (f : Partition → Partition) : (modPart s n f).agenda = s.agenda := rfl

@[simp] theorem issue_modPart (s : State) (n : Nat) (f : Partition → Partition) : (modPart s n f).issue = s.issue := rfl

@[simp] theorem co_modPart (s : State) (n : Nat) (f : Partition → Partition) : (modPart s n f).co = s.co := rfl

@[simp] theorem mem_modPart (s : State) (n : Nat) (f : Partition → Partition) : (modPart s n f).mem = s.mem := rfl

@[simp] theorem stale_modPart (s : State) (n : Nat) (f : Partition → Partition) : (modPart s n f).stale = s.stale := rfl

@[simp] theorem poison_modPart (s : State) (n : Nat) (f : Partition → Partition) : (modPart s n f).poison = s.poison := rfl

@[simp] theorem owner_modPart (s : State) (n : Nat) (f : Partition → Partition) : (modPart s n f).owner = s.owner := rfl

@[simp] theorem slices_modPart (s : State) (n : Nat) (f : Partition → Partition) : (modPart s n f).slices = s.slices := rfl

@[simp] theorem cores_modPart (s : State) (n : Nat) (f : Partition → Partition) : (modPart s n f).cores = s.cores := rfl

@[simp] theorem launches_modPart (s : State) (n : Nat) (f : Partition → Partition) : (modPart s n f).launches = s.launches := rfl

@[simp] theorem blocks_modPart (s : State) (n : Nat) (f : Partition → Partition) : (modPart s n f).blocks = s.blocks := rfl

@[simp] theorem groups_modPart (s : State) (n : Nat) (f : Partition → Partition) : (modPart s n f).groups = s.groups := rfl

@[simp] theorem deconf_modPart (s : State) (n : Nat) (f : Partition → Partition) : (modPart s n f).deconf = s.deconf := rfl

@[simp] theorem booted_modPart (s : State) (n : Nat) (f : Partition → Partition) : (modPart s n f).booted = s.booted := rfl

@[simp] theorem temp_modPart (s : State) (n : Nat) (f : Partition → Partition) : (modPart s n f).temp = s.temp := rfl

@[simp] theorem hours_modPart (s : State) (n : Nat) (f : Partition → Partition) : (modPart s n f).hours = s.hours := rfl

@[simp] theorem certs_modPart (s : State) (n : Nat) (f : Partition → Partition) : (modPart s n f).certs = s.certs := rfl

@[simp] theorem outbox_modPart (s : State) (n : Nat) (f : Partition → Partition) : (modPart s n f).outbox = s.outbox := rfl

@[simp] theorem nextId_modPart (s : State) (n : Nat) (f : Partition → Partition) : (modPart s n f).nextId = s.nextId := rfl

/-! ## modLaunch -/

@[simp] theorem now_modLaunch (s : State) (n : Nat) (f : Launch → Launch) : (modLaunch s n f).now = s.now := rfl

@[simp] theorem fresh_modLaunch (s : State) (n : Nat) (f : Launch → Launch) : (modLaunch s n f).fresh = s.fresh := rfl

@[simp] theorem agenda_modLaunch (s : State) (n : Nat) (f : Launch → Launch) : (modLaunch s n f).agenda = s.agenda := rfl

@[simp] theorem issue_modLaunch (s : State) (n : Nat) (f : Launch → Launch) : (modLaunch s n f).issue = s.issue := rfl

@[simp] theorem co_modLaunch (s : State) (n : Nat) (f : Launch → Launch) : (modLaunch s n f).co = s.co := rfl

@[simp] theorem mem_modLaunch (s : State) (n : Nat) (f : Launch → Launch) : (modLaunch s n f).mem = s.mem := rfl

@[simp] theorem stale_modLaunch (s : State) (n : Nat) (f : Launch → Launch) : (modLaunch s n f).stale = s.stale := rfl

@[simp] theorem poison_modLaunch (s : State) (n : Nat) (f : Launch → Launch) : (modLaunch s n f).poison = s.poison := rfl

@[simp] theorem owner_modLaunch (s : State) (n : Nat) (f : Launch → Launch) : (modLaunch s n f).owner = s.owner := rfl

@[simp] theorem parts_modLaunch (s : State) (n : Nat) (f : Launch → Launch) : (modLaunch s n f).parts = s.parts := rfl

@[simp] theorem slices_modLaunch (s : State) (n : Nat) (f : Launch → Launch) : (modLaunch s n f).slices = s.slices := rfl

@[simp] theorem cores_modLaunch (s : State) (n : Nat) (f : Launch → Launch) : (modLaunch s n f).cores = s.cores := rfl

@[simp] theorem blocks_modLaunch (s : State) (n : Nat) (f : Launch → Launch) : (modLaunch s n f).blocks = s.blocks := rfl

@[simp] theorem groups_modLaunch (s : State) (n : Nat) (f : Launch → Launch) : (modLaunch s n f).groups = s.groups := rfl

@[simp] theorem deconf_modLaunch (s : State) (n : Nat) (f : Launch → Launch) : (modLaunch s n f).deconf = s.deconf := rfl

@[simp] theorem booted_modLaunch (s : State) (n : Nat) (f : Launch → Launch) : (modLaunch s n f).booted = s.booted := rfl

@[simp] theorem temp_modLaunch (s : State) (n : Nat) (f : Launch → Launch) : (modLaunch s n f).temp = s.temp := rfl

@[simp] theorem hours_modLaunch (s : State) (n : Nat) (f : Launch → Launch) : (modLaunch s n f).hours = s.hours := rfl

@[simp] theorem certs_modLaunch (s : State) (n : Nat) (f : Launch → Launch) : (modLaunch s n f).certs = s.certs := rfl

@[simp] theorem outbox_modLaunch (s : State) (n : Nat) (f : Launch → Launch) : (modLaunch s n f).outbox = s.outbox := rfl

@[simp] theorem nextId_modLaunch (s : State) (n : Nat) (f : Launch → Launch) : (modLaunch s n f).nextId = s.nextId := rfl

/-! ## modBlock -/

@[simp] theorem now_modBlock (s : State) (n : Nat) (f : Block → Block) : (modBlock s n f).now = s.now := rfl

@[simp] theorem fresh_modBlock (s : State) (n : Nat) (f : Block → Block) : (modBlock s n f).fresh = s.fresh := rfl

@[simp] theorem agenda_modBlock (s : State) (n : Nat) (f : Block → Block) : (modBlock s n f).agenda = s.agenda := rfl

@[simp] theorem issue_modBlock (s : State) (n : Nat) (f : Block → Block) : (modBlock s n f).issue = s.issue := rfl

@[simp] theorem co_modBlock (s : State) (n : Nat) (f : Block → Block) : (modBlock s n f).co = s.co := rfl

@[simp] theorem mem_modBlock (s : State) (n : Nat) (f : Block → Block) : (modBlock s n f).mem = s.mem := rfl

@[simp] theorem stale_modBlock (s : State) (n : Nat) (f : Block → Block) : (modBlock s n f).stale = s.stale := rfl

@[simp] theorem poison_modBlock (s : State) (n : Nat) (f : Block → Block) : (modBlock s n f).poison = s.poison := rfl

@[simp] theorem owner_modBlock (s : State) (n : Nat) (f : Block → Block) : (modBlock s n f).owner = s.owner := rfl

@[simp] theorem parts_modBlock (s : State) (n : Nat) (f : Block → Block) : (modBlock s n f).parts = s.parts := rfl

@[simp] theorem slices_modBlock (s : State) (n : Nat) (f : Block → Block) : (modBlock s n f).slices = s.slices := rfl

@[simp] theorem cores_modBlock (s : State) (n : Nat) (f : Block → Block) : (modBlock s n f).cores = s.cores := rfl

@[simp] theorem launches_modBlock (s : State) (n : Nat) (f : Block → Block) : (modBlock s n f).launches = s.launches := rfl

@[simp] theorem groups_modBlock (s : State) (n : Nat) (f : Block → Block) : (modBlock s n f).groups = s.groups := rfl

@[simp] theorem deconf_modBlock (s : State) (n : Nat) (f : Block → Block) : (modBlock s n f).deconf = s.deconf := rfl

@[simp] theorem booted_modBlock (s : State) (n : Nat) (f : Block → Block) : (modBlock s n f).booted = s.booted := rfl

@[simp] theorem temp_modBlock (s : State) (n : Nat) (f : Block → Block) : (modBlock s n f).temp = s.temp := rfl

@[simp] theorem hours_modBlock (s : State) (n : Nat) (f : Block → Block) : (modBlock s n f).hours = s.hours := rfl

@[simp] theorem certs_modBlock (s : State) (n : Nat) (f : Block → Block) : (modBlock s n f).certs = s.certs := rfl

@[simp] theorem outbox_modBlock (s : State) (n : Nat) (f : Block → Block) : (modBlock s n f).outbox = s.outbox := rfl

@[simp] theorem nextId_modBlock (s : State) (n : Nat) (f : Block → Block) : (modBlock s n f).nextId = s.nextId := rfl

/-! ## modGroup -/

@[simp] theorem now_modGroup (s : State) (n : Nat) (f : Group → Group) : (modGroup s n f).now = s.now := rfl

@[simp] theorem fresh_modGroup (s : State) (n : Nat) (f : Group → Group) : (modGroup s n f).fresh = s.fresh := rfl

@[simp] theorem agenda_modGroup (s : State) (n : Nat) (f : Group → Group) : (modGroup s n f).agenda = s.agenda := rfl

@[simp] theorem issue_modGroup (s : State) (n : Nat) (f : Group → Group) : (modGroup s n f).issue = s.issue := rfl

@[simp] theorem co_modGroup (s : State) (n : Nat) (f : Group → Group) : (modGroup s n f).co = s.co := rfl

@[simp] theorem mem_modGroup (s : State) (n : Nat) (f : Group → Group) : (modGroup s n f).mem = s.mem := rfl

@[simp] theorem stale_modGroup (s : State) (n : Nat) (f : Group → Group) : (modGroup s n f).stale = s.stale := rfl

@[simp] theorem poison_modGroup (s : State) (n : Nat) (f : Group → Group) : (modGroup s n f).poison = s.poison := rfl

@[simp] theorem owner_modGroup (s : State) (n : Nat) (f : Group → Group) : (modGroup s n f).owner = s.owner := rfl

@[simp] theorem parts_modGroup (s : State) (n : Nat) (f : Group → Group) : (modGroup s n f).parts = s.parts := rfl

@[simp] theorem slices_modGroup (s : State) (n : Nat) (f : Group → Group) : (modGroup s n f).slices = s.slices := rfl

@[simp] theorem cores_modGroup (s : State) (n : Nat) (f : Group → Group) : (modGroup s n f).cores = s.cores := rfl

@[simp] theorem launches_modGroup (s : State) (n : Nat) (f : Group → Group) : (modGroup s n f).launches = s.launches := rfl

@[simp] theorem blocks_modGroup (s : State) (n : Nat) (f : Group → Group) : (modGroup s n f).blocks = s.blocks := rfl

@[simp] theorem deconf_modGroup (s : State) (n : Nat) (f : Group → Group) : (modGroup s n f).deconf = s.deconf := rfl

@[simp] theorem booted_modGroup (s : State) (n : Nat) (f : Group → Group) : (modGroup s n f).booted = s.booted := rfl

@[simp] theorem temp_modGroup (s : State) (n : Nat) (f : Group → Group) : (modGroup s n f).temp = s.temp := rfl

@[simp] theorem hours_modGroup (s : State) (n : Nat) (f : Group → Group) : (modGroup s n f).hours = s.hours := rfl

@[simp] theorem certs_modGroup (s : State) (n : Nat) (f : Group → Group) : (modGroup s n f).certs = s.certs := rfl

@[simp] theorem outbox_modGroup (s : State) (n : Nat) (f : Group → Group) : (modGroup s n f).outbox = s.outbox := rfl

@[simp] theorem nextId_modGroup (s : State) (n : Nat) (f : Group → Group) : (modGroup s n f).nextId = s.nextId := rfl

/-! ## The entity that changes -/

theorem groupOf_modGroup (s : State) (n k : Nat) (f : Group → Group) :
    groupOf (modGroup s n f) k = if k = n then ((mfind s.groups n).map f).getD {} else groupOf s k := by
  simp only [groupOf, modGroup, mget, mfind_mmod]
  split <;> rfl

theorem mfind_modGroup (s : State) (n k : Nat) (f : Group → Group) :
    mfind (modGroup s n f).groups k = if k = n then (mfind s.groups n).map f else mfind s.groups k :=
  mfind_mmod ..

theorem mfind_modBlock (s : State) (n k : Nat) (f : Block → Block) :
    mfind (modBlock s n f).blocks k = if k = n then (mfind s.blocks n).map f else mfind s.blocks k :=
  mfind_mmod ..

theorem mfind_modLaunch (s : State) (n k : Nat) (f : Launch → Launch) :
    mfind (modLaunch s n f).launches k = if k = n then (mfind s.launches n).map f else mfind s.launches k :=
  mfind_mmod ..

/-- A change of one core leaves the others alone. -/
theorem coreOf_modCore_other (s : State) {c k : Nat} (f : Core → Core) (h : k ≠ c) :
    coreOf (modCore s c f) k = coreOf s k := mget_mset_other _ _ _ h

/-- A changed core is what the change makes of it. -/
@[simp] theorem coreOf_modCore_self (s : State) (c : Nat) (f : Core → Core) :
    coreOf (modCore s c f) c = f (coreOf s c) := mget_mset_self _ _ c _

/-- A change of one slice leaves the others alone. -/
theorem sliceOf_modSlice_other (s : State) {n k : Nat} (f : Slice → Slice) (h : k ≠ n) :
    sliceOf (modSlice s n f) k = sliceOf s k := mget_mset_other _ _ _ h

/-- A changed slice is what the change makes of it. -/
@[simp] theorem sliceOf_modSlice_self (s : State) (n : Nat) (f : Slice → Slice) :
    sliceOf (modSlice s n f) n = f (sliceOf s n) := mget_mset_self _ _ n _

/-- A change of one partition leaves the others alone. -/
theorem partOf_modPart_other (s : State) {n k : Nat} (f : Partition → Partition) (h : k ≠ n) :
    partOf (modPart s n f) k = partOf s k := mget_mset_other _ _ _ h

/-- A changed partition is what the change makes of it. -/
@[simp] theorem partOf_modPart_self (s : State) (n : Nat) (f : Partition → Partition) :
    partOf (modPart s n f) n = f (partOf s n) := mget_mset_self _ _ n _

/-! ## Threads of a group -/

@[simp] theorem mapThreads_threads (g : Group) (f : Nat → Thread → Thread) :
    (mapThreads g f).threads = mmap f g.threads := rfl

@[simp] theorem modThreads_threads (g : Group) (lanes : List Nat) (f : Thread → Thread) :
    (modThreads g lanes f).threads = mmap (fun l t => if lanes.contains l then f t else t) g.threads := rfl

/-- A lane's thread after a change of every thread. -/
theorem mfind_mapThreads (g : Group) (f : Nat → Thread → Thread) (l : Nat) :
    mfind (mapThreads g f).threads l = (mfind g.threads l).map (f l) := mfind_mmap ..

end Sys2Proof.Machine
end

