-- ==== Sys2Proof/Laws/Memory.lean ====
section
/-! SUPPORT. Memory keeps its canonical form under every operation on it, and what a byte reads as after a
write. -/

namespace Sys2Proof.Machine

/-- What every step of a fold keeps, the fold keeps. -/
theorem foldl_keeps {α σ : Type} (P : σ → Prop) (f : σ → α → σ) (hf : ∀ s x, P s → P (f s x)) (l : List α) (s : σ)
    (h : P s) : P (l.foldl f s) := by
  induction l generalizing s with
  | nil => exact h
  | cons a l ih => exact ih (f s a) (hf s a h)

/-! ## Tables of bytes -/

theorem putBytes_wf (bs : List Byte) (m : Map Byte) (pa : Nat) (h : Memory.wf m = true) :
    Memory.wf (putBytes m pa bs) = true := by
  induction bs generalizing m pa with
  | nil => exact h
  | cons b bs ih => exact ih _ _ (msorted_mset pa b h)

theorem mget_putBytes_outside (bs : List Byte) (m : Map Byte) (pa a : Nat) (h : a < pa ∨ pa + bs.length ≤ a) :
    mget memDefault (putBytes m pa bs) a = mget memDefault m a := by
  induction bs generalizing m pa with
  | nil => rfl
  | cons b bs ih =>
    simp only [List.length_cons] at h
    rw [putBytes, ih _ _ (by omega), mget_mset_other _ _ _ (by omega)]

theorem mget_putBytes_inside (bs : List Byte) (m : Map Byte) (pa i : Nat)
    (h : i < bs.length) : mget memDefault (putBytes m pa bs) (pa + i) = bs[i] := by
  induction bs generalizing m pa i with
  | nil => simp at h
  | cons b bs ih =>
    cases i with
    | zero =>
      rw [putBytes, mget_putBytes_outside _ _ _ _ (by omega)]
      exact mget_mset_self _ _ pa b
    | succ i =>
      have := ih (mset memDefault m pa b) (pa + 1) i (by simpa using h)
      rw [putBytes, show pa + (i + 1) = pa + 1 + i by omega, this]
      rfl

/-! ## Writes to memory -/

@[simp] theorem mem_noteStale (s : State) (w : Nat) : (noteStale s w).mem = s.mem := rfl

@[simp] theorem mem_noteStales (s : State) (pa n : Nat) : (noteStales s pa n).mem = s.mem := by
  unfold noteStales
  exact foldl_keeps (fun t : State => t.mem = s.mem) (fun s i => noteStale s (pa / 8 + i)) (fun t x h => h) _ s rfl

@[simp] theorem mem_markWakes (s : State) (pa n : Nat) : (markWakes s pa n).mem = s.mem := by
  unfold markWakes
  split <;> rfl

@[simp] theorem mem_dropHeld (s : State) (cores : List Nat) (pa n : Nat) : (dropHeld s cores pa n).mem = s.mem := by
  unfold dropHeld
  refine foldl_keeps (fun t : State => t.mem = s.mem) _ (fun t x h => ?_) _ s rfl
  show (if _ then _ else _ : State).mem = s.mem
  split <;> exact h

/-- A write to memory changes the written bytes and nothing else of memory. -/
@[simp] theorem mem_writeMem (s : State) (pa : Nat) (bs : List Byte) :
    (writeMem s pa bs).mem = putBytes s.mem pa bs := by
  unfold writeMem
  rw [mem_markWakes]

/-- A store that reaches memory changes the stored bytes and nothing else of memory. -/
@[simp] theorem mem_storeMem (s : State) (c pa : Nat) (bs : List Byte) :
    (storeMem s c pa bs).mem = putBytes s.mem pa bs := by
  simp [storeMem]

/-- A store that its core holds changes no byte of memory. -/
@[simp] theorem mem_holdStore (s : State) (c pa : Nat) (bs : List Byte) : (holdStore s c pa bs).mem = s.mem := by
  simp [holdStore]

@[simp] theorem mem_writeScratch (s : State) (b pos off : Nat) (bs : List Byte) :
    (writeScratch s b pos off bs).mem = s.mem := rfl

/-- Bytes outside a store read as before. -/
theorem readMem_storeMem_outside (s : State) (c pa a : Nat) (bs : List Byte) (h : a < pa ∨ pa + bs.length ≤ a) :
    readMem (storeMem s c pa bs) a = readMem s a := by
  simp only [readMem, mem_storeMem]
  exact mget_putBytes_outside _ _ _ _ h

/-- Stored bytes read as they were stored. -/
theorem readMem_storeMem_inside (s : State) (c pa i : Nat) (bs : List Byte)
    (h : i < bs.length) : readMem (storeMem s c pa bs) (pa + i) = bs[i] := by
  simp only [readMem, mem_storeMem]
  exact mget_putBytes_inside _ _ _ _ h

/-! ## The canonical form is kept -/

/-- A change of the state that keeps memory in canonical form. -/
def KeepsWf (f : State → State) : Prop := ∀ s, Memory.wf s.mem = true → Memory.wf (f s).mem = true

/-- A change that leaves memory alone keeps it in canonical form. -/
theorem keepsWf_of_mem_eq {f : State → State} (h : ∀ s, (f s).mem = s.mem) : KeepsWf f := fun s hs => (h s).symm ▸ hs

theorem KeepsWf.comp {f g : State → State} (hf : KeepsWf f) (hg : KeepsWf g) : KeepsWf (fun s => f (g s)) :=
  fun s hs => hf _ (hg s hs)

theorem keepsWf_foldl {α : Type} {f : State → α → State} (h : ∀ x, KeepsWf (fun s => f s x)) (l : List α) :
    KeepsWf (fun s => l.foldl f s) :=
  fun s hs => foldl_keeps (fun t : State => Memory.wf t.mem = true) f (fun t x ht => h x t ht) l s hs

theorem writeMem_keepsWf (pa : Nat) (bs : List Byte) : KeepsWf (fun s => writeMem s pa bs) := fun s hs => by
  simp only [mem_writeMem]
  exact putBytes_wf _ _ _ hs

theorem storeMem_keepsWf (c pa : Nat) (bs : List Byte) : KeepsWf (fun s => storeMem s c pa bs) := fun s hs => by
  simp only [mem_storeMem]
  exact putBytes_wf _ _ _ hs

theorem holdStore_keepsWf (c pa : Nat) (bs : List Byte) : KeepsWf (fun s => holdStore s c pa bs) :=
  keepsWf_of_mem_eq (fun s => mem_holdStore s c pa bs)

theorem writeHeld_keepsWf (h : Map Byte) : KeepsWf (fun s => writeHeld s h) := fun s hs => by
  show Memory.wf (writeHeld s h).mem = true
  unfold writeHeld
  refine keepsWf_foldl (f := fun s l => markWakes s (64 * l) 1) (fun l => keepsWf_of_mem_eq (fun s => mem_markWakes ..)) _ _ ?_
  refine foldl_keeps (fun m : Map Byte => Memory.wf m = true) _ (fun m b hm => msorted_mset b.1 b.2 hm) _ _ ?_
  exact keepsWf_foldl (f := fun s b => noteStale s (b.1 / 8)) (fun b => keepsWf_of_mem_eq (fun s => rfl)) h s hs

theorem promote_keepsWf (c : Nat) : KeepsWf (fun s => promote s c) := fun s hs => writeHeld_keepsWf _ s hs

theorem promoteOwner_keepsWf (c pa : Nat) : KeepsWf (fun s => promoteOwner s c pa) := fun s hs => by
  show Memory.wf (promoteOwner s c pa).mem = true
  unfold promoteOwner
  split
  · split
    · exact hs
    · exact promote_keepsWf _ s hs
  · exact hs

theorem recordOwner_keepsWf (c pa : Nat) : KeepsWf (fun s => recordOwner s c pa) := fun s hs =>
  promoteOwner_keepsWf c pa s hs

theorem writeBackLine_keepsWf (c line : Nat) : KeepsWf (fun s => writeBackLine s c line) := fun s hs =>
  writeHeld_keepsWf _ s hs

theorem drainEntry_keepsWf (c : Nat) (e : Buffered) : KeepsWf (fun s => drainEntry c s e) := fun s hs => by
  show Memory.wf (drainEntry c s e).mem = true
  unfold drainEntry
  have h1 : Memory.wf (if e.rel then recordOwner s c e.pa else s).mem = true := by
    split
    · exact recordOwner_keepsWf c e.pa s hs
    · exact hs
  simp only
  generalize (if e.rel then recordOwner s c e.pa else s) = t at h1
  split
  · exact h1
  · split
    · exact holdStore_keepsWf _ _ _ t h1
    · exact storeMem_keepsWf _ _ _ t h1

theorem drainBuffer_keepsWf (bid : Nat) : KeepsWf (fun s => drainBuffer s bid) := fun s hs =>
  keepsWf_foldl (fun e => drainEntry_keepsWf _ e) _ s hs

theorem visible_keepsWf (bid : Nat) : KeepsWf (fun s => visible s bid) := fun s hs => by
  show Memory.wf (visible s bid).mem = true
  unfold visible
  simp only [mem_modBlock]
  split
  · exact hs
  · exact drainBuffer_keepsWf bid s hs

theorem bufferPut_keepsWf (bid : Nat) (e : Buffered) : KeepsWf (fun s => bufferPut s bid e) := fun s hs => by
  show Memory.wf (bufferPut s bid e).mem = true
  unfold bufferPut
  simp only [mem_modBlock]
  split
  · exact drainBuffer_keepsWf bid s hs
  · exact hs

theorem storePiece_keepsWf (g : Group) (pt : PageType) (priv narrow rel : Bool) (p : Nat × Nat × Nat) :
    KeepsWf (fun s => storePiece g pt priv narrow rel s p) := fun s hs => by
  show Memory.wf (storePiece g pt priv narrow rel s p).mem = true
  unfold storePiece
  split
  · exact bufferPut_keepsWf _ _ s hs
  · have h1 : Memory.wf (if rel then recordOwner s g.core p.1 else s).mem = true := by
      split
      · exact recordOwner_keepsWf _ _ s hs
      · exact hs
    simp only
    generalize (if rel then recordOwner s g.core p.1 else s) = t at h1
    split
    · exact holdStore_keepsWf _ _ _ t h1
    · exact storeMem_keepsWf _ _ _ t h1

/-- What is left of an ended activation's private memory keeps memory in canonical form. -/
theorem discardWord_keepsWf (pa : Nat) : KeepsWf (fun s => discardWord s pa) := fun s hs => by
  show Memory.wf (discardWord s pa).mem = true
  unfold discardWord
  rw [mem_dropHeld]
  exact putBytes_wf _ _ _ hs

theorem discardPrivate_keepsWf (g : Group) (lanes : List Nat) : KeepsWf (fun s => discardPrivate s g lanes) :=
  fun s hs => keepsWf_foldl discardWord_keepsWf (lanes.flatMap (privateWords s g)) s hs

/-- A store of a group keeps memory in canonical form. -/
theorem storePlace_keepsWf (g : Group) (p : Place) (pt : PageType) (priv commons : Bool) (sc : Scope) (rel : Bool)
    (size data : Nat) : KeepsWf (fun s => storePlace s g p pt priv commons sc rel size data) := fun s hs => by
  show Memory.wf (storePlace s g p pt priv commons sc rel size data).mem = true
  unfold storePlace
  split
  · exact hs
  · exact keepsWf_foldl (fun x => storePiece_keepsWf g pt priv _ _ x) _ s hs

/-- Memory after reset is in canonical form. -/
theorem reset_mem_wf : Memory.wf State.reset.mem = true := rfl

end Sys2Proof.Machine
end

