-- ==== Sys2Proof/Laws/Shapes.lean ====
section
/-! SUPPORT. Each shape of operands is read back from the word that its writer makes (R71). -/

namespace Sys2Proof

@[simp] theorem boolCode_lt_two (b : Bool) : boolCode b % 16 < 2 := by cases b <;> decide

@[simp] theorem boolCode_le_one (b : Bool) : boolCode b % 16 ≤ 1 := by cases b <;> decide

@[simp] theorem boolCode_65536_le (b : Bool) : boolCode b % 65536 ≤ 1 := by cases b <;> decide

@[simp] theorem fin4_mod_lt (x : Fin 4) : x.val % 16 < 4 := Nat.lt_of_le_of_lt (Nat.mod_le _ _) x.isLt

@[simp] theorem fin16_mod_lt (x : Fin 16) : x.val % 4294967296 < 16 := Nat.lt_of_le_of_lt (Nat.mod_le _ _) x.isLt

@[simp] theorem fin4_mod65536_lt (x : Fin 4) : x.val % 65536 < 4 := Nat.lt_of_le_of_lt (Nat.mod_le _ _) x.isLt

@[simp] theorem boolCode_65536_lt (b : Bool) : boolCode b % 65536 < 2 := by cases b <;> decide

theorem rdA_wrA (op : Nat) (o : OpA) : rdA (wrA op o) = .ok o := by
  simp [rdA, wrA, unpack_mk, wdA, bind, Except.bind, pure, Except.pure]

theorem rdSel_wrSel (op : Nat) (o : OpSel) : rdSel (wrSel op o) = .ok o := by
  simp [rdSel, wrSel, unpack_mk, wdSel, need, bind, Except.bind, pure, Except.pure]

theorem rdCmp_wrCmp (op : Nat) (o : OpCmp) : rdCmp (wrCmp op o) = .ok o := by
  simp [rdCmp, wrCmp, unpack_mk, wdCmp, need, bind, Except.bind, pure, Except.pure]

theorem rdCvt_wrCvt (op : Nat) (o : OpCvt) : rdCvt (wrCvt op o) = .ok o := by
  simp [rdCvt, wrCvt, unpack_mk, wdCvt, need, bind, Except.bind, pure, Except.pure]

theorem rdUnpk_wrUnpk (op : Nat) (o : OpUnpk) : rdUnpk (wrUnpk op o) = .ok o := by
  simp [rdUnpk, wrUnpk, unpack_mk, wdUnpk, need, bind, Except.bind, pure, Except.pure]

theorem rdPlop_wrPlop (op : Nat) (o : OpPlop) : rdPlop (wrPlop op o) = .ok o := by
  rcases o with ⟨pred, uni, pa, pb, pc, pd, lut⟩
  cases uni <;> simp [rdPlop, wrPlop, unpack_mk, wdPlop, need, bind, Except.bind, pure, Except.pure]

theorem rdPmov_wrPmov (op : Nat) (o : OpPmov) : rdPmov (wrPmov op o) = .ok o := by
  rcases o with ⟨p, d⟩ | ⟨p, uni, a, mask⟩
  · simp [rdPmov, wrPmov, unpack_mk, wdPmov, need, bind, Except.bind, pure, Except.pure]
  · cases uni <;> simp [rdPmov, wrPmov, unpack_mk, wdPmov, need, bind, Except.bind, pure, Except.pure]

theorem rdVote_wrVote (op : Nat) (o : OpVote) : rdVote (wrVote op o) = .ok o := by
  simp [rdVote, wrVote, unpack_mk, wdVote, need, bind, Except.bind, pure, Except.pure]

theorem rdShfl_wrShfl (op : Nat) (o : OpShfl) : rdShfl (wrShfl op o) = .ok o := by
  simp [rdShfl, wrShfl, unpack_mk, wdA, need, bind, Except.bind, pure, Except.pure]

theorem rdGroup_wrGroup (op : Nat) (o : OpGroup) : rdGroup (wrGroup op o) = .ok o := by
  simp [rdGroup, wrGroup, unpack_mk, wdGroup, need, bind, Except.bind, pure, Except.pure]

theorem rdMatch_wrMatch (op : Nat) (o : OpMatch) : rdMatch (wrMatch op o) = .ok o := by
  simp [rdMatch, wrMatch, unpack_mk, wdMatch, need, bind, Except.bind, pure, Except.pure]

theorem rdElect_wrElect (op : Nat) (o : OpElect) : rdElect (wrElect op o) = .ok o := by
  simp [rdElect, wrElect, unpack_mk, wdMatch, need, bind, Except.bind, pure, Except.pure]

theorem rdIxset_wrIxset (op : Nat) (o : OpIxset) : rdIxset (wrIxset op o) = .ok o := by
  simp [rdIxset, wrIxset, unpack_mk, wdIxset, need, bind, Except.bind, pure, Except.pure]

theorem rdAfNew_wrAfNew (op : Nat) (o : OpAfNew) : rdAfNew (wrAfNew op o) = .ok o := by
  simp [rdAfNew, wrAfNew, unpack_mk, wdAf1, need, bind, Except.bind, pure, Except.pure]

theorem rdAfCst_wrAfCst (op : Nat) (o : OpAfCst) : rdAfCst (wrAfCst op o) = .ok o := by
  simp [rdAfCst, wrAfCst, unpack_mk, wdA, need, bind, Except.bind, pure, Except.pure]

theorem rdAfBin_wrAfBin (op : Nat) (o : OpAfBin) : rdAfBin (wrAfBin op o) = .ok o := by
  simp [rdAfBin, wrAfBin, unpack_mk, wdA, need, bind, Except.bind, pure, Except.pure]

theorem rdAfScl_wrAfScl (op : Nat) (o : OpAfScl) : rdAfScl (wrAfScl op o) = .ok o := by
  simp [rdAfScl, wrAfScl, unpack_mk, wdA, need, bind, Except.bind, pure, Except.pure]

theorem rdAfUn_wrAfUn (op : Nat) (o : OpAfUn) : rdAfUn (wrAfUn op o) = .ok o := by
  simp [rdAfUn, wrAfUn, unpack_mk, wdA, need, bind, Except.bind, pure, Except.pure]

theorem rdAfCnd_wrAfCnd (op : Nat) (o : OpAfCnd) : rdAfCnd (wrAfCnd op o) = .ok o := by
  simp [rdAfCnd, wrAfCnd, unpack_mk, wdAf1, need, bind, Except.bind, pure, Except.pure]

theorem rdAfRng_wrAfRng (op : Nat) (o : OpAfRng) : rdAfRng (wrAfRng op o) = .ok o := by
  simp [rdAfRng, wrAfRng, unpack_mk, wdA, need, bind, Except.bind, pure, Except.pure]

theorem rdAfGet_wrAfGet (op : Nat) (o : OpAfGet) : rdAfGet (wrAfGet op o) = .ok o := by
  have h : (if o.selg.val = 3 then 3 else 4) % 16 = if o.selg.val % 4 = 3 then 3 else 4 := by
    rw [Nat.mod_eq_of_lt o.selg.isLt]; split <;> rfl
  simp [rdAfGet, wrAfGet, unpack_mk, wdAf2, need, bind, Except.bind, pure, Except.pure, h]

theorem rdAfSym_wrAfSym (op : Nat) (o : OpAfSym) : rdAfSym (wrAfSym op o) = .ok o := by
  simp [rdAfSym, wrAfSym, unpack_mk, wdAf2, need, bind, Except.bind, pure, Except.pure]

theorem rdI_wrI (op : Nat) (o : OpI) : rdI (wrI op o) = .ok o := by
  simp [rdI, wrI, unpack_mk, wdI, bind, Except.bind, pure, Except.pure]

theorem rdLopi_wrLopi (op : Nat) (o : OpLopi) : rdLopi (wrLopi op o) = .ok o := by
  simp [rdLopi, wrLopi, unpack_mk, wdLopi, bind, Except.bind, pure, Except.pure]

theorem rdMovs_wrMovs (op : Nat) (o : OpMovs) : rdMovs (wrMovs op o) = .ok o := by
  simp [rdMovs, wrMovs, unpack_mk, wdI, need, bind, Except.bind, pure, Except.pure]

theorem rdL_wrL (op : Nat) (o : OpL) : rdL (wrL op o) = .ok o := by
  simp [rdL, wrL, unpack_mk, wdL, need, bind, Except.bind, pure, Except.pure]

theorem rdM_wrM (op : Nat) (o : OpM) : rdM (wrM op o) = .ok o := by
  simp [rdM, wrM, unpack_mk, wdM, bind, Except.bind, pure, Except.pure]

theorem rdLdk_wrLdk (op : Nat) (o : OpLdk) : rdLdk (wrLdk op o) = .ok o := by
  simp [rdLdk, wrLdk, unpack_mk, wdM, bind, Except.bind, pure, Except.pure]

theorem rdMX_wrMX (op : Nat) (o : OpMX) : rdMX (wrMX op o) = .ok o := by
  simp [rdMX, wrMX, unpack_mk, wdMX, need, bind, Except.bind, pure, Except.pure]

theorem rdFence_wrFence (op : Nat) (o : OpFence) : rdFence (wrFence op o) = .ok o := by
  simp [rdFence, wrFence, unpack_mk, wdM, need, bind, Except.bind, pure, Except.pure]

theorem rdPref_wrPref (op : Nat) (o : OpPref) : rdPref (wrPref op o) = .ok o := by
  simp [rdPref, wrPref, unpack_mk, wdM, need, bind, Except.bind, pure, Except.pure]

theorem rdCctl_wrCctl (op : Nat) (o : OpCctl) : rdCctl (wrCctl op o) = .ok o := by
  simp [rdCctl, wrCctl, unpack_mk, wdM, need, bind, Except.bind, pure, Except.pure]

theorem rdAfMem_wrAfMem (op : Nat) (o : OpAfMem) : rdAfMem (wrAfMem op o) = .ok o := by
  simp [rdAfMem, wrAfMem, unpack_mk, wdM, need, bind, Except.bind, pure, Except.pure]

theorem rdN_wrN (op : Nat) (o : OpN) : rdN (wrN op o) = .ok o := by
  simp [rdN, wrN, unpack_mk, wdN, need, bind, Except.bind, pure, Except.pure]

theorem rdV_wrV (op : Nat) (o : OpV) : rdV (wrV op o) = .ok o := by
  simp [rdV, wrV, unpack_mk, wdV, pure, Except.pure]

theorem rdX_wrX (op : Nat) (o : OpX) : rdX (wrX op o) = .ok o := by
  simp [rdX, wrX, unpack_mk, wdX, need, bind, Except.bind, pure, Except.pure]

theorem rdQ_wrQ (op : Nat) (o : OpQ) : rdQ (wrQ op o) = .ok o := by
  simp [rdQ, wrQ, unpack_mk, wdQ, need, bind, Except.bind, pure, Except.pure]

theorem rdBra_wrBra (op : Nat) (o : OpBra) : rdBra (wrBra op o) = .ok o := by
  simp [rdBra, wrBra, unpack_mk, wdC, need, bind, Except.bind, pure, Except.pure]

theorem rdBri_wrBri (op : Nat) (o : OpBri) : rdBri (wrBri op o) = .ok o := by
  simp [rdBri, wrBri, unpack_mk, wdC, need, bind, Except.bind, pure, Except.pure]

theorem rdCall_wrCall (op : Nat) (o : OpCall) : rdCall (wrCall op o) = .ok o := by
  rcases o with ⟨pred, sp, disp | r⟩
  · simp [rdCall, wrCall, unpack_mk, unpack, wdC, wdCall, need, bind, Except.bind, pure, Except.pure]
  · have hr : regCode r < 2048 := srcCode_lt (.reg r)
    have h : mk wdCall [regCode r, 0, 0, regCode sp, 1, predCode pred, op] =
        mk wdC [regCode r, 0, regCode sp, 1, predCode pred, op] := by
      simp only [mk, wdCall, wdC, List.zip_cons_cons, List.zip_nil_left, pack]
      omega
    have hc := unpack_mk wdC [regCode r, 0, regCode sp, 1, predCode pred, op] rfl
    have hi := unpack_mk wdCall [regCode r, 0, 0, regCode sp, 1, predCode pred, op] rfl
    rw [← h] at hc
    simp only [rdCall, wrCall, hc, hi]
    simp [wdC, wdCall, need, bind, Except.bind, pure, Except.pure]

theorem rdRegC_wrRegC (op : Nat) (o : OpR) : rdRegC (wrRegC op o) = .ok o := by
  simp [rdRegC, wrRegC, unpack_mk, wdC, need, bind, Except.bind, pure, Except.pure]

theorem rdPredC_wrPredC (op : Nat) (o : Pred) : rdPredC (wrPredC op o) = .ok o := by
  simp [rdPredC, wrPredC, unpack_mk, wdC, need, bind, Except.bind, pure, Except.pure]

theorem rdBar_wrBar (op : Nat) (o : OpBar) : rdBar (wrBar op o) = .ok o := by
  simp [rdBar, wrBar, unpack_mk, wdC, need, bind, Except.bind, pure, Except.pure]

theorem rdNopre_wrNopre (op : Nat) (o : Bool) : rdNopre (wrNopre op o) = .ok o := by
  simp [rdNopre, wrNopre, unpack_mk, wdC, need, bind, Except.bind, pure, Except.pure]

theorem rdWwait_wrWwait (op : Nat) (o : OpWwait) : rdWwait (wrWwait op o) = .ok o := by
  simp [rdWwait, wrWwait, unpack_mk, wdWwait, need, bind, Except.bind, pure, Except.pure]

theorem rdWwake_wrWwake (op : Nat) (o : OpWwake) : rdWwake (wrWwake op o) = .ok o := by
  simp [rdWwake, wrWwake, unpack_mk, wdWwake, need, bind, Except.bind, pure, Except.pure]

theorem rdPredW_wrPredW (op : Nat) (o : Pred) : rdPredW (wrPredW op o) = .ok o := by
  simp [rdPredW, wrPredW, unpack_mk, wdW, need, bind, Except.bind, pure, Except.pure]

theorem rdWemit_wrWemit (op : Nat) (o : OpWemit) : rdWemit (wrWemit op o) = .ok o := by
  simp [rdWemit, wrWemit, unpack_mk, wdWemit, need, bind, Except.bind, pure, Except.pure]

theorem rdPane_wrPane (op : Nat) (o : OpPane) : rdPane (wrPane op o) = .ok o := by
  simp [rdPane, wrPane, unpack_mk, wdW, need, bind, Except.bind, pure, Except.pure]

theorem rdWfwd_wrWfwd (op : Nat) (o : OpWfwd) : rdWfwd (wrWfwd op o) = .ok o := by
  simp [rdWfwd, wrWfwd, unpack_mk, wdWfwd, need, bind, Except.bind, pure, Except.pure]

theorem rdRegW_wrRegW (op : Nat) (o : OpR) : rdRegW (wrRegW op o) = .ok o := by
  simp [rdRegW, wrRegW, unpack_mk, wdW, need, bind, Except.bind, pure, Except.pure]

theorem rdNctr_wrNctr (op : Nat) (o : OpNctr) : rdNctr (wrNctr op o) = .ok o := by
  simp [rdNctr, wrNctr, unpack_mk, wdNctr, need, bind, Except.bind, pure, Except.pure]

theorem rdCode_wrCode (op : Nat) (o : OpCode) : rdCode (wrCode op o) = .ok o := by
  simp [rdCode, wrCode, unpack_mk, wdS, need, bind, Except.bind, pure, Except.pure]

theorem rdSysc_wrSysc (op : Nat) (o : OpSysc) : rdSysc (wrSysc op o) = .ok o := by
  simp [rdSysc, wrSysc, unpack_mk, wdS, need, bind, Except.bind, pure, Except.pure]

theorem rdEret_wrEret (op : Nat) (o : Bool) : rdEret (wrEret op o) = .ok o := by
  simp [rdEret, wrEret, unpack_mk, wdS, need, bind, Except.bind, pure, Except.pure]

theorem rdMovy_wrMovy (op : Nat) (o : OpMovy) : rdMovy (wrMovy op o) = .ok o := by
  simp [rdMovy, wrMovy, unpack_mk, wdS, need, bind, Except.bind, pure, Except.pure]

theorem rdMovyw_wrMovyw (op : Nat) (o : OpMovyw) : rdMovyw (wrMovyw op o) = .ok o := by
  simp [rdMovyw, wrMovyw, unpack_mk, wdS, need, bind, Except.bind, pure, Except.pure]

theorem rdTlbi_wrTlbi (op : Nat) (o : OpTlbi) : rdTlbi (wrTlbi op o) = .ok o := by
  simp [rdTlbi, wrTlbi, unpack_mk, wdS, need, bind, Except.bind, pure, Except.pure]

end Sys2Proof
end

