-- ==== Sys2Proof/Laws/Opcodes.lean ====
section
/-! SUPPORT. The major opcode of each shape's words (R77). -/

namespace Sys2Proof

/-- The fields above the first ones of a packed word. -/
theorem pack_append (fs gs : List (Nat × Nat)) :
    pack (fs ++ gs) = pack fs + 2 ^ (fs.map Prod.fst).sum * pack gs := by
  induction fs with
  | nil => simp [pack]
  | cons f fs ih =>
    obtain ⟨b, x⟩ := f
    simp only [List.cons_append, pack, ih, List.map_cons, List.sum_cons, Nat.pow_add]
    rw [Nat.mul_add, Nat.mul_assoc, Nat.add_assoc]

/-- The opcode above 56 bits of other fields. -/
theorem opcode_mk (ws xs : List Nat) (op : Nat) (hl : ws.length = xs.length) (hs : ws.sum = 56) :
    mk (ws ++ [8]) (xs ++ [op]) / 2 ^ 56 % 256 = op % 256 := by
  have hm : (ws.zip xs).map Prod.fst = ws := List.map_fst_zip (Nat.le_of_eq hl)
  have hlt := pack_lt (ws.zip xs)
  rw [hm, hs] at hlt
  rw [mk, List.zip_append hl, pack_append, hm, hs, Nat.add_mul_div_left _ _ (Nat.two_pow_pos 56),
    Nat.div_eq_of_lt hlt]
  simp [pack]

theorem opcode_wrA (op : Nat) (o : OpA) : wrA op o / 2 ^ 56 % 256 = op % 256 :=
  opcode_mk wdA.dropLast
    [boolCode o.x, boolCode o.sat, rndCode o.rm, tagCode o.t, srcCode o.c, srcCode o.b, srcCode o.a, regCode o.d, predCode o.pred] op rfl rfl

theorem opcode_wrSel (op : Nat) (o : OpSel) : wrSel op o / 2 ^ 56 % 256 = op % 256 :=
  opcode_mk wdSel.dropLast
    [boolCode o.raw, 0, 0, tagCode o.t, 0, o.psel.val, boolCode o.inv, srcCode o.b, srcCode o.a, regCode o.d, predCode o.pred] op rfl rfl

theorem opcode_wrCmp (op : Nat) (o : OpCmp) : wrCmp op o / 2 ^ 56 % 256 = op % 256 :=
  opcode_mk wdCmp.dropLast
    [boolCode o.raw, 0, 0, tagCode o.t, 0, o.pd.val, o.cc.val, srcCode o.b, srcCode o.a, regCode o.d, predCode o.pred] op rfl rfl

theorem opcode_wrCvt (op : Nat) (o : OpCvt) : wrCvt op o / 2 ^ 56 % 256 = op % 256 :=
  opcode_mk wdCvt.dropLast
    [boolCode o.raw, boolCode o.sat, rndCode o.rm, tagCode o.t, 0, tagCode o.src, 0, srcCode o.a, regCode o.d, predCode o.pred] op rfl rfl

theorem opcode_wrUnpk (op : Nat) (o : OpUnpk) : wrUnpk op o / 2 ^ 56 % 256 = op % 256 :=
  opcode_mk wdUnpk.dropLast
    [0, 0, 0, tagCode o.t, 0, o.el.val, 0, srcCode o.a, regCode o.d, predCode o.pred] op rfl rfl

theorem opcode_wrPlop (op : Nat) (o : OpPlop) : wrPlop op o / 2 ^ 56 % 256 = op % 256 :=
  opcode_mk wdPlop.dropLast
    [0, 0, 0, 0, 0, o.lut.toNat, o.pd.val, 0, o.pc.val, o.pb.val, o.pa.val, (if o.uni then 0x400 else 0), predCode o.pred] op rfl rfl

theorem opcode_wrPmov (op : Nat) (o : OpPmov) : wrPmov op o / 2 ^ 56 % 256 = op % 256 := by
  rcases o with ⟨p, d⟩ | ⟨p, uni, a, mask⟩
  · exact opcode_mk wdPmov.dropLast [0, 0, 0, 0, 0, 0, 0, 0, regCode d, predCode p] op rfl rfl
  · exact opcode_mk wdPmov.dropLast
      [1, 0, 0, 0, mask.val, 0, 0, srcCode a, (if uni then 0x400 else 0), predCode p] op rfl rfl

theorem opcode_wrVote (op : Nat) (o : OpVote) : wrVote op o / 2 ^ 56 % 256 = op % 256 :=
  opcode_mk wdVote.dropLast
    [0, 0, 0, 0, maskCode o.mask, 0, o.pd.val, 0, o.mode.val, boolCode o.neg, o.psrc.val, regCode o.d, predCode o.pred] op rfl rfl

theorem opcode_wrShfl (op : Nat) (o : OpShfl) : wrShfl op o / 2 ^ 56 % 256 = op % 256 :=
  opcode_mk wdA.dropLast
    [0, 0, 0, o.mode.val, maskCode o.mask, srcCode o.b, srcCode o.a, regCode o.d, predCode o.pred] op rfl rfl

theorem opcode_wrGroup (op : Nat) (o : OpGroup) : wrGroup op o / 2 ^ 56 % 256 = op % 256 :=
  opcode_mk wdGroup.dropLast
    [0, boolCode o.sat, rndCode o.rm, tagCode o.t, maskCode o.mask, 0, boolCode o.exc, gopCode o.op, srcCode o.a, regCode o.d, predCode o.pred] op rfl rfl

theorem opcode_wrMatch (op : Nat) (o : OpMatch) : wrMatch op o / 2 ^ 56 % 256 = op % 256 :=
  opcode_mk wdMatch.dropLast
    [0, 0, 0, tagCode o.t, maskCode o.mask, 0, o.pd.val, srcCode o.a, regCode o.d, predCode o.pred] op rfl rfl

theorem opcode_wrElect (op : Nat) (o : OpElect) : wrElect op o / 2 ^ 56 % 256 = op % 256 :=
  opcode_mk wdMatch.dropLast
    [0, 0, 0, 0, maskCode o.mask, 0, o.pd.val, 0, regCode o.d, predCode o.pred] op rfl rfl

theorem opcode_wrIxset (op : Nat) (o : OpIxset) : wrIxset op o / 2 ^ 56 % 256 = op % 256 :=
  opcode_mk wdIxset.dropLast
    [0, 0, 0, 3, o.ixn.val, 0, srcCode o.b, srcCode o.a, 0, predCode o.pred] op rfl rfl

theorem opcode_wrAfNew (op : Nat) (o : OpAfNew) : wrAfNew op o / 2 ^ 56 % 256 = op % 256 :=
  opcode_mk wdAf1.dropLast
    [0, 0, 0, 15, 0, boolCode o.cw, srcCode o.b, srcCode o.a, afCode o.d, predCode o.pred] op rfl rfl

theorem opcode_wrAfCst (op : Nat) (o : OpAfCst) : wrAfCst op o / 2 ^ 56 % 256 = op % 256 :=
  opcode_mk wdA.dropLast
    [0, 0, 0, 15, 0, 0, srcCode o.a, afCode o.d, predCode o.pred] op rfl rfl

theorem opcode_wrAfBin (op : Nat) (o : OpAfBin) : wrAfBin op o / 2 ^ 56 % 256 = op % 256 :=
  opcode_mk wdA.dropLast
    [boolCode o.raw, 0, 0, 15, 0, afCode o.b, afCode o.a, afCode o.d, predCode o.pred] op rfl rfl

theorem opcode_wrAfScl (op : Nat) (o : OpAfScl) : wrAfScl op o / 2 ^ 56 % 256 = op % 256 :=
  opcode_mk wdA.dropLast
    [boolCode o.raw, 0, 0, 15, srcCode o.t, srcCode o.s, afCode o.a, afCode o.d, predCode o.pred] op rfl rfl

theorem opcode_wrAfUn (op : Nat) (o : OpAfUn) : wrAfUn op o / 2 ^ 56 % 256 = op % 256 :=
  opcode_mk wdA.dropLast
    [boolCode o.raw, 0, 0, 15, 0, 0, afCode o.a, afCode o.d, predCode o.pred] op rfl rfl

theorem opcode_wrAfCnd (op : Nat) (o : OpAfCnd) : wrAfCnd op o / 2 ^ 56 % 256 = op % 256 :=
  opcode_mk wdAf1.dropLast
    [boolCode o.raw, 0, 0, 15, 0, boolCode o.tor, srcCode o.k, afCode o.a, afCode o.d, predCode o.pred] op rfl rfl

theorem opcode_wrAfRng (op : Nat) (o : OpAfRng) : wrAfRng op o / 2 ^ 56 % 256 = op % 256 :=
  opcode_mk wdA.dropLast
    [boolCode o.raw, 0, 0, 4, 0, 0, afCode o.a, regCode o.d, predCode o.pred] op rfl rfl

theorem opcode_wrAfGet (op : Nat) (o : OpAfGet) : wrAfGet op o / 2 ^ 56 % 256 = op % 256 :=
  opcode_mk wdAf2.dropLast
    [boolCode o.raw, 0, 0, (if o.selg.val == 3 then 3 else 4), 0, o.selg.val, srcCode o.b, afCode o.a, regCode o.d, predCode o.pred] op rfl rfl

theorem opcode_wrAfSym (op : Nat) (o : OpAfSym) : wrAfSym op o / 2 ^ 56 % 256 = op % 256 :=
  opcode_mk wdAf2.dropLast
    [0, 0, 0, 3, 0, o.sop.val, 0, srcCode o.a, regCode o.d, predCode o.pred] op rfl rfl

theorem opcode_wrI (op : Nat) (o : OpI) : wrI op o / 2 ^ 56 % 256 = op % 256 :=
  opcode_mk wdI.dropLast
    [o.imm.toNat, tagCode o.t, srcCode o.a, regCode o.d, predCode o.pred] op rfl rfl

theorem opcode_wrLopi (op : Nat) (o : OpLopi) : wrLopi op o / 2 ^ 56 % 256 = op % 256 :=
  opcode_mk wdLopi.dropLast
    [o.val.toNat, o.lop.val, tagCode o.t, srcCode o.a, regCode o.d, predCode o.pred] op rfl rfl

theorem opcode_wrMovs (op : Nat) (o : OpMovs) : wrMovs op o / 2 ^ 56 % 256 = op % 256 :=
  opcode_mk wdI.dropLast
    [srCode o.sr, 0, 0, regCode o.d, predCode o.pred] op rfl rfl

theorem opcode_wrL (op : Nat) (o : OpL) : wrL op o / 2 ^ 56 % 256 = op % 256 :=
  opcode_mk wdL.dropLast
    [o.imm.toNat, 0, tagCode o.t, regCode o.d, predCode o.pred] op rfl rfl

theorem opcode_wrM (op : Nat) (o : OpM) : wrM op o / 2 ^ 56 % 256 = op % 256 :=
  opcode_mk wdM.dropLast
    [o.off.toNat, hintCode o.ch, orderCode o.ord, scopeCode o.sc, mtCode o.mt, srcCode o.ab, srcCode o.ds, predCode o.pred] op rfl rfl

theorem opcode_wrLdk (op : Nat) (o : OpLdk) : wrLdk op o / 2 ^ 56 % 256 = op % 256 :=
  opcode_mk wdM.dropLast
    [o.off.toNat, hintCode o.ch, orderCode o.ord, scopeCode o.sc, o.cntm1.val, srcCode o.ab, regCode o.d, predCode o.pred] op rfl rfl

theorem opcode_wrMX (op : Nat) (o : OpMX) : wrMX op o / 2 ^ 56 % 256 = op % 256 :=
  opcode_mk wdMX.dropLast
    [o.off.toNat, hintCode o.ch, orderCode o.ord, scopeCode o.sc, mtCode o.mt, srcCode o.ab, o.idx.val, 0, o.ixn.val, predCode o.pred] op rfl rfl

theorem opcode_wrFence (op : Nat) (o : OpFence) : wrFence op o / 2 ^ 56 % 256 = op % 256 :=
  opcode_mk wdM.dropLast
    [0, 0, orderCode o.ord, scopeCode o.sc, 0, 0, 0, predCode o.pred] op rfl rfl

theorem opcode_wrPref (op : Nat) (o : OpPref) : wrPref op o / 2 ^ 56 % 256 = op % 256 :=
  opcode_mk wdM.dropLast
    [o.off.toNat, hintCode o.ch, 0, scopeCode o.sc, 0, srcCode o.ab, 0, predCode o.pred] op rfl rfl

theorem opcode_wrCctl (op : Nat) (o : OpCctl) : wrCctl op o / 2 ^ 56 % 256 = op % 256 :=
  opcode_mk wdM.dropLast
    [o.off.toNat, hintCode o.ch, 0, scopeCode o.sc, o.cop.val, srcCode o.ab, 0, predCode o.pred] op rfl rfl

theorem opcode_wrAfMem (op : Nat) (o : OpAfMem) : wrAfMem op o / 2 ^ 56 % 256 = op % 256 :=
  opcode_mk wdM.dropLast
    [o.off.toNat, hintCode o.ch, orderCode o.ord, scopeCode o.sc, 0, srcCode o.ab, afCode o.r, predCode o.pred] op rfl rfl

theorem opcode_wrN (op : Nat) (o : OpN) : wrN op o / 2 ^ 56 % 256 = op % 256 :=
  opcode_mk wdN.dropLast
    [0, orderCode o.ord, scopeCode o.sc, tagCode o.t, aopCode o.aop, srcCode o.b, srcCode o.a, regCode o.d, predCode o.pred] op rfl rfl

theorem opcode_wrV (op : Nat) (o : OpV) : wrV op o / 2 ^ 56 % 256 = op % 256 :=
  opcode_mk wdV.dropLast
    [o.mod.val, o.st2.val, o.ks2.val, o.st1.val, o.ks1.val, o.std.val, o.kd.val, tagCode o.t, o.cnt.val] op rfl rfl

theorem opcode_wrX (op : Nat) (o : OpX) : wrX op o / 2 ^ 56 % 256 = op % 256 :=
  opcode_mk wdX.dropLast
    [0, boolCode o.ta, boolCode o.zero, o.kn.val, matCode o.fb, matCode o.fa, o.km.val, o.kb.val, o.ka.val, o.mt.val] op rfl rfl

theorem opcode_wrQ (op : Nat) (o : OpQ) : wrQ op o / 2 ^ 56 % 256 = op % 256 :=
  opcode_mk wdQ.dropLast
    [o.seg.val, o.dir.val, 0, o.mask.val, o.ky.val, o.ks.val, o.kd.val, predCode o.pred] op rfl rfl

theorem opcode_wrBra (op : Nat) (o : OpBra) : wrBra op o / 2 ^ 56 % 256 = op % 256 :=
  opcode_mk wdC.dropLast
    [o.disp.toNat, 0, 0, boolCode o.qpred, predCode o.pred] op rfl rfl

theorem opcode_wrBri (op : Nat) (o : OpBri) : wrBri op o / 2 ^ 56 % 256 = op % 256 :=
  opcode_mk wdC.dropLast
    [0, 0, regCode o.a, boolCode o.qpred, predCode o.pred] op rfl rfl

theorem opcode_wrCall (op : Nat) (o : OpCall) : wrCall op o / 2 ^ 56 % 256 = op % 256 := by
  rcases o with ⟨pred, sp, disp | r⟩
  · exact opcode_mk wdC.dropLast [disp.toNat, 0, regCode sp, 0, predCode pred] op rfl rfl
  · exact opcode_mk wdCall.dropLast [regCode r, 0, 0, regCode sp, 1, predCode pred] op rfl rfl

theorem opcode_wrRegC (op : Nat) (o : OpR) : wrRegC op o / 2 ^ 56 % 256 = op % 256 :=
  opcode_mk wdC.dropLast
    [0, 0, regCode o.a, 0, predCode o.pred] op rfl rfl

theorem opcode_wrPredC (op : Nat) (o : Pred) : wrPredC op o / 2 ^ 56 % 256 = op % 256 :=
  opcode_mk wdC.dropLast
    [0, 0, 0, 0, predCode o] op rfl rfl

theorem opcode_wrBar (op : Nat) (o : OpBar) : wrBar op o / 2 ^ 56 % 256 = op % 256 :=
  opcode_mk wdC.dropLast
    [o.n.val, 0, 0, boolCode o.arrive, predCode o.pred] op rfl rfl

theorem opcode_wrNopre (op : Nat) (o : Bool) : wrNopre op o / 2 ^ 56 % 256 = op % 256 :=
  opcode_mk wdC.dropLast
    [0, 0, 0, boolCode o, 7] op rfl rfl

theorem opcode_wrWwait (op : Nat) (o : OpWwait) : wrWwait op o / 2 ^ 56 % 256 = op % 256 :=
  opcode_mk wdWwait.dropLast
    [o.cc.val, boolCode o.w64, boolCode o.tmo, o.pd.val, boolCode o.sys, 0, o.k.val, srcCode o.b, regCode o.a, predCode o.pred] op rfl rfl

theorem opcode_wrWwake (op : Nat) (o : OpWwake) : wrWwake op o / 2 ^ 56 % 256 = op % 256 :=
  opcode_mk wdWwake.dropLast
    [boolCode o.all, 0, 0, 0, regCode o.a, predCode o.pred] op rfl rfl

theorem opcode_wrPredW (op : Nat) (o : Pred) : wrPredW op o / 2 ^ 56 % 256 = op % 256 :=
  opcode_mk wdW.dropLast
    [0, 0, 0, 0, predCode o] op rfl rfl

theorem opcode_wrWemit (op : Nat) (o : OpWemit) : wrWemit op o / 2 ^ 56 % 256 = op % 256 :=
  opcode_mk wdWemit.dropLast
    [o.first.val, 0, 0, regCode o.time, regCode o.key, predCode o.pred] op rfl rfl

theorem opcode_wrPane (op : Nat) (o : OpPane) : wrPane op o / 2 ^ 56 % 256 = op % 256 :=
  opcode_mk wdW.dropLast
    [0, 0, srcCode o.b, regCode o.a, predCode o.pred] op rfl rfl

theorem opcode_wrWfwd (op : Nat) (o : OpWfwd) : wrWfwd op o / 2 ^ 56 % 256 = op % 256 :=
  opcode_mk wdWfwd.dropLast
    [o.stream.val, boolCode o.keep, 0, 0, 0, regCode o.a, predCode o.pred] op rfl rfl

theorem opcode_wrRegW (op : Nat) (o : OpR) : wrRegW op o / 2 ^ 56 % 256 = op % 256 :=
  opcode_mk wdW.dropLast
    [0, 0, 0, regCode o.a, predCode o.pred] op rfl rfl

theorem opcode_wrNctr (op : Nat) (o : OpNctr) : wrNctr op o / 2 ^ 56 % 256 = op % 256 :=
  opcode_mk wdNctr.dropLast
    [o.sel.val, o.port.val, 0, 0, 0, regCode o.a, predCode o.pred] op rfl rfl

theorem opcode_wrCode (op : Nat) (o : OpCode) : wrCode op o / 2 ^ 56 % 256 = op % 256 :=
  opcode_mk wdS.dropLast
    [o.code.toNat, 0, 0, 0, predCode o.pred] op rfl rfl

theorem opcode_wrSysc (op : Nat) (o : OpSysc) : wrSysc op o / 2 ^ 56 % 256 = op % 256 :=
  opcode_mk wdS.dropLast
    [o.service.toNat, 0, regCode o.a, regCode o.d, predCode o.pred] op rfl rfl

theorem opcode_wrEret (op : Nat) (o : Bool) : wrEret op o / 2 ^ 56 % 256 = op % 256 :=
  opcode_mk wdS.dropLast
    [boolCode o, 0, 0, 0, 7] op rfl rfl

theorem opcode_wrMovy (op : Nat) (o : OpMovy) : wrMovy op o / 2 ^ 56 % 256 = op % 256 :=
  opcode_mk wdS.dropLast
    [0, sysCode o.sys, 0, regCode o.d, predCode o.pred] op rfl rfl

theorem opcode_wrMovyw (op : Nat) (o : OpMovyw) : wrMovyw op o / 2 ^ 56 % 256 = op % 256 :=
  opcode_mk wdS.dropLast
    [0, sysCode o.sys, srcCode o.a, 0, predCode o.pred] op rfl rfl

theorem opcode_wrTlbi (op : Nat) (o : OpTlbi) : wrTlbi op o / 2 ^ 56 % 256 = op % 256 :=
  opcode_mk wdS.dropLast
    [o.scope.val, 0, regCode o.a, regCode o.d, predCode o.pred] op rfl rfl

end Sys2Proof
end

