-- ==== Sys2Proof/Laws/Operands.lean ====
section
/-! SUPPORT. What reading an operand gives, where it can be read. -/

namespace Sys2Proof.Machine

open Claims

theorem readVal_ok {x : Val} {t : Tag} {raw : Bool} (h : RegReadable x t raw) (fl : Flags) :
    readVal x t raw fl = .ok (regBits x, fl ||| (if x.tag = .void then flVOID else 0#7)) := by
  unfold readVal regBits
  by_cases hv : x.tag = .void
  · simp [hv, raiseFlags, bind, StateT.bind, Except.bind, pure, StateT.pure, Except.pure]
  · have : tagOk t x.tag raw = true := by
      rcases h with h | h | h | h
      · exact absurd h hv
      · simp [tagOk, h]
      · simp [tagOk, h]
      · simp [tagOk, h]
    simp [hv, this, pure, StateT.pure, Except.pure]

theorem check_ok {b : Bool} (h : b = true) (c : Cause) (fl : Flags) : check b c fl = .ok ((), fl) := by
  simp [check, h, pure, StateT.pure, Except.pure]

theorem not_mixed {x y : Val} (h : ¬ Mixed x y) :
    (!((x.tag == .s64 && y.tag == .n64) || (x.tag == .n64 && y.tag == .s64))) = true := by
  simp only [Mixed] at h
  cases hx : x.tag <;> cases hy : y.tag <;> simp_all

/-- A source that may be read under a type gives its bits and raises VOID where a register is void (R105). -/
theorem readSrc_ok {v : View} {t : Tag} {s : Src} {raw : Bool} (h : Readable v t s raw) (fl : Flags) :
    readSrc v s t raw fl = .ok (srcBits v t s, fl ||| voidOf v t s) := by
  cases s with
  | reg r =>
    obtain ⟨h1, h2⟩ := h
    simp only [readSrc, readTyped, srcBits, voidOf]
    cases ht : is64 t with
    | false => simp [readVal_ok h1]
    | true =>
      obtain ⟨h3, h4⟩ := h2 ht
      simp only [if_true, bind, StateT.bind, Except.bind, check_ok (not_mixed h4), readVal_ok h1, readVal_ok h3, pure,
        StateT.pure, Except.pure, true_and, BitVec.or_assoc]
  | imm i => simp [readSrc, srcBits, voidOf, pure, StateT.pure, Except.pure]
  | const c => simp [readSrc, srcBits, voidOf, pure, StateT.pure, Except.pure]

/-- One register under several tags. -/
theorem readTags_ok {v : View} {r : Reg} {ts : List Tag}
    (h : (readReg v r).tag = .void ∨ (readReg v r).tag = .b32 ∨ (readReg v r).tag ∈ ts) (fl : Flags) :
    readTags v r ts fl =
      .ok (regBits (readReg v r), fl ||| (if (readReg v r).tag = .void then flVOID else 0#7)) := by
  unfold readTags regBits
  by_cases hv : (readReg v r).tag = .void
  · simp [hv, raiseFlags, bind, StateT.bind, Except.bind, pure, StateT.pure, Except.pure]
  · have : (decide ((readReg v r).tag = .b32) || ts.contains (readReg v r).tag) = true := by
      rcases h with h | h | h
      · exact absurd h hv
      · simp [h]
      · simp [h]
    simp only [hv, if_false, this, if_true, pure, StateT.pure, Except.pure, BitVec.or_zero]

/-- A count operand gives its 32 bits (R131). -/
theorem readN32_ok {v : View} {s : Src} (h : Counts v s) (fl : Flags) :
    readN32 v s fl = .ok (srcBits v .n32 s, fl ||| voidOf v .n32 s) := by
  cases s with
  | reg r =>
    simp only [readN32, srcBits, voidOf]
    rw [readTags_ok (by rcases h with h | h | h | h <;> simp [h])]
    simp [is64]
  | imm i => simp [readN32, srcBits, voidOf, pure, StateT.pure, Except.pure]
  | const c => simp [readN32, srcBits, voidOf, pure, StateT.pure, Except.pure]

/-- A pair gives an address (R105, R258). -/
theorem readPair_ok {v : View} {r : Reg} (h : Addresses v (.reg r)) (fl : Flags) :
    readPair v r fl = .ok (BitVec.ofNat 64 (pairBits v (.reg r)), fl ||| voidOf v .n64 (.reg r)) := by
  obtain ⟨h1, h2⟩ := h
  have ha := h1 _ (.inl rfl)
  have hb := h1 _ (.inr rfl)
  have ha' : (readReg v r).tag = .void ∨ (readReg v r).tag = .b32 ∨ (readReg v r).tag ∈ [Tag.n64, .s64] := by
    rcases ha with h | h | h | h <;> simp [h]
  have hb' : (readReg v (regPlus r 1)).tag = .void ∨ (readReg v (regPlus r 1)).tag = .b32 ∨
      (readReg v (regPlus r 1)).tag ∈ [Tag.n64, .s64] := by
    rcases hb with h | h | h | h <;> simp [h]
  simp only [readPair, bind, StateT.bind, Except.bind, check_ok (not_mixed h2), readTags_ok ha', readTags_ok hb', pure,
    StateT.pure, Except.pure, pairBits, voidOf, is64, true_and, BitVec.or_assoc]

end Sys2Proof.Machine
end

