-- ==== Sys2Proof/Laws/PerInstr.lean ====
section
/-! SUPPORT. Statements made for every instruction, one lemma for each constructor. -/

namespace Sys2Proof.Laws

/-- Reading an instruction word back (R71, R77, R78): the word that the encoder makes of a well-formed
instruction decodes to that instruction; the word is within 64 bits. An event has no word. -/
def RoundTrip.Statement (i : Instr) : Prop :=
  i.isWord = true → i.WellFormed → decodeWord (encode i) = .ok i

/-- A well-formed instruction that its word spells is what the word decodes to. -/
theorem decodeWord_of_parse {i : Instr} {w : Nat} (hp : parseWord w = .ok i) (hw : i.WellFormed) :
    decodeWord w = .ok i := by
  unfold decodeWord
  rw [hp]
  exact if_pos hw

theorem RoundTrip.nop : RoundTrip.Statement .nop := fun _ hw => decodeWord_of_parse rfl hw

theorem RoundTrip.iadd (o) : RoundTrip.Statement (.iadd o) := fun _ hw =>
  decodeWord_of_parse (by unfold parseWord encode; rw [opcode_wrA]; show (rdA _).map _ = _; rw [rdA_wrA]; rfl) hw

theorem RoundTrip.isub (o) : RoundTrip.Statement (.isub o) := fun _ hw =>
  decodeWord_of_parse (by unfold parseWord encode; rw [opcode_wrA]; show (rdA _).map _ = _; rw [rdA_wrA]; rfl) hw

theorem RoundTrip.imul (o) : RoundTrip.Statement (.imul o) := fun _ hw =>
  decodeWord_of_parse (by unfold parseWord encode; rw [opcode_wrA]; show (rdA _).map _ = _; rw [rdA_wrA]; rfl) hw

theorem RoundTrip.imulh (o) : RoundTrip.Statement (.imulh o) := fun _ hw =>
  decodeWord_of_parse (by unfold parseWord encode; rw [opcode_wrA]; show (rdA _).map _ = _; rw [rdA_wrA]; rfl) hw

theorem RoundTrip.imad (o) : RoundTrip.Statement (.imad o) := fun _ hw =>
  decodeWord_of_parse (by unfold parseWord encode; rw [opcode_wrA]; show (rdA _).map _ = _; rw [rdA_wrA]; rfl) hw

theorem RoundTrip.idiv (o) : RoundTrip.Statement (.idiv o) := fun _ hw =>
  decodeWord_of_parse (by unfold parseWord encode; rw [opcode_wrA]; show (rdA _).map _ = _; rw [rdA_wrA]; rfl) hw

theorem RoundTrip.irem (o) : RoundTrip.Statement (.irem o) := fun _ hw =>
  decodeWord_of_parse (by unfold parseWord encode; rw [opcode_wrA]; show (rdA _).map _ = _; rw [rdA_wrA]; rfl) hw

theorem RoundTrip.imin (o) : RoundTrip.Statement (.imin o) := fun _ hw =>
  decodeWord_of_parse (by unfold parseWord encode; rw [opcode_wrA]; show (rdA _).map _ = _; rw [rdA_wrA]; rfl) hw

theorem RoundTrip.imax (o) : RoundTrip.Statement (.imax o) := fun _ hw =>
  decodeWord_of_parse (by unfold parseWord encode; rw [opcode_wrA]; show (rdA _).map _ = _; rw [rdA_wrA]; rfl) hw

theorem RoundTrip.iabs (o) : RoundTrip.Statement (.iabs o) := fun _ hw =>
  decodeWord_of_parse (by unfold parseWord encode; rw [opcode_wrA]; show (rdA _).map _ = _; rw [rdA_wrA]; rfl) hw

theorem RoundTrip.and (o) : RoundTrip.Statement (.and o) := fun _ hw =>
  decodeWord_of_parse (by unfold parseWord encode; rw [opcode_wrA]; show (rdA _).map _ = _; rw [rdA_wrA]; rfl) hw

theorem RoundTrip.or (o) : RoundTrip.Statement (.or o) := fun _ hw =>
  decodeWord_of_parse (by unfold parseWord encode; rw [opcode_wrA]; show (rdA _).map _ = _; rw [rdA_wrA]; rfl) hw

theorem RoundTrip.xor (o) : RoundTrip.Statement (.xor o) := fun _ hw =>
  decodeWord_of_parse (by unfold parseWord encode; rw [opcode_wrA]; show (rdA _).map _ = _; rw [rdA_wrA]; rfl) hw

theorem RoundTrip.andn (o) : RoundTrip.Statement (.andn o) := fun _ hw =>
  decodeWord_of_parse (by unfold parseWord encode; rw [opcode_wrA]; show (rdA _).map _ = _; rw [rdA_wrA]; rfl) hw

theorem RoundTrip.shl (o) : RoundTrip.Statement (.shl o) := fun _ hw =>
  decodeWord_of_parse (by unfold parseWord encode; rw [opcode_wrA]; show (rdA _).map _ = _; rw [rdA_wrA]; rfl) hw

theorem RoundTrip.shr (o) : RoundTrip.Statement (.shr o) := fun _ hw =>
  decodeWord_of_parse (by unfold parseWord encode; rw [opcode_wrA]; show (rdA _).map _ = _; rw [rdA_wrA]; rfl) hw

theorem RoundTrip.shra (o) : RoundTrip.Statement (.shra o) := fun _ hw =>
  decodeWord_of_parse (by unfold parseWord encode; rw [opcode_wrA]; show (rdA _).map _ = _; rw [rdA_wrA]; rfl) hw

theorem RoundTrip.rotl (o) : RoundTrip.Statement (.rotl o) := fun _ hw =>
  decodeWord_of_parse (by unfold parseWord encode; rw [opcode_wrA]; show (rdA _).map _ = _; rw [rdA_wrA]; rfl) hw

theorem RoundTrip.popc (o) : RoundTrip.Statement (.popc o) := fun _ hw =>
  decodeWord_of_parse (by unfold parseWord encode; rw [opcode_wrA]; show (rdA _).map _ = _; rw [rdA_wrA]; rfl) hw

theorem RoundTrip.clz (o) : RoundTrip.Statement (.clz o) := fun _ hw =>
  decodeWord_of_parse (by unfold parseWord encode; rw [opcode_wrA]; show (rdA _).map _ = _; rw [rdA_wrA]; rfl) hw

theorem RoundTrip.brev (o) : RoundTrip.Statement (.brev o) := fun _ hw =>
  decodeWord_of_parse (by unfold parseWord encode; rw [opcode_wrA]; show (rdA _).map _ = _; rw [rdA_wrA]; rfl) hw

theorem RoundTrip.bfx (o) : RoundTrip.Statement (.bfx o) := fun _ hw =>
  decodeWord_of_parse (by unfold parseWord encode; rw [opcode_wrA]; show (rdA _).map _ = _; rw [rdA_wrA]; rfl) hw

theorem RoundTrip.bfi (o) : RoundTrip.Statement (.bfi o) := fun _ hw =>
  decodeWord_of_parse (by unfold parseWord encode; rw [opcode_wrA]; show (rdA _).map _ = _; rw [rdA_wrA]; rfl) hw

theorem RoundTrip.lea (o) : RoundTrip.Statement (.lea o) := fun _ hw =>
  decodeWord_of_parse (by unfold parseWord encode; rw [opcode_wrA]; show (rdA _).map _ = _; rw [rdA_wrA]; rfl) hw

theorem RoundTrip.sel (o) : RoundTrip.Statement (.sel o) := fun _ hw =>
  decodeWord_of_parse (by unfold parseWord encode; rw [opcode_wrSel]; show (rdSel _).map _ = _; rw [rdSel_wrSel]; rfl) hw

theorem RoundTrip.icmp (o) : RoundTrip.Statement (.icmp o) := fun _ hw =>
  decodeWord_of_parse (by unfold parseWord encode; rw [opcode_wrCmp]; show (rdCmp _).map _ = _; rw [rdCmp_wrCmp]; rfl) hw

theorem RoundTrip.mov (o) : RoundTrip.Statement (.mov o) := fun _ hw =>
  decodeWord_of_parse (by unfold parseWord encode; rw [opcode_wrA]; show (rdA _).map _ = _; rw [rdA_wrA]; rfl) hw

theorem RoundTrip.movi (o) : RoundTrip.Statement (.movi o) := fun _ hw =>
  decodeWord_of_parse (by unfold parseWord encode; rw [opcode_wrL]; show (rdL _).map _ = _; rw [rdL_wrL]; rfl) hw

theorem RoundTrip.movs (o) : RoundTrip.Statement (.movs o) := fun _ hw =>
  decodeWord_of_parse (by unfold parseWord encode; rw [opcode_wrMovs]; show (rdMovs _).map _ = _; rw [rdMovs_wrMovs]; rfl) hw

theorem RoundTrip.iaddi (o) : RoundTrip.Statement (.iaddi o) := fun _ hw =>
  decodeWord_of_parse (by unfold parseWord encode; rw [opcode_wrI]; show (rdI _).map _ = _; rw [rdI_wrI]; rfl) hw

theorem RoundTrip.lopi (o) : RoundTrip.Statement (.lopi o) := fun _ hw =>
  decodeWord_of_parse (by unfold parseWord encode; rw [opcode_wrLopi]; show (rdLopi _).map _ = _; rw [rdLopi_wrLopi]; rfl) hw

theorem RoundTrip.fadd (o) : RoundTrip.Statement (.fadd o) := fun _ hw =>
  decodeWord_of_parse (by unfold parseWord encode; rw [opcode_wrA]; show (rdA _).map _ = _; rw [rdA_wrA]; rfl) hw

theorem RoundTrip.fsub (o) : RoundTrip.Statement (.fsub o) := fun _ hw =>
  decodeWord_of_parse (by unfold parseWord encode; rw [opcode_wrA]; show (rdA _).map _ = _; rw [rdA_wrA]; rfl) hw

theorem RoundTrip.fmul (o) : RoundTrip.Statement (.fmul o) := fun _ hw =>
  decodeWord_of_parse (by unfold parseWord encode; rw [opcode_wrA]; show (rdA _).map _ = _; rw [rdA_wrA]; rfl) hw

theorem RoundTrip.ffma (o) : RoundTrip.Statement (.ffma o) := fun _ hw =>
  decodeWord_of_parse (by unfold parseWord encode; rw [opcode_wrA]; show (rdA _).map _ = _; rw [rdA_wrA]; rfl) hw

theorem RoundTrip.fmin (o) : RoundTrip.Statement (.fmin o) := fun _ hw =>
  decodeWord_of_parse (by unfold parseWord encode; rw [opcode_wrA]; show (rdA _).map _ = _; rw [rdA_wrA]; rfl) hw

theorem RoundTrip.fmax (o) : RoundTrip.Statement (.fmax o) := fun _ hw =>
  decodeWord_of_parse (by unfold parseWord encode; rw [opcode_wrA]; show (rdA _).map _ = _; rw [rdA_wrA]; rfl) hw

theorem RoundTrip.fcmp (o) : RoundTrip.Statement (.fcmp o) := fun _ hw =>
  decodeWord_of_parse (by unfold parseWord encode; rw [opcode_wrCmp]; show (rdCmp _).map _ = _; rw [rdCmp_wrCmp]; rfl) hw

theorem RoundTrip.frcp (o) : RoundTrip.Statement (.frcp o) := fun _ hw =>
  decodeWord_of_parse (by unfold parseWord encode; rw [opcode_wrA]; show (rdA _).map _ = _; rw [rdA_wrA]; rfl) hw

theorem RoundTrip.frsq (o) : RoundTrip.Statement (.frsq o) := fun _ hw =>
  decodeWord_of_parse (by unfold parseWord encode; rw [opcode_wrA]; show (rdA _).map _ = _; rw [rdA_wrA]; rfl) hw

theorem RoundTrip.fsqrt (o) : RoundTrip.Statement (.fsqrt o) := fun _ hw =>
  decodeWord_of_parse (by unfold parseWord encode; rw [opcode_wrA]; show (rdA _).map _ = _; rw [rdA_wrA]; rfl) hw

theorem RoundTrip.fdiv (o) : RoundTrip.Statement (.fdiv o) := fun _ hw =>
  decodeWord_of_parse (by unfold parseWord encode; rw [opcode_wrA]; show (rdA _).map _ = _; rw [rdA_wrA]; rfl) hw

theorem RoundTrip.fexp2 (o) : RoundTrip.Statement (.fexp2 o) := fun _ hw =>
  decodeWord_of_parse (by unfold parseWord encode; rw [opcode_wrA]; show (rdA _).map _ = _; rw [rdA_wrA]; rfl) hw

theorem RoundTrip.flog2 (o) : RoundTrip.Statement (.flog2 o) := fun _ hw =>
  decodeWord_of_parse (by unfold parseWord encode; rw [opcode_wrA]; show (rdA _).map _ = _; rw [rdA_wrA]; rfl) hw

theorem RoundTrip.fsin (o) : RoundTrip.Statement (.fsin o) := fun _ hw =>
  decodeWord_of_parse (by unfold parseWord encode; rw [opcode_wrA]; show (rdA _).map _ = _; rw [rdA_wrA]; rfl) hw

theorem RoundTrip.fcos (o) : RoundTrip.Statement (.fcos o) := fun _ hw =>
  decodeWord_of_parse (by unfold parseWord encode; rw [opcode_wrA]; show (rdA _).map _ = _; rw [rdA_wrA]; rfl) hw

theorem RoundTrip.ftanh (o) : RoundTrip.Statement (.ftanh o) := fun _ hw =>
  decodeWord_of_parse (by unfold parseWord encode; rw [opcode_wrA]; show (rdA _).map _ = _; rw [rdA_wrA]; rfl) hw

theorem RoundTrip.fclass (o) : RoundTrip.Statement (.fclass o) := fun _ hw =>
  decodeWord_of_parse (by unfold parseWord encode; rw [opcode_wrA]; show (rdA _).map _ = _; rw [rdA_wrA]; rfl) hw

theorem RoundTrip.frnd (o) : RoundTrip.Statement (.frnd o) := fun _ hw =>
  decodeWord_of_parse (by unfold parseWord encode; rw [opcode_wrA]; show (rdA _).map _ = _; rw [rdA_wrA]; rfl) hw

theorem RoundTrip.cvt (o) : RoundTrip.Statement (.cvt o) := fun _ hw =>
  decodeWord_of_parse (by unfold parseWord encode; rw [opcode_wrCvt]; show (rdCvt _).map _ = _; rw [rdCvt_wrCvt]; rfl) hw

theorem RoundTrip.pack (o) : RoundTrip.Statement (.pack o) := fun _ hw =>
  decodeWord_of_parse (by unfold parseWord encode; rw [opcode_wrA]; show (rdA _).map _ = _; rw [rdA_wrA]; rfl) hw

theorem RoundTrip.unpk (o) : RoundTrip.Statement (.unpk o) := fun _ hw =>
  decodeWord_of_parse (by unfold parseWord encode; rw [opcode_wrUnpk]; show (rdUnpk _).map _ = _; rw [rdUnpk_wrUnpk]; rfl) hw

theorem RoundTrip.fdot2 (o) : RoundTrip.Statement (.fdot2 o) := fun _ hw =>
  decodeWord_of_parse (by unfold parseWord encode; rw [opcode_wrA]; show (rdA _).map _ = _; rw [rdA_wrA]; rfl) hw

theorem RoundTrip.idot4 (o) : RoundTrip.Statement (.idot4 o) := fun _ hw =>
  decodeWord_of_parse (by unfold parseWord encode; rw [opcode_wrA]; show (rdA _).map _ = _; rw [rdA_wrA]; rfl) hw

theorem RoundTrip.afnew (o) : RoundTrip.Statement (.afnew o) := fun _ hw =>
  decodeWord_of_parse (by unfold parseWord encode; rw [opcode_wrAfNew]; show (rdAfNew _).map _ = _; rw [rdAfNew_wrAfNew]; rfl) hw

theorem RoundTrip.afcst (o) : RoundTrip.Statement (.afcst o) := fun _ hw =>
  decodeWord_of_parse (by unfold parseWord encode; rw [opcode_wrAfCst]; show (rdAfCst _).map _ = _; rw [rdAfCst_wrAfCst]; rfl) hw

theorem RoundTrip.afadd (o) : RoundTrip.Statement (.afadd o) := fun _ hw =>
  decodeWord_of_parse (by unfold parseWord encode; rw [opcode_wrAfBin]; show (rdAfBin _).map _ = _; rw [rdAfBin_wrAfBin]; rfl) hw

theorem RoundTrip.afsub (o) : RoundTrip.Statement (.afsub o) := fun _ hw =>
  decodeWord_of_parse (by unfold parseWord encode; rw [opcode_wrAfBin]; show (rdAfBin _).map _ = _; rw [rdAfBin_wrAfBin]; rfl) hw

theorem RoundTrip.afscl (o) : RoundTrip.Statement (.afscl o) := fun _ hw =>
  decodeWord_of_parse (by unfold parseWord encode; rw [opcode_wrAfScl]; show (rdAfScl _).map _ = _; rw [rdAfScl_wrAfScl]; rfl) hw

theorem RoundTrip.afmul (o) : RoundTrip.Statement (.afmul o) := fun _ hw =>
  decodeWord_of_parse (by unfold parseWord encode; rw [opcode_wrAfBin]; show (rdAfBin _).map _ = _; rw [rdAfBin_wrAfBin]; rfl) hw

theorem RoundTrip.afsqr (o) : RoundTrip.Statement (.afsqr o) := fun _ hw =>
  decodeWord_of_parse (by unfold parseWord encode; rw [opcode_wrAfUn]; show (rdAfUn _).map _ = _; rw [rdAfUn_wrAfUn]; rfl) hw

theorem RoundTrip.afrcp (o) : RoundTrip.Statement (.afrcp o) := fun _ hw =>
  decodeWord_of_parse (by unfold parseWord encode; rw [opcode_wrAfUn]; show (rdAfUn _).map _ = _; rw [rdAfUn_wrAfUn]; rfl) hw

theorem RoundTrip.afsqrt (o) : RoundTrip.Statement (.afsqrt o) := fun _ hw =>
  decodeWord_of_parse (by unfold parseWord encode; rw [opcode_wrAfUn]; show (rdAfUn _).map _ = _; rw [rdAfUn_wrAfUn]; rfl) hw

theorem RoundTrip.afexp (o) : RoundTrip.Statement (.afexp o) := fun _ hw =>
  decodeWord_of_parse (by unfold parseWord encode; rw [opcode_wrAfUn]; show (rdAfUn _).map _ = _; rw [rdAfUn_wrAfUn]; rfl) hw

theorem RoundTrip.afcnd (o) : RoundTrip.Statement (.afcnd o) := fun _ hw =>
  decodeWord_of_parse (by unfold parseWord encode; rw [opcode_wrAfCnd]; show (rdAfCnd _).map _ = _; rw [rdAfCnd_wrAfCnd]; rfl) hw

theorem RoundTrip.afrng (o) : RoundTrip.Statement (.afrng o) := fun _ hw =>
  decodeWord_of_parse (by unfold parseWord encode; rw [opcode_wrAfRng]; show (rdAfRng _).map _ = _; rw [rdAfRng_wrAfRng]; rfl) hw

theorem RoundTrip.afget (o) : RoundTrip.Statement (.afget o) := fun _ hw =>
  decodeWord_of_parse (by unfold parseWord encode; rw [opcode_wrAfGet]; show (rdAfGet _).map _ = _; rw [rdAfGet_wrAfGet]; rfl) hw

theorem RoundTrip.afld (o) : RoundTrip.Statement (.afld o) := fun _ hw =>
  decodeWord_of_parse (by unfold parseWord encode; rw [opcode_wrAfMem]; show (rdAfMem _).map _ = _; rw [rdAfMem_wrAfMem]; rfl) hw

theorem RoundTrip.afst (o) : RoundTrip.Statement (.afst o) := fun _ hw =>
  decodeWord_of_parse (by unfold parseWord encode; rw [opcode_wrAfMem]; show (rdAfMem _).map _ = _; rw [rdAfMem_wrAfMem]; rfl) hw

theorem RoundTrip.afsym (o) : RoundTrip.Statement (.afsym o) := fun _ hw =>
  decodeWord_of_parse (by unfold parseWord encode; rw [opcode_wrAfSym]; show (rdAfSym _).map _ = _; rw [rdAfSym_wrAfSym]; rfl) hw

theorem RoundTrip.plop (o) : RoundTrip.Statement (.plop o) := fun _ hw =>
  decodeWord_of_parse (by unfold parseWord encode; rw [opcode_wrPlop]; show (rdPlop _).map _ = _; rw [rdPlop_wrPlop]; rfl) hw

theorem RoundTrip.pmov (o) : RoundTrip.Statement (.pmov o) := fun _ hw =>
  decodeWord_of_parse (by unfold parseWord encode; rw [opcode_wrPmov]; show (rdPmov _).map _ = _; rw [rdPmov_wrPmov]; rfl) hw

theorem RoundTrip.vote (o) : RoundTrip.Statement (.vote o) := fun _ hw =>
  decodeWord_of_parse (by unfold parseWord encode; rw [opcode_wrVote]; show (rdVote _).map _ = _; rw [rdVote_wrVote]; rfl) hw

theorem RoundTrip.shfl (o) : RoundTrip.Statement (.shfl o) := fun _ hw =>
  decodeWord_of_parse (by unfold parseWord encode; rw [opcode_wrShfl]; show (rdShfl _).map _ = _; rw [rdShfl_wrShfl]; rfl) hw

theorem RoundTrip.gred (o) : RoundTrip.Statement (.gred o) := fun _ hw =>
  decodeWord_of_parse (by unfold parseWord encode; rw [opcode_wrGroup]; show (rdGroup _).map _ = _; rw [rdGroup_wrGroup]; rfl) hw

theorem RoundTrip.gscan (o) : RoundTrip.Statement (.gscan o) := fun _ hw =>
  decodeWord_of_parse (by unfold parseWord encode; rw [opcode_wrGroup]; show (rdGroup _).map _ = _; rw [rdGroup_wrGroup]; rfl) hw

theorem RoundTrip.elect (o) : RoundTrip.Statement (.elect o) := fun _ hw =>
  decodeWord_of_parse (by unfold parseWord encode; rw [opcode_wrElect]; show (rdElect _).map _ = _; rw [rdElect_wrElect]; rfl) hw

theorem RoundTrip.matchLanes (o) : RoundTrip.Statement (.matchLanes o) := fun _ hw =>
  decodeWord_of_parse (by unfold parseWord encode; rw [opcode_wrMatch]; show (rdMatch _).map _ = _; rw [rdMatch_wrMatch]; rfl) hw

theorem RoundTrip.ld (o) : RoundTrip.Statement (.ld o) := fun _ hw =>
  decodeWord_of_parse (by unfold parseWord encode; rw [opcode_wrM]; show (rdM _).map _ = _; rw [rdM_wrM]; rfl) hw

theorem RoundTrip.st (o) : RoundTrip.Statement (.st o) := fun _ hw =>
  decodeWord_of_parse (by unfold parseWord encode; rw [opcode_wrM]; show (rdM _).map _ = _; rw [rdM_wrM]; rfl) hw

theorem RoundTrip.lds (o) : RoundTrip.Statement (.lds o) := fun _ hw =>
  decodeWord_of_parse (by unfold parseWord encode; rw [opcode_wrM]; show (rdM _).map _ = _; rw [rdM_wrM]; rfl) hw

theorem RoundTrip.sts (o) : RoundTrip.Statement (.sts o) := fun _ hw =>
  decodeWord_of_parse (by unfold parseWord encode; rw [opcode_wrM]; show (rdM _).map _ = _; rw [rdM_wrM]; rfl) hw

theorem RoundTrip.ldk (o) : RoundTrip.Statement (.ldk o) := fun _ hw =>
  decodeWord_of_parse (by unfold parseWord encode; rw [opcode_wrLdk]; show (rdLdk _).map _ = _; rw [rdLdk_wrLdk]; rfl) hw

theorem RoundTrip.atom (o) : RoundTrip.Statement (.atom o) := fun _ hw =>
  decodeWord_of_parse (by unfold parseWord encode; rw [opcode_wrN]; show (rdN _).map _ = _; rw [rdN_wrN]; rfl) hw

theorem RoundTrip.atoms (o) : RoundTrip.Statement (.atoms o) := fun _ hw =>
  decodeWord_of_parse (by unfold parseWord encode; rw [opcode_wrN]; show (rdN _).map _ = _; rw [rdN_wrN]; rfl) hw

theorem RoundTrip.red (o) : RoundTrip.Statement (.red o) := fun _ hw =>
  decodeWord_of_parse (by unfold parseWord encode; rw [opcode_wrN]; show (rdN _).map _ = _; rw [rdN_wrN]; rfl) hw

theorem RoundTrip.fence (o) : RoundTrip.Statement (.fence o) := fun _ hw =>
  decodeWord_of_parse (by unfold parseWord encode; rw [opcode_wrFence]; show (rdFence _).map _ = _; rw [rdFence_wrFence]; rfl) hw

theorem RoundTrip.pref (o) : RoundTrip.Statement (.pref o) := fun _ hw =>
  decodeWord_of_parse (by unfold parseWord encode; rw [opcode_wrPref]; show (rdPref _).map _ = _; rw [rdPref_wrPref]; rfl) hw

theorem RoundTrip.ldx (o) : RoundTrip.Statement (.ldx o) := fun _ hw =>
  decodeWord_of_parse (by unfold parseWord encode; rw [opcode_wrMX]; show (rdMX _).map _ = _; rw [rdMX_wrMX]; rfl) hw

theorem RoundTrip.stx (o) : RoundTrip.Statement (.stx o) := fun _ hw =>
  decodeWord_of_parse (by unfold parseWord encode; rw [opcode_wrMX]; show (rdMX _).map _ = _; rw [rdMX_wrMX]; rfl) hw

theorem RoundTrip.ixset (o) : RoundTrip.Statement (.ixset o) := fun _ hw =>
  decodeWord_of_parse (by unfold parseWord encode; rw [opcode_wrIxset]; show (rdIxset _).map _ = _; rw [rdIxset_wrIxset]; rfl) hw

theorem RoundTrip.cctl (o) : RoundTrip.Statement (.cctl o) := fun _ hw =>
  decodeWord_of_parse (by unfold parseWord encode; rw [opcode_wrCctl]; show (rdCctl _).map _ = _; rw [rdCctl_wrCctl]; rfl) hw

theorem RoundTrip.bop (o) : RoundTrip.Statement (.bop o) := fun _ hw =>
  decodeWord_of_parse (by unfold parseWord encode; rw [opcode_wrV]; show (rdV _).map _ = _; rw [rdV_wrV]; rfl) hw

theorem RoundTrip.cpy (o) : RoundTrip.Statement (.cpy o) := fun _ hw =>
  decodeWord_of_parse (by unfold parseWord encode; rw [opcode_wrQ]; show (rdQ _).map _ = _; rw [rdQ_wrQ]; rfl) hw

theorem RoundTrip.cpym (o) : RoundTrip.Statement (.cpym o) := fun _ hw =>
  decodeWord_of_parse (by unfold parseWord encode; rw [opcode_wrQ]; show (rdQ _).map _ = _; rw [rdQ_wrQ]; rfl) hw

theorem RoundTrip.cpyx (o) : RoundTrip.Statement (.cpyx o) := fun _ hw =>
  decodeWord_of_parse (by unfold parseWord encode; rw [opcode_wrQ]; show (rdQ _).map _ = _; rw [rdQ_wrQ]; rfl) hw

theorem RoundTrip.cpyw (o) : RoundTrip.Statement (.cpyw o) := fun _ hw =>
  decodeWord_of_parse (by unfold parseWord encode; rw [opcode_wrQ]; show (rdQ _).map _ = _; rw [rdQ_wrQ]; rfl) hw

theorem RoundTrip.synci (o) : RoundTrip.Statement (.synci o) := fun _ hw =>
  decodeWord_of_parse (by unfold parseWord encode; rw [opcode_wrQ]; show (rdQ _).map _ = _; rw [rdQ_wrQ]; rfl) hw

theorem RoundTrip.synca (o) : RoundTrip.Statement (.synca o) := fun _ hw =>
  decodeWord_of_parse (by unfold parseWord encode; rw [opcode_wrQ]; show (rdQ _).map _ = _; rw [rdQ_wrQ]; rfl) hw

theorem RoundTrip.syncw (o) : RoundTrip.Statement (.syncw o) := fun _ hw =>
  decodeWord_of_parse (by unfold parseWord encode; rw [opcode_wrQ]; show (rdQ _).map _ = _; rw [rdQ_wrQ]; rfl) hw

theorem RoundTrip.synct (o) : RoundTrip.Statement (.synct o) := fun _ hw =>
  decodeWord_of_parse (by unfold parseWord encode; rw [opcode_wrQ]; show (rdQ _).map _ = _; rw [rdQ_wrQ]; rfl) hw

theorem RoundTrip.vadd (o) : RoundTrip.Statement (.vadd o) := fun _ hw =>
  decodeWord_of_parse (by unfold parseWord encode; rw [opcode_wrV]; show (rdV _).map _ = _; rw [rdV_wrV]; rfl) hw

theorem RoundTrip.vsub (o) : RoundTrip.Statement (.vsub o) := fun _ hw =>
  decodeWord_of_parse (by unfold parseWord encode; rw [opcode_wrV]; show (rdV _).map _ = _; rw [rdV_wrV]; rfl) hw

theorem RoundTrip.vmul (o) : RoundTrip.Statement (.vmul o) := fun _ hw =>
  decodeWord_of_parse (by unfold parseWord encode; rw [opcode_wrV]; show (rdV _).map _ = _; rw [rdV_wrV]; rfl) hw

theorem RoundTrip.vfma (o) : RoundTrip.Statement (.vfma o) := fun _ hw =>
  decodeWord_of_parse (by unfold parseWord encode; rw [opcode_wrV]; show (rdV _).map _ = _; rw [rdV_wrV]; rfl) hw

theorem RoundTrip.vmin (o) : RoundTrip.Statement (.vmin o) := fun _ hw =>
  decodeWord_of_parse (by unfold parseWord encode; rw [opcode_wrV]; show (rdV _).map _ = _; rw [rdV_wrV]; rfl) hw

theorem RoundTrip.vmax (o) : RoundTrip.Statement (.vmax o) := fun _ hw =>
  decodeWord_of_parse (by unfold parseWord encode; rw [opcode_wrV]; show (rdV _).map _ = _; rw [rdV_wrV]; rfl) hw

theorem RoundTrip.vexp (o) : RoundTrip.Statement (.vexp o) := fun _ hw =>
  decodeWord_of_parse (by unfold parseWord encode; rw [opcode_wrV]; show (rdV _).map _ = _; rw [rdV_wrV]; rfl) hw

theorem RoundTrip.vrsq (o) : RoundTrip.Statement (.vrsq o) := fun _ hw =>
  decodeWord_of_parse (by unfold parseWord encode; rw [opcode_wrV]; show (rdV _).map _ = _; rw [rdV_wrV]; rfl) hw

theorem RoundTrip.vrcp (o) : RoundTrip.Statement (.vrcp o) := fun _ hw =>
  decodeWord_of_parse (by unfold parseWord encode; rw [opcode_wrV]; show (rdV _).map _ = _; rw [rdV_wrV]; rfl) hw

theorem RoundTrip.vtanh (o) : RoundTrip.Statement (.vtanh o) := fun _ hw =>
  decodeWord_of_parse (by unfold parseWord encode; rw [opcode_wrV]; show (rdV _).map _ = _; rw [rdV_wrV]; rfl) hw

theorem RoundTrip.vcvt (o) : RoundTrip.Statement (.vcvt o) := fun _ hw =>
  decodeWord_of_parse (by unfold parseWord encode; rw [opcode_wrV]; show (rdV _).map _ = _; rw [rdV_wrV]; rfl) hw

theorem RoundTrip.vred (o) : RoundTrip.Statement (.vred o) := fun _ hw =>
  decodeWord_of_parse (by unfold parseWord encode; rw [opcode_wrV]; show (rdV _).map _ = _; rw [rdV_wrV]; rfl) hw

theorem RoundTrip.vscan (o) : RoundTrip.Statement (.vscan o) := fun _ hw =>
  decodeWord_of_parse (by unfold parseWord encode; rw [opcode_wrV]; show (rdV _).map _ = _; rw [rdV_wrV]; rfl) hw

theorem RoundTrip.vgth (o) : RoundTrip.Statement (.vgth o) := fun _ hw =>
  decodeWord_of_parse (by unfold parseWord encode; rw [opcode_wrV]; show (rdV _).map _ = _; rw [rdV_wrV]; rfl) hw

theorem RoundTrip.vsct (o) : RoundTrip.Statement (.vsct o) := fun _ hw =>
  decodeWord_of_parse (by unfold parseWord encode; rw [opcode_wrV]; show (rdV _).map _ = _; rw [rdV_wrV]; rfl) hw

theorem RoundTrip.vmov (o) : RoundTrip.Statement (.vmov o) := fun _ hw =>
  decodeWord_of_parse (by unfold parseWord encode; rw [opcode_wrV]; show (rdV _).map _ = _; rw [rdV_wrV]; rfl) hw

theorem RoundTrip.vsel (o) : RoundTrip.Statement (.vsel o) := fun _ hw =>
  decodeWord_of_parse (by unfold parseWord encode; rw [opcode_wrV]; show (rdV _).map _ = _; rw [rdV_wrV]; rfl) hw

theorem RoundTrip.vcmp (o) : RoundTrip.Statement (.vcmp o) := fun _ hw =>
  decodeWord_of_parse (by unfold parseWord encode; rw [opcode_wrV]; show (rdV _).map _ = _; rw [rdV_wrV]; rfl) hw

theorem RoundTrip.vlrec (o) : RoundTrip.Statement (.vlrec o) := fun _ hw =>
  decodeWord_of_parse (by unfold parseWord encode; rw [opcode_wrV]; show (rdV _).map _ = _; rw [rdV_wrV]; rfl) hw

theorem RoundTrip.mma (o) : RoundTrip.Statement (.mma o) := fun _ hw =>
  decodeWord_of_parse (by unfold parseWord encode; rw [opcode_wrX]; show (rdX _).map _ = _; rw [rdX_wrX]; rfl) hw

theorem RoundTrip.mmap (o) : RoundTrip.Statement (.mmap o) := fun _ hw =>
  decodeWord_of_parse (by unfold parseWord encode; rw [opcode_wrX]; show (rdX _).map _ = _; rw [rdX_wrX]; rfl) hw

theorem RoundTrip.mmas (o) : RoundTrip.Statement (.mmas o) := fun _ hw =>
  decodeWord_of_parse (by unfold parseWord encode; rw [opcode_wrX]; show (rdX _).map _ = _; rw [rdX_wrX]; rfl) hw

theorem RoundTrip.mwait (o) : RoundTrip.Statement (.mwait o) := fun _ hw =>
  decodeWord_of_parse (by unfold parseWord encode; rw [opcode_wrX]; show (rdX _).map _ = _; rw [rdX_wrX]; rfl) hw

theorem RoundTrip.mopr (o) : RoundTrip.Statement (.mopr o) := fun _ hw =>
  decodeWord_of_parse (by unfold parseWord encode; rw [opcode_wrX]; show (rdX _).map _ = _; rw [rdX_wrX]; rfl) hw

theorem RoundTrip.mzero (o) : RoundTrip.Statement (.mzero o) := fun _ hw =>
  decodeWord_of_parse (by unfold parseWord encode; rw [opcode_wrX]; show (rdX _).map _ = _; rw [rdX_wrX]; rfl) hw

theorem RoundTrip.mldc (o) : RoundTrip.Statement (.mldc o) := fun _ hw =>
  decodeWord_of_parse (by unfold parseWord encode; rw [opcode_wrX]; show (rdX _).map _ = _; rw [rdX_wrX]; rfl) hw

theorem RoundTrip.mstc (o) : RoundTrip.Statement (.mstc o) := fun _ hw =>
  decodeWord_of_parse (by unfold parseWord encode; rw [opcode_wrX]; show (rdX _).map _ = _; rw [rdX_wrX]; rfl) hw

theorem RoundTrip.bra (o) : RoundTrip.Statement (.bra o) := fun _ hw =>
  decodeWord_of_parse (by unfold parseWord encode; rw [opcode_wrBra]; show (rdBra _).map _ = _; rw [rdBra_wrBra]; rfl) hw

theorem RoundTrip.bri (o) : RoundTrip.Statement (.bri o) := fun _ hw =>
  decodeWord_of_parse (by unfold parseWord encode; rw [opcode_wrBri]; show (rdBri _).map _ = _; rw [rdBri_wrBri]; rfl) hw

theorem RoundTrip.call (o) : RoundTrip.Statement (.call o) := fun _ hw =>
  decodeWord_of_parse (by unfold parseWord encode; rw [opcode_wrCall]; show (rdCall _).map _ = _; rw [rdCall_wrCall]; rfl) hw

theorem RoundTrip.ret (o) : RoundTrip.Statement (.ret o) := fun _ hw =>
  decodeWord_of_parse (by unfold parseWord encode; rw [opcode_wrRegC]; show (rdRegC _).map _ = _; rw [rdRegC_wrRegC]; rfl) hw

theorem RoundTrip.exitT (o) : RoundTrip.Statement (.exitT o) := fun _ hw =>
  decodeWord_of_parse (by unfold parseWord encode; rw [opcode_wrPredC]; show (rdPredC _).map _ = _; rw [rdPredC_wrPredC]; rfl) hw

theorem RoundTrip.bar (o) : RoundTrip.Statement (.bar o) := fun _ hw =>
  decodeWord_of_parse (by unfold parseWord encode; rw [opcode_wrBar]; show (rdBar _).map _ = _; rw [rdBar_wrBar]; rfl) hw

theorem RoundTrip.yield (o) : RoundTrip.Statement (.yield o) := fun _ hw =>
  decodeWord_of_parse (by unfold parseWord encode; rw [opcode_wrPredC]; show (rdPredC _).map _ = _; rw [rdPredC_wrPredC]; rfl) hw

theorem RoundTrip.lnch (o) : RoundTrip.Statement (.lnch o) := fun _ hw =>
  decodeWord_of_parse (by unfold parseWord encode; rw [opcode_wrRegC]; show (rdRegC _).map _ = _; rw [rdRegC_wrRegC]; rfl) hw

theorem RoundTrip.wwait (o) : RoundTrip.Statement (.wwait o) := fun _ hw =>
  decodeWord_of_parse (by unfold parseWord encode; rw [opcode_wrWwait]; show (rdWwait _).map _ = _; rw [rdWwait_wrWwait]; rfl) hw

theorem RoundTrip.wwake (o) : RoundTrip.Statement (.wwake o) := fun _ hw =>
  decodeWord_of_parse (by unfold parseWord encode; rw [opcode_wrWwake]; show (rdWwake _).map _ = _; rw [rdWwake_wrWwake]; rfl) hw

theorem RoundTrip.nopre (o) : RoundTrip.Statement (.nopre o) := fun _ hw =>
  decodeWord_of_parse (by unfold parseWord encode; rw [opcode_wrNopre]; show (rdNopre _).map _ = _; rw [rdNopre_wrNopre]; rfl) hw

theorem RoundTrip.wend (o) : RoundTrip.Statement (.wend o) := fun _ hw =>
  decodeWord_of_parse (by unfold parseWord encode; rw [opcode_wrPredW]; show (rdPredW _).map _ = _; rw [rdPredW_wrPredW]; rfl) hw

theorem RoundTrip.wemit (o) : RoundTrip.Statement (.wemit o) := fun _ hw =>
  decodeWord_of_parse (by unfold parseWord encode; rw [opcode_wrWemit]; show (rdWemit _).map _ = _; rw [rdWemit_wrWemit]; rfl) hw

theorem RoundTrip.wclose (o) : RoundTrip.Statement (.wclose o) := fun _ hw =>
  decodeWord_of_parse (by unfold parseWord encode; rw [opcode_wrPredW]; show (rdPredW _).map _ = _; rw [rdPredW_wrPredW]; rfl) hw

theorem RoundTrip.wpnld (o) : RoundTrip.Statement (.wpnld o) := fun _ hw =>
  decodeWord_of_parse (by unfold parseWord encode; rw [opcode_wrPane]; show (rdPane _).map _ = _; rw [rdPane_wrPane]; rfl) hw

theorem RoundTrip.wpnst (o) : RoundTrip.Statement (.wpnst o) := fun _ hw =>
  decodeWord_of_parse (by unfold parseWord encode; rw [opcode_wrPane]; show (rdPane _).map _ = _; rw [rdPane_wrPane]; rfl) hw

theorem RoundTrip.wfwd (o) : RoundTrip.Statement (.wfwd o) := fun _ hw =>
  decodeWord_of_parse (by unfold parseWord encode; rw [opcode_wrWfwd]; show (rdWfwd _).map _ = _; rw [rdWfwd_wrWfwd]; rfl) hw

theorem RoundTrip.nsend (o) : RoundTrip.Statement (.nsend o) := fun _ hw =>
  decodeWord_of_parse (by unfold parseWord encode; rw [opcode_wrRegW]; show (rdRegW _).map _ = _; rw [rdRegW_wrRegW]; rfl) hw

theorem RoundTrip.nrecv (o) : RoundTrip.Statement (.nrecv o) := fun _ hw =>
  decodeWord_of_parse (by unfold parseWord encode; rw [opcode_wrRegW]; show (rdRegW _).map _ = _; rw [rdRegW_wrRegW]; rfl) hw

theorem RoundTrip.nctr (o) : RoundTrip.Statement (.nctr o) := fun _ hw =>
  decodeWord_of_parse (by unfold parseWord encode; rw [opcode_wrNctr]; show (rdNctr _).map _ = _; rw [rdNctr_wrNctr]; rfl) hw

theorem RoundTrip.trap (o) : RoundTrip.Statement (.trap o) := fun _ hw =>
  decodeWord_of_parse (by unfold parseWord encode; rw [opcode_wrCode]; show (rdCode _).map _ = _; rw [rdCode_wrCode]; rfl) hw

theorem RoundTrip.sysc (o) : RoundTrip.Statement (.sysc o) := fun _ hw =>
  decodeWord_of_parse (by unfold parseWord encode; rw [opcode_wrSysc]; show (rdSysc _).map _ = _; rw [rdSysc_wrSysc]; rfl) hw

theorem RoundTrip.eret (o) : RoundTrip.Statement (.eret o) := fun _ hw =>
  decodeWord_of_parse (by unfold parseWord encode; rw [opcode_wrEret]; show (rdEret _).map _ = _; rw [rdEret_wrEret]; rfl) hw

theorem RoundTrip.movy (o) : RoundTrip.Statement (.movy o) := fun _ hw =>
  decodeWord_of_parse (by unfold parseWord encode; rw [opcode_wrMovy]; show (rdMovy _).map _ = _; rw [rdMovy_wrMovy]; rfl) hw

theorem RoundTrip.movyw (o) : RoundTrip.Statement (.movyw o) := fun _ hw =>
  decodeWord_of_parse (by unfold parseWord encode; rw [opcode_wrMovyw]; show (rdMovyw _).map _ = _; rw [rdMovyw_wrMovyw]; rfl) hw

theorem RoundTrip.bkpt (o) : RoundTrip.Statement (.bkpt o) := fun _ hw =>
  decodeWord_of_parse (by unfold parseWord encode; rw [opcode_wrCode]; show (rdCode _).map _ = _; rw [rdCode_wrCode]; rfl) hw

theorem RoundTrip.tlbi (o) : RoundTrip.Statement (.tlbi o) := fun _ hw =>
  decodeWord_of_parse (by unfold parseWord encode; rw [opcode_wrTlbi]; show (rdTlbi _).map _ = _; rw [rdTlbi_wrTlbi]; rfl) hw

theorem RoundTrip.demotionEnd (x0 x1) : RoundTrip.Statement (.demotionEnd x0 x1) := fun h => nomatch h

theorem RoundTrip.groupStarved (x0) : RoundTrip.Statement (.groupStarved x0) := fun h => nomatch h

theorem RoundTrip.trapEntry (x0) : RoundTrip.Statement (.trapEntry x0) := fun h => nomatch h

theorem RoundTrip.translationFaultResolution (x0 x1 x2) : RoundTrip.Statement (.translationFaultResolution x0 x1 x2) := fun h => nomatch h

theorem RoundTrip.pageWalk (x0 x1) : RoundTrip.Statement (.pageWalk x0 x1) := fun h => nomatch h

theorem RoundTrip.tlbiComplete (x0 x1) : RoundTrip.Statement (.tlbiComplete x0 x1) := fun h => nomatch h

theorem RoundTrip.loadReturn (x0 x1) : RoundTrip.Statement (.loadReturn x0 x1) := fun h => nomatch h

theorem RoundTrip.storeAcknowledgement (x0) : RoundTrip.Statement (.storeAcknowledgement x0) := fun h => nomatch h

theorem RoundTrip.atomicReturn (x0 x1) : RoundTrip.Statement (.atomicReturn x0 x1) := fun h => nomatch h

theorem RoundTrip.promotionRequest (x0) : RoundTrip.Statement (.promotionRequest x0) := fun h => nomatch h

theorem RoundTrip.hostCxlAccess (x0 x1) : RoundTrip.Statement (.hostCxlAccess x0 x1) := fun h => nomatch h

theorem RoundTrip.groupSwapOut (x0) : RoundTrip.Statement (.groupSwapOut x0) := fun h => nomatch h

theorem RoundTrip.groupResume (x0 x1 x2) : RoundTrip.Statement (.groupResume x0 x1 x2) := fun h => nomatch h

theorem RoundTrip.launchAccept (x0) : RoundTrip.Statement (.launchAccept x0) := fun h => nomatch h

theorem RoundTrip.blockPlacement (x0) : RoundTrip.Statement (.blockPlacement x0) := fun h => nomatch h

theorem RoundTrip.dispatchPromiseRestore (x0) : RoundTrip.Statement (.dispatchPromiseRestore x0) := fun h => nomatch h

theorem RoundTrip.groupRetire (x0) : RoundTrip.Statement (.groupRetire x0) := fun h => nomatch h

theorem RoundTrip.launchTimeout (x0) : RoundTrip.Statement (.launchTimeout x0) := fun h => nomatch h

theorem RoundTrip.launchKill (x0) : RoundTrip.Statement (.launchKill x0) := fun h => nomatch h

theorem RoundTrip.notify (x0 x1) : RoundTrip.Statement (.notify x0 x1) := fun h => nomatch h

theorem RoundTrip.nopPacket (x0 x1) : RoundTrip.Statement (.nopPacket x0 x1) := fun h => nomatch h

theorem RoundTrip.launchPacket (x0 x1) : RoundTrip.Statement (.launchPacket x0 x1) := fun h => nomatch h

theorem RoundTrip.waitPacket (x0 x1) : RoundTrip.Statement (.waitPacket x0 x1) := fun h => nomatch h

theorem RoundTrip.signalPacket (x0 x1) : RoundTrip.Statement (.signalPacket x0 x1) := fun h => nomatch h

theorem RoundTrip.queueWaitRecheck (x0 x1) : RoundTrip.Statement (.queueWaitRecheck x0 x1) := fun h => nomatch h

theorem RoundTrip.queueWaitTimeout (x0 x1) : RoundTrip.Statement (.queueWaitTimeout x0 x1) := fun h => nomatch h

theorem RoundTrip.budgetPeriodBoundary (x0) : RoundTrip.Statement (.budgetPeriodBoundary x0) := fun h => nomatch h

theorem RoundTrip.nopreBudgetExpiry (x0) : RoundTrip.Statement (.nopreBudgetExpiry x0) := fun h => nomatch h

theorem RoundTrip.parkedGroupResolution (x0 x1) : RoundTrip.Statement (.parkedGroupResolution x0 x1) := fun h => nomatch h

theorem RoundTrip.waitEvaluation (x0 x1) : RoundTrip.Statement (.waitEvaluation x0 x1) := fun h => nomatch h

theorem RoundTrip.wwaitTimeout (x0 x1) : RoundTrip.Statement (.wwaitTimeout x0 x1) := fun h => nomatch h

theorem RoundTrip.unregisteredWaitPoll (x0 x1) : RoundTrip.Statement (.unregisteredWaitPoll x0 x1) := fun h => nomatch h

theorem RoundTrip.hostWakeWrite (x0 x1 x2) : RoundTrip.Statement (.hostWakeWrite x0 x1 x2) := fun h => nomatch h

theorem RoundTrip.symbolDraw (x0) : RoundTrip.Statement (.symbolDraw x0) := fun h => nomatch h

theorem RoundTrip.copyLanding (x0 x1 x2) : RoundTrip.Statement (.copyLanding x0 x1 x2) := fun h => nomatch h

theorem RoundTrip.matrixOpStart (x0 x1) : RoundTrip.Statement (.matrixOpStart x0 x1) := fun h => nomatch h

theorem RoundTrip.matrixOperandRelease (x0 x1) : RoundTrip.Statement (.matrixOperandRelease x0 x1) := fun h => nomatch h

theorem RoundTrip.matrixOpRetire (x0 x1) : RoundTrip.Statement (.matrixOpRetire x0 x1) := fun h => nomatch h

theorem RoundTrip.sweepStart (x0) : RoundTrip.Statement (.sweepStart x0) := fun h => nomatch h

theorem RoundTrip.sweepComplete (x0) : RoundTrip.Statement (.sweepComplete x0) := fun h => nomatch h

theorem RoundTrip.bopComplete (x0 x1) : RoundTrip.Statement (.bopComplete x0 x1) := fun h => nomatch h

theorem RoundTrip.syscNull (x0 x1) : RoundTrip.Statement (.syscNull x0 x1) := fun h => nomatch h

theorem RoundTrip.shapeInstall (x0 x1 x2) : RoundTrip.Statement (.shapeInstall x0 x1 x2) := fun h => nomatch h

theorem RoundTrip.shapeFree (x0 x1) : RoundTrip.Statement (.shapeFree x0 x1) := fun h => nomatch h

theorem RoundTrip.specInstall (x0 x1) : RoundTrip.Statement (.specInstall x0 x1) := fun h => nomatch h

theorem RoundTrip.specRemove (x0 x1) : RoundTrip.Statement (.specRemove x0 x1) := fun h => nomatch h

theorem RoundTrip.streamInstall (x0 x1 x2) : RoundTrip.Statement (.streamInstall x0 x1 x2) := fun h => nomatch h

theorem RoundTrip.mbotumService (x0 x1 x2 x3) : RoundTrip.Statement (.mbotumService x0 x1 x2 x3) := fun h => nomatch h

theorem RoundTrip.syscReply (x0 x1) : RoundTrip.Statement (.syscReply x0 x1) := fun h => nomatch h

theorem RoundTrip.uncorrectableError (x0 x1 x2 x3) : RoundTrip.Statement (.uncorrectableError x0 x1 x2 x3) := fun h => nomatch h

theorem RoundTrip.recordIngest (x0 x1) : RoundTrip.Statement (.recordIngest x0 x1) := fun h => nomatch h

theorem RoundTrip.recordDelivery (x0 x1 x2) : RoundTrip.Statement (.recordDelivery x0 x1 x2) := fun h => nomatch h

theorem RoundTrip.activationStart (x0 x1) : RoundTrip.Statement (.activationStart x0 x1) := fun h => nomatch h

theorem RoundTrip.watermarkUpdate (x0 x1) : RoundTrip.Statement (.watermarkUpdate x0 x1) := fun h => nomatch h

theorem RoundTrip.closeEvent (x0 x1 x2) : RoundTrip.Statement (.closeEvent x0 x1 x2) := fun h => nomatch h

theorem RoundTrip.packetTransmission (x0 x1 x2) : RoundTrip.Statement (.packetTransmission x0 x1 x2) := fun h => nomatch h

theorem RoundTrip.networkPacketArrival (x0 x1) : RoundTrip.Statement (.networkPacketArrival x0 x1) := fun h => nomatch h

theorem RoundTrip.selectiveAckArrival (x0 x1 x2 x3) : RoundTrip.Statement (.selectiveAckArrival x0 x1 x2 x3) := fun h => nomatch h

theorem RoundTrip.lossDetection (x0 x1 x2) : RoundTrip.Statement (.lossDetection x0 x1 x2) := fun h => nomatch h

theorem RoundTrip.connectionSetup (x0 x1 x2) : RoundTrip.Statement (.connectionSetup x0 x1 x2) := fun h => nomatch h

theorem RoundTrip.imageStop (x0 x1) : RoundTrip.Statement (.imageStop x0 x1) := fun h => nomatch h

theorem RoundTrip.imageRestore (x0 x1) : RoundTrip.Statement (.imageRestore x0 x1) := fun h => nomatch h

theorem RoundTrip.imageDiscard (x0 x1) : RoundTrip.Statement (.imageDiscard x0 x1) := fun h => nomatch h

theorem RoundTrip.imageStopAndSelfTest (x0 x1) : RoundTrip.Statement (.imageStopAndSelfTest x0 x1) := fun h => nomatch h

theorem RoundTrip.imageMoveOut (x0 x1) : RoundTrip.Statement (.imageMoveOut x0 x1) := fun h => nomatch h

theorem RoundTrip.imageMoveIn (x0 x1) : RoundTrip.Statement (.imageMoveIn x0 x1) := fun h => nomatch h

theorem RoundTrip.imageSeal (x0) : RoundTrip.Statement (.imageSeal x0) := fun h => nomatch h

theorem RoundTrip.boundaryArrival (x0 x1) : RoundTrip.Statement (.boundaryArrival x0 x1) := fun h => nomatch h

theorem RoundTrip.selfTestComplete (x0 x1) : RoundTrip.Statement (.selfTestComplete x0 x1) := fun h => nomatch h

theorem RoundTrip.architecturalPreemption (x0) : RoundTrip.Statement (.architecturalPreemption x0) := fun h => nomatch h

theorem RoundTrip.tenantSliceEnd (x0 x1) : RoundTrip.Statement (.tenantSliceEnd x0 x1) := fun h => nomatch h

theorem RoundTrip.partitionCreate (x0 x1 x2 x3 x4 x5) : RoundTrip.Statement (.partitionCreate x0 x1 x2 x3 x4 x5) := fun h => nomatch h

theorem RoundTrip.partitionEnd (x0) : RoundTrip.Statement (.partitionEnd x0) := fun h => nomatch h

theorem RoundTrip.sliceMove (x0 x1 x2 x3) : RoundTrip.Statement (.sliceMove x0 x1 x2 x3) := fun h => nomatch h

theorem RoundTrip.coopRestore (x0) : RoundTrip.Statement (.coopRestore x0) := fun h => nomatch h

theorem RoundTrip.windowStoreSizing (x0 x1) : RoundTrip.Statement (.windowStoreSizing x0 x1) := fun h => nomatch h

theorem RoundTrip.imageStoreSizing (x0 x1) : RoundTrip.Statement (.imageStoreSizing x0 x1) := fun h => nomatch h

theorem RoundTrip.healthCertificate (x0 x1) : RoundTrip.Statement (.healthCertificate x0 x1) := fun h => nomatch h

theorem RoundTrip.spdmAttestation (x0) : RoundTrip.Statement (.spdmAttestation x0) := fun h => nomatch h

theorem RoundTrip.boot (x0) : RoundTrip.Statement (.boot x0) := fun h => nomatch h

theorem RoundTrip.invarAdjust (x0 x1) : RoundTrip.Statement (.invarAdjust x0 x1) := fun h => nomatch h

theorem RoundTrip.binHourTick (x0 x1 x2) : RoundTrip.Statement (.binHourTick x0 x1 x2) := fun h => nomatch h

theorem RoundTrip.fieldTestSchedule (x0) : RoundTrip.Statement (.fieldTestSchedule x0) := fun h => nomatch h

theorem RoundTrip.deconfiguration (x0 x1) : RoundTrip.Statement (.deconfiguration x0 x1) := fun h => nomatch h

theorem RoundTrip.thermalThrottle (x0) : RoundTrip.Statement (.thermalThrottle x0) := fun h => nomatch h

theorem RoundTrip.thermalShutdown : RoundTrip.Statement (.thermalShutdown) := fun h => nomatch h

theorem RoundTrip.serviceCoreMemoryAccess (x0 x1) : RoundTrip.Statement (.serviceCoreMemoryAccess x0 x1) := fun h => nomatch h

theorem RoundTrip.unassignedOpcode (x0) : RoundTrip.Statement (.unassignedOpcode x0) := fun h => nomatch h

theorem RoundTrip.errorInUnconsumedData (x0) : RoundTrip.Statement (.errorInUnconsumedData x0) := fun h => nomatch h

theorem RoundTrip.partitionChange (x0 x1 x2) : RoundTrip.Statement (.partitionChange x0 x1 x2) := fun h => nomatch h

theorem RoundTrip.imageOperationComplete (x0) : RoundTrip.Statement (.imageOperationComplete x0) := fun h => nomatch h

theorem RoundTrip.marginMeasurement (x0 x1 x2) : RoundTrip.Statement (.marginMeasurement x0 x1 x2) := fun h => nomatch h

end Sys2Proof.Laws
end

