-- ==== Sys2Proof/Laws/Registers.lean ====
section
/-! SUPPORT. What the shared operations of register instructions can do: the common beginning, a run in every lane of
the gang, a run once for the gang, and when each completes. -/

namespace Sys2Proof.Machine

open Claims

/-! ## The common beginning -/

theorem withGang_wf {i : Instr} {s : State} {c : Ctx} (k : Ctx → Out) (hc : ctxOf s = some c) (hw : wfInstr i = true) :
    withGang i s k = k c := by
  simp [withGang, hc, hw]

/-- A word with a field value that is not accepted traps as a whole (R78). -/
theorem withGang_illegal {i : Instr} {s : State} {c : Ctx} (k : Ctx → Out) (hc : ctxOf s = some c)
    (hw : wfInstr i = false) : withGang i s k = .next (trapLanes c s cIllegal c.gang) := by
  simp [withGang, hc, hw]

/-- Every instruction word answers a next state when a gang issues, if its continuation does. -/
theorem withGang_next {i : Instr} {s : State} {c : Ctx} {k : Ctx → Out} (hc : ctxOf s = some c)
    (hk : wfInstr i = true → ∃ t, k c = .next t) : ∃ t, withGang i s k = .next t := by
  cases hw : wfInstr i with
  | false => exact ⟨_, withGang_illegal k hc hw⟩
  | true => rw [withGang_wf k hc hw]; exact hk hw

/-! ## Lanes -/

theorem faultsOf_eq_nil {α : Type} {act : List Nat} {f : Nat → Except Cause α} (h : ∀ l ∈ act, ∃ a, f l = .ok a) :
    faultsOf (act.map (fun l => (l, f l))) = [] := by
  rw [faultsOf, List.filterMap_eq_nil_iff]
  intro e he
  obtain ⟨l, hl, rfl⟩ := List.mem_map.1 he
  obtain ⟨a, ha⟩ := h l hl
  simp [ha]

theorem mfind_resultsOf {α : Type} {act : List Nat} {f : Nat → Except Cause α} {g : Nat → α}
    (h : ∀ l ∈ act, f l = .ok (g l)) (l : Nat) :
    mfind (resultsOf (act.map (fun l => (l, f l)))) l = if l ∈ act then some (g l) else none := by
  induction act with
  | nil => rfl
  | cons a as ih =>
    have ha := h a (List.mem_cons_self ..)
    have ih := ih (fun l hl => h l (List.mem_cons_of_mem _ hl))
    simp only [resultsOf, List.map_cons, List.filterMap_cons, ha, mfind] at ih ⊢
    by_cases hl : l = a
    · simp [hl]
    · simp only [hl, if_false, List.mem_cons, false_or]
      exact ih

theorem runLane_plain (f : View → Sem Eff) (v : View) {e : Eff} {fl : Flags} (h : f v 0#7 = .ok (e, fl)) :
    runLane false f v = .ok ⟨e, fl, e, fl⟩ := by
  simp [runLane, h]

/-- The effect of a result. -/
abbrev effOf (r : Result) : Eff := { regs := r.regs, preds := r.preds }

@[simp] theorem flags_and_all (x : Flags) : x &&& 127#7 = x := BitVec.and_allOnes

theorem applyEff_effOf (rf : RegFile) (r : Result) : applyEff rf (effOf r) r.flags = fileAfter r rf := by
  simp [applyEff, fileAfter]

/-- A per-thread instruction whose every active lane finds a result completes. -/
theorem runThreads_done {c : Ctx} {s : State} {p : Pred} {us : List RegUse} {f : View → Sem Eff}
    {ok : View → Result → Prop} (hp : isProt s c.g = false) (hu : usesOk s c.g us = true)
    (hf : ∀ l ∈ activeLanes c p, ∃ r : Result,
      f (viewOf c s (activeLanes c p) l) 0#7 = .ok (effOf r, r.flags) ∧ ok (viewOf c s (activeLanes c p) l) r) :
    ThreadsDone c p ok s (runThreads c s p us f) := by
  have hr : ∃ r : Nat → Result, ∀ l ∈ activeLanes c p,
      f (viewOf c s (activeLanes c p) l) 0#7 = .ok (effOf (r l), (r l).flags) ∧
        ok (viewOf c s (activeLanes c p) l) (r l) := by
    refine ⟨fun l => if h : l ∈ activeLanes c p then (hf l h).choose else ⟨[], [], 0#7⟩, fun l hl => ?_⟩
    simp only [hl, dite_true]
    exact (hf l hl).choose_spec
  obtain ⟨r, hr⟩ := hr
  refine ⟨r, fun l hl => (hr l hl).2, ?_⟩
  have hlane : ∀ l ∈ activeLanes c p, runLane (isProt s c.g) f (viewOf c s (activeLanes c p) l) =
      .ok ⟨effOf (r l), (r l).flags, effOf (r l), (r l).flags⟩ := fun l hl => by
    rw [hp]; exact runLane_plain f _ (hr l hl).1
  unfold runThreads
  simp only [hu, Bool.not_true, Bool.and_false, Bool.false_eq_true, if_false]
  rw [faultsOf_eq_nil (fun l hl => ⟨_, hlane l hl⟩)]
  simp only [commitLanes]
  congr 1
  funext g
  congr 1
  funext l th
  simp only [stepThread, mfind_resultsOf hlane l]
  by_cases hl : l ∈ activeLanes c p
  · have hg : l ∈ c.gang := (List.mem_filter.1 hl).1
    simp only [hl, if_true, hg, List.contains_iff_mem, commitThread, threadAfter, applyEff_effOf]
  · simp only [hl, if_false, List.contains_iff_mem, goesOn]

/-- A uniform instruction whose gang finds a result completes. -/
theorem runUniform_done {c : Ctx} {s : State} {p : Pred} {us : List RegUse} {f : View → Sem Eff}
    {ok : View → Result → Prop} (hp : isProt s c.g = false) (hu : usesOk s c.g us = true)
    (hq : predVal c.g.uni.q p = true)
    (hf : ∃ r : Result, f (viewOf c s c.gang (lowest c.gang)) 0#7 = .ok (effOf r, r.flags) ∧
      ok (viewOf c s c.gang (lowest c.gang)) r) :
    UniformDone c ok s (runUniform c s p us f) := by
  obtain ⟨r, hr, hok⟩ := hf
  refine ⟨r, hok, fun g => stepUniThread c.gang ⟨effOf r, r.flags, effOf r, r.flags⟩, ?_, ?_, ?_⟩
  · intro g l th hl
    simp [uniThreadAfter, stepUniThread, hl]
  · intro g l th hl
    simp [stepUniThread, hl]
  · simp only [runUniform, hq, hu, if_true, Bool.not_true, Bool.false_eq_true, if_false, hp, runLane_plain f _ hr,
      commitUni, applyUni]

/-- WHEN A REGISTER INSTRUCTION COMPLETES: wherever `ready` operands give its computation a result. -/
theorem runRegs_completes {i : Instr} {uni : Bool} {p : Pred} {us : List RegUse} {f : View → Sem Eff}
    {ready : View → Prop} {ok : View → Result → Prop} (hx : ∀ s, exec i s = runRegs i uni p us f s)
    (hf : ∀ v, ready v → ∃ r : Result, f v 0#7 = .ok (effOf r, r.flags) ∧ ok v r) :
    Completes i uni p us ready ok := by
  intro s c h
  have hrun : exec i s = .next (if uni then runUniform c s p us f else runThreads c s p us f) := by
    rw [hx, runRegs, withGang_wf _ h.gang h.wf]
  refine ⟨fun hu hr => ⟨_, hrun, ?_⟩, fun hu hq hr => ⟨_, hrun, ?_⟩, fun hu hq => ?_⟩
  · subst hu
    exact runThreads_done h.plain h.declared (fun l hl => hf _ (hr l hl))
  · subst hu
    exact runUniform_done h.plain h.declared hq (hf _ hr)
  · subst hu
    simp only [hrun, if_true, runUniform, hq, Bool.false_eq_true, if_false, advance, advanceLanes]
    rfl

end Sys2Proof.Machine
end

