-- ==== Sys2Proof/Laws/Traps.lean ====
section
/-! SUPPORT. Taking a trap, ending a launch and the recovery ladder keep memory in canonical form: every write they
make goes through the operations of memory. -/

namespace Sys2Proof.Machine

/-! ## Units that write -/

theorem unitWrite_keepsWf (part asid level va : Nat) (bs : List Byte) :
    KeepsWf (fun s => unitWrite s part asid level va bs) := fun s hs => by
  show Memory.wf (unitWrite s part asid level va bs).mem = true
  unfold unitWrite
  split
  · exact writeMem_keepsWf _ _ s hs
  · exact hs

theorem unitAdd_keepsWf (part asid level va n : Nat) : KeepsWf (fun s => unitAdd s part asid level va n) := fun s hs => by
  show Memory.wf (unitAdd s part asid level va n).mem = true
  unfold unitAdd
  split
  · exact writeMem_keepsWf _ _ s hs
  · exact hs

@[simp] theorem mem_errorRecord (s : State) (slice : Nat) (e : ErrCause) (a b c : Nat) :
    (errorRecord s slice e a b c).mem = s.mem := rfl

/-! ## Waits -/

@[simp] theorem mem_leaveWake (s : State) (part asid line : Nat) : (leaveWake s part asid line).mem = s.mem := rfl

@[simp] theorem mem_leaveWait (s : State) (l : Launch) (w : Option WaitReg) : (leaveWait s l w).mem = s.mem := by
  unfold leaveWait
  split
  · split <;> rfl
  · rfl

@[simp] theorem mem_leaveWakes (s : State) (g : Group) : (leaveWakes s g).mem = s.mem := by
  unfold leaveWakes
  exact foldl_keeps (fun t : State => t.mem = s.mem) (fun s (t : Nat × Thread) => leaveWait s (launchOf s g.launch) t.2.wwait)
    (fun t x h => by rw [mem_leaveWait]; exact h) _ s rfl

/-! ## The end of a launch -/

@[simp] theorem mem_removeBlock (s : State) (bid : Nat) : (removeBlock s bid).mem = s.mem := by
  unfold removeBlock
  exact foldl_keeps (fun t : State => t.mem = s.mem) (fun s i => leaveWakes s (groupOf s i))
    (fun t x h => by rw [mem_leaveWakes]; exact h) (blockGroups s bid) s rfl

theorem writeStatus_keepsWf (lid : Nat) (st : LStatus) (detail : Nat) :
    KeepsWf (fun s => writeStatus s lid st detail) := fun s hs => by
  show Memory.wf (writeStatus s lid st detail).mem = true
  unfold writeStatus
  simp only
  split
  · exact hs
  · exact unitWrite_keepsWf _ _ _ _ _ _ hs

theorem raiseCounter_keepsWf (lid : Nat) : KeepsWf (fun s => raiseCounter s lid) := fun s hs => by
  show Memory.wf (raiseCounter s lid).mem = true
  unfold raiseCounter
  simp only
  split
  · exact hs
  · exact unitAdd_keepsWf _ _ _ _ _ _ hs

/-- Bringing a launch to a final status keeps memory in canonical form. -/
theorem finishLaunch_keepsWf (lid : Nat) (st : LStatus) (detail : Nat) :
    KeepsWf (fun s => finishLaunch s lid st detail) := fun s hs => by
  show Memory.wf (finishLaunch s lid st detail).mem = true
  unfold finishLaunch
  split
  · exact hs
  · refine raiseCounter_keepsWf lid _ (writeStatus_keepsWf lid st detail _ ?_)
    exact keepsWf_foldl (fun b => keepsWf_of_mem_eq (fun s => mem_removeBlock s b)) (launchBlocks s lid) s hs

/-! ## Outstanding accesses performed -/

@[simp] theorem mem_deliverRegs (s : State) (a : Access) (ws : List (Nat × Val)) : (deliverRegs s a ws).mem = s.mem := rfl

theorem acquirePromote_keepsWf (c : Nat) (p : Place) (sc : Scope) (o : Order) :
    KeepsWf (fun s => acquirePromote s c p sc o) := fun s hs => by
  show Memory.wf (acquirePromote s c p sc o).mem = true
  unfold acquirePromote
  split
  · exact keepsWf_foldl (fun pa => promoteOwner_keepsWf c pa) _ s hs
  · exact hs

theorem releasePromote_keepsWf (c : Nat) (p : Place) (sc : Scope) (o : Order) :
    KeepsWf (fun s => releasePromote s c p sc o) := fun s hs => by
  show Memory.wf (releasePromote s c p sc o).mem = true
  unfold releasePromote
  split
  · exact keepsWf_foldl (fun pa => promoteOwner_keepsWf c pa) _ s hs
  · exact hs

theorem releaseOwner_keepsWf (c : Nat) (p : Place) (sc : Scope) (o : Order) :
    KeepsWf (fun s => releaseOwner s c p sc o) := fun s hs => by
  show Memory.wf (releaseOwner s c p sc o).mem = true
  unfold releaseOwner
  split
  · exact keepsWf_foldl (fun pa => recordOwner_keepsWf c pa) _ s hs
  · exact hs

theorem atomStore_keepsWf (c : Nat) (p : Place) (size data : Nat) : KeepsWf (fun s => atomStore s c p size data) :=
  fun s hs => by
  show Memory.wf (atomStore s c p size data).mem = true
  unfold atomStore
  split
  · exact hs
  · exact keepsWf_foldl (fun x : Nat × Nat × Nat => storeMem_keepsWf c x.1 (bytesOf x.2.1 x.2.2)) _ s hs

theorem atomPerform_keepsWf (gid c : Nat) (p : Place) (sc : Scope) (o : Order) (op : AtomOp) (t : Tag) (b cc : Nat) :
    KeepsWf (fun s => (atomPerform s gid c p sc o op t b cc).2) := fun s hs => by
  have ha := acquirePromote_keepsWf c p sc o s hs
  have hr := releasePromote_keepsWf c p sc o _ ha
  show Memory.wf (atomPerform s gid c p sc o op t b cc).2.mem = true
  unfold atomPerform
  simp only
  split
  · exact ha
  · split
    · exact hr
    · exact atomStore_keepsWf _ _ _ _ _ (releaseOwner_keepsWf c p sc o _ hr)

/-- Performing an outstanding access keeps memory in canonical form. -/
theorem performAccess_keepsWf (c : Nat) (a : Access) : KeepsWf (fun s => performAccess s c a) := fun s hs => by
  show Memory.wf (performAccess s c a).mem = true
  unfold performAccess
  split
  · exact acquirePromote_keepsWf _ _ _ _ s hs
  · rename_i h
    simp only [mem_deliverRegs]
    split
    · exact hs
    · exact atomPerform_keepsWf _ _ _ _ _ _ _ _ _ s hs

/-- Completing a group's accesses keeps memory in canonical form. -/
theorem completeOlder_keepsWf (gid : Nat) : KeepsWf (fun s => completeOlder s gid) := fun s hs => by
  refine foldl_keeps (fun t : State => Memory.wf t.mem = true) _ (fun t a ht => ?_) (groupAccesses s gid) s hs
  show Memory.wf (if consumes t a then t else performAccess t _ a).mem = true
  split
  · exact ht
  · exact performAccess_keepsWf _ a t ht

/-! ## The trap frame -/

theorem clearRange_wf (m : Map Byte) (lo hi : Nat) (h : Memory.wf m = true) : Memory.wf (clearRange m lo hi) = true :=
  msorted_filter _ h

theorem clearPages_keepsWf (cores : List Nat) (va n : Nat) (pages : List (Nat × Nat)) :
    KeepsWf (fun s => clearPages s cores va n pages) := fun s hs => by
  refine foldl_keeps (fun t : State => Memory.wf t.mem = true) _ (fun t p ht => ?_) pages s hs
  refine foldl_keeps (fun t : State => Memory.wf t.mem = true) _ (fun t c ht => ?_) cores _ (clearRange_wf _ _ _ ht)
  show Memory.wf (if _ then _ else _ : State).mem = true
  split <;> exact ht

theorem writeCell_keepsWf (base : Nat) (pages : List (Nat × Nat)) (c : Nat × Nat) :
    KeepsWf (fun s => writeCell base pages s c) := fun s hs => by
  show Memory.wf (writeCell base pages s c).mem = true
  unfold writeCell
  split
  · exact hs
  · exact writeMem_keepsWf _ _ s hs

/-- A written trap frame leaves memory in canonical form. -/
theorem writeFrameAt_keepsWf (gid : Nat) (f : FaultInfo) (pages : List (Nat × Nat)) :
    KeepsWf (fun s => writeFrameAt s gid f pages) := fun s hs =>
  keepsWf_foldl (fun c => writeCell_keepsWf _ pages c) _ _ (clearPages_keepsWf _ _ _ _ s hs)

/-- What a frame's writing leaves: the launches, the blocks and the groups. -/
theorem writeFrameAt_tables (s : State) (gid : Nat) (f : FaultInfo) (pages : List (Nat × Nat)) :
    (writeFrameAt s gid f pages).launches = s.launches ∧ (writeFrameAt s gid f pages).blocks = s.blocks ∧
      (writeFrameAt s gid f pages).groups = s.groups := by
  let P (t : State) : Prop := t.launches = s.launches ∧ t.blocks = s.blocks ∧ t.groups = s.groups
  have hc : P (clearPages s ((groupOf s gid).core :: quadCores s (groupOf s gid).core) (frameBase s (groupOf s gid)) frameBytes pages) := by
    refine foldl_keeps P _ (fun t p ht => ?_) pages s ⟨rfl, rfl, rfl⟩
    refine foldl_keeps P _ (fun t c ht => ?_) _ _ ht
    show P (if _ then _ else _)
    split <;> exact ht
  refine foldl_keeps P _ (fun t c ht => ?_) _ _ hc
  show P (if _ then _ else _)
  split
  · exact ht
  · unfold writeMem markWakes
    split <;> exact ht

/-! ## Faults delivered -/

@[simp] theorem mem_queueFault (s : State) (slice part asid page gid : Nat) :
    (queueFault s slice part asid page gid).mem = s.mem := rfl

@[simp] theorem mem_parkTranslation (s : State) (gid : Nat) (f : FaultInfo) : (parkTranslation s gid f).mem = s.mem := rfl

@[simp] theorem mem_enterHandler (s : State) (gid : Nat) (f : FaultInfo) : (enterHandler s gid f).mem = s.mem := by
  simp [enterHandler]

@[simp] theorem mem_parkFrame (s : State) (gid : Nat) (f : FaultInfo) : (parkFrame s gid f).mem = s.mem := rfl

theorem frameWritten_keepsWf (gid : Nat) (f : FaultInfo) : KeepsWf (fun s => frameWritten gid f s) := fun s hs => by
  show Memory.wf (frameWritten gid f s).mem = true
  unfold frameWritten
  simp only
  split
  · rw [mem_enterHandler]; exact hs
  · exact finishLaunch_keepsWf _ _ _ s hs

/-- Trap entry keeps memory in canonical form. -/
theorem enterTrap_keepsWf (gid : Nat) (f : FaultInfo) : KeepsWf (fun s => enterTrap s gid f) := fun s hs => by
  show Memory.wf (enterTrap s gid f).mem = true
  unfold enterTrap
  simp only
  split
  · split
    · exact hs
    · exact finishLaunch_keepsWf _ _ _ s hs
  · split
    · exact finishLaunch_keepsWf _ _ _ s hs
    · rw [writeFrame]
      cases framePages s gid with
      | none => exact hs
      | some pages => exact frameWritten_keepsWf gid f _ (writeFrameAt_keepsWf gid f pages s hs)

/-- Activations given back keep memory in canonical form: only their private memory is discarded. -/
theorem rerunActivations_keepsWf (g : Group) : KeepsWf (fun s => rerunActivations s g) := fun s hs => by
  show Memory.wf (rerunActivations s g).mem = true
  unfold rerunActivations
  have h := discardPrivate_keepsWf g (liveLanes g) s hs
  simp only at h
  generalize discardPrivate s g (liveLanes g) = u at h
  induction g.threads with
  | nil => exact h
  | cons t ts ih =>
    simp only [List.foldr_cons]
    split
    · split
      · exact ih
      · exact ih
    · exact ih

@[simp] theorem mem_rollBack (s : State) (gid : Nat) : (rollBack s gid).mem = s.mem := by
  unfold rollBack
  simp only [mem_modGroup, mem_modCore]
  exact foldl_keeps (fun t : State => t.mem = s.mem) _ (fun t x h => by rw [mem_leaveWait]; exact h) _ s rfl

/-- A block put up to be placed again keeps memory in canonical form. -/
theorem relaunchBlock_keepsWf (bid slice : Nat) : KeepsWf (fun s => relaunchBlock s bid slice) := fun s hs => by
  show Memory.wf (relaunchBlock s bid slice).mem = true
  unfold relaunchBlock
  simp only [mem_removeBlock]
  split
  · exact foldl_keeps (fun t : State => Memory.wf t.mem = true) (fun s i => rerunActivations s (groupOf s i))
      (fun t x h => rerunActivations_keepsWf (groupOf t x) t h) (blockGroups s bid) s hs
  · exact hs

/-- The recovery ladder keeps memory in canonical form. -/
theorem recover_keepsWf (gid : Nat) (f : FaultInfo) : KeepsWf (fun s => recover s gid f) := fun s hs => by
  show Memory.wf (recover s gid f).mem = true
  unfold recover
  simp only
  split
  · simpa using hs
  · split
    · exact relaunchBlock_keepsWf _ _ s hs
    · exact finishLaunch_keepsWf _ _ _ s hs

/-- Taking a trap keeps memory in canonical form. -/
theorem takeTrap_keepsWf (gid : Nat) (f : FaultInfo) : KeepsWf (fun s => takeTrap s gid f) := fun s hs => by
  have h := completeOlder_keepsWf gid s hs
  show Memory.wf (takeTrap s gid f).mem = true
  unfold takeTrap
  split
  · exact recover_keepsWf _ _ _ h
  · exact enterTrap_keepsWf _ _ _ h

/-- A fault delivered, wherever R380 sends it, keeps memory in canonical form. -/
theorem deliverFault_keepsWf (gid : Nat) (f : FaultInfo) : KeepsWf (fun s => deliverFault s gid f) := fun s hs => by
  show Memory.wf (deliverFault s gid f).mem = true
  unfold deliverFault
  split
  · exact hs
  · split
    · exact recover_keepsWf _ _ s hs
    · exact takeTrap_keepsWf _ _ s hs

theorem trapLanes_keepsWf (c : Ctx) (x : Cause) (lanes : List Nat) (skip : Bool) :
    KeepsWf (fun s => trapLanes c s x lanes skip) := fun s hs => deliverFault_keepsWf _ _ s hs

end Sys2Proof.Machine
end

