-- ==== Sys2Proof/Tests/Slice0.lean ====
section
/-! SUPPORT. Tests of one step each, words that the spec writes out, ill-formed terms, and for each statement a
state and operands that meet its hypotheses. -/

set_option Elab.async false

namespace Sys2Proof.Tests

open Machine Claims

/-! ## Ways to meet the hypotheses by evaluation -/

/-- A register that `RegReadable` allows. -/
def readB (x : Val) (t : Tag) (raw : Bool) : Bool := x.tag == .void || x.tag == t || x.tag == .b32 || raw

theorem reg_readable_of {x : Val} {t : Tag} {raw : Bool} (h : readB x t raw = true) : RegReadable x t raw := by
  simpa [readB, RegReadable, or_assoc] using h

/-- A pair of one 64-bit type. -/
def unmixedB (x y : Val) : Bool := !(x.tag == .s64 && y.tag == .n64) && !(x.tag == .n64 && y.tag == .s64)

theorem unmixed_of {x y : Val} (h : unmixedB x y = true) : ¬ Mixed x y := by
  simp only [unmixedB, Bool.and_eq_true, Bool.not_eq_true', Bool.and_eq_false_iff, beq_eq_false_iff_ne] at h
  rintro (⟨a, b⟩ | ⟨a, b⟩) <;> simp [a, b] at h

/-- An operand that `Readable` allows. -/
def readableB (v : View) (t : Tag) (s : Src) (raw : Bool) : Bool :=
  match s with
  | .reg r => readB (readReg v r) t raw &&
      (!is64 t || (readB (readReg v (regPlus r 1)) t raw && unmixedB (readReg v r) (readReg v (regPlus r 1))))
  | _ => true

theorem readable_of {v : View} {t : Tag} {s : Src} {raw : Bool} (h : readableB v t s raw = true) :
    Readable v t s raw := by
  cases s with
  | reg r =>
    simp only [readableB, Bool.and_eq_true, Bool.or_eq_true, Bool.not_eq_true'] at h
    refine ⟨reg_readable_of h.1, fun h64 => ?_⟩
    rcases h.2 with h' | h'
    · simp [h64] at h'
    · exact ⟨reg_readable_of h'.1, unmixed_of h'.2⟩
  | imm i => trivial
  | const c => trivial

/-- A count that `Counts` allows. -/
def countsB (v : View) (s : Src) : Bool :=
  match s with
  | .reg r => [Tag.void, .b32, .n32, .s32].contains (readReg v r).tag
  | _ => true

theorem counts_of {v : View} {s : Src} (h : countsB v s = true) : Counts v s := by
  cases s with
  | reg r => simpa [countsB, Counts] using h
  | imm i => trivial
  | const c => trivial

/-- A pair that `Addresses` allows. -/
def addressesB (v : View) (s : Src) : Bool :=
  match s with
  | .reg r => [Tag.void, .b32, .n64, .s64].contains (readReg v r).tag &&
      [Tag.void, .b32, .n64, .s64].contains (readReg v (regPlus r 1)).tag &&
      unmixedB (readReg v r) (readReg v (regPlus r 1))
  | _ => true

theorem addresses_of {v : View} {s : Src} (h : addressesB v s = true) : Addresses v s := by
  cases s with
  | reg r =>
    simp only [addressesB, Bool.and_eq_true] at h
    refine ⟨?_, unmixed_of h.2⟩
    rintro x (rfl | rfl)
    · simpa using h.1.1
    · simpa using h.1.2
  | imm i => trivial
  | const c => trivial

/-- An issue that `Issues` allows. -/
def issuesB (i : Instr) (us : List RegUse) (s : State) (c : Ctx) : Bool :=
  wfInstr i && !isProt s c.g && usesOk s c.g us

theorem issues_of {i : Instr} {us : List RegUse} {s : State} {c : Ctx} (hc : ctxOf s = some c)
    (h : issuesB i us s c = true) : Issues i us s c := by
  simp only [issuesB, Bool.and_eq_true, Bool.not_eq_true'] at h
  exact ⟨hc, h.1.1, h.1.2, h.2⟩

/-! ## Small states -/

/-- Registers 0..n-1, each its own number with tag b32. -/
def regs (n : Nat) : Map Val := (List.range n).map (fun i => (i, ⟨BitVec.ofNat 32 i, .b32⟩))

/-- A thread at the first word of the placed block. -/
def thr (rf : RegFile) : Thread := { pc := 0x100008#64, hdr := 0x100000#64, hword := placedHeader, run := .ready, rf := rf }

/-- A running launch whose only group has these threads, of which a gang issues. -/
def issuing (ts : Map Thread) (uni : UniFile) (gang : List Nat) : State :=
  { placedLaunch State.reset with
    groups := [(3, { block := 2, launch := 1, threads := ts, uni := uni })]
    issue := some { gid := 3, gang := gang, pc := 0x100008#64 } }

/-- Two threads, whose registers hold numbers. -/
def two : State := issuing [(0, thr { v := regs 40, p := 1#7 }), (1, thr { v := regs 40 })] { k := regs 40, q := 1#7 } [0, 1]

/-- The gang of that state. -/
def cTwo : Ctx := ⟨3, groupOf two 3, [0, 1], 0x100008#64⟩

theorem ctx_two : ctxOf two = some cTwo := by rfl

/-- A register instruction completes in some state, with lanes, and (`uni`) for a gang. -/
def Somewhere (i : Instr) (uni : Bool) (p : Pred) (us : List RegUse) (ready : View → Prop) : Prop :=
  ∃ s c, Issues i us s c ∧
    (uni = false → activeLanes c p ≠ [] ∧ ∀ l ∈ activeLanes c p, ready (viewOf c s (activeLanes c p) l)) ∧
    (uni = true → predVal c.g.uni.q p = true ∧ ready (viewOf c s c.gang (lowest c.gang)))

theorem somewhere_v {i : Instr} {uni : Bool} {p : Pred} {us : List RegUse} {ready : View → Prop} (hu : uni = false)
    (h : issuesB i us two cTwo = true) (hl : activeLanes cTwo p = [0, 1])
    (hr : ∀ l, l = 0 ∨ l = 1 → ready (viewOf cTwo two [0, 1] l)) : Somewhere i uni p us ready := by
  refine ⟨two, cTwo, issues_of ctx_two h, fun _ => ?_, fun h => by simp [hu] at h⟩
  rw [hl]
  exact ⟨by simp, fun l h => hr l (by simpa using h)⟩

theorem somewhere_k {i : Instr} {uni : Bool} {p : Pred} {us : List RegUse} {ready : View → Prop} (hu : uni = true)
    (h : issuesB i us two cTwo = true) (hp : predVal cTwo.g.uni.q p = true) (hr : ready (viewOf cTwo two [0, 1] 0)) :
    Somewhere i uni p us ready :=
  ⟨two, cTwo, issues_of ctx_two h, fun h => by simp [hu] at h, fun _ => ⟨hp, hr⟩⟩

end Sys2Proof.Tests

/-! ## Register instructions: states that meet the hypotheses -/

namespace Sys2Proof.Tests

open Machine Claims

/-- The predicate that is always true. -/
def pt : Pred := ⟨false, 7⟩

/-- Format A with one, two and three sources. -/
def a1 (t : Tag) : OpA := ⟨pt, .v 8, .reg (.v 4), .reg (.v 0), .reg (.v 0), t, .ne, false, false⟩
def a2 (t : Tag) : OpA := { a1 t with b := .reg (.v 10) }
def a3 (t : Tag) : OpA := { a2 t with c := .reg (.v 12) }

/-- The same for the group's registers. -/
def k1 (t : Tag) : OpA := ⟨pt, .k 8, .reg (.k 4), .reg (.v 0), .reg (.v 0), t, .ne, false, false⟩
def k2 (t : Tag) : OpA := { k1 t with b := .reg (.k 10) }

theorem witness_IntegerArithmetic :
    (∃ o : OpA, (Instr.imad o, 3, fun a b c => a * b + c) ∈ arithRows o ∧
      Somewhere (.imad o) (isK o.d) o.pred (useA o 3) (fun v => ∀ x ∈ sources o 3, Readable v o.t x)) ∧
    (∃ o : OpA, (Instr.iadd o, 2, fun a b _ => a + b) ∈ arithRows o ∧ isK o.d = true ∧
      Somewhere (.iadd o) (isK o.d) o.pred (useA o 2) (fun v => ∀ x ∈ sources o 2, Readable v o.t x)) ∧
    (∃ o : OpA, (Instr.iadd o, 2, fun a b _ => a + b) ∈ arithRows o ∧ isK o.d = true ∧
      Issues (.iadd o) (useA o 2) two cTwo ∧ predVal cTwo.g.uni.q o.pred = false) := by
  refine ⟨⟨a3 .s32, by simp [arithRows], ?_⟩, ⟨k2 .s64, by simp [arithRows], rfl, ?_⟩,
    ⟨{ k2 .s32 with pred := ⟨false, 1⟩ }, by simp [arithRows], rfl, issues_of ctx_two (by decide +kernel), by decide +kernel⟩⟩
  · refine somewhere_v rfl (by decide +kernel) (by decide +kernel) ?_
    rintro l (rfl | rfl) <;> simp only [sources, List.take, List.forall_mem_cons] <;>
      exact ⟨readable_of (by decide +kernel), readable_of (by decide +kernel), readable_of (by decide +kernel), by simp⟩
  · refine somewhere_k rfl (by decide +kernel) (by decide +kernel) ?_
    simp only [sources, List.take, List.forall_mem_cons]
    exact ⟨readable_of (by decide +kernel), readable_of (by decide +kernel), by simp⟩

theorem witness_BitwiseInstructions :
    (∃ o : OpA, Somewhere (.and o) (isK o.d) o.pred (useA o 2) (fun v => Readable v o.t o.a ∧ Readable v o.t o.b)) ∧
    (∃ o : OpA, Somewhere (.shl o) (isK o.d) o.pred (useShift o) (fun v => Readable v o.t o.a ∧ Counts v o.b)) ∧
    (∃ o : OpA, Somewhere (.popc o) (isK o.d) o.pred (useCount o) (fun v => Readable v o.t o.a)) ∧
    (∃ o : OpA, Somewhere (.clz o) (isK o.d) o.pred (useCount o) (fun v => Readable v o.t o.a)) ∧
    (∃ o : OpA, Somewhere (.brev o) (isK o.d) o.pred (useA o 1) (fun v => Readable v o.t o.a)) ∧
    (∃ o : OpA, Somewhere (.bfx o) (isK o.d) o.pred (useField o) (fun v => Readable v o.t o.a ∧ Counts v o.b ∧ Counts v o.c)) ∧
    (∃ o : OpA, Somewhere (.bfi o) (isK o.d) o.pred (useField o) (fun v => Readable v o.t (.reg o.d) ∧ Readable v o.t o.a ∧ Counts v o.b ∧ Counts v o.c)) :=
  ⟨⟨a2 .b32, somewhere_v rfl (by decide +kernel) (by decide +kernel) (by
      rintro l (rfl | rfl) <;> exact ⟨readable_of (by decide +kernel), readable_of (by decide +kernel)⟩)⟩,
  ⟨a2 .s32, somewhere_v rfl (by decide +kernel) (by decide +kernel) (by
      rintro l (rfl | rfl) <;> exact ⟨readable_of (by decide +kernel), counts_of (by decide +kernel)⟩)⟩,
  ⟨a1 .n64, somewhere_v rfl (by decide +kernel) (by decide +kernel) (by
      rintro l (rfl | rfl) <;> exact (readable_of (by decide +kernel)))⟩,
  ⟨a1 .b32, somewhere_v rfl (by decide +kernel) (by decide +kernel) (by
      rintro l (rfl | rfl) <;> exact (readable_of (by decide +kernel)))⟩,
  ⟨a1 .n32, somewhere_v rfl (by decide +kernel) (by decide +kernel) (by
      rintro l (rfl | rfl) <;> exact (readable_of (by decide +kernel)))⟩,
  ⟨a3 .s32, somewhere_v rfl (by decide +kernel) (by decide +kernel) (by
      rintro l (rfl | rfl) <;> exact ⟨readable_of (by decide +kernel), counts_of (by decide +kernel), counts_of (by decide +kernel)⟩)⟩,
  ⟨a3 .n32, somewhere_v rfl (by decide +kernel) (by decide +kernel) (by
      rintro l (rfl | rfl) <;> exact ⟨readable_of (by decide +kernel), readable_of (by decide +kernel), counts_of (by decide +kernel), counts_of (by decide +kernel)⟩)⟩⟩

theorem witness_AddressesComparesAndMoves :
    (∃ o : OpA, Somewhere (.lea o) (isK o.d) o.pred (useReg o.d 2 ++ useSrc o.a 2 ++ useSrc o.b ++ useSrc o.c) (fun v => Addresses v o.a ∧ Readable v o.t o.b ∧ Counts v o.c)) ∧
    (∃ o : OpCmp, Somewhere (.icmp o) (isK o.d) o.pred (useReg o.d ++ useSrc o.a (tagRegs o.t) ++ useSrc o.b (tagRegs o.t)) (fun v => Readable v o.t o.a ∧ Readable v o.t o.b)) ∧
    (∃ o : OpSel, Somewhere (.sel o) (isK o.d) o.pred (useReg o.d (tagRegs o.t) ++ useSrc o.a (tagRegs o.t) ++ useSrc o.b (tagRegs o.t)) (fun v => o.raw = false → Readable v o.t o.a ∧ Readable v o.t o.b)) ∧
    (∃ o : OpA, Somewhere (.mov o) (isK o.d) o.pred (useA o 1) (fun v => o.x = false → Readable v o.t o.a)) ∧
    (∃ o : OpL, Somewhere (.movi o) (isK o.d) o.pred (useReg o.d (tagRegs o.t)) (fun _ => True)) ∧
    (∃ o : OpMovs, Somewhere (.movs o) (isK o.d) o.pred (useReg o.d (srWidth o.sr / 32)) (fun _ => True)) ∧
    (∃ o : OpI, Somewhere (.iaddi o) (isK o.d) o.pred (useReg o.d (tagRegs o.t) ++ useSrc o.a (tagRegs o.t)) (fun v => Readable v o.t o.a)) ∧
    (∃ o : OpLopi, Somewhere (.lopi o) (isK o.d) o.pred (useReg o.d (tagRegs o.t) ++ useSrc o.a (tagRegs o.t)) (fun v => Readable v o.t o.a)) ∧
    (∃ o : OpMovs, Somewhere (.movs o) (isK o.d) o.pred (useReg o.d (srWidth o.sr / 32)) (fun _ => True)) ∧
    (ctxOf two = some cTwo) :=
  ⟨⟨a3 .s32, somewhere_v rfl (by decide +kernel) (by decide +kernel) (by
      rintro l (rfl | rfl) <;> exact ⟨addresses_of (by decide +kernel), readable_of (by decide +kernel), counts_of (by decide +kernel)⟩)⟩,
  ⟨⟨pt, .v 8, .reg (.v 4), .reg (.v 10), 2, 1, .s64, false⟩, somewhere_v rfl (by decide +kernel) (by decide +kernel) (by
      rintro l (rfl | rfl) <;> exact ⟨readable_of (by decide +kernel), readable_of (by decide +kernel)⟩)⟩,
  ⟨⟨pt, .v 8, .reg (.v 4), .reg (.v 10), false, 0, .s32, false⟩, somewhere_v rfl (by decide +kernel) (by decide +kernel) (by
      rintro l (rfl | rfl) <;> exact (fun _ => ⟨readable_of (by decide +kernel), readable_of (by decide +kernel)⟩))⟩,
  ⟨a1 .s32, somewhere_v rfl (by decide +kernel) (by decide +kernel) (by
      rintro l (rfl | rfl) <;> exact (fun _ => readable_of (by decide +kernel)))⟩,
  ⟨⟨pt, .v 8, .s64, 0xFFFFFFFF#32⟩, somewhere_v rfl (by decide +kernel) (by decide +kernel) (by
      rintro l (rfl | rfl) <;> exact (trivial))⟩,
  ⟨⟨pt, .v 8, .gang⟩, somewhere_v rfl (by decide +kernel) (by decide +kernel) (by
      rintro l (rfl | rfl) <;> exact (trivial))⟩,
  ⟨⟨pt, .v 8, .reg (.v 4), .n64, 5#26⟩, somewhere_v rfl (by decide +kernel) (by decide +kernel) (by
      rintro l (rfl | rfl) <;> exact (readable_of (by decide +kernel)))⟩,
  ⟨⟨pt, .v 8, .reg (.v 4), .b32, 2, 0x800000#24⟩, somewhere_v rfl (by decide +kernel) (by decide +kernel) (by
      rintro l (rfl | rfl) <;> exact (readable_of (by decide +kernel)))⟩,
  ⟨⟨pt, .k 8, .gang⟩, somewhere_k rfl (by decide +kernel) (by decide +kernel) (trivial)⟩,
  ctx_two⟩

theorem witness_FloatArithmeticAndComparisons :
    (∃ o : OpA, (Instr.ffma o, 3, fun f a b c => exactFma f o.rm a b c) ∈ floatRows o ∧ Somewhere (.ffma o) (isK o.d) o.pred (useA o 3) (fun v => ∀ y ∈ sources o 3, Readable v o.t y o.x)) ∧
    (∃ o : OpA, Somewhere (.fmin o) (isK o.d) o.pred (useA o 2) (fun v => Readable v o.t o.a o.x ∧ Readable v o.t o.b o.x)) ∧
    (∃ o : OpCmp, Somewhere (.fcmp o) (isK o.d) o.pred (useReg o.d ++ useSrc o.a ++ useSrc o.b) (fun v => Readable v o.t o.a o.raw ∧ Readable v o.t o.b o.raw)) ∧
    (∃ o : OpA, Somewhere (.fclass o) (isK o.d) o.pred (useA o 1) (fun v => Readable v o.t o.a o.x)) ∧
    (∃ o : OpA, Somewhere (.frnd o) (isK o.d) o.pred (useA o 1) (fun v => Readable v o.t o.a o.x)) :=
  ⟨⟨a3 .f32, by simp [floatRows], somewhere_v rfl (by decide +kernel) (by decide +kernel) (by
      rintro l (rfl | rfl) <;> simp only [sources, List.take, List.forall_mem_cons] <;>
      exact ⟨readable_of (by decide +kernel), readable_of (by decide +kernel), readable_of (by decide +kernel), by simp⟩)⟩,
  ⟨a2 .bf16x2, somewhere_v rfl (by decide +kernel) (by decide +kernel) (by
      rintro l (rfl | rfl) <;> exact ⟨readable_of (by decide +kernel), readable_of (by decide +kernel)⟩)⟩,
  ⟨⟨pt, .v 8, .reg (.v 4), .reg (.v 10), 2, 1, .f16x2, false⟩, somewhere_v rfl (by decide +kernel) (by decide +kernel) (by
      rintro l (rfl | rfl) <;> exact ⟨readable_of (by decide +kernel), readable_of (by decide +kernel)⟩)⟩,
  ⟨a1 .f32, somewhere_v rfl (by decide +kernel) (by decide +kernel) (by
      rintro l (rfl | rfl) <;> exact (readable_of (by decide +kernel)))⟩,
  ⟨a1 .f32, somewhere_v rfl (by decide +kernel) (by decide +kernel) (by
      rintro l (rfl | rfl) <;> exact (readable_of (by decide +kernel)))⟩⟩

theorem witness_DivisionAndSquareRoot :
    (∃ o : OpA, Somewhere (.fdiv o) (isK o.d) o.pred (useA o 2) (fun v => Readable v o.t o.a o.x ∧ Readable v o.t o.b o.x)) ∧
    (∃ o : OpA, Somewhere (.fsqrt o) (isK o.d) o.pred (useA o 1) (fun v => Readable v .f32 o.a o.x)) :=
  ⟨⟨a2 .f32, somewhere_v rfl (by decide +kernel) (by decide +kernel) (by
      rintro l (rfl | rfl) <;> exact ⟨readable_of (by decide +kernel), readable_of (by decide +kernel)⟩)⟩,
  ⟨a1 .f32, somewhere_v rfl (by decide +kernel) (by decide +kernel) (by
      rintro l (rfl | rfl) <;> exact (readable_of (by decide +kernel)))⟩⟩

theorem witness_ApproximatedFunctions :
    (∃ o : OpA, Somewhere (approxRow .exp2 o) (isK o.d) o.pred (useA o 1) (fun v => Readable v .f32 o.a o.x)) ∧
    (∃ o : OpA, Somewhere (approxRow .rsq o) (isK o.d) o.pred (useA o 1) (fun v => Readable v .f32 o.a o.x)) :=
  ⟨⟨a1 .f32, somewhere_v rfl (by decide +kernel) (by decide +kernel) (by
      rintro l (rfl | rfl) <;> exact (readable_of (by decide +kernel)))⟩,
  ⟨k1 .f32, somewhere_k rfl (by decide +kernel) (by decide +kernel) (readable_of (by decide +kernel))⟩⟩

theorem witness_ReciprocalsWithinOneUlp :
    (∃ o : OpA, Somewhere (.frcp o) (isK o.d) o.pred (useA o 1) (fun v => Readable v .f32 o.a o.x ∧
      2 ^ 21 < magBits .f32 (srcBits v .f32 o.a) ∧ magBits .f32 (srcBits v .f32 o.a) < 0x7F800000)) ∧
    (∃ o : OpA, Somewhere (.frsq o) (isK o.d) o.pred (useA o 1) (fun v => Readable v .f32 o.a o.x ∧
      signOf .f32 (srcBits v .f32 o.a) = false ∧ magBits .f32 (srcBits v .f32 o.a) ≠ 0 ∧ magBits .f32 (srcBits v .f32 o.a) < 0x7F800000)) :=
  ⟨⟨{ a1 .f32 with a := .const .one }, somewhere_v rfl (by decide +kernel) (by decide +kernel) (by
      rintro l (rfl | rfl) <;> exact ⟨readable_of (by decide +kernel), by decide +kernel, by decide +kernel⟩)⟩,
  ⟨a1 .f32, somewhere_v rfl (by decide +kernel) (by decide +kernel) (by
      rintro l (rfl | rfl) <;> exact ⟨readable_of (by decide +kernel), by decide +kernel, by decide +kernel, by decide +kernel⟩)⟩⟩

theorem witness_ConversionsAndDotProducts :
    (∃ o : OpCvt, Somewhere (.cvt o) (isK o.d) o.pred (useReg o.d (tagRegs o.t) ++ useSrc o.a (tagRegs o.src)) (fun v => Readable v o.src o.a o.raw)) ∧
    (∃ o : OpA, Somewhere (.pack o) (isK o.d) o.pred (useReg o.d ++ useSrc o.a ++ useSrc o.b ++ (if elems o.t = 4 then useSrc o.c else [])) (fun v => Readable v (packScalar o.t) o.a ∧ Readable v (packScalar o.t) o.b ∧
      (elems o.t = 4 → Readable v o.t o.c))) ∧
    (∃ o : OpUnpk, Somewhere (.unpk o) (isK o.d) o.pred (useReg o.d ++ useSrc o.a) (fun v => Readable v o.t o.a)) ∧
    (∃ o : OpA, Somewhere (.fdot2 o) (isK o.d) o.pred (useA o 3) (fun v => Readable v o.t o.a o.x ∧ Readable v o.t o.b o.x ∧ Readable v .f32 o.c o.x)) ∧
    (∃ o : OpA, Somewhere (.idot4 o) (isK o.d) o.pred (useA o 3) (fun v => Readable v o.t o.a ∧ Readable v (if o.x then otherSign o.t else o.t) o.b ∧
      Readable v (idotAcc o.t o.x) o.c)) :=
  ⟨⟨⟨pt, .v 8, .reg (.v 4), .f32, .s64, .tz, false, false⟩, somewhere_v rfl (by decide +kernel) (by decide +kernel) (by
      rintro l (rfl | rfl) <;> exact (readable_of (by decide +kernel)))⟩,
  ⟨a3 .e4m3x4, somewhere_v rfl (by decide +kernel) (by decide +kernel) (by
      rintro l (rfl | rfl) <;> exact ⟨readable_of (by decide +kernel), readable_of (by decide +kernel), fun _ => readable_of (by decide +kernel)⟩)⟩,
  ⟨⟨pt, .v 8, .reg (.v 4), 3, .s8x4⟩, somewhere_v rfl (by decide +kernel) (by decide +kernel) (by
      rintro l (rfl | rfl) <;> exact (readable_of (by decide +kernel)))⟩,
  ⟨a3 .bf16x2, somewhere_v rfl (by decide +kernel) (by decide +kernel) (by
      rintro l (rfl | rfl) <;> exact ⟨readable_of (by decide +kernel), readable_of (by decide +kernel), readable_of (by decide +kernel)⟩)⟩,
  ⟨a3 .s8x4, somewhere_v rfl (by decide +kernel) (by decide +kernel) (by
      rintro l (rfl | rfl) <;> exact ⟨readable_of (by decide +kernel), readable_of (by decide +kernel), readable_of (by decide +kernel)⟩)⟩⟩

end Sys2Proof.Tests

/-! ## Affine instructions -/

namespace Sys2Proof.Tests

open Machine Claims

/-- Two threads that hold affine values in a0, from three words of it, with symbols to mint. -/
def affine (w0 w1 w15 : Word) : State :=
  let th := thr { v := regs 40 ++ [(192, ⟨w0, .af⟩), (193, ⟨w1, .af⟩), (207, ⟨w15, .af⟩)] }
  { issuing [] {} [0, 1] with
    groups := [(3, { block := 2, launch := 1, threads := [(0, th), (1, th)], uni := { k := regs 40 }, afnext := 1 })] }

/-- Its gang. -/
def cAffine (w0 w1 w15 : Word) : Ctx := ⟨3, groupOf (affine w0 w1 w15) 3, [0, 1], 0x100008#64⟩

theorem ctx_affine (w0 w1 w15 : Word) : ctxOf (affine w0 w1 w15) = some (cAffine w0 w1 w15) := by rfl

set_option exponentiation.threshold 600 in
/-- The value of a centre and a radius. -/
theorem holds_plain {x : Nat} (h : x < 2 ^ 64) (hc : finite32 (x % 2 ^ 32) = true) (hr : finite32 (x / 2 ^ 32 % 2 ^ 32) = true)
    (hs : signOf .f32 (x / 2 ^ 32 % 2 ^ 32) = false) : Holds x ⟨x % 2 ^ 32, x / 2 ^ 32 % 2 ^ 32, [], false, false⟩ := by
  have big : ∀ k, 64 ≤ k → x / 2 ^ k = 0 := fun k hk =>
    Nat.div_eq_of_lt (Nat.lt_of_lt_of_le h (Nat.pow_le_pow_right (by omega) hk))
  refine ⟨fun h' => by rw [big 508 (by omega)] at h'; exact absurd h' (by decide), fun _ => ?_⟩
  have h4 : x / 2 ^ 504 % 16 = 0 := (congrArg (· % 16) (big 504 (by omega))).trans (Nat.zero_mod _)
  have h9 : x / 2 ^ 509 % 2 = 0 := (congrArg (· % 2) (big 509 (by omega))).trans (Nat.zero_mod _)
  have h10 : x < 2 ^ 510 := Nat.lt_of_lt_of_le h (by decide)
  show x < 2 ^ 510 ∧ x / 2 ^ 504 % 16 ≤ 10 ∧ _ ∧ _ ∧ _ ∧ (false = decide (x / 2 ^ 509 % 2 = 1)) ∧
    ([] = (List.range (x / 2 ^ 504 % 16)).map _) ∧ (∀ j, j < x / 2 ^ 504 % 16 → _) ∧ (∀ j, j + 1 < x / 2 ^ 504 % 16 → _) ∧ _ ∧ _ ∧ _ ∧ _ ∧
    ∀ j, j < x / 2 ^ 504 % 16 → _
  rw [h4, h9]
  refine ⟨h10, by decide, rfl, rfl, rfl, by decide, rfl, fun j hj => absurd hj (by omega), fun j hj => absurd hj (by omega), fun j _ _ => ⟨?_, ?_⟩, hc, hr,
    fun hp => by rw [hs] at hp; exact absurd hp (by decide), fun j hj => absurd hj (by omega)⟩
  · exact (congrArg (· % 2 ^ 12) (big (384 + 12 * j) (by omega))).trans (Nat.zero_mod _)
  · exact (congrArg (· % 2 ^ 32) (big (64 + 32 * j) (by omega))).trans (Nat.zero_mod _)

/-- Every lane of a state's gang is ready. -/
def AllReady (s : State) (c : Ctx) (p : Pred) (ready : View → Prop) : Prop :=
  activeLanes c p ≠ [] ∧ ∀ l ∈ activeLanes c p, ready (viewOf c s (activeLanes c p) l)

theorem all_ready {s : State} {c : Ctx} {p : Pred} {ready : View → Prop} (hl : activeLanes c p = [0, 1])
    (hr : ∀ l, l = 0 ∨ l = 1 → ready (viewOf c s [0, 1] l)) : AllReady s c p ready := by
  unfold AllReady
  rw [hl]
  exact ⟨by simp, fun l h => hr l (by simpa using h)⟩

/-- An affine instruction completes in some state. -/
def MintsSome (i : Instr) (p : Pred) (us : List RegUse) (ready : View → Prop) : Prop :=
  ∃ s c, Issues i us s c ∧ (c.g.afmode = 1 ∨ c.g.afnext ≠ 0) ∧ AllReady s c p ready

/-- The operand a0 with a centre and a radius. -/
theorem af_holds (w0 w1 : Word) (b c r : Nat) (raw : Bool)
    (ht : ∀ l, l = 0 ∨ l = 1 → afBitsAt (viewOf (cAffine w0 w1 0) (affine w0 w1 0) [0, 1] l) 0 = b ∧
      ∀ w : Fin 16, readB (readReg (viewOf (cAffine w0 w1 0) (affine w0 w1 0) [0, 1] l)
        (.v (finOf 256 (192 + 16 * (0 : Fin 4).val + w.val)))) .af false = true)
    (h : b < 2 ^ 64) (hc : finite32 (b % 2 ^ 32) = true) (hr : finite32 (b / 2 ^ 32 % 2 ^ 32) = true)
    (hs : signOf .f32 (b / 2 ^ 32 % 2 ^ 32) = false) (h0 : b % 2 ^ 32 = c) (h1 : b / 2 ^ 32 % 2 ^ 32 = r)
    (l : Nat) (hl : l = 0 ∨ l = 1) :
    AfRegs (viewOf (cAffine w0 w1 0) (affine w0 w1 0) [0, 1] l) 0 raw ∧
      Holds (afBitsAt (viewOf (cAffine w0 w1 0) (affine w0 w1 0) [0, 1] l) 0) ⟨c, r, [], false, false⟩ := by
  subst h0 h1
  refine ⟨fun w hw => ?_, by rw [(ht l hl).1]; exact holds_plain h hc hr hs⟩
  have := reg_readable_of ((ht l hl).2 ⟨w, hw⟩)
  unfold RegReadable at this ⊢
  rcases this with h | h | h | h
  · exact .inl h
  · exact .inr (.inl h)
  · exact .inr (.inr (.inl h))
  · simp at h

/-- The operand a0 of 2.0 exactly. -/
theorem af_two (raw : Bool) (l : Nat) (hl : l = 0 ∨ l = 1) :
    AfRegs (viewOf (cAffine 0x40000000 0 0) (affine 0x40000000 0 0) [0, 1] l) 0 raw ∧
      Holds (afBitsAt (viewOf (cAffine 0x40000000 0 0) (affine 0x40000000 0 0) [0, 1] l) 0) ⟨0x40000000, 0, [], false, false⟩ :=
  af_holds _ _ 0x40000000 _ _ raw (by rintro l (rfl | rfl) <;> exact ⟨by decide +kernel, by decide +kernel⟩) (by decide) (by decide)
    (by decide) (by decide) (by decide) (by decide) l hl

theorem af_ready (l : Nat) (hl : l = 0 ∨ l = 1) (raw : Bool) :
    AfReady (viewOf (cAffine 0x40000000 0 0) (affine 0x40000000 0 0) [0, 1] l) 0 raw :=
  ⟨(af_two raw l hl).1, _, (af_two raw l hl).2⟩

theorem mints_some {i : Instr} {p : Pred} {us : List RegUse} {ready : View → Prop}
    (h : issuesB i us (affine 0x40000000 0 0) (cAffine 0x40000000 0 0) = true)
    (hl : activeLanes (cAffine 0x40000000 0 0) p = [0, 1])
    (hr : ∀ l, l = 0 ∨ l = 1 → ready (viewOf (cAffine 0x40000000 0 0) (affine 0x40000000 0 0) [0, 1] l)) :
    MintsSome i p us ready :=
  ⟨_, _, issues_of (ctx_affine ..) h, .inr (by decide +kernel), all_ready hl hr⟩

theorem scalar_ready {v : View} {x : Src} (h : readableB v .f32 x false = true) (hn : nanBits .f32 (srcBits v .f32 x) = false) :
    ScalarReady v x := ⟨readable_of h, hn⟩

theorem witness_AffineLinearOperations :
    (∃ o : OpAfBin, MintsSome (.afadd o) o.pred (useAf o.d ++ useAf o.a ++ useAf o.b)
      (fun v => AfReady v o.a o.raw ∧ AfReady v o.b o.raw)) ∧
    (∃ o : OpAfScl, MintsSome (.afscl o) o.pred (useAf o.d ++ useAf o.a ++ useSrc o.s ++ useSrc o.t)
      (fun v => AfReady v o.a o.raw ∧ ScalarReady v o.s ∧ ScalarReady v o.t)) ∧
    (∃ o : OpAfCst, MintsSome (.afcst o) o.pred (useAf o.d ++ useSrc o.a) (fun v => ScalarReady v o.a)) :=
  ⟨⟨⟨pt, 1, 0, 0, false⟩, mints_some (by decide +kernel) (by decide +kernel) (fun l h => ⟨af_ready l h _, af_ready l h _⟩)⟩,
   ⟨⟨pt, 1, 0, .reg (.v 4), .const .one, false⟩, mints_some (by decide +kernel) (by decide +kernel) (fun l h =>
      ⟨af_ready l h _, by rcases h with rfl | rfl <;> exact scalar_ready (by decide +kernel) (by decide +kernel),
        by rcases h with rfl | rfl <;> exact scalar_ready (by decide +kernel) (by decide +kernel)⟩)⟩,
   ⟨⟨pt, 1, .reg (.v 4)⟩, mints_some (by decide +kernel) (by decide +kernel) (fun l h =>
      by rcases h with rfl | rfl <;> exact scalar_ready (by decide +kernel) (by decide +kernel))⟩⟩

theorem witness_AffineProductsAndConstruction :
    (∃ o : OpAfBin, MintsSome (.afmul o) o.pred (useAf o.d ++ useAf o.a ++ useAf o.b)
      (fun v => AfReady v o.a o.raw ∧ AfReady v o.b o.raw)) ∧
    (∃ o : OpAfUn, MintsSome (.afsqr o) o.pred (useAf o.d ++ useAf o.a) (fun v => AfReady v o.a o.raw)) ∧
    (∃ o : OpAfNew, MintsSome (.afnew o) o.pred (useAf o.d ++ useSrc o.a ++ useSrc o.b)
      (fun v => ScalarReady v o.a ∧ ScalarReady v o.b ∧ NewReady o.cw (srcBits v .f32 o.a) (srcBits v .f32 o.b))) ∧
    (∃ o : OpAfCnd, MintsSome (.afcnd o) o.pred (useAf o.d ++ useAf o.a ++ useSrc o.k)
      (fun v => AfReady v o.a o.raw ∧ Readable v .n32 o.k)) :=
  ⟨⟨⟨pt, 1, 0, 0, false⟩, mints_some (by decide +kernel) (by decide +kernel) (fun l h => ⟨af_ready l h _, af_ready l h _⟩)⟩,
   ⟨⟨pt, 1, 0, false⟩, mints_some (by decide +kernel) (by decide +kernel) (fun l h => af_ready l h _)⟩,
   ⟨⟨pt, 1, .reg (.v 4), .reg (.v 10), false⟩, mints_some (by decide +kernel) (by decide +kernel) (fun l h => by
      rcases h with rfl | rfl <;> exact ⟨scalar_ready (by decide +kernel) (by decide +kernel),
        scalar_ready (by decide +kernel) (by decide +kernel), by unfold NewReady; decide +kernel⟩)⟩,
   ⟨⟨pt, 1, 0, .reg (.v 4), false, false⟩, mints_some (by decide +kernel) (by decide +kernel) (fun l h =>
      ⟨af_ready l h _, by rcases h with rfl | rfl <;> exact readable_of (by decide +kernel)⟩)⟩⟩

theorem witness_AffineSoundness :
    ∃ (x : AfVal) (ε : Nat → Rat) (δ : Rat), Proper x ∧ (∀ i, mag (ε i) ≤ 1) ∧ mag δ ≤ f32Val x.r ∧ finite32 0x3F800000 = true ∧
      (afLinearDone (afLinear x x 0x3F800000 0 1)).v.unb = false ∧ 1 ∉ x.terms.map Prod.fst ∧
      (afFinish (afMulPre x x) (some 1)).v.unb = false ∧ (afFinish (afSqrPre x) (some 1)).v.unb = false :=
  ⟨_, fun _ => 1, 1, ⟨rfl, _, holds_plain (x := 0x3F80000040000000) (by decide) (by decide) (by decide) (by decide)⟩,
    fun _ => (by decide +kernel : mag 1 ≤ 1), by decide +kernel, by decide, by decide +kernel, by decide +kernel, by decide +kernel, by decide +kernel⟩

/-- A finite f32 value rounds to itself in every mode. -/
theorem rounds_itself {x : Rat} {b p : Nat} {neg : Bool} (mode : Rnd) (hx : x ≠ 0) (hn : decide (x < 0) = neg) (hb : b = withSign .f32 neg p)
    (hr : RoundsTo (units .f32) mode neg (cutBy (against (mag x))) p) (hm : p ≤ FloatFmt.f32.maxBits)
    (he : cutBy (against (mag x)) (units .f32 p) 1 = .eq) : Rounds32 mode x b := by
  refine ⟨0#7, ?_⟩
  simp only [hx, if_false]
  subst hn
  refine ⟨p, hr, fun h => by omega, fun _ => ⟨hb, fun _ => rfl, fun h => absurd he h, fun h => absurd he h⟩⟩

theorem range_two : Range ⟨0x40000000, 0, [], false, false⟩ 0x40000000 0x40000000 :=
  ⟨rounds_itself (p := 0x40000000) (neg := false) .dn (by decide +kernel) (by decide +kernel) (by decide +kernel)
      (by unfold RoundsTo; decide +kernel) (by decide +kernel) (by decide +kernel),
   rounds_itself (p := 0x40000000) (neg := false) .up (by decide +kernel) (by decide +kernel) (by decide +kernel)
      (by unfold RoundsTo; decide +kernel) (by decide +kernel) (by decide +kernel)⟩

theorem range_around_zero : Range ⟨0, 0x3F800000, [], false, false⟩ 0xBF800000 0x3F800000 :=
  ⟨rounds_itself (p := 0x3F800000) (neg := true) .dn (by decide +kernel) (by decide +kernel) (by decide +kernel)
      (by unfold RoundsTo; decide +kernel) (by decide +kernel) (by decide +kernel),
   rounds_itself (p := 0x3F800000) (neg := false) .up (by decide +kernel) (by decide +kernel) (by decide +kernel)
      (by unfold RoundsTo; decide +kernel) (by decide +kernel) (by decide +kernel)⟩

theorem witness_AffineFunctionsAndExtraction :
    (∃ o : OpAfUn, MintsSome (.afrcp o) o.pred (useAf o.d ++ useAf o.a) (fun v => AfRegs v o.a o.raw ∧
      ∃ x, Holds (afBitsAt v o.a) x ∧ (x.unb = true ∨ ∃ lo hi, Range x lo hi ∧ (0 < f32Val lo ∨ f32Val hi < 0)))) ∧
    (∃ o : OpAfUn, MintsSome (.afsqrt o) o.pred (useAf o.d ++ useAf o.a) (fun v => AfRegs v o.a o.raw ∧
      ∃ x, Holds (afBitsAt v o.a) x ∧ (x.unb = true ∨ ∃ lo hi, Range x lo hi ∧ 0 ≤ f32Val lo))) ∧
    (∃ o : OpAfUn, MintsSome (.afexp o) o.pred (useAf o.d ++ useAf o.a) (fun v => AfReady v o.a o.raw)) ∧
    (∃ o : OpAfRng, MintsSome (.afrng o) o.pred (useReg o.d 2 ++ useAf o.a) (fun v => AfReady v o.a o.raw)) ∧
    (∃ o : OpAfGet, MintsSome (.afget o) o.pred (useReg o.d ++ useAf o.a ++ (if o.selg = 2 then useSrc o.b else []))
      (fun v => AfReady v o.a o.raw ∧ (o.selg = 2 → Readable v .n32 o.b))) ∧
    (∃ (o : OpAfUn) (s : State) (c : Ctx), Issues (.afsqr o) (useAf o.d ++ useAf o.a) s c ∧
      AllReady s c o.pred (fun v => AfRegs v o.a o.raw ∧ ¬ ∃ x, Holds (afBitsAt v o.a) x)) ∧
    (∃ (o : OpAfUn) (s : State) (c : Ctx), Issues (.afrcp o) (useAf o.d ++ useAf o.a) s c ∧
      AllReady s c o.pred (fun v => AfRegs v o.a o.raw ∧ ∃ x lo hi, Holds (afBitsAt v o.a) x ∧ x.unb = false ∧ Range x lo hi ∧
        f32Val lo < 0 ∧ 0 ≤ f32Val hi)) := by
  refine ⟨⟨⟨pt, 1, 0, false⟩, mints_some (by decide +kernel) (by decide +kernel) (fun l h =>
      ⟨(af_two _ l h).1, _, (af_two false l h).2, .inr ⟨_, _, range_two, .inl (by decide +kernel)⟩⟩)⟩,
    ⟨⟨pt, 1, 0, false⟩, mints_some (by decide +kernel) (by decide +kernel) (fun l h =>
      ⟨(af_two _ l h).1, _, (af_two false l h).2, .inr ⟨_, _, range_two, by decide +kernel⟩⟩)⟩,
    ⟨⟨pt, 1, 0, false⟩, mints_some (by decide +kernel) (by decide +kernel) (fun l h => af_ready l h _)⟩,
    ⟨⟨pt, .v 8, 0, false⟩, mints_some (by decide +kernel) (by decide +kernel) (fun l h => af_ready l h _)⟩,
    ⟨⟨pt, .v 8, 0, .reg (.v 4), 2, false⟩, mints_some (by decide +kernel) (by decide +kernel) (fun l h =>
      ⟨af_ready l h _, fun _ => by rcases h with rfl | rfl <;> exact readable_of (by decide +kernel)⟩)⟩,
    ⟨⟨pt, 1, 0, false⟩, affine 0 0 0x40000000, cAffine 0 0 0x40000000, issues_of (ctx_affine ..) (by decide +kernel),
      all_ready (by decide +kernel) (fun l h => ⟨fun w hw => ?_, ?_⟩)⟩,
    ⟨⟨pt, 1, 0, false⟩, affine 0 0x3F800000 0, cAffine 0 0x3F800000 0, issues_of (ctx_affine ..) (by decide +kernel),
      all_ready (by decide +kernel) (fun l h => ?_)⟩⟩
  · apply reg_readable_of
    have : ∀ w : Fin 16, readB (readReg (viewOf (cAffine 0 0 0x40000000) (affine 0 0 0x40000000) [0, 1] l)
        (.v (finOf 256 (192 + 16 * (0 : Fin 4).val + w.val)))) .af false = true := by
      rcases h with rfl | rfl <;> decide +kernel
    exact this ⟨w, hw⟩
  · rintro ⟨x, hx⟩
    have hb : afBitsAt (viewOf (cAffine 0 0 0x40000000) (affine 0 0 0x40000000) [0, 1] l) 0 = 2 ^ 510 := by
      rcases h with rfl | rfl <;> decide +kernel
    rw [hb] at hx
    exact absurd (hx.2 (by decide +kernel)).1 (by decide +kernel)
  · have := af_holds 0 0x3F800000 0x3F80000000000000 0 0x3F800000 false
      (by rintro l (rfl | rfl) <;> exact ⟨by decide +kernel, by decide +kernel⟩) (by decide) (by decide) (by decide) (by decide)
      (by decide) (by decide) l h
    exact ⟨this.1, _, _, _, this.2, rfl, range_around_zero, by decide +kernel, by decide +kernel⟩

end Sys2Proof.Tests

/-! ## Predicates and cross-lane instructions -/

namespace Sys2Proof.Tests

open Machine Claims

/-- A cross-lane instruction completes in some state, in which lanes are active. -/
def CrossesSome (i : Instr) (waits : Bool) (p : Pred) (mask : LaneMask) (us : List RegUse) (ready : View → Prop) : Prop :=
  ∃ s c, Issues i (us ++ useMask mask) s c ∧ (waits = true → ∀ l, named c.g c.gang mask l = true → l ∈ c.gang) ∧
    AllReady s c p ready

theorem crosses_some {i : Instr} {waits : Bool} {p : Pred} {mask : LaneMask} {us : List RegUse} {ready : View → Prop}
    (h : issuesB i (us ++ useMask mask) two cTwo = true) (hm : mask = .gang ∨ mask = .all)
    (hl : activeLanes cTwo p = [0, 1]) (hr : ∀ l, l = 0 ∨ l = 1 → ready (viewOf cTwo two [0, 1] l)) :
    CrossesSome i waits p mask us ready := by
  refine ⟨two, cTwo, issues_of ctx_two h, fun _ l hn => ?_, all_ready hl hr⟩
  rcases hm with rfl | rfl
  · simpa [named] using hn
  · have : liveLanes cTwo.g = cTwo.gang := by decide +kernel
    simpa [named, this] using hn

theorem peers_ready {v : View} {m : LaneMask} {t : Tag} {a : Src} (h : (contributorsOf v m).all (fun l => readableB (v.peer l) t a false) = true) :
    ∀ l ∈ contributorsOf v m, Readable (v.peer l) t a := fun l hl => readable_of (List.all_eq_true.mp h l hl)

theorem witness_PredicateInstructions :
    (∃ o : OpPlop, Somewhere (.plop o) o.uni o.pred [] (fun _ => True)) ∧
    (∃ o : OpPlop, o.uni = true ∧ Somewhere (.plop o) o.uni o.pred [] (fun _ => True)) ∧
    (∃ (p : Pred) (d : Reg), Somewhere (.pmov (.get p d)) (isK d) p (useReg d) (fun _ => True)) ∧
    (∃ (p : Pred) (uni : Bool) (a : Src) (mask : Fin 128),
      Somewhere (.pmov (.set p uni a mask)) uni p (useSrc a) (fun v => Readable v .b32 a)) :=
  ⟨⟨⟨pt, false, 0, 1, 2, 3, 0x80#8⟩, somewhere_v rfl (by decide +kernel) (by decide +kernel) (fun _ _ => trivial)⟩,
   ⟨⟨pt, true, 0, 1, 2, 3, 0x80#8⟩, rfl, somewhere_k rfl (by decide +kernel) (by decide +kernel) trivial⟩,
   ⟨pt, .v 8, somewhere_v rfl (by decide +kernel) (by decide +kernel) (fun _ _ => trivial)⟩,
   ⟨pt, false, .reg (.v 4), 0x7F, somewhere_v rfl (by decide +kernel) (by decide +kernel) (by
      rintro l (rfl | rfl) <;> exact readable_of (by decide +kernel))⟩⟩

theorem witness_VotesShufflesAndMatches :
    (∃ o : OpVote, CrossesSome (.vote o) true o.pred o.mask (useReg o.d (if o.mode = 3 then 4 else 1)) (fun _ => True)) ∧
    (∃ (o : OpShfl) (a : Reg), o.a = .reg a ∧ CrossesSome (.shfl o) true o.pred o.mask (useReg o.d ++ useSrc o.a ++ useSrc o.b)
      (fun v => Readable v .n32 o.b)) ∧
    (∃ o : OpMatch, CrossesSome (.matchLanes o) true o.pred o.mask (useReg o.d 4 ++ useSrc o.a (tagRegs o.t))
      (fun v => ∀ l ∈ contributorsOf v o.mask, Readable (v.peer l) o.t o.a)) ∧
    (∃ o : OpElect, isK o.d = false ∧ CrossesSome (.elect o) false o.pred o.mask (useReg o.d) (fun _ => True)) ∧
    (∃ o : OpElect, isK o.d = true ∧ Somewhere (.elect o) true o.pred (useReg o.d ++ useMask o.mask) (fun _ => True)) :=
  ⟨⟨⟨pt, .v 8, 0, false, 3, 7, .all⟩, crosses_some (by decide +kernel) (.inr rfl) (by decide +kernel) (fun _ _ => trivial)⟩,
   ⟨⟨pt, .v 8, .reg (.v 4), .imm 1, 1, .gang⟩, _, rfl, crosses_some (by decide +kernel) (.inl rfl) (by decide +kernel)
      (by rintro l (rfl | rfl) <;> exact readable_of (by decide +kernel))⟩,
   ⟨⟨pt, .v 8, .reg (.v 4), 1, .all, .b32⟩, crosses_some (by decide +kernel) (.inr rfl) (by decide +kernel)
      (by rintro l (rfl | rfl) <;> exact peers_ready (by decide +kernel))⟩,
   ⟨⟨pt, .v 8, 1, .gang⟩, rfl, crosses_some (by decide +kernel) (.inl rfl) (by decide +kernel) (fun _ _ => trivial)⟩,
   ⟨⟨pt, .k 8, 1, .all⟩, rfl, somewhere_k rfl (by decide +kernel) (by decide +kernel) trivial⟩⟩

/-- The same two threads, of which only lane 0 issues. -/
def alone : State := { two with issue := some { gid := 3, gang := [0], pc := 0x100008#64 } }
def cAlone : Ctx := ⟨3, groupOf two 3, [0], 0x100008#64⟩

theorem ctx_alone : ctxOf alone = some cAlone := by rfl

theorem witness_ReductionsScansAndWaits :
    (∃ o : OpGroup, CrossesSome (.gred o) true o.pred o.mask (useReg o.d (tagRegs o.t) ++ useSrc o.a (tagRegs o.t))
      (fun v => ∀ l ∈ contributorsOf v o.mask, Readable (v.peer l) o.t o.a)) ∧
    (∃ o : OpGroup, CrossesSome (.gscan o) true o.pred o.mask (useReg o.d (tagRegs o.t) ++ useSrc o.a (tagRegs o.t))
      (fun v => ∀ l ∈ contributorsOf v o.mask, Readable (v.peer l) o.t o.a)) ∧
    (∃ (o : OpGroup) (s : State) (c : Ctx), Issues (.gred o) (useReg o.d (tagRegs o.t) ++ useSrc o.a (tagRegs o.t) ++ useMask o.mask) s c ∧
      ∃ l, named c.g c.gang o.mask l = true ∧ l ∉ c.gang) :=
  ⟨⟨⟨pt, .v 8, .reg (.v 4), .add, false, .all, .f32, .ne, false⟩, crosses_some (by decide +kernel) (.inr rfl) (by decide +kernel)
      (by rintro l (rfl | rfl) <;> exact peers_ready (by decide +kernel))⟩,
   ⟨⟨pt, .v 8, .reg (.v 4), .xor, true, .gang, .n64, .ne, false⟩, crosses_some (by decide +kernel) (.inl rfl) (by decide +kernel)
      (by rintro l (rfl | rfl) <;> exact peers_ready (by decide +kernel))⟩,
   ⟨⟨pt, .v 8, .reg (.v 4), .add, false, .all, .f32, .ne, false⟩, alone, cAlone, issues_of ctx_alone (by decide +kernel),
      1, by decide +kernel, by decide⟩⟩

end Sys2Proof.Tests

/-! ## Memory instructions -/

namespace Sys2Proof.Tests

open Machine Claims

/-- The registers of a lane that addresses memory: the pair v4 a line of its own, v6 an offset of the grant, v10 an
index, v20 its stack pointer; ix0 selects from v8 on, under 4. -/
def memRegFile (l : Nat) : RegFile :=
  { v := (List.range 40).map (fun i => (i, ⟨BitVec.ofNat 32
      (if i = 4 then 0x200000 + 64 * l else if i = 6 then 64 * l else if i = 10 then 1 else 0), .b32⟩))
    p := 1#7
    ix0 := 0x0804#16 }

/-- Two threads that address memory, and k4 an address, k6 an offset. -/
def mem2 : State :=
  issuing [(0, thr (memRegFile 0)), (1, thr (memRegFile 1))]
    { k := (List.range 40).map (fun i => (i, ⟨BitVec.ofNat 32 (if i = 4 then 0x200000 else if i = 6 then 64 else 0), .b32⟩)) } [0, 1]
def cMem : Ctx := ⟨3, groupOf mem2 3, [0, 1], 0x100008#64⟩

theorem ctx_mem : ctxOf mem2 = some cMem := by rfl

/-- A spot where a locator finds it. -/
def atB (loc : Locator) (s : State) (c : Ctx) (x : Spot) : Bool :=
  match loc s c.g x.lane x.va with
  | .at p pt cm => p == x.place && pt == x.pt && cm == x.commons
  | _ => false

theorem at_of {loc : Locator} {s : State} {c : Ctx} {x : Spot} (h : atB loc s c x = true) : At loc s c x := by
  unfold atB at h
  unfold At
  split at h
  · rename_i p pt cm e
    simp only [Bool.and_eq_true, beq_iff_eq] at h
    rw [e, h.1.1, h.1.2, h.2]
  · simp at h

/-- A spot where a locator finds it, that nothing holds. -/
def placedB (loc : Locator) (s : State) (c : Ctx) (x : Spot) : Bool := atB loc s c x && !mustWait s c x

theorem placed_of {loc : Locator} {s : State} {c : Ctx} {x : Spot} (h : placedB loc s c x = true) : Placed loc s c x := by
  simp only [placedB, Bool.and_eq_true, Bool.not_eq_true'] at h
  exact ⟨at_of h.1, h.2⟩

/-- A uniform spot where a locator finds it, that no lane's access holds. -/
def uniB (loc : Locator) (s : State) (c : Ctx) (x : Spot) : Bool :=
  atB loc s c x && c.gang.all (fun l => !mustWait s c { x with lane := l })

theorem uni_placed_of {loc : Locator} {s : State} {c : Ctx} {x : Spot} (h : uniB loc s c x = true) : UniPlaced loc s c x := by
  simp only [uniB, Bool.and_eq_true, List.all_eq_true, Bool.not_eq_true'] at h
  exact ⟨at_of h.1, h.2⟩

end Sys2Proof.Tests

namespace Sys2Proof.Tests

open Machine Claims

/-- The place that a locator finds, where it finds one. -/
def placeAt (loc : Locator) (s : State) (c : Ctx) (l : Nat) (va : DWord) : Spot :=
  match loc s c.g l va with
  | .at p pt cm => ⟨l, va, p, pt, cm⟩
  | _ => ⟨l, va, .phys [], .normal, false⟩

theorem placeAt_lane (loc : Locator) (s : State) (c : Ctx) (l : Nat) (va : DWord) : (placeAt loc s c l va).lane = l := by
  unfold placeAt; split <;> rfl

theorem placeAt_va (loc : Locator) (s : State) (c : Ctx) (l : Nat) (va : DWord) : (placeAt loc s c l va).va = va := by
  unfold placeAt; split <;> rfl

/-- The spots of a gang of two. -/
def spots (loc : Locator) (s : State) (c : Ctx) (va : View → DWord) : List Spot :=
  [0, 1].map (fun l => placeAt loc s c l (va (viewOf c s [0, 1] l)))

/-- An instruction's lanes are ready, and each has a place. -/
def LanesAt (i : Instr) (p : Pred) (us : List RegUse) (ready : View → Prop) (va : View → DWord) (loc : Locator)
    (s : State) (c : Ctx) (xs : List Spot) : Prop :=
  Issues i us s c ∧ activeLanes c p ≠ [] ∧ AllReady s c p ready ∧ xs.map Spot.lane = activeLanes c p ∧
    ∀ x ∈ xs, x.va = va (viewOf c s (activeLanes c p) x.lane) ∧ At loc s c x

/-- An instruction's lanes are ready, and each has a place that nothing holds. -/
def LanesPlaced (i : Instr) (p : Pred) (us : List RegUse) (ready : View → Prop) (va : View → DWord) (loc : Locator)
    (s : State) (c : Ctx) (xs : List Spot) : Prop :=
  LanesAt i p us ready va loc s c xs ∧ ∀ x ∈ xs, Placed loc s c x

theorem lanes_at {i : Instr} {p : Pred} {us : List RegUse} {ready : View → Prop} {va : View → DWord} {loc : Locator}
    {s : State} {c : Ctx} (hc : ctxOf s = some c) (h : issuesB i us s c = true) (hl : activeLanes c p = [0, 1])
    (hr : ∀ l, l = 0 ∨ l = 1 → ready (viewOf c s [0, 1] l)) (hp : (spots loc s c va).all (atB loc s c) = true) :
    LanesAt i p us ready va loc s c (spots loc s c va) := by
  refine ⟨issues_of hc h, by simp [hl], all_ready hl hr, by simp [hl, spots, placeAt_lane], fun x hx =>
    ⟨?_, at_of (List.all_eq_true.mp hp x hx)⟩⟩
  rw [hl]
  simp only [spots, List.map_cons, List.map_nil, List.mem_cons, List.not_mem_nil, or_false] at hx
  rcases hx with rfl | rfl <;> rw [placeAt_va, placeAt_lane]

theorem lanes_placed {i : Instr} {p : Pred} {us : List RegUse} {ready : View → Prop} {va : View → DWord} {loc : Locator}
    {s : State} {c : Ctx} (hc : ctxOf s = some c) (h : issuesB i us s c = true) (hl : activeLanes c p = [0, 1])
    (hr : ∀ l, l = 0 ∨ l = 1 → ready (viewOf c s [0, 1] l)) (hp : (spots loc s c va).all (placedB loc s c) = true) :
    LanesPlaced i p us ready va loc s c (spots loc s c va) := by
  refine ⟨lanes_at hc h hl hr (List.all_eq_true.mpr fun x hx => ?_), fun x hx => placed_of (List.all_eq_true.mp hp x hx)⟩
  have := List.all_eq_true.mp hp x hx
  simp only [placedB, Bool.and_eq_true] at this
  exact this.1

/-- Loads of lanes issue in some state. -/
def LoadsSome (i : Instr) (p : Pred) (us : List RegUse) (ready : View → Prop) (va : View → DWord) (loc : Locator) : Prop :=
  ∃ s c xs, LanesPlaced i p us ready va loc s c xs

theorem loads_some {i : Instr} {p : Pred} {us : List RegUse} {ready : View → Prop} {va : View → DWord} {loc : Locator}
    (h : issuesB i us mem2 cMem = true) (hl : activeLanes cMem p = [0, 1]) (hr : ∀ l, l = 0 ∨ l = 1 → ready (viewOf cMem mem2 [0, 1] l))
    (hp : (spots loc mem2 cMem va).all (placedB loc mem2 cMem) = true) : LoadsSome i p us ready va loc :=
  ⟨_, _, _, lanes_placed ctx_mem h hl hr hp⟩

/-- Loads of four accesses in each lane issue in some state. -/
def AfLoadsSome (i : Instr) (p : Pred) (us : List RegUse) (ready : View → Prop) (va : View → DWord) : Prop :=
  ∃ s c xs, LanesAt i p us ready va (generic 64 .read) s c xs ∧
    ∀ x ∈ xs, ∀ q, q < 4 → mustWait s c (quarterSpot x q) = false

/-- A uniform load issues in some state. -/
def UniLoadsSome (i : Instr) (p : Pred) (us : List RegUse) (ready : View → Prop) (vas : View → List DWord) (size : Nat) : Prop :=
  ∃ s c xs, Issues i us s c ∧ predVal c.g.uni.q p = true ∧ ready (viewOf c s c.gang (lowest c.gang)) ∧
    xs.map Spot.va = vas (viewOf c s c.gang (lowest c.gang)) ∧ xs ≠ [] ∧
    ∀ x ∈ xs, x.lane = lowest c.gang ∧ UniPlaced (genericUni size .read) s c x

theorem uni_loads_some {i : Instr} {p : Pred} {us : List RegUse} {ready : View → Prop} {vas : View → List DWord} {size : Nat}
    (h : issuesB i us mem2 cMem = true) (hq : predVal cMem.g.uni.q p = true) (hr : ready (viewOf cMem mem2 [0, 1] 0))
    (hn : vas (viewOf cMem mem2 [0, 1] 0) ≠ [])
    (hp : ((vas (viewOf cMem mem2 [0, 1] 0)).map (placeAt (genericUni size .read) mem2 cMem 0)).all
      (uniB (genericUni size .read) mem2 cMem) = true) : UniLoadsSome i p us ready vas size := by
  refine ⟨mem2, cMem, (vas (viewOf cMem mem2 [0, 1] 0)).map (placeAt (genericUni size .read) mem2 cMem 0), issues_of ctx_mem h, hq, hr,
    ?_, by simpa using hn, fun x hx => ⟨?_, uni_placed_of (List.all_eq_true.mp hp x hx)⟩⟩
  · rw [List.map_map]
    exact (List.map_congr_left (fun a _ => placeAt_va ..)).trans (List.map_id _)
  · obtain ⟨a, _, rfl⟩ := List.mem_map.mp hx
    rw [placeAt_lane]
    rfl

/-- An index register in range. -/
def indexB (o : OpMX) (v : View) : Bool :=
  [Tag.void, .b32, .n32, .s32].contains (readReg v (.v o.idx)).tag &&
  decide (regBits (readReg v (.v o.idx)) < (getIx v.rf o.ixn.val).toNat % 2 ^ 8) &&
  decide ((getIx v.rf o.ixn.val).toNat / 2 ^ 8 + regBits (readReg v (.v o.idx)) < declaredV v.s v.g)

theorem index_of {o : OpMX} {v : View} (h : indexB o v = true) : IndexReady o v := by
  simp only [indexB, Bool.and_eq_true, decide_eq_true_eq] at h
  exact ⟨by simpa using h.1.1, h.1.2, h.2⟩

/-- A window's thread whose state has 16 words, in a0 the words to store. -/
def windowed : State :=
  let th : Thread := { thr (memRegFile 0) with act := some { spec := 5 } }
  { mem2 with
    parts := [(0, { state := .running, slices := 1#16, specs := [(5, { rcd := BitVec.ofNat 1024 (16 * 2 ^ 32), launch := 1 })] })]
    groups := [(3, { block := 2, launch := 1, threads := [(0, th), (1, th)], activation := true })] }
def cWindowed : Ctx := ⟨3, groupOf windowed 3, [0, 1], 0x100008#64⟩
theorem ctx_windowed : ctxOf windowed = some cWindowed := by rfl

end Sys2Proof.Tests

namespace Sys2Proof.Tests

open Machine Claims

/-- A load or a store of the word at v4's address. -/
def mAt (ds : Src) : OpM := ⟨pt, ds, .reg (.v 4), .b32, .part, .plain, .norm, 0#19⟩
def mxAt : OpMX := ⟨pt, 0, 10, .reg (.v 4), .b32, .part, .plain, .norm, 4#19⟩

/-- A core with an outstanding load and an outstanding atomic of lane 0. -/
def returning : State :=
  { mem2 with cores := [(0, { acc := [
      { kind := .load, group := 3, lane := 0, va := 0x200000#64, place := .phys [(0x200000, 4)], dest := 8 },
      { kind := .atomic, group := 3, lane := 0, va := 0x200040#64, place := .phys [(0x200040, 4)], dest := 9, t := .n32, b := 1 }] })] }

theorem can_return {s : State} {core : Nat} {a : Access} (h0 : (coreOf s core).stopped = false) (h1 : a.captured = none)
    (h2 : s.poison = []) (h3 : s.owner = []) : CanReturn s core a :=
  ⟨h0, h1, fun _ _ => by simp [h2], fun _ _ o h => by simp [h3, mfind] at h⟩

theorem witness_Loads :
    (∃ (o : OpM) (d : Reg), o.ds = .reg d ∧ isK d = false ∧ LoadsSome (.ld o) o.pred (useReg d (memRegs o.mt) ++ useSrc o.ab 2)
      (fun v => Addresses v o.ab) (fun v => genericVa v o.ab o.off) (generic (memSize o.mt) .read)) ∧
    (∃ (o : OpM) (d : Reg), o.ds = .reg d ∧ isK d = true ∧ UniLoadsSome (.ld o) o.pred (useReg d (memRegs o.mt) ++ useSrc o.ab 2)
      (fun v => Addresses v o.ab) (fun v => [genericVa v o.ab o.off]) (memSize o.mt)) ∧
    (∃ (o : OpM) (d : Reg), o.ds = .reg d ∧ LoadsSome (.lds o) o.pred (useReg d (memRegs o.mt) ++ useSrc o.ab)
      (fun v => Counts v o.ab) (fun v => offsetVa v o.ab o.off) (ofGrant (memSize o.mt))) ∧
    (∃ o : OpMX, LoadsSome (.ldx o) o.pred (useV o.idx.val 1 ++ useSrc o.ab 2) (fun v => Addresses v o.ab ∧ IndexReady o v)
      (fun v => genericVa v o.ab o.off) (generic (memSize o.mt) .read)) ∧
    (∃ (o : OpLdk) (r : Reg), o.ab = .reg r ∧ UniLoadsSome (.ldk o) o.pred (useReg o.d (o.cntm1.val + 1) ++ useReg r 2)
      (fun v => Addresses v o.ab)
      (fun v => (List.range (o.cntm1.val + 1)).map (fun i => genericVa v o.ab o.off + BitVec.ofNat 64 (4 * i))) 4) ∧
    (∃ o : OpLdk, (∀ r, o.ab ≠ .reg r) ∧ UniLoadsSome (.ldk o) o.pred (useReg o.d (o.cntm1.val + 1)) (fun _ => True)
      (fun v => (List.range (o.cntm1.val + 1)).map (fun i =>
        BitVec.ofNat 64 (lrArgs (launchOf v.s v.g.launch).rcd) + o.off.signExtend 64 + BitVec.ofNat 64 (4 * i))) 4) ∧
    (∃ (o : OpAfMem) (r : Reg), o.ab = .reg r ∧ AfLoadsSome (.afld o) o.pred (useAf o.r ++ useReg r 2)
      (fun v => Addresses v (.reg r)) (fun v => genericVa v (.reg r) o.off)) ∧
    (∃ (o : OpAfMem) (s : State) (c : Ctx), (∀ r, o.ab ≠ .reg r) ∧ Issues (.afld o) (useAf o.r) s c ∧
      AllReady s c o.pred (fun v => (threadOf v.g v.lane).act.isSome = true ∧ o.off.toNat % 64 = 0 ∧ o.off.toNat ≤ 192 ∧
        o.off.toNat / 4 + 16 ≤ stateSize v)) ∧
    (∃ (s : State) (core n : Nat) (a : Access), (coreOf s core).acc[n]? = some a ∧ a.kind = .load ∧ CanReturn s core a) := by
  refine ⟨⟨mAt (.reg (.v 8)), _, rfl, rfl, loads_some (by decide +kernel) (by decide +kernel) (by
      rintro l (rfl | rfl) <;> exact addresses_of (by decide +kernel)) (by decide +kernel)⟩,
    ⟨{ mAt (.reg (.k 8)) with ab := .reg (.k 4) }, _, rfl, rfl, uni_loads_some (by decide +kernel) (by decide +kernel)
      (addresses_of (by decide +kernel)) (by simp) (by decide +kernel)⟩,
    ⟨{ mAt (.reg (.v 8)) with ab := .reg (.v 6), sc := .blk }, _, rfl, loads_some (by decide +kernel) (by decide +kernel) (by
      rintro l (rfl | rfl) <;> exact counts_of (by decide +kernel)) (by decide +kernel)⟩,
    ⟨mxAt, loads_some (by decide +kernel) (by decide +kernel) (by
      rintro l (rfl | rfl) <;> exact ⟨addresses_of (by decide +kernel), index_of (by decide +kernel)⟩) (by decide +kernel)⟩,
    ⟨⟨pt, .k 8, .reg (.k 4), 3, .part, .plain, .norm, 0#19⟩, _, rfl, uni_loads_some (by decide +kernel) (by decide +kernel)
      (addresses_of (by decide +kernel)) (by decide +kernel) (by decide +kernel)⟩,
    ⟨⟨pt, .k 8, .const .zero, 1, .part, .plain, .norm, 0x100#19⟩, by simp, uni_loads_some (by decide +kernel) (by decide +kernel)
      trivial (by decide +kernel) (by decide +kernel)⟩,
    ⟨⟨pt, 0, .reg (.v 4), .part, .plain, .norm, 64#19⟩, _, rfl, mem2, cMem, _, lanes_at ctx_mem (by decide +kernel) (by decide +kernel) (by
      rintro l (rfl | rfl) <;> exact addresses_of (by decide +kernel)) (by decide +kernel), by decide +kernel⟩,
    ⟨⟨pt, 0, .const .zero, .blk, .plain, .norm, 0#19⟩, windowed, cWindowed, by simp, issues_of ctx_windowed (by decide +kernel),
      all_ready (by decide +kernel) (by rintro l (rfl | rfl) <;> exact ⟨by decide +kernel, by decide, by decide, by decide +kernel⟩)⟩,
    ⟨returning, 0, 0, _, rfl, rfl, can_return rfl rfl rfl rfl⟩⟩

/-- An atomic at v4's address. -/
def nAt (d : Reg) : OpN := ⟨pt, d, .reg (.v 4), .reg (.v 8), .add, .n32, .part, .ar⟩

theorem witness_Atomics :
    (∃ (o : OpN) (s : State) (c : Ctx) (xs : List Spot), isK o.d = false ∧ releases o.ord = true ∧
      LanesPlaced (.atom o) o.pred (useReg o.d (tagRegs o.t) ++ useSrc o.a 2 ++ useAtomB o)
        (fun v => Addresses v o.a ∧ AtomReady v o ∧ isPrivate (genericVa v o.a 0#19) = false) (fun v => genericVa v o.a 0#19)
        (generic (atomSize o.t) .write) s c xs ∧
      c.g.sweepMark = none ∧ quiet s c.gid c.g (activeLanes c o.pred) = true ∧ (blockOf s c.g.block).buffer = []) ∧
    (∃ o : OpN, LoadsSome (.atoms o) o.pred (useReg o.d (tagRegs o.t) ++ useSrc o.a ++ useAtomB o)
      (fun v => Counts v o.a ∧ AtomReady v o) (fun v => BitVec.ofNat 64 (srcBits v .n32 o.a)) (ofGrant (atomSize o.t))) ∧
    (∃ (o : OpN) (s : State) (c : Ctx) (x : Spot), isK o.d = true ∧
      Issues (.atom o) (useReg o.d (tagRegs o.t) ++ useSrc o.a 2 ++ useAtomB o) s c ∧ predVal c.g.uni.q o.pred = true ∧
      let v := viewOf c s c.gang (lowest c.gang)
      Addresses v o.a ∧ AtomReady v o ∧ x.va = genericVa v o.a 0#19 ∧ isPrivate x.va = false ∧ x.lane = lowest c.gang ∧
      UniPlaced (genericUni (atomSize o.t) .write) s c x ∧ c.g.sweepMark = none ∧ quiet s c.gid c.g c.gang = true) ∧
    (∃ (s : State) (core n : Nat) (a : Access) (pa : Nat), (coreOf s core).acc[n]? = some a ∧ a.kind = .atomic ∧ CanReturn s core a ∧
      (∀ b ∈ (coreOf s core).acc.take n, overlap b.place a.place = false) ∧ a.place = .phys [(pa, atomSize a.t)] ∧ a.t ≠ .af) := by
  refine ⟨⟨nAt (.v 12), mem2, cMem, _, rfl, rfl, lanes_placed ctx_mem (by decide +kernel) (by decide +kernel) (by
      rintro l (rfl | rfl) <;> exact ⟨addresses_of (by decide +kernel), ⟨readable_of (by decide +kernel), fun _ h => by simp [nAt] at h⟩,
        by decide +kernel⟩) (by decide +kernel), by decide +kernel, by decide +kernel, by decide +kernel⟩,
    ⟨{ nAt (.v 12) with a := .reg (.v 6), sc := .blk }, loads_some (by decide +kernel) (by decide +kernel) (by
      rintro l (rfl | rfl) <;> exact ⟨counts_of (by decide +kernel), readable_of (by decide +kernel), fun _ h => by simp [nAt] at h⟩)
      (by decide +kernel)⟩,
    ⟨{ nAt (.k 12) with a := .reg (.k 4), b := .reg (.k 8) }, mem2, cMem,
      placeAt (genericUni 4 .write) mem2 cMem 0 0x200000#64, rfl, issues_of ctx_mem (by decide +kernel), by decide +kernel,
      addresses_of (by decide +kernel), ⟨readable_of (by decide +kernel), fun _ h => by simp [nAt] at h⟩, by decide +kernel,
      by decide +kernel, by decide +kernel, uni_placed_of (by decide +kernel), by decide +kernel, by decide +kernel⟩,
    ⟨returning, 0, 1, _, _, rfl, rfl, can_return rfl rfl rfl rfl, by decide +kernel, rfl, by decide +kernel⟩⟩

end Sys2Proof.Tests

namespace Sys2Proof.Tests

open Machine Claims

/-- Whether a store buffer holds a store. -/
def heldB (s : State) (c : Ctx) (x : Spot) : Bool := !(placePas x.place).isEmpty && buffers s c.g x.pt (isPrivate x.va)

/-- A place inside a core's scratchpad, or in memory. -/
def inScratchB (size : Nat) (x : Spot) : Bool :=
  match x.place with
  | .scratch _ _ o _ => decide (o + size ≤ 2 ^ 19)
  | _ => true

theorem in_scratch_of {xs : List Spot} {size : Nat} (h : xs.all (inScratchB size) = true) : InScratch xs size := by
  intro x hx b pos o n e
  have := List.all_eq_true.mp h x hx
  simpa [inScratchB, e] using this

/-- The accesses that the stores of some lanes make. -/
def pieces (cut : Spot → Nat → List (Spot × Nat)) (data : View → Nat) (s : State) (c : Ctx) (lanes : List Nat) (zs : List Spot) :
    List Spot :=
  (zs.flatMap (fun x => cut x (data (viewOf c s lanes x.lane)))).map Prod.fst

/-- Stores of lanes are performed in some state, with nothing of the gang outstanding. -/
def StoresSome (i : Instr) (p : Pred) (us : List RegUse) (ready : View → Prop) (va : View → DWord) (loc : Locator)
    (cut : Spot → Nat → List (Spot × Nat)) (size : Nat) (data : View → Nat) : Prop :=
  ∃ s c zs, LanesAt i p us ready va loc s c zs ∧ c.g.sweepMark = none ∧ quiet s c.gid c.g (activeLanes c p) = true ∧
    (blockOf s c.g.block).buffer = [] ∧ (∀ x ∈ pieces cut data s c (activeLanes c p) zs, mustWait s c x = false ∧ heldB s c x = false) ∧
    InScratch (pieces cut data s c (activeLanes c p) zs) size

theorem stores_some {i : Instr} {p : Pred} {us : List RegUse} {ready : View → Prop} {va : View → DWord} {loc : Locator}
    {cut : Spot → Nat → List (Spot × Nat)} {size : Nat} {data : View → Nat}
    (h : issuesB i us mem2 cMem = true) (hl : activeLanes cMem p = [0, 1]) (hr : ∀ l, l = 0 ∨ l = 1 → ready (viewOf cMem mem2 [0, 1] l))
    (hp : (spots loc mem2 cMem va).all (atB loc mem2 cMem) = true)
    (hb : (pieces cut data mem2 cMem [0, 1] (spots loc mem2 cMem va)).all (fun x =>
      (!mustWait mem2 cMem x && !heldB mem2 cMem x) && inScratchB size x) = true) :
    StoresSome i p us ready va loc cut size data := by
  refine ⟨mem2, cMem, _, lanes_at ctx_mem h hl hr hp, by decide +kernel, by rw [hl]; decide +kernel, by decide +kernel, ?_, ?_⟩
  · rw [hl]
    intro x hx
    have := List.all_eq_true.mp hb x hx
    simp only [Bool.and_eq_true, Bool.not_eq_true'] at this
    exact this.1
  · rw [hl]
    refine in_scratch_of (List.all_eq_true.mpr fun x hx => ?_)
    have := List.all_eq_true.mp hb x hx
    simp only [Bool.and_eq_true] at this
    exact this.2

/-- The same two threads in a contained launch. -/
def contained : State :=
  { mem2 with launches := [(1, { rcd := placedRecord ||| BitVec.ofNat 1024 (2 ^ 19), level := 1, nextBlock := 1 })] }

theorem ctx_contained : ctxOf contained = some cMem := by rfl

/-- A lane alone that addresses memory. -/
def oneMem : State := { mem2 with issue := some { gid := 3, gang := [0], pc := 0x100008#64 } }
def cOneMem : Ctx := ⟨3, groupOf mem2 3, [0], 0x100008#64⟩
theorem ctx_oneMem : ctxOf oneMem = some cOneMem := by rfl

/-- What AfRegs says, by evaluation. -/
theorem af_regs_of {v : View} {r : Fin 4} {raw : Bool}
    (h : (List.range 16).all (fun w => readB (readReg v (.v (finOf 256 (192 + 16 * r.val + w)))) .af raw) = true) : AfRegs v r raw :=
  fun w hw => reg_readable_of (List.all_eq_true.mp h w (by simpa using hw))

/-- A source that a store can take. -/
def storeB (v : View) (ds : Src) (mt : MemType) : Bool :=
  match mt with
  | .n8 | .s8 | .n16 | .s16 => countsB v ds
  | .b32 | .b64 | .b128 => true
  | _ => readableB v (storeType mt) ds false

theorem store_of {v : View} {ds : Src} {mt : MemType} (h : storeB v ds mt = true) : StoreReady v ds mt := by
  cases mt <;> first | exact counts_of h | exact readable_of h | trivial

theorem witness_StoresAndReductions :
    (∃ o : OpM, StoresSome (.st o) o.pred (useSrc o.ds (memRegs o.mt) ++ useSrc o.ab 2)
      (fun v => Addresses v o.ab ∧ StoreReady v o.ds o.mt) (fun v => genericVa v o.ab o.off) (generic (memSize o.mt) .write) whole
      (memSize o.mt) (fun v => storeData v o.ds o.mt)) ∧
    (∃ (o : OpM) (s : State) (c : Ctx) (zs : List Spot), LanesAt (.st o) o.pred (useSrc o.ds (memRegs o.mt) ++ useSrc o.ab 2)
      (fun v => Addresses v o.ab ∧ StoreReady v o.ds o.mt) (fun v => genericVa v o.ab o.off) (generic (memSize o.mt) .write) s c zs ∧
      releases o.ord = false ∧
      let xs := pieces whole (fun v => storeData v o.ds o.mt) s c (activeLanes c o.pred) zs
      (∀ x ∈ xs, mustWait s c x = false ∧ heldB s c x = true ∧ ∃ pa, x.place = .phys [(pa, memSize o.mt)]) ∧
      (mfind s.blocks c.g.block).isSome = true ∧ bufferBytes (blockOf s c.g.block) + memSize o.mt * xs.length ≤ 262144) ∧
    (∃ o : OpM, StoresSome (.sts o) o.pred (useSrc o.ds (memRegs o.mt) ++ useSrc o.ab)
      (fun v => Counts v o.ab ∧ StoreReady v o.ds o.mt) (fun v => offsetVa v o.ab o.off) (ofGrant (memSize o.mt)) whole (memSize o.mt)
      (fun v => storeData v o.ds o.mt)) ∧
    (∃ o : OpMX, StoresSome (.stx o) o.pred (useV o.idx.val 1 ++ useSrc o.ab 2)
      (fun v => Addresses v o.ab ∧ IndexReady o v ∧ StoreReady v (.reg (.v (finOf 256 (indexed o v)))) o.mt)
      (fun v => genericVa v o.ab o.off) (generic (memSize o.mt) .write) whole (memSize o.mt)
      (fun v => storeData v (.reg (.v (finOf 256 (indexed o v)))) o.mt)) ∧
    (∃ (o : OpAfMem) (r : Reg), o.ab = .reg r ∧ StoresSome (.afst o) o.pred (useAf o.r ++ useReg r 2)
      (fun v => Addresses v (.reg r) ∧ AfStorable v o.r) (fun v => genericVa v (.reg r) o.off) (generic 64 .write) quarters 16
      (fun v => afBitsAt v o.r)) ∧
    (∃ (o : OpAfMem) (s : State) (c : Ctx), (∀ r, o.ab ≠ .reg r) ∧ Issues (.afst o) (useAf o.r) s c ∧
      AllReady s c o.pred (fun v => (threadOf v.g v.lane).act.isSome = true ∧ o.off.toNat % 64 = 0 ∧ o.off.toNat ≤ 192 ∧
        o.off.toNat / 4 + 16 ≤ stateSize v ∧ AfStorable v o.r)) ∧
    (∃ (o : OpN) (s : State) (c : Ctx) (x : Spot) (pa : Nat), Issues (.red o) (useSrc o.a 2 ++ useSrc o.b (tagRegs o.t)) s c ∧
      activeLanes c o.pred = [x.lane] ∧
      let v := viewOf c s (activeLanes c o.pred) x.lane
      Addresses v o.a ∧ Readable v o.t o.b ∧ x.va = genericVa v o.a 0#19 ∧ isPrivate x.va = false ∧
      Placed (generic (atomSize o.t) .write) s c x ∧ x.place = .phys [(pa, atomSize o.t)] ∧ releases o.ord = true ∧
      c.g.sweepMark = none ∧ quiet s c.gid c.g [x.lane] = true ∧ (blockOf s c.g.block).buffer = [] ∧
      (∀ k, mfind s.owner (lineOf pa) = some k → k = c.g.core) ∧ buffers s c.g x.pt false = false) := by
  refine ⟨⟨mAt (.reg (.v 8)), stores_some (by decide +kernel) (by decide +kernel) (by
      rintro l (rfl | rfl) <;> exact ⟨addresses_of (by decide +kernel), store_of (by decide +kernel)⟩) (by decide +kernel) (by decide +kernel)⟩,
    ⟨mAt (.reg (.v 8)), contained, cMem, _, lanes_at ctx_contained (by decide +kernel) (by decide +kernel) (by
      rintro l (rfl | rfl) <;> exact ⟨addresses_of (by decide +kernel), store_of (by decide +kernel)⟩) (by decide +kernel), rfl,
      fun x hx => ?_, by decide +kernel, by decide +kernel⟩,
    ⟨{ mAt (.reg (.v 8)) with ab := .reg (.v 6), sc := .blk, mt := .n8 }, stores_some (by decide +kernel) (by decide +kernel) (by
      rintro l (rfl | rfl) <;> exact ⟨counts_of (by decide +kernel), store_of (by decide +kernel)⟩) (by decide +kernel) (by decide +kernel)⟩,
    ⟨mxAt, stores_some (by decide +kernel) (by decide +kernel) (by
      rintro l (rfl | rfl) <;> exact ⟨addresses_of (by decide +kernel), index_of (by decide +kernel), store_of (by decide +kernel)⟩)
      (by decide +kernel) (by decide +kernel)⟩,
    ⟨⟨pt, 0, .reg (.v 4), .part, .plain, .norm, 64#19⟩, _, rfl, stores_some (by decide +kernel) (by decide +kernel) (by
      rintro l (rfl | rfl) <;> exact ⟨addresses_of (by decide +kernel), af_regs_of (by decide +kernel)⟩) (by decide +kernel) (by decide +kernel)⟩,
    ⟨⟨pt, 0, .const .zero, .blk, .plain, .norm, 0#19⟩, windowed, cWindowed, by simp, issues_of ctx_windowed (by decide +kernel),
      all_ready (by decide +kernel) (by rintro l (rfl | rfl) <;>
        exact ⟨by decide +kernel, by decide, by decide, by decide +kernel, af_regs_of (by decide +kernel)⟩)⟩,
    ⟨{ nAt (.v 0) with ord := .rel }, oneMem, cOneMem, placeAt (generic 4 .write) oneMem cOneMem 0 0x200000#64, 0x200000,
      issues_of ctx_oneMem (by decide +kernel), by decide +kernel, addresses_of (by decide +kernel), readable_of (by decide +kernel),
      by decide +kernel, by decide +kernel, placed_of (by decide +kernel), by decide +kernel, rfl, by decide +kernel, by decide +kernel,
      by decide +kernel, fun k h => by simp [oneMem, mem2, issuing, placedLaunch, State.reset, mfind] at h, by decide +kernel⟩⟩
  have h : ∀ x ∈ pieces whole (fun v => storeData v (.reg (.v 8)) .b32) contained cMem (activeLanes cMem pt)
        (spots (generic (memSize MemType.b32) .write) contained cMem (fun v => genericVa v (.reg (.v 4)) 0#19)),
      mustWait contained cMem x = false ∧ heldB contained cMem x = true ∧ (x.place = .phys [(0x200000, 4)] ∨ x.place = .phys [(0x200040, 4)]) := by decide +kernel
  exact ⟨(h x hx).1, (h x hx).2.1, (h x hx).2.2.elim (fun e => ⟨_, e⟩) (fun e => ⟨_, e⟩)⟩

theorem witness_FencesAndCacheControl :
    (∃ (o : OpIxset) (s : State) (c : Ctx), Issues (.ixset o) (useSrc o.a ++ useSrc o.b) s c ∧ AllReady s c o.pred (fun v =>
      Readable v .n32 o.a ∧ Readable v .n32 o.b ∧ srcBits v .n32 o.a ≤ 255 ∧ srcBits v .n32 o.b ≤ 255)) ∧
    (∃ (o : OpFence) (s : State) (c : Ctx), Issues (.fence o) [] s c ∧ activeLanes c o.pred ≠ [] ∧ c.g.sweepMark = none ∧
      quiet s c.gid c.g (activeLanes c o.pred) = true) ∧
    (∃ o : OpPref, Somewhere (.pref o) false o.pred (useSrc o.ab 2) (fun _ => True)) ∧
    (∃ (o : OpCctl) (s : State) (c : Ctx), Issues (.cctl o) (useSrc o.ab 2) s c ∧ (blockOf s c.g.block).buffer = [] ∧
      (coreOf s c.g.core).held.Pairwise (fun x y => x.1 < y.1) ∧
      (∀ k ∈ quadCores s c.g.core, k ≠ c.g.core → ∀ pa, mfind (coreOf s k).held pa ≠ none → mfind (coreOf s c.g.core).held pa = none) ∧
      o.cop.val < 2 ∧ ∃ xs : List Spot, xs.map Spot.lane = activeLanes c o.pred ∧ xs ≠ [] ∧ ∀ x ∈ xs,
        Addresses (viewOf c s (activeLanes c o.pred) x.lane) o.ab ∧
          x.va = genericVa (viewOf c s (activeLanes c o.pred) x.lane) o.ab o.off ∧
          generic 1 .read s c.g x.lane x.va = .at x.place x.pt x.commons) ∧
    (∃ (o : OpCctl) (s : State) (c : Ctx), Issues (.cctl o) (useSrc o.ab 2) s c ∧ (blockOf s c.g.block).buffer = [] ∧ o.cop = 3 ∧
      (coreOf s c.g.core).held = [] ∧ activeLanes c o.pred ≠ []) := by
  refine ⟨⟨⟨pt, .reg (.v 8), .imm 5, 2⟩, two, cTwo, issues_of ctx_two (by decide +kernel), all_ready (by decide +kernel) (by
      rintro l (rfl | rfl) <;> exact ⟨readable_of (by decide +kernel), readable_of (by decide +kernel), by decide +kernel, by decide +kernel⟩)⟩,
    ⟨⟨pt, .part, .ar⟩, two, cTwo, issues_of ctx_two (by decide +kernel), by decide +kernel, by decide +kernel, by decide +kernel⟩,
    ⟨⟨pt, .reg (.v 4), .core, .norm, 0#19⟩, somewhere_v rfl (by decide +kernel) (by decide +kernel) (fun _ _ => trivial)⟩,
    ⟨⟨pt, 0, .reg (.v 4), .blk, .norm, 0#19⟩, oneMem, cOneMem, issues_of ctx_oneMem (by decide +kernel), by decide +kernel,
      by decide +kernel, fun k _ _ pa _ => by rfl, by decide,
      [placeAt (generic 1 .read) oneMem cOneMem 0 0x200000#64], by decide +kernel, by simp, fun x hx => ?_⟩,
    ⟨⟨pt, 3, .reg (.v 0), .blk, .norm, 0#19⟩, two, cTwo, issues_of ctx_two (by decide +kernel), by decide +kernel, rfl,
      by decide +kernel, by decide +kernel⟩⟩
  rw [List.mem_singleton.mp hx]
  exact ⟨addresses_of (by decide +kernel), by decide +kernel, by decide +kernel⟩

end Sys2Proof.Tests

/-! ## Symbols, predicates, branches and barriers -/

namespace Sys2Proof.Tests

open Machine Claims

/-- A group of two threads, of which lane 0 waits for a symbol, with the next chunk of its launch. -/
def waiting (next : Nat) : State :=
  { two with
    launches := [(1, { rcd := placedRecord, level := 1, nextBlock := 1, symS := 64, symNext := next })]
    groups := [(3, { block := 2, launch := 1,
                     threads := [(0, { thr {} with run := .blocked (.draw true) }), (1, thr {})] })] }

theorem witness_Symbols :
    (∃ (o : OpAfSym) (s : State) (c : Ctx), Issues (.afsym o) (useReg o.d ++ useSrc o.a) s c ∧ predVal c.g.uni.q o.pred = true ∧
      let v := viewOf c s c.gang (lowest c.gang)
      Readable v .n32 o.a ∧ o.sop = 2 ∧ 1 < srcBits v .n32 o.a) ∧
    (∃ (o : OpAfSym) (s : State) (c : Ctx), Issues (.afsym o) (useReg o.d ++ useSrc o.a) s c ∧ predVal c.g.uni.q o.pred = true ∧
      let v := viewOf c s c.gang (lowest c.gang)
      let l := launchOf s c.g.launch
      Readable v .n32 o.a ∧ o.sop = 0 ∧ l.symNext = 1 ∧ srcBits v .n32 o.a = 1) ∧
    (∃ (o : OpAfSym) (s : State) (c : Ctx), Issues (.afsym o) (useReg o.d ++ useSrc o.a) s c ∧ predVal c.g.uni.q o.pred = true ∧
      o.sop = 1 ∧ (launchOf s c.g.launch).symNext ≤ (launchOf s c.g.launch).symS) ∧
    (∃ (s : State) (gid : Nat) (g : Group), mfind s.groups gid = some g ∧ (∃ e ∈ g.threads, drawing e.2 = true) ∧
      g.threads.Pairwise (fun x y => x.1 < y.1) ∧ g.where_ = .resident ∧ (coreOf s g.core).stopped = false ∧ g.afnext = 0 ∧
      (launchOf s g.launch).symNext = 33 ∧ (launchOf s g.launch).symS = 64) ∧
    (∃ (s : State) (gid : Nat) (g : Group), mfind s.groups gid = some g ∧ (∃ e ∈ g.threads, drawing e.2 = true) ∧
      g.threads.Pairwise (fun x y => x.1 < y.1) ∧ g.where_ = .resident ∧ (coreOf s g.core).stopped = false ∧ g.afnext = 0 ∧
      (launchOf s g.launch).symS < (launchOf s g.launch).symNext) ∧
    (∃ (s : State) (gid : Nat) (g : Group), mfind s.groups gid = some g ∧ (∃ e ∈ g.threads, drawing e.2 = true) ∧
      g.threads.Pairwise (fun x y => x.1 < y.1) ∧ g.where_ = .resident ∧ (coreOf s g.core).stopped = false ∧ g.afnext ≠ 0) :=
  ⟨⟨⟨pt, .k 8, .reg (.k 4), 2⟩, two, cTwo, issues_of ctx_two (by decide +kernel), by decide +kernel, readable_of (by decide +kernel), rfl,
      by decide +kernel⟩,
    ⟨⟨pt, .k 8, .imm 1, 0⟩, two, cTwo, issues_of ctx_two (by decide +kernel), by decide +kernel, readable_of (by decide +kernel), rfl,
      by decide +kernel, by decide +kernel⟩,
    ⟨⟨pt, .k 8, .reg (.v 0), 1⟩, two, cTwo, issues_of ctx_two (by decide +kernel), by decide +kernel, rfl, by decide +kernel⟩,
    ⟨waiting 33, 3, _, rfl, by decide +kernel, by decide +kernel, rfl, by decide +kernel, rfl, by decide +kernel, by decide +kernel⟩,
    ⟨waiting 65, 3, _, rfl, by decide +kernel, by decide +kernel, rfl, by decide +kernel, rfl, by decide +kernel⟩,
    ⟨modGroup (waiting 65) 3 (fun g => { g with afnext := 40 }), 3, groupOf (modGroup (waiting 65) 3 (fun g => { g with afnext := 40 })) 3, by decide +kernel,
      by decide +kernel, by decide +kernel, by decide +kernel, by decide +kernel, by decide +kernel⟩⟩

/-- The predicates p1 and q1, which are false. -/
def pf : Pred := ⟨false, 1⟩

theorem witness_FalsePredicates :
    (∃ (i : Instr) (p : Pred) (s : State) (c : Ctx), threadPred i = some p ∧ ctxOf s = some c ∧ wfInstr i = true ∧
      onceFor i = false ∧ activeLanes c p = [] ∧ (∀ l, (threadOf c.g l).wwait = none)) ∧
    (∃ (i : Instr) (p : Pred) (s : State) (c : Ctx), threadPred i = some p ∧ ctxOf s = some c ∧ wfInstr i = true ∧
      onceFor i = true ∧ predVal c.g.uni.q p = false) := by
  refine ⟨⟨.st { mAt (.reg (.v 8)) with pred := pf }, pf, two, cTwo, rfl, ctx_two, by decide +kernel, rfl, by decide +kernel, fun l => ?_⟩,
    ⟨.ld { mAt (.reg (.k 8)) with pred := pf, ab := .reg (.k 4) }, pf, two, cTwo, rfl, ctx_two, by decide +kernel, rfl, by decide +kernel⟩⟩
  match l with
  | 0 | 1 => rfl
  | n + 2 => rfl

theorem witness_IllegalWordsTrap :
    ∃ (i : Instr) (s : State) (c : Ctx), i.isWord = true ∧ ctxOf s = some c ∧ wfInstr i = false :=
  ⟨.iadd (a2 .f32), two, cTwo, rfl, ctx_two, by decide +kernel⟩

/-- A thread at the last word of its block, with v4 the block, v6 a word that is no header, and v20 its stack pointer. -/
def lastThr (sp : Word) : Thread :=
  { thr { v := [(4, ⟨0x100000#32, .b32⟩), (6, ⟨0x200000#32, .b32⟩), (20, ⟨64#32, .b32⟩), (21, ⟨sp, .b32⟩)], p := 1#7 } with
    hword := BitVec.ofNat 64 (0xFF * 2 ^ 56 + 2 ^ 48 + 2 ^ 37) }

/-- Two such threads, with private memory, and the block's address in both lanes' private offset 64. -/
def branching (sp : Word) : State :=
  let s := issuing [(0, lastThr sp), (1, lastThr sp)] {} [0, 1]
  { s with
    launches := [(1, { rcd := placedRecord + BitVec.ofNat 1024 (1024 * 2 ^ 353 + 0x300000 * 2 ^ 384), level := 1, nextBlock := 1 })]
    mem := putBytes s.mem (0x300000 + 16 * 512) (bytesOf 8 0x0010000000100000) }
def cBranch (sp : Word) : Ctx := ⟨3, groupOf (branching sp) 3, [0, 1], 0x100008#64⟩
theorem ctx_branch (sp : Word) : ctxOf (branching sp) = some (cBranch sp) := by rfl

/-- The same with p0 true in lane 0 alone. -/
def diverging : State :=
  { branching 0#32 with
    groups := [(3, { block := 2, launch := 1, threads := [(0, lastThr 0#32), (1, { lastThr 0#32 with rf := {} })] })] }

/-- The same in a block with another header word. -/
def headed (w : Nat) : State :=
  { branching 0#32 with
    groups := [(3, { block := 2, launch := 1, threads := [(0, { lastThr 0#32 with hword := BitVec.ofNat 64 w }), (1, { lastThr 0#32 with rf := {}, hword := BitVec.ofNat 64 w })] })] }
def cHeaded (w : Nat) : Ctx := ⟨3, groupOf (headed w) 3, [0, 1], 0x100008#64⟩
theorem ctx_headed (w : Nat) : ctxOf (headed w) = some (cHeaded w) := by rfl

/-- The word at the private window. -/
def spOk : Word := 0xFD000000#32

theorem gang_forall {Q : Nat → Prop} {xs : List Nat} (h : xs = [0, 1]) (h0 : Q 0) (h1 : Q 1) : ∀ l ∈ xs, Q l := by
  subst h
  simp [h0, h1]

theorem only_zero {Q : Nat → Prop} {xs : List Nat} (h : xs = [0]) (h0 : Q 0) : ∀ l ∈ xs, Q l := by
  subst h
  simp [h0]

theorem not_diverges {c : Ctx} {goes : Nat → Bool} {dest : Nat → DWord} (h : c.gang = [0, 1])
    (he : afterJump c goes dest 0 = afterJump c goes dest 1) : ¬ Diverges c goes dest := by
  rintro ⟨l, hl, k, hk, hn⟩
  simp only [h, List.mem_cons, List.not_mem_nil, or_false] at hl hk
  rcases hl with rfl | rfl <;> rcases hk with rfl | rfl <;> simp [he] at hn

theorem placed_pair {loc : Locator} {s : State} {c : Ctx} {va : Nat → DWord} {Q : Spot → Prop}
    (h0 : Q (placeAt loc s c 0 (va 0))) (h1 : Q (placeAt loc s c 1 (va 1))) :
    ∀ x ∈ [0, 1].map (fun l => placeAt loc s c l (va l)), Q x := by
  simp [h0, h1]

theorem witness_ControlTransfers :
    (∃ (o : OpBra) (s : State) (c : Ctx), Issues (.bra o) [] s c ∧
      let lanes := c.gang.filter (taken c o.qpred o.pred)
      let dest := c.pc + o.disp.signExtend 64 * 8#64
      lanes ≠ [] ∧ atLast (threadOf c.g (lowest c.gang)) = true ∧ targetOf s c dest = .ok ∧ MayGo c s (taken c o.qpred o.pred) (fun _ => dest)) ∧
    (∃ (o : OpBra) (s : State) (c : Ctx), Issues (.bra o) [] s c ∧ Diverges c (taken c o.qpred o.pred) (fun _ => c.pc + o.disp.signExtend 64 * 8#64) ∧
      atLast (threadOf c.g (lowest c.gang)) = true ∧ targetOf s c (c.pc + o.disp.signExtend 64 * 8#64) = .ok ∧
      MayGo c s (taken c o.qpred o.pred) (fun _ => c.pc + o.disp.signExtend 64 * 8#64)) ∧
    (∃ (o : OpBri) (s : State) (c : Ctx), Issues (.bri o) (useReg o.a 2) s c ∧
      let lanes := c.gang.filter (taken c o.qpred o.pred)
      atLast (threadOf c.g (lowest c.gang)) = true ∧ lanes ≠ [] ∧ ∀ l ∈ lanes, let v := viewOf c s lanes l
        Addresses v (.reg o.a) ∧ targetOf s c (BitVec.ofNat 64 (pairBits v (.reg o.a))) = .bad) ∧
    (∀ ok : Bool, ∃ (o : OpBri) (s : State) (c : Ctx), Issues (.bri o) (useReg o.a 2) s c ∧ atLast (threadOf c.g (lowest c.gang)) = false ∧
      let lanes := c.gang.filter (taken c o.qpred o.pred)
      (∀ l ∈ lanes, Addresses (viewOf c s lanes l) (.reg o.a)) ∧
      (lanes.filter (fun l => targetOf s c (BitVec.ofNat 64 (pairBits (viewOf c s lanes l) (.reg o.a))) == .bad) = [] ↔ ok = true)) ∧
    (∃ (o : OpBra) (s : State) (c : Ctx), Issues (.bra o) [] s c ∧ Diverges c (taken c o.qpred o.pred) (fun _ => c.pc + o.disp.signExtend 64 * 8#64) ∧
      atLast (threadOf c.g (lowest c.gang)) = true ∧ targetOf s c (c.pc + o.disp.signExtend 64 * 8#64) = .ok ∧ hdrDiv (headOf c) = false) ∧
    (∃ (o : OpCall) (s : State) (c : Ctx) (xs : List Spot) (d : BitVec 32), Issues (.call o) (useCall o) s c ∧ o.target = .direct d ∧
      atLast (threadOf c.g (lowest c.gang)) = true ∧ activeLanes c o.pred ≠ [] ∧
      let v (l : Nat) : View := viewOf c s (activeLanes c o.pred) l
      let dest := c.pc + d.signExtend 64 * 8#64
      (∀ l ∈ activeLanes c o.pred, Addresses (v l) (.reg o.sp) ∧ targetOf s c dest = .ok) ∧ xs.map Spot.lane = activeLanes c o.pred ∧
      (∀ x ∈ xs, x.va = BitVec.ofNat 64 (pairBits (v x.lane) (.reg o.sp)) - 8#64 ∧ StackSlot s c .write x) ∧
      MayGo c s (fun l => predVal (threadOf c.g l).rf.p o.pred) (fun _ => dest) ∧ (blockOf s c.g.block).buffer = []) ∧
    (∃ (o : OpR) (s : State) (c : Ctx) (xs : List Spot), Issues (.ret o) (useReg o.a 2) s c ∧
      atLast (threadOf c.g (lowest c.gang)) = true ∧ activeLanes c o.pred ≠ [] ∧
      let v (l : Nat) : View := viewOf c s (activeLanes c o.pred) l
      let dest (l : Nat) : DWord := match xs.find? (fun x => x.lane == l) with
        | some x => BitVec.ofNat 64 (readPlace s (groupOf s c.gid) x.place 8)
        | none => 0#64
      c.gang.Nodup ∧ xs.map Spot.lane = activeLanes c o.pred ∧
      (∀ l ∈ activeLanes c o.pred, Addresses (v l) (.reg o.a) ∧ targetOf s c (dest l) = .ok) ∧
      (∀ x ∈ xs, x.va = BitVec.ofNat 64 (pairBits (v x.lane) (.reg o.a)) ∧ StackSlot s c .read x ∧
        ∀ line ∈ placeLines x.place, line ∉ s.poison) ∧
      MayGo c s (fun l => predVal (threadOf c.g l).rf.p o.pred) dest) ∧
    (∃ (o : OpCall) (s : State) (c : Ctx) (d : BitVec 32), Issues (.call o) (useCall o) s c ∧ o.target = .direct d ∧
      atLast (threadOf c.g (lowest c.gang)) = true ∧ targetOf s c (c.pc + d.signExtend 64 * 8#64) = .ok ∧
      MayGo c s (fun l => predVal (threadOf c.g l).rf.p o.pred) (fun _ => c.pc + d.signExtend 64 * 8#64) ∧
      let v (l : Nat) : View := viewOf c s (activeLanes c o.pred) l
      (∀ l ∈ activeLanes c o.pred, Addresses (v l) (.reg o.sp)) ∧
      (activeLanes c o.pred).filter (fun l => !isPrivate (BitVec.ofNat 64 (pairBits (v l) (.reg o.sp)) - 8#64)) ≠ []) ∧
    (∃ (o : OpR) (s : State) (c : Ctx), Issues (.ret o) (useReg o.a 2) s c ∧ atLast (threadOf c.g (lowest c.gang)) = true ∧
      let v (l : Nat) : View := viewOf c s (activeLanes c o.pred) l
      (∀ l ∈ activeLanes c o.pred, Addresses (v l) (.reg o.a)) ∧
      (activeLanes c o.pred).filter (fun l => !isPrivate (BitVec.ofNat 64 (pairBits (v l) (.reg o.a)))) ≠ []) ∧
    (∃ s c, ctxOf s = some c ∧ activeLanes c pt ≠ []) := by
  refine ⟨⟨⟨pt, false, 0xFFFFFFFF#32⟩, branching 0#32, cBranch 0#32, issues_of (ctx_branch _) (by decide +kernel), by decide +kernel,
      by decide +kernel, by decide +kernel, fun h => absurd h (not_diverges rfl (by decide +kernel))⟩,
    ⟨⟨⟨false, 0⟩, false, 0xFFFFFFFF#32⟩, diverging, ⟨3, groupOf diverging 3, [0, 1], 0x100008#64⟩, issues_of rfl (by decide +kernel),
      ⟨0, by decide, 1, by decide, by decide +kernel⟩, by decide +kernel, by decide +kernel, fun _ => ⟨by decide +kernel, .inl (by decide +kernel)⟩⟩,
    ⟨⟨pt, false, .v 6⟩, branching 0#32, cBranch 0#32, issues_of (ctx_branch _) (by decide +kernel), by decide +kernel, by decide +kernel,
      gang_forall (by decide +kernel) ⟨addresses_of (by decide +kernel), by decide +kernel⟩ ⟨addresses_of (by decide +kernel), by decide +kernel⟩⟩,
    fun ok => ?_,
    ⟨⟨⟨false, 0⟩, false, 0xFFFFFFFF#32⟩, headed (0xFF * 2 ^ 56 + 2 ^ 48), cHeaded (0xFF * 2 ^ 56 + 2 ^ 48), issues_of (ctx_headed _) (by decide +kernel),
      ⟨0, by decide, 1, by decide, by decide +kernel⟩, by decide +kernel, by decide +kernel, by decide +kernel⟩,
    ⟨⟨pt, .v 20, .direct 0xFFFFFFFF#32⟩, branching spOk, cBranch spOk,
      [0, 1].map (fun l => placeAt (generic 8 .write) (branching spOk) (cBranch spOk) l 0xFD00000000000038#64), _,
      issues_of (ctx_branch _) (by decide +kernel), rfl, by decide +kernel, by decide +kernel,
      gang_forall (by decide +kernel) ⟨addresses_of (by decide +kernel), by decide +kernel⟩ ⟨addresses_of (by decide +kernel), by decide +kernel⟩,
      by decide +kernel, placed_pair ⟨by decide +kernel, by decide +kernel, placed_of (by decide +kernel)⟩
        ⟨by decide +kernel, by decide +kernel, placed_of (by decide +kernel)⟩,
      fun h => absurd h (not_diverges rfl (by decide +kernel)), by decide +kernel⟩,
    ⟨⟨pt, .v 20⟩, branching spOk, cBranch spOk,
      [0, 1].map (fun l => placeAt (generic 8 .read) (branching spOk) (cBranch spOk) l 0xFD00000000000040#64),
      issues_of (ctx_branch _) (by decide +kernel), by decide +kernel, by decide +kernel, by decide, by decide +kernel,
      gang_forall (by decide +kernel) ⟨addresses_of (by decide +kernel), by decide +kernel⟩ ⟨addresses_of (by decide +kernel), by decide +kernel⟩,
      placed_pair ⟨by decide +kernel, ⟨by decide +kernel, placed_of (by decide +kernel)⟩, by decide +kernel⟩
        ⟨by decide +kernel, ⟨by decide +kernel, placed_of (by decide +kernel)⟩, by decide +kernel⟩,
      fun h => absurd h (not_diverges rfl (by decide +kernel))⟩,
    ⟨⟨pt, .v 20, .direct 0xFFFFFFFF#32⟩, branching 0#32, cBranch 0#32, _, issues_of (ctx_branch _) (by decide +kernel), rfl, by decide +kernel,
      by decide +kernel, fun h => absurd h (not_diverges rfl (by decide +kernel)),
      gang_forall (by decide +kernel) (addresses_of (by decide +kernel)) (addresses_of (by decide +kernel)), by decide +kernel⟩,
    ⟨⟨pt, .v 20⟩, branching 0#32, cBranch 0#32, issues_of (ctx_branch _) (by decide +kernel), by decide +kernel,
      gang_forall (by decide +kernel) (addresses_of (by decide +kernel)) (addresses_of (by decide +kernel)), by decide +kernel⟩,
    ⟨two, cTwo, ctx_two, by decide +kernel⟩⟩
  have early {r : Reg} (hw : wfInstr (.bri ⟨⟨false, 0⟩, false, r⟩) = true) (hi : issuesB (.bri ⟨⟨false, 0⟩, false, r⟩) (useReg r 2) (headed (0xFF * 2 ^ 56 + 3 * 2 ^ 48)) (cHeaded (0xFF * 2 ^ 56 + 3 * 2 ^ 48)) = true) :=
    issues_of (ctx_headed (0xFF * 2 ^ 56 + 3 * 2 ^ 48)) hi
  cases ok
  · exact ⟨⟨⟨false, 0⟩, false, .v 6⟩, headed (0xFF * 2 ^ 56 + 3 * 2 ^ 48), cHeaded (0xFF * 2 ^ 56 + 3 * 2 ^ 48), early (by decide +kernel) (by decide +kernel), by decide +kernel,
      only_zero (by decide +kernel) (addresses_of (by decide +kernel)),
      by decide +kernel⟩
  · exact ⟨⟨⟨false, 0⟩, false, .v 4⟩, headed (0xFF * 2 ^ 56 + 3 * 2 ^ 48), cHeaded (0xFF * 2 ^ 56 + 3 * 2 ^ 48), early (by decide +kernel) (by decide +kernel), by decide +kernel,
      only_zero (by decide +kernel) (addresses_of (by decide +kernel)),
      by decide +kernel⟩

end Sys2Proof.Tests

/-! ## Barriers and sweeps -/

namespace Sys2Proof.Tests

open Machine Claims

/-- Two threads of a block, of which a second group waits at barrier 1 (`there`) or runs; stores of the core pend. -/
def barring (there : Bool) (pend : Nat) : State :=
  { two with
    cores := [(0, { stPend := pend })]
    groups := [(3, { block := 2, launch := 1, threads := [(0, thr {}), (1, thr {})] }),
               (4, { block := 2, launch := 1, threads := [(0, { thr {} with run := if there then .blocked (.bar 1) else .ready })] })] }
def cBarring (there : Bool) (pend : Nat) : Ctx := ⟨3, groupOf (barring there pend) 3, [0, 1], 0x100008#64⟩
theorem ctx_barring (there : Bool) (pend : Nat) : ctxOf (barring there pend) = some (cBarring there pend) := by rfl

/-- What `Barriers` asks of a state, for one `BAR`. -/
def BarsAt (o : OpBar) (s : State) (c : Ctx) (b : Block) : Prop :=
  ctxOf s = some c ∧ wfInstr (.bar o) = true ∧ activeLanes c o.pred ≠ [] ∧ c.g.activation = false ∧ mfind s.blocks c.g.block = some b ∧
    s.groups.Pairwise (fun x y => x.1 < y.1) ∧ (∀ gid, ((groupOf s gid).threads.map Prod.fst).Nodup) ∧
    (∀ l ∈ c.gang, ∃ th, (l, th) ∈ c.g.threads ∧ th.run = .ready) ∧
    (∀ g ∈ (mget {} b.bars o.n.val).arrived, g ∈ liveGroups s c.g.block) ∧ (mget {} b.bars o.n.val).arrived.Nodup ∧ c.g.sweepMark = none

theorem bars_at (there : Bool) (pend : Nat) :
    BarsAt ⟨pt, false, 1⟩ (barring there pend) (cBarring there pend) { launch := 1, cores := [0] } := by
  refine ⟨ctx_barring .., by decide +kernel, by
      cases there
      · exact (by decide +kernel : activeLanes (cBarring false 0) pt ≠ [])
      · exact (by decide +kernel : activeLanes (cBarring true 0) pt ≠ []), rfl, rfl, by
      cases there
      · exact (by decide +kernel : (barring false 0).groups.Pairwise (fun x y => x.1 < y.1))
      · exact (by decide +kernel : (barring true 0).groups.Pairwise (fun x y => x.1 < y.1)), fun gid => ?_,
    gang_forall rfl ⟨thr {}, by simp [cBarring, barring, groupOf, mget, mfind], rfl⟩ ⟨thr {}, by simp [cBarring, barring, groupOf, mget, mfind], rfl⟩,
    by simp [mget, mfind], by simp [mget, mfind], rfl⟩
  by_cases h3 : gid = 3
  · subst h3; simp [barring, groupOf, mget, mfind]
  · by_cases h4 : gid = 4
    · subst h4; simp [barring, groupOf, mget, mfind]
    · have : groupOf (barring there pend) gid = {} := by
        simp [barring, groupOf, mget, mfind, h3, h4]
      simp [this]

theorem witness_Barriers :
    (∃ o s c b, BarsAt o s c b ∧ quiet s c.gid c.g (activeLanes c o.pred) = false) ∧
    (∃ o s c b, BarsAt o s c b ∧ quiet s c.gid c.g (activeLanes c o.pred) = true ∧ ∃ gid ∈ liveGroups s c.g.block, gid ≠ c.gid ∧
      gid ∉ (mget {} b.bars o.n.val).arrived ∧ ¬ Arrived (groupOf s gid).threads o.n.val (fun _ _ => False)) ∧
    (∃ o s c b, BarsAt o s c b ∧ quiet s c.gid c.g (activeLanes c o.pred) = true ∧ ∀ gid ∈ liveGroups s c.g.block,
      (gid = c.gid ∧ Arrived (groupOf s gid).threads o.n.val (fun l _ => l ∈ activeLanes c o.pred)) ∨
      (gid ≠ c.gid ∧ Arrived (groupOf s gid).threads o.n.val (fun _ _ => False))) := by
  refine ⟨⟨_, _, _, _, bars_at true 1, by decide +kernel⟩, ⟨_, _, _, _, bars_at false 0, by decide +kernel, 4, by decide +kernel, by decide, by decide, ?_⟩,
    ⟨_, _, _, _, bars_at true 0, by decide +kernel, ?_⟩⟩
  · intro h
    have := h (0, { thr {} with run := .ready }) (by simp [barring, groupOf, mget, mfind]) (by simp)
    simp [thr] at this
  · have h : liveGroups (barring true 0) 2 = [3, 4] := by decide +kernel
    have ha : activeLanes (cBarring true 0) pt = [0, 1] := by decide +kernel
    intro gid hg
    change gid ∈ liveGroups (barring true 0) 2 at hg
    simp only [h, List.mem_cons, List.not_mem_nil, or_false] at hg
    rcases hg with rfl | rfl
    · refine .inl ⟨rfl, fun e he _ => .inr (.inr ?_)⟩
      simp only [barring, groupOf, mget, mfind] at he
      rw [ha]
      simp at he
      rcases he with rfl | rfl <;> simp
    · refine .inr ⟨by decide, fun e he _ => .inl ?_⟩
      simp [barring, groupOf, mget, mfind] at he
      rw [he]
      rfl

end Sys2Proof.Tests

namespace Sys2Proof.Tests

open Machine Claims

/-- A sweep of three iterations, its operands at k16, k18 and k20. -/
def sweepWord (t : Tag) (mod : Fin 16) (std st1 st2 : Fin 8) : OpV := ⟨3, t, 8, std, 9, st1, 10, st2, mod⟩

/-- The registers of its operands, from the base of the destination. -/
def sweepK (w : Word) : Map Val := [(16, ⟨w, .n32⟩), (18, ⟨0x2000#32, .b32⟩), (20, ⟨0x3000#32, .s32⟩)]
def sweepRegs (w : Word) : Map Word := [(16, w), (18, 0x2000#32), (20, 0x3000#32)]

/-- Two threads about to issue it. -/
def sweepIssue (w : Word) (mark : Option DWord) : State :=
  { two with
    groups := [(3, { block := 2, launch := 1, threads := [(0, thr {}), (1, thr {})], uni := { k := sweepK w }, sweepMark := mark })] }
def cSweepIssue (w : Word) (mark : Option DWord) : Ctx := ⟨3, groupOf (sweepIssue w mark) 3, [0, 1], 0x100008#64⟩
theorem ctx_sweepIssue (w : Word) (mark : Option DWord) : ctxOf (sweepIssue w mark) = some (cSweepIssue w mark) := by rfl

/-- Registers that an engine can capture. -/
def captureB (v : View) (n : Nat) : Bool := [Tag.void, .b32, .n32, .s32].contains (readReg v (.k (finOf 1024 n))).tag

theorem captures_of {v : View} {ns : List Nat} (h : ns.all (captureB v) = true) : ∀ n ∈ ns, Captures v n := by
  intro n hn
  have := List.all_eq_true.mp h n hn
  simpa [captureB, Captures] using this

/-- What `SweepsAreAcceptedAndRun` asks of a sweep at issue, and its registers. -/
def SweepAt (i : Instr) (op : SweepOp) (o : OpV) (s : State) (c : Ctx) (r : Map Word) : Prop :=
  let v := viewOf c s c.gang (lowest c.gang)
  let ns := (sweepReads op o).map Prod.fst
  Issues i (useSweep op o) s c ∧ (∀ n ∈ ns, Captures v n) ∧
    ∀ n, capReg r n = if n ∈ ns then BitVec.ofNat 32 (regBits (readReg v (.k (finOf 1024 n)))) else 0#32

theorem sweep_at (i : Instr) (op : SweepOp) (o : OpV) (w : Word) (mark : Option DWord)
    (h : issuesB i (useSweep op o) (sweepIssue w mark) (cSweepIssue w mark) = true) (hn : (sweepReads op o).map Prod.fst = [16, 18, 20])
    (hw : regBits (readReg (viewOf (cSweepIssue w mark) (sweepIssue w mark) [0, 1] 0) (.k 16)) = w.toNat) :
    SweepAt i op o (sweepIssue w mark) (cSweepIssue w mark) (sweepRegs w) := by
  refine ⟨issues_of (ctx_sweepIssue ..) h, ?_, fun n => ?_⟩
  · rw [hn]; exact captures_of (by rfl)
  · rw [hn]
    by_cases h16 : n = 16
    · subst h16
      show w = _
      have : BitVec.ofNat 32 (regBits (readReg (viewOf (cSweepIssue w mark) (sweepIssue w mark) [0, 1] 0) (.k 16))) = w := by
        rw [hw]; simp
      exact this.symm
    · by_cases h18 : n = 18
      · subst h18; rfl
      · by_cases h20 : n = 20
        · subst h20; rfl
        · simp [sweepRegs, capReg, mget, mfind, h16, h18, h20]

/-- A core that runs a sweep. -/
def sweepOn (code : Nat) (o : OpV) (started : Bool) (r : Map Word) : Sweep :=
  { cap := { id := 7, group := 3, block := 2, pc := 0x100008#64, op := code, regs := r }, word := o, started := started }
def sweepRun (code : Nat) (o : OpV) (started : Bool) (r : Map Word) : State :=
  { two with cores := [(0, { sweeps := [sweepOn code o started r] })] }

theorem sweeping_of {code : Nat} {o : OpV} {r : Map Word} (mk : OpV → Instr) (hi : (mk o, code) ∈ sweepRows o) (hw : wfInstr (mk o) = true)
    (hc : 0 < o.cnt.val) (hs : (spansOf (sweepOpOf code o.mod.val) o r).all (fun x => x.inside o.cnt.val (2 ^ 19)) = true) :
    Sweeping (sweepRun code o true r) 0 (sweepOn code o true r) [] :=
  ⟨rfl, rfl, rfl, rfl, fun x hx => List.all_eq_true.mp hs x hx, Nat.zero_le _, hc, ⟨mk o, hi, hw⟩, .inl rfl, by simp [sweepOn]⟩

theorem witness_SweepsAreAcceptedAndRun :
    (∃ (o : OpV) (s : State) (c : Ctx) (r : Map Word) (a : DWord), SweepAt (.vadd o) .add o s c r ∧ c.g.sweepMark = some a) ∧
    (∃ (o : OpV) (s : State) (c : Ctx) (r : Map Word) (x : Span), SweepAt (.vadd o) .add o s c r ∧ c.g.sweepMark = none ∧
      (spansOf .add o r).find? (fun x => !x.inside o.cnt.val (lrShared (launchOf s c.g.launch).rcd)) = some x) ∧
    (∃ (o : OpV) (s : State) (c : Ctx) (r : Map Word) (x : Span), SweepAt (.vadd o) .add o s c r ∧ c.g.sweepMark = none ∧
      (∀ x ∈ spansOf .add o r, x.inside o.cnt.val (lrShared (launchOf s c.g.launch).rcd) = true) ∧
      (spansOf .add o r).find? (fun x => !x.aligned) = some x) ∧
    (∃ (o : OpV) (s : State) (c : Ctx) (r : Map Word), SweepAt (.vadd o) .add o s c r ∧ c.g.sweepMark = none ∧
      (∀ x ∈ spansOf .add o r, x.inside o.cnt.val (lrShared (launchOf s c.g.launch).rcd) = true ∧ x.aligned = true) ∧ Performed s c ∧
      (coreOf s c.g.core).sweeps.length < 8) ∧
    (∃ s core w ws, (coreOf s core).sweeps = w :: ws ∧ w.started = false ∧ (coreOf s core).stopped = false) ∧
    (∃ s core w ws, (coreOf s core).sweeps = w :: ws ∧ w.started = true) := by
  refine ⟨⟨sweepWord .f32 0 1 1 1, _, _, _, 0x100000#64, sweep_at _ _ _ 0x1000#32 _ (by decide +kernel) (by decide +kernel) (by decide +kernel), rfl⟩,
    ⟨sweepWord .f32 0 1 1 1, _, _, _, ⟨0x7FC00, 512, 512, 64⟩, sweep_at _ _ _ 0x7FC00#32 none (by decide +kernel) (by decide +kernel) (by decide +kernel), rfl, by decide +kernel⟩,
    ⟨sweepWord .f32 0 1 1 1, _, _, _, ⟨0x1004, 512, 512, 64⟩, sweep_at _ _ _ 0x1004#32 none (by decide +kernel) (by decide +kernel) (by decide +kernel), rfl,
      by decide +kernel, by decide +kernel⟩,
    ⟨sweepWord .f32 0 1 1 1, _, _, _, sweep_at _ _ _ 0x1000#32 none (by decide +kernel) (by decide +kernel) (by decide +kernel), rfl,
      by decide +kernel, fun a ha => by simp [sweepIssue, two, issuing, placedLaunch, coreOf, mget, mfind] at ha, by decide +kernel⟩,
    ⟨sweepRun 0xA0 (sweepWord .f32 0 1 1 1) false [], 0, _, _, rfl, rfl, rfl⟩,
    ⟨sweepRun 0xA0 (sweepWord .f32 0 1 1 1) true [], 0, _, _, rfl, rfl⟩⟩

/-- The registers of a table of 4 entries at k17. -/
def tableRegs : Map Word := [(16, 0x1000#32), (17, 4#32), (18, 0x2000#32), (19, 0x4000#32), (20, 0x3000#32), (21, 4#32)]

theorem witness_SweepResults :
    (∃ s core w ws, Sweeping s core w ws ∧ elementwise (sweepOpOf w.cap.op w.word.mod.val) = true) ∧
    (∃ s core w ws, Sweeping s core w ws ∧ sweepOpOf w.cap.op w.word.mod.val = .red ∧ elemWidth w.word.t = 32 ∧ w.word.mod.val < 8) ∧
    (∃ s core w ws, Sweeping s core w ws ∧ sweepOpOf w.cap.op w.word.mod.val = .red ∧ elemWidth w.word.t = 32 ∧ 8 ≤ w.word.mod.val) ∧
    (∃ s core w ws, Sweeping s core w ws ∧ sweepOpOf w.cap.op w.word.mod.val = .scan ∧ elemWidth w.word.t = 32) ∧
    (∃ s core w ws, Sweeping s core w ws ∧ sweepOpOf w.cap.op w.word.mod.val = .gth ∧ w.word.t = .b32) ∧
    (∃ s core w ws, Sweeping s core w ws ∧ sweepOpOf w.cap.op w.word.mod.val = .sct ∧ w.word.t = .b32) ∧
    (∃ s core w ws, Sweeping s core w ws ∧ sweepOpOf w.cap.op w.word.mod.val = .lrec ∧ w.word.t = .f32) ∧
    (∃ s core w ws, Sweeping s core w ws ∧ w.cap.op = 0xAA ∧ isElectrum w.word.t = true ∧ w.done < w.word.cnt.val ∧
      (mfind s.groups w.cap.group).isSome = true) ∧
    (∃ s core w ws, Sweeping s core w ws ∧ w.cap.op = 0xAA ∧ isElectrum (cvtDst w.word) = true) := by
  refine ⟨⟨_, _, _, _, sweeping_of (code := 0xA3) (o := sweepWord .bf16x2 1 1 1 1) (r := sweepRegs 0x1000#32) .vfma (by decide +kernel)
      (by decide +kernel) (by decide) (by decide +kernel), by decide +kernel⟩,
    ⟨_, _, _, _, sweeping_of (code := 0xAB) (o := ⟨3, .f32, 8, 0, 9, 1, 0, 0, 0⟩) (r := sweepRegs 0x1000#32) .vred (by decide +kernel)
      (by decide +kernel) (by decide) (by decide +kernel), by decide +kernel, by decide +kernel, by decide⟩,
    ⟨_, _, _, _, sweeping_of (code := 0xAB) (o := ⟨3, .s32, 8, 0, 9, 1, 0, 0, 8⟩) (r := sweepRegs 0x1000#32) .vred (by decide +kernel)
      (by decide +kernel) (by decide) (by decide +kernel), by decide +kernel, by decide +kernel, by decide⟩,
    ⟨_, _, _, _, sweeping_of (code := 0xAC) (o := sweepWord .n32 4 1 1 0) (r := sweepRegs 0x1000#32) .vscan (by decide +kernel)
      (by decide +kernel) (by decide) (by decide +kernel), by decide +kernel, by decide +kernel⟩,
    ⟨_, _, _, _, sweeping_of (code := 0xAD) (o := sweepWord .b32 0 1 1 0) (r := tableRegs) .vgth (by decide +kernel)
      (by decide +kernel) (by decide) (by decide +kernel), by decide +kernel, rfl⟩,
    ⟨_, _, _, _, sweeping_of (code := 0xAE) (o := sweepWord .b32 0 0 1 1) (r := tableRegs) .vsct (by decide +kernel)
      (by decide +kernel) (by decide) (by decide +kernel), by decide +kernel, rfl⟩,
    ⟨_, _, _, _, sweeping_of (code := 0xB2) (o := sweepWord .f32 0 1 1 0) (r := tableRegs) .vlrec (by decide +kernel)
      (by decide +kernel) (by decide) (by decide +kernel), by decide +kernel, rfl⟩,
    ⟨_, _, _, _, sweeping_of (code := 0xAA) (o := sweepWord .dx8x4 (finOf 16 (tagCode .f32)) 1 1 6) (r := sweepRegs 0x1000#32) .vcvt
      (by decide +kernel) (by decide +kernel) (by decide) (by decide +kernel), rfl, rfl, by decide, by decide +kernel⟩,
    ⟨_, _, _, _, sweeping_of (code := 0xAA) (o := sweepWord .f32 (finOf 16 (tagCode .dx8x4)) 5 1 6) (r := sweepRegs 0x1000#32) .vcvt
      (by decide +kernel) (by decide +kernel) (by decide) (by decide +kernel), rfl, by decide +kernel⟩⟩

end Sys2Proof.Tests

namespace Sys2Proof.Tests

open Machine Claims

/-- Commons behind the second GiB of addresses. -/
def withCommons (s : State) : State :=
  { s with
    mem := putBytes s.mem 0x20008 (bytesOf 8 0x2000000000000079)
    slices := [(0, { tlb := [⟨0, 0, 0, placedLeaf, 0, 30⟩, ⟨0, 0, 1, 0x2000000000000079#64, commonsBit, 30⟩] })]
    launches := [(1, { rcd := placedRecord + BitVec.ofNat 1024 (0x40000000 * 2 ^ 512), level := 1, nextBlock := 1 })] }

/-- Two threads about to issue a `BOP` of one iteration. -/
def bopWord : OpV := ⟨1, .f32, 8, 0, 9, 0, 10, 0, 0⟩
def bopIssue (w : Word) : State := withCommons (sweepIssue w none)
def cBopIssue (w : Word) : Ctx := ⟨3, groupOf (sweepIssue w none) 3, [0, 1], 0x100008#64⟩
theorem ctx_bopIssue (w : Word) : ctxOf (bopIssue w) = some (cBopIssue w) := by rfl

theorem bop_at (w : Word) (h : issuesB (.bop bopWord) (useSweep .add bopWord) (bopIssue w) (cBopIssue w) = true)
    (hw : regBits (readReg (viewOf (cBopIssue w) (bopIssue w) [0, 1] 0) (.k 16)) = w.toNat) :
    SweepAt (.bop bopWord) .add bopWord (bopIssue w) (cBopIssue w) (sweepRegs w) := by
  refine ⟨issues_of (ctx_bopIssue w) h, captures_of (by rfl), fun n => ?_⟩
  show _ = if n ∈ [16, 18, 20] then _ else _
  by_cases h16 : n = 16
  · subst h16
    have : BitVec.ofNat 32 (regBits (readReg (viewOf (cBopIssue w) (bopIssue w) [0, 1] 0) (.k 16))) = w := by
      rw [hw]; simp
    exact this.symm
  · by_cases h18 : n = 18
    · subst h18; rfl
    · by_cases h20 : n = 20
      · subst h20; rfl
      · simp [sweepRegs, capReg, mget, mfind, h16, h18, h20]

/-- The translations of its three operands. -/
def bopPages : Map Nat := [(0x40001, commonsBit + 0x1000), (0x40002, commonsBit + 0x2000), (0x40003, commonsBit + 0x3000)]
def bopOn : Sweep := { sweepOn 0x7E bopWord false (sweepRegs 0x1000#32) with pages := bopPages }
def bopRun : State := { bopIssue 0x1000#32 with cores := [(0, { bops := [bopOn] })] }

theorem bop_touches (a : Nat) (h : BopTouches bopOn a) : pageByte bopPages (0x40000000 + a) = commonsBit + a := by
  obtain ⟨x, hx, i, hi, h0, h1⟩ := h
  have hs : spansOf (sweepOpOf 0x7E bopOn.word.mod.val) bopOn.word bopOn.cap.regs =
      [⟨0x1000, 0, 512, 64⟩, ⟨0x2000, 0, 512, 64⟩, ⟨0x3000, 0, 512, 64⟩] := by decide +kernel
  rw [hs] at hx
  have hi : i = 0 := by
    have : i < 1 := hi
    omega
  subst hi
  simp only [List.mem_cons, List.not_mem_nil, or_false] at hx
  rcases hx with rfl | rfl | rfl <;> simp [Span.at] at h0 h1
  · have : (0x40000000 + a) / 4096 = 0x40001 := by omega
    have hm : mget 0 bopPages 0x40001 = commonsBit + 0x1000 := by decide +kernel
    rw [pageByte, this, hm]
    omega
  · have : (0x40000000 + a) / 4096 = 0x40002 := by omega
    have hm : mget 0 bopPages 0x40002 = commonsBit + 0x2000 := by decide +kernel
    rw [pageByte, this, hm]
    omega
  · have : (0x40000000 + a) / 4096 = 0x40003 := by omega
    have hm : mget 0 bopPages 0x40003 = commonsBit + 0x3000 := by decide +kernel
    rw [pageByte, this, hm]
    omega

theorem pages_ok {p : PagesAt} {m : Map Nat} (h : (match p with | .ok n => n == m | _ => false) = true) : p = .ok m := by
  cases p <;> simp at h
  rw [h]

theorem performed_of {s : State} {c : Ctx} (h : (coreOf s c.g.core).acc = []) : Performed s c := by
  intro a ha
  simp [h] at ha

theorem witness_BlockOperations :
    (∃ (o : OpV) (s : State) (c : Ctx) (r : Map Word) (x : Span), SweepAt (.bop o) .add o s c r ∧ c.g.sweepMark = none ∧
      (spansOf .add o r).find? (fun x => !x.inside o.cnt.val (2 ^ 32)) = some x) ∧
    (∃ (o : OpV) (s : State) (c : Ctx) (r : Map Word) (x : Span), SweepAt (.bop o) .add o s c r ∧ c.g.sweepMark = none ∧
      (∀ x ∈ spansOf .add o r, x.inside o.cnt.val (2 ^ 32) = true) ∧ (spansOf .add o r).find? (fun x => !x.aligned) = some x) ∧
    (∃ (o : OpV) (s : State) (c : Ctx) (r : Map Word) (m : Map Nat), SweepAt (.bop o) .add o s c r ∧ c.g.sweepMark = none ∧
      let spans := spansOf .add o r
      (∀ x ∈ spans, x.inside o.cnt.val (2 ^ 32) = true ∧ x.aligned = true) ∧
      pagesAt s c ((spans.zip (List.range spans.length)).flatMap (fun x =>
        (spanPages (lrCbase (launchOf s c.g.launch).rcd) x.1 o.cnt.val).map (fun p => (p, bopUses .add x.2))))
        (fun pa pt => !isCommons pa || pt != .normal) = .ok m ∧ Performed s c ∧ (blockOf s c.g.block).buffer = []) ∧
    (∃ s core w, (coreOf s core).bops.find? (fun x => x.cap.id == w.cap.id) = some w ∧ (coreOf s core).stopped = false ∧ s.poison = [] ∧
      held s (groupOf s w.cap.group).launch .hbm = false ∧ wfInstr (.bop w.word) = true ∧ 0 < w.word.cnt.val ∧
      (∀ x ∈ spansOf (sweepOpOf 0x7E w.word.mod.val) w.word w.cap.regs, x.inside w.word.cnt.val (2 ^ 32) = true) ∧
      let base := lrCbase (launchOf s (groupOf s w.cap.group).launch).rcd
      ∀ a b, BopTouches w a → BopTouches w b → pageByte w.pages (base + a) = pageByte w.pages (base + b) → a = b) := by
  refine ⟨⟨bopWord, _, _, _, ⟨0xFFFFFF00, 0, 512, 64⟩, bop_at 0xFFFFFF00#32 (by decide +kernel) (by decide +kernel), rfl, by decide +kernel⟩,
    ⟨bopWord, _, _, _, ⟨0x1004, 0, 512, 64⟩, bop_at 0x1004#32 (by decide +kernel) (by decide +kernel), rfl, by decide +kernel, by decide +kernel⟩,
    ⟨bopWord, _, _, _, bopPages, bop_at 0x1000#32 (by decide +kernel) (by decide +kernel), rfl, by decide +kernel, pages_ok (by decide +kernel),
      performed_of rfl, by decide +kernel⟩,
    ⟨bopRun, 0, bopOn, by decide +kernel, rfl, rfl, by decide +kernel, by decide +kernel, by decide, by decide +kernel, fun a b ha hb e => ?_⟩⟩
  have hb0 : lrCbase (launchOf bopRun (groupOf bopRun bopOn.cap.group).launch).rcd = 0x40000000 := by decide +kernel
  rw [hb0] at e
  have h1 := bop_touches a ha
  have h2 := bop_touches b hb
  change pageByte bopPages _ = pageByte bopPages _ at e
  rw [h1, h2] at e
  omega

end Sys2Proof.Tests

/-! ## Sync words and copies -/

namespace Sys2Proof.Tests

open Machine Claims

/-- Two threads about to issue a sync instruction: k8 the offset, k9 the number; a sync word of generation 5 at 0x100. -/
def syncing (off x : Word) : State :=
  { two with
    groups := [(3, { block := 2, launch := 1, threads := [(0, thr {}), (1, thr {})], uni := { k := [(8, ⟨off, .n32⟩), (9, ⟨x, .n32⟩)] } })]
    blocks := [(2, { launch := 1, cores := [0], scratch := putBytes [] 0x100 (bytesOf 8 (64 * 2 ^ 40 + 10 * 2 ^ 16 + 5 * 2)) })] }
def cSyncing (off x : Word) : Ctx := ⟨3, groupOf (syncing off x) 3, [0, 1], 0x100008#64⟩
theorem ctx_syncing (off x : Word) : ctxOf (syncing off x) = some (cSyncing off x) := by rfl

/-- The operands of its word. -/
def syncWord (mask : Fin 16) : OpQ := ⟨pt, 10, 9, 8, mask, 0, 0⟩

theorem syncs_of {i : Instr} {o : OpQ} {nd : Nat} {ks : Bool} {off x : Word} (h : issuesB i (useSync o nd ks) (syncing off x) (cSyncing off x) = true)
    (hq : predVal (cSyncing off x).g.uni.q o.pred = true)
    (hy : readableB (viewOf (cSyncing off x) (syncing off x) [0, 1] 0) .n32 (.reg (.k o.ky)) false = true)
    (hs : readableB (viewOf (cSyncing off x) (syncing off x) [0, 1] 0) .n32 (.reg (.k o.ks)) false = true) :
    Syncs i o nd ks (syncing off x) (cSyncing off x) :=
  ⟨issues_of (ctx_syncing off x) h, hq, readable_of hy, fun _ => readable_of hs, rfl⟩

/-- The two threads wait at a SYNCW with what it captured: the word at 0x100, generation x. -/
def syncAgain (x : Nat) : State :=
  let th : Thread := { thr {} with await := some { pc := 0x100008#64, vals := [0x100, x] } }
  { syncing 0#32 0#32 with groups := [(3, { block := 2, launch := 1, threads := [(0, th), (1, th)] })] }
def cSyncAgain (x : Nat) : Ctx := ⟨3, groupOf (syncAgain x) 3, [0, 1], 0x100008#64⟩

theorem tries_again (x : Nat) : TriesAgain (.syncw (syncWord 0)) (syncAgain x) (cSyncAgain x) { pc := 0x100008#64, vals := [0x100, x] } :=
  ⟨by rfl, by decide +kernel, ⟨by simp [cSyncAgain], fun l h => by
    simp only [cSyncAgain, List.mem_cons, List.not_mem_nil, or_false] at h
    rcases h with rfl | rfl <;> rfl⟩, by rfl⟩

theorem first_issue {c : Ctx} (h : (!c.gang.isEmpty && c.gang.all (fun l => (awaitOf c l).isNone)) = true) : FirstIssue c := by
  simp only [Bool.and_eq_true, List.all_eq_true, Option.isNone_iff_eq_none, Bool.not_eq_true', List.isEmpty_eq_false_iff] at h
  exact h

theorem first_syncing (off x : Word) : FirstIssue (cSyncing off x) := first_issue rfl

theorem witness_SyncWords :
    (∃ (o : OpQ) (s : State) (c : Ctx) (w : SyncWord), Syncs (.synci o) o 1 true s c ∧ SyncPlace s c (kBits c s o.ky) ∧
      kBits c s o.ks = 2 ^ 24 - 1 ∧ SyncIs s c.g.block (corePlace s c.g.block c.g.core) (kBits c s o.ky) w) ∧
    (∃ (o : OpQ) (s : State) (c : Ctx) (w : SyncWord), Syncs (.synca o) o 0 true s c ∧ o.mask = 0 ∧ SyncPlace s c (kBits c s o.ky) ∧
      kBits c s o.ks < 2 ^ 24 ∧ c.g.sweepMark = none ∧ quiet s c.gid c.g c.gang = true ∧
      SyncIs s c.g.block (corePlace s c.g.block c.g.core) (kBits c s o.ky) w) ∧
    (∃ (o : OpQ) (s : State) (c : Ctx) (ps : List Nat), Syncs (.synca o) o 0 true s c ∧ o.mask ≠ 0 ∧ SyncPlace s c (kBits c s o.ky) ∧
      kBits c s o.ks < 2 ^ 24 ∧ c.g.sweepMark = none ∧ quiet s c.gid c.g c.gang = true ∧ maskPlaces s c.g o.mask.val = some ps ∧ ps.Nodup ∧
      ps ≠ []) ∧
    (∃ (o : OpQ) (s : State) (c : Ctx) (w : SyncWord), Syncs (.syncw o) o 1 true s c ∧ FirstIssue c ∧ SyncPlace s c (kBits c s o.ky) ∧
      kBits c s o.ks < 2 ^ 15 ∧ SyncIs s c.g.block (corePlace s c.g.block c.g.core) (kBits c s o.ky) w ∧ w.gen ≠ kBits c s o.ks) ∧
    (∃ (o : OpQ) (s : State) (c : Ctx) (w : SyncWord), Syncs (.syncw o) o 1 true s c ∧ FirstIssue c ∧ SyncPlace s c (kBits c s o.ky) ∧
      kBits c s o.ks < 2 ^ 15 ∧ SyncIs s c.g.block (corePlace s c.g.block c.g.core) (kBits c s o.ky) w ∧ w.gen = kBits c s o.ks) ∧
    (∃ (o : OpQ) (s : State) (c : Ctx) (w : SyncWord) (a : Await) (off x : Nat), TriesAgain (.syncw o) s c a ∧
      a = { pc := c.pc, vals := [off, x] } ∧ off + 8 ≤ 2 ^ 19 ∧ x < 2 ^ 15 ∧
      SyncIs s c.g.block (corePlace s c.g.block c.g.core) off w ∧ w.gen ≠ x) ∧
    (∃ (o : OpQ) (s : State) (c : Ctx) (w : SyncWord) (a : Await) (off x : Nat), TriesAgain (.syncw o) s c a ∧
      a = { pc := c.pc, vals := [off, x] } ∧ off + 8 ≤ 2 ^ 19 ∧ x < 2 ^ 15 ∧
      SyncIs s c.g.block (corePlace s c.g.block c.g.core) off w ∧ w.gen = x) ∧
    (∃ (o : OpQ) (s : State) (c : Ctx), Syncs (.synct o) o 2 false s c ∧ SyncPlace s c (kBits c s o.ky)) ∧
    (∃ (o : OpQ) (s : State) (c : Ctx), Syncs (.synci o) o 1 true s c ∧ FirstIssue c ∧
      lrShared (launchOf s c.g.launch).rcd < kBits c s o.ky + 8) ∧
    (∃ (o : OpQ) (s : State) (c : Ctx) (p : Nat), Syncs (.synca o) o 0 true s c ∧ FirstIssue c ∧
      kBits c s o.ky + 8 ≤ lrShared (launchOf s c.g.launch).rcd ∧ p < 4 ∧ o.mask.val.testBit p = true ∧
      blockPos s (blockOf s c.g.block) p = none) ∧
    (∃ (o : OpQ) (s : State) (c : Ctx), Syncs (.synci o) o 1 true s c ∧ FirstIssue c ∧
      kBits c s o.ky + 8 ≤ lrShared (launchOf s c.g.launch).rcd ∧ o.mask = 0 ∧ kBits c s o.ky % 8 ≠ 0) ∧
    (∃ (o : OpQ) (s : State) (c : Ctx), Syncs (.synci o) o 1 true s c ∧ FirstIssue c ∧ o.mask = 0 ∧ kBits c s o.ky + 8 ≤ lrShared (launchOf s c.g.launch).rcd ∧
      kBits c s o.ky % 8 = 0 ∧ 2 ^ 24 - 1 < kBits c s o.ks) := by
  have hp : ∀ x : Word, kBits (cSyncing 0x100#32 x) (syncing 0x100#32 x) 8 = 0x100 → SyncPlace (syncing 0x100#32 x) (cSyncing 0x100#32 x) (kBits (cSyncing 0x100#32 x) (syncing 0x100#32 x) 8) := by
    intro x h
    rw [h]
    exact ⟨(by decide +kernel : 0x100 + 8 ≤ lrShared (launchOf (syncing 0#32 0#32) (cSyncing 0#32 0#32).g.launch).rcd), by decide, by decide⟩
  refine ⟨⟨syncWord 0, _, _, ⟨64, 10, 5, 0⟩, syncs_of (off := 0x100#32) (x := 0xFFFFFF#32) (by decide +kernel) (by decide +kernel) (by decide +kernel)
      (by decide +kernel), hp _ (by decide +kernel), by decide +kernel, by decide, by decide, by decide, by decide, by decide +kernel⟩,
    ⟨{ syncWord 0 with kd := 0 }, _, _, ⟨64, 10, 5, 0⟩, syncs_of (off := 0x100#32) (x := 54#32) (by decide +kernel) (by decide +kernel) (by decide +kernel)
      (by decide +kernel), rfl, hp _ (by decide +kernel), by decide +kernel, rfl, by decide +kernel, by decide, by decide, by decide, by decide, by decide +kernel⟩,
    ⟨{ syncWord 1 with kd := 0 }, _, _, [0], syncs_of (off := 0x100#32) (x := 54#32) (by decide +kernel) (by decide +kernel) (by decide +kernel)
      (by decide +kernel), by decide, hp _ (by decide +kernel), by decide +kernel, rfl, by decide +kernel, by decide +kernel, by decide, by decide⟩,
    ⟨syncWord 0, _, _, ⟨64, 10, 5, 0⟩, syncs_of (off := 0x100#32) (x := 4#32) (by decide +kernel) (by decide +kernel) (by decide +kernel)
      (by decide +kernel), first_syncing .., hp _ (by decide +kernel), by decide +kernel, ⟨by decide, by decide, by decide, by decide, by decide +kernel⟩, by decide +kernel⟩,
    ⟨syncWord 0, _, _, ⟨64, 10, 5, 0⟩, syncs_of (off := 0x100#32) (x := 5#32) (by decide +kernel) (by decide +kernel) (by decide +kernel)
      (by decide +kernel), first_syncing .., hp _ (by decide +kernel), by decide +kernel, ⟨by decide, by decide, by decide, by decide, by decide +kernel⟩,
      by decide +kernel⟩,
    ⟨syncWord 0, _, _, ⟨64, 10, 5, 0⟩, _, 0x100, 4, tries_again 4, rfl, by decide, by decide,
      ⟨by decide, by decide, by decide, by decide, by decide +kernel⟩, by decide⟩,
    ⟨syncWord 0, _, _, ⟨64, 10, 5, 0⟩, _, 0x100, 5, tries_again 5, rfl, by decide, by decide,
      ⟨by decide, by decide, by decide, by decide, by decide +kernel⟩, by decide⟩,
    ⟨{ syncWord 0 with ks := 0 }, _, _, syncs_of (off := 0x100#32) (x := 5#32) (by decide +kernel) (by decide +kernel) (by decide +kernel)
      (by decide +kernel), hp _ (by decide +kernel)⟩,
    ⟨syncWord 0, _, _, syncs_of (off := 0x7FFF9#32) (x := 5#32) (by decide +kernel) (by decide +kernel) (by decide +kernel)
      (by decide +kernel), first_syncing .., by decide +kernel⟩,
    ⟨{ syncWord 2 with kd := 0 }, _, _, 1, syncs_of (off := 0x100#32) (x := 5#32) (by decide +kernel) (by decide +kernel) (by decide +kernel)
      (by decide +kernel), first_syncing .., by decide +kernel, by decide, by decide, by decide +kernel⟩,
    ⟨syncWord 0, _, _, syncs_of (off := 0x104#32) (x := 5#32) (by decide +kernel) (by decide +kernel) (by decide +kernel)
      (by decide +kernel), first_syncing .., by decide +kernel, rfl, by decide +kernel⟩,
    ⟨syncWord 0, _, _, syncs_of (off := 0x100#32) (x := 0x1000000#32) (by decide +kernel) (by decide +kernel) (by decide +kernel)
      (by decide +kernel), first_syncing .., rfl, by decide +kernel, by decide +kernel, by decide +kernel⟩⟩

end Sys2Proof.Tests

namespace Sys2Proof.Tests

open Machine Claims

/-- A bf16 tensor of 16 rows of 64 at 0x200000, one box, and its slot in a partition. -/
def tensor : BitVec 512 :=
  BitVec.ofNat 512 (0x0100 + 2 * 2 ^ 20 + 63 * 2 ^ 32 + 15 * 2 ^ 40 + 64 * 2 ^ 72 + 16 * 2 ^ 96 + 8 * 2 ^ 192 + 0x200000 * 2 ^ 320)

/-- Two threads about to issue a copy: k10 its destination, k12 a handle, k13 the box, k8 the sync word. -/
def copying (d h : Word) : State :=
  { two with
    parts := [(0, { state := .running, slices := 1#16, asids := [(0, BitVec.ofNat 128 (1 + 0x10000 * 2 ^ 64))]
                    shapes := [(1, { rcd := tensor, gen := 1, live := true })] })]
    groups := [(3, { block := 2, launch := 1, threads := [(0, thr {}), (1, thr {})]
                     uni := { k := [(8, ⟨0x100#32, .n32⟩), (10, ⟨d, .n32⟩), (12, ⟨h, .n32⟩)] } })] }
def cCopying (d h : Word) : Ctx := ⟨3, groupOf (copying d h) 3, [0, 1], 0x100008#64⟩
theorem ctx_copying (d h : Word) : ctxOf (copying d h) = some (cCopying d h) := by rfl

def copyWord (dir : Fin 4) : OpQ := ⟨pt, 10, 12, 8, 0, dir, 0⟩

/-- What `Copies` asks of a copy at issue. -/
def CopyAt (i : Instr) (op : Nat) (o : OpQ) (s : State) (c : Ctx) : Prop :=
  (i, op) ∈ copyRows o ∧ Issues i (useCopy op o) s c ∧ predVal c.g.uni.q o.pred = true ∧
    ∀ n ∈ copyNames op o, Readable (viewOf c s c.gang (lowest c.gang)) .n32 (.reg (.k (finOf 1024 n)))

theorem copy_at {i : Instr} {op : Nat} {o : OpQ} {d h : Word} (hi : (i, op) ∈ copyRows o)
    (hb : issuesB i (useCopy op o) (copying d h) (cCopying d h) = true) (hq : predVal (cCopying d h).g.uni.q o.pred = true)
    (hr : (copyNames op o).all (fun n => readableB (viewOf (cCopying d h) (copying d h) [0, 1] 0) .n32 (.reg (.k (finOf 1024 n))) false) = true) :
    CopyAt i op o (copying d h) (cCopying d h) :=
  ⟨hi, issues_of (ctx_copying d h) hb, hq, fun n hn => readable_of (List.all_eq_true.mp hr n hn)⟩

theorem check_ok {x : Except Cause (BitVec 512 × BitVec 512 × List Nat)} {r : BitVec 512 × BitVec 512 × List Nat}
    (h : (match x with | .ok y => y == r | _ => false) = true) : x = .ok r := by
  cases x <;> simp at h
  rw [h]

theorem check_error {x : Except Cause (BitVec 512 × BitVec 512 × List Nat)} {r : Cause}
    (h : (match x with | .error y => y == r | _ => false) = true) : x = .error r := by
  cases x <;> simp at h
  rw [h]

/-- A copy in flight, with its translations, and the sync word that it counts in. -/
def flight (op : Nat) (dir : Fin 4) (d n : Nat) : Copy :=
  { cap := { id := 7, group := 3, block := 2, pc := 0x100008#64, op := op, regs := copyRegs ⟨d, 4097, 0, 0, 0x100⟩ [0] }
    word := copyWord dir
    shapes := [tensor, 0#512]
    pages := [(0x200, 0x200000)]
    total := n }
def flying (op : Nat) (dir : Fin 4) (d n : Nat) : State :=
  { copying 0#32 0#32 with
    blocks := [(2, { launch := 1, cores := [0], scratch := putBytes [] 0x100 (bytesOf 8 (64 * 2 ^ 40 + 10 * 2 ^ 16 + 5 * 2)) })]
    cores := [(0, { copies := [flight op dir d n] })] }

/-- What `Copies` asks of a landing. -/
def LandingAt (s : State) (core n : Nat) (w : Copy) (x : Landing) (place : Nat) (y : SyncWord) : Prop :=
  (coreOf s core).copies.find? (fun z => z.cap.id == w.cap.id) = some w ∧
  let r := w.shapes.headD 0#512
  let ls := landings w.cap.op w.word r (capReg w.cap.regs 0).toNat (capReg w.cap.regs 2).toNat
  let off := (capReg w.cap.regs 1).toNat
  ls[n % ls.length]? = some x ∧ (receivers w)[n / ls.length]? = some place ∧ n ∉ w.done ∧ (coreOf s core).stopped = false ∧
    held s (blockOf s w.cap.block).launch .copy = false ∧ s.poison = [] ∧
    (n < ls.length → hbmHeld s (blockOf s w.cap.block).launch = false) ∧ (∃ o i, (i, w.cap.op) ∈ copyRows o ∧ w.word = o ∧ wfInstr i = true) ∧
    (mfind s.blocks w.cap.block).isSome = true ∧ off + 8 ≤ 2 ^ 19 ∧ SyncIs s w.cap.block place off y

set_option exponentiation.threshold 600 in
theorem witness_Copies :
    (∃ (o : OpQ) (s : State) (c : Ctx) (e : Cause), CopyAt (.cpy o) 0x90 o s c ∧ checkCopy s c 0x90 o (copyIn 0x90 c s o) = .error e) ∧
    (∃ (o : OpQ) (s : State) (c : Ctx) (r md : BitVec 512) (ps : List Nat) (pages vpages : _) (place : Option Place), CopyAt (.cpy o) 0x90 o s c ∧
      checkCopy s c 0x90 o (copyIn 0x90 c s o) = .ok (r, md, ps) ∧
      pagesAt s c (copyPages 0x90 o r md (copyIn 0x90 c s o).i) (fun _ pt => pt == .device || pt == .strong) = .ok pages ∧
      scaleAt s c 0 = .ok place vpages ∧ Performed s c ∧ (coreOf s c.g.core).copies.length < 64 ∧
      (blockOf s c.g.block).buffer = []) ∧
    (∃ (o : OpQ) (s : State) (c : Ctx) (r md : BitVec 512) (ps : List Nat) (pages vpages : _) (place : Option Place), CopyAt (.cpyw o) 0x93 o s c ∧
      checkCopy s c 0x93 o (copyIn 0x93 c s o) = .ok (r, md, ps) ∧
      pagesAt s c (copyPages 0x93 o r md (copyIn 0x93 c s o).i) (fun _ pt => pt == .device || pt == .strong) = .ok pages ∧
      scaleAt s c (if fmtElectrum (shFmt r) = true then shScale r else 0) = .ok place vpages ∧
      Performed s c ∧ slotBusy s c (copyIn 0x93 c s o).d = false ∧ (coreOf s c.g.core).copies.length < 64) ∧
    (∃ s core n w x place y, LandingAt s core n w x place y ∧ w.word.dir ≠ 1 ∧ w.cap.op = 0x90 ∧ x.pairs = false ∧ x.dst + x.n ≤ 2 ^ 19 ∧
      (capReg w.cap.regs 1).toNat + 8 ≤ x.dst ∧ w.done.length + 1 < w.total) ∧
    (∃ s core n w x place y, LandingAt s core n w x place y ∧ w.word.dir = 1 ∧ x.pairs = false ∧ w.total ≤ w.done.length + 1) ∧
    (∃ s core n w x place y, LandingAt s core n w x place y ∧ w.cap.op = 0x93 ∧ w.cap.pos = place ∧ w.total ≤ w.done.length + 1) := by
  refine ⟨⟨copyWord 0, _, _, cShape, copy_at (d := 0x400#32) (h := 2#32) (by simp [copyRows]) (by decide +kernel) (by decide +kernel) (by decide +kernel),
      check_error (by decide +kernel)⟩,
    ⟨copyWord 0, _, _, tensor, 0#512, [0], [(0x200, 0x200000)], [], none, copy_at (d := 0x400#32) (h := 4097#32) (by simp [copyRows]) (by decide +kernel)
      (by decide +kernel) (by decide +kernel), check_ok (by decide +kernel), pages_ok (by decide +kernel), by rfl, performed_of rfl,
      by decide +kernel, by decide +kernel⟩,
    ⟨copyWord 0, _, _, tensor, 0#512, [0], [(0x200, 0x200000)], [], none, copy_at (d := 3#32) (h := 4097#32) (by simp [copyRows]) (by decide +kernel)
      (by decide +kernel) (by decide +kernel), check_ok (by decide +kernel), pages_ok (by decide +kernel), by rfl, performed_of rfl,
      by decide +kernel, by decide +kernel⟩,
    ⟨flying 0x90 0 0x400 32, 0, 1, flight 0x90 0 0x400 32, ⟨false, 0, 64, 64, 0x440⟩, 0, ⟨64, 10, 5, 0⟩, ⟨by decide +kernel, by decide +kernel, by decide +kernel, by decide, by decide +kernel,
      by decide +kernel, rfl, fun _ => by decide +kernel, ⟨_, .cpy (copyWord 0), by simp [copyRows, flight], rfl, by decide +kernel⟩, by decide +kernel, by decide +kernel, by unfold SyncIs; decide +kernel⟩,
      by decide, rfl, rfl, by decide, by decide +kernel, by decide⟩,
    ⟨flying 0x90 1 0x400 1, 0, 0, flight 0x90 1 0x400 1, ⟨false, 0, 0, 64, 0x200000⟩, 0, ⟨64, 10, 5, 0⟩, ⟨by decide +kernel, by decide +kernel, by decide +kernel, by decide, by decide +kernel,
      by decide +kernel, rfl, fun _ => by decide +kernel, ⟨_, .cpy (copyWord 1), by simp [copyRows, flight], rfl, by decide +kernel⟩, by decide +kernel, by decide +kernel, by unfold SyncIs; decide +kernel⟩,
      rfl, rfl, by decide⟩,
    ⟨flying 0x93 0 3 1, 0, 0, flight 0x93 0 3 1, ⟨false, 0, 0, 64, 0⟩, 0, ⟨64, 10, 5, 0⟩, ⟨by decide +kernel, by decide +kernel, by decide +kernel, by decide, by decide +kernel,
      by decide +kernel, rfl, fun _ => by decide +kernel, ⟨_, .cpyw (copyWord 0), by simp [copyRows, flight], rfl, by decide +kernel⟩, by decide +kernel, by decide +kernel, by unfold SyncIs; decide +kernel⟩,
      rfl, rfl, by decide⟩⟩

end Sys2Proof.Tests

/-! ## Matrix instructions -/

namespace Sys2Proof.Tests

open Machine Claims

/-- A record of 64 rows of 64 elements in the scratchpad at 0x1000. -/
def square (fmt stride : Nat) : BitVec 512 :=
  BitVec.ofNat 512 (0x0100 + fmt * 2 ^ 16 + 2 * 2 ^ 20 + 64 * 2 ^ 72 + 64 * 2 ^ 96 + stride / 16 * 2 ^ 192 + 0xFE00000000001000 * 2 ^ 320)

/-- Two threads about to issue an array operation: k8 a handle, k9 a slot; tile 3 poisoned or not. -/
def mattering (h : Word) (p : Option DWord) (ops : List MatOp) : State :=
  { two with
    parts := [(0, { state := .running, slices := 1#16, asids := [(0, BitVec.ofNat 128 (1 + 0x10000 * 2 ^ 64))]
                    shapes := [(1, { rcd := square 0 128, gen := 1, live := true }), (2, { rcd := square 6 256, gen := 1, live := true })] })]
    groups := [(3, { block := 2, launch := 1, threads := [(0, thr {}), (1, thr {})]
                     uni := { k := [(8, ⟨h, .n32⟩), (9, ⟨3#32, .b32⟩)] } })]
    blocks := [(2, { launch := 1, cores := [0, 1], slots := [(3, { rows := 64 })], tiles := [(3, { tag := .f32, poison := p })] })]
    cores := [(0, { matrix := ops })] }
def cMat (h : Word) (p : Option DWord) (ops : List MatOp) : Ctx := ⟨3, groupOf (mattering h p ops) 3, [0, 1], 0x100008#64⟩
theorem ctx_mat (h : Word) (p : Option DWord) (ops : List MatOp) : ctxOf (mattering h p ops) = some (cMat h p ops) := by rfl

def matWord (mt : Fin 32) : OpX := ⟨mt, 8, 9, 0, .bf16, .bf16, 0, false, false⟩

/-- What `MatrixAcceptanceAndStart` asks of an operation at issue. -/
def MatAt (i : Instr) (op : Nat) (o : OpX) (s : State) (c : Ctx) : Prop :=
  (i, op) ∈ matrixRows o ∧ Issues i (useMat op o) s c ∧ ∀ y ∈ matrixSrcs op o, Readable (viewOf c s c.gang (lowest c.gang)) y.1 y.2

theorem mat_at {i : Instr} {op : Nat} {o : OpX} {h : Word} {p : Option DWord} {ops : List MatOp} (hi : (i, op) ∈ matrixRows o)
    (hb : issuesB i (useMat op o) (mattering h p ops) (cMat h p ops) = true)
    (hr : (matrixSrcs op o).all (fun y => readableB (viewOf (cMat h p ops) (mattering h p ops) [0, 1] 0) y.1 y.2 false) = true) :
    MatAt i op o (mattering h p ops) (cMat h p ops) :=
  ⟨hi, issues_of (ctx_mat h p ops) hb, fun y hy => readable_of (List.all_eq_true.mp hr y hy)⟩

theorem mat_ok {x : Except Cause (Nat × List (BitVec 512))} {r : Nat × List (BitVec 512)}
    (h : (match x with | .ok y => y == r | _ => false) = true) : x = .ok r := by
  cases x <;> simp at h
  rw [h]

theorem mat_error {x : Except Cause (Nat × List (BitVec 512))} {r : Cause}
    (h : (match x with | .error y => y == r | _ => false) = true) : x = .error r := by
  cases x <;> simp at h
  rw [h]

/-- An operation of the array. -/
def matOp (op : Nat) (o : OpX) (id : Nat) (rcd : BitVec 512) (started released : Bool) : MatOp :=
  { cap := { id := id, group := 3, block := 2, pc := 0x100008#64, op := op, regs := matRegs ⟨4097#32, 3#32, 0#32⟩ }
    word := o
    shapes := [rcd, 0#512]
    k := 64
    started := started
    released := released }

/-- The same as one half of a pair. -/
def half (core : Nat) (started released : Bool) : MatOp :=
  { matOp 0xC1 (matWord 3) (7 + core) (square 0 128) started released with
    cap := { id := 7 + core, group := 3, block := 2, pos := core, pc := 0x100008#64, op := 0xC1, regs := matRegs ⟨4097#32, 3#32, 0#32⟩ }
    peerCore := some (1 - core)
    follower := core == 1 }

def paired (started released : Bool) : State :=
  { mattering 0#32 none [] with
    cores := [(0, { matrix := [half 0 started released] }), (1, { matrix := [half 1 started released] })] }

theorem in_array {i : Instr} {h : Word} {w : MatOp} (hf : (coreOf (mattering h none [w]) 0).matrix.find? (fun z => z.cap.id == w.cap.id) = some w)
    (hi : (i, w.cap.op) ∈ matrixRows w.word) (hw : wfInstr i = true) (hb : w.cap.block = 2) : InArray (mattering h none [w]) 0 w :=
  ⟨hf, rfl, ⟨i, hi, hw⟩, by rw [hb]; rfl, by rw [hb]; exact (by decide +kernel : blockProt (mattering 0#32 none []) 2 = false)⟩

/-- The launch with one tile. -/
def fewTiles : State :=
  { mattering 4097#32 none [] with
    launches := [(1, { rcd := placedRecord - BitVec.ofNat 1024 (31 * 2 ^ 331), level := 1, nextBlock := 1 })] }
def cFew : Ctx := ⟨3, groupOf (mattering 4097#32 none []) 3, [0, 1], 0x100008#64⟩
theorem ctx_few : ctxOf fewTiles = some cFew := by rfl

def anyTile : OpX := ⟨0, 0, 0, 0, .bf16, .bf16, 0, true, false⟩
def noTile : OpX := { anyTile with zero := false }

theorem poisoned_of {s : State} {bid core n : Nat} {a : DWord} (h : (coreOf s core).matrix = [])
    (hp : (tileOf (blockOf s bid) (corePlace s bid core) n).poison = some a) : Poisoned s bid core n a :=
  ⟨fun ⟨w, hw, _⟩ => by simp [h] at hw, hp⟩

/-- Four operations that the array of a core holds, the first an `MZERO` of tile 3. -/
def fourOps : List MatOp :=
  [matOp 0xC5 { noTile with mt := 3 } 0 0#512 true false, matOp 0xC0 (matWord 4) 1 (square 0 128) false false,
   matOp 0xC0 (matWord 5) 2 (square 0 128) false false, matOp 0xC0 (matWord 6) 3 (square 0 128) false false]

set_option exponentiation.threshold 600 in
theorem witness_MatrixAcceptance :
    (∃ o s c, MatAt (.mma o) 0xC0 o s c ∧ lrTiles (launchOf s c.g.launch).rcd ≤ o.mt.val) ∧
    (∃ o s c e, MatAt (.mma o) 0xC0 o s c ∧ o.mt.val < lrTiles (launchOf s c.g.launch).rcd ∧ checkMat s c 0xC0 o (matrixIn 0xC0 c s o) = .error e) ∧
    (∃ o s c k shapes a, MatAt (.mma o) 0xC0 o s c ∧ o.mt.val < lrTiles (launchOf s c.g.launch).rcd ∧
      checkMat s c 0xC0 o (matrixIn 0xC0 c s o) = .ok (k, shapes) ∧ Poisoned s c.g.block c.g.core o.mt.val a ∧ o.zero = false) ∧
    (∃ o s c k shapes place pages, MatAt (.mma o) 0xC0 o s c ∧ o.mt.val < lrTiles (launchOf s c.g.launch).rcd ∧
      checkMat s c 0xC0 o (matrixIn 0xC0 c s o) = .ok (k, shapes) ∧ Discarded s c.g.block c.g.core o.mt.val ∧
      scaleAt s c 0 = .ok place pages ∧ 4 ≤ (coreOf s c.g.core).matrix.length) ∧
    (∃ o s c k shapes place pages, MatAt (.mma o) 0xC0 o s c ∧ o.mt.val < lrTiles (launchOf s c.g.launch).rcd ∧
      checkMat s c 0xC0 o (matrixIn 0xC0 c s o) = .ok (k, shapes) ∧ Clean s c.g.block c.g.core o.mt.val ∧ matElectrum o.fa = false ∧
      scaleAt s c 0 = .ok place pages ∧
      (slotOf (blockOf s c.g.block) (corePlace s c.g.block c.g.core) (matrixIn 0xC0 c s o).b.toNat).filling = false ∧
      (coreOf s c.g.core).matrix.length < 4 ∧ Performed s c) ∧
    (∃ o s c k shapes, MatAt (.mmap o) 0xC1 o s c ∧ checkMat s c 0xC1 o (matrixIn 0xC1 c s o) = .ok (k, shapes) ∧
      Clean s c.g.block c.g.core o.mt.val ∧ Clean s c.g.block (pairPeer c.g.core) o.mt.val ∧
      (coreOf s c.g.core).matrix.length < 4 ∧ (coreOf s (pairPeer c.g.core)).matrix.length < 4 ∧ pairPeer c.g.core ≠ c.g.core ∧ Performed s c) := by
  refine ⟨⟨matWord 3, fewTiles, cFew, ⟨by simp [matrixRows], issues_of ctx_few (by decide +kernel), fun y hy => readable_of (List.all_eq_true.mp
        (by decide +kernel : (matrixSrcs 0xC0 (matWord 3)).all (fun y => readableB (viewOf cFew fewTiles [0, 1] 0) y.1 y.2 false) = true) y hy)⟩,
      by decide +kernel⟩,
    ⟨matWord 3, _, _, cShape, mat_at (h := 2#32) (p := none) (ops := []) (by simp [matrixRows]) (by decide +kernel) (by decide +kernel), by decide +kernel,
      mat_error (by decide +kernel)⟩,
    ⟨matWord 3, _, _, 64, [square 0 128, 0#512], 0x100000#64, mat_at (h := 4097#32) (p := some 0x100000#64) (ops := []) (by simp [matrixRows])
      (by decide +kernel) (by decide +kernel), by decide +kernel, mat_ok (by decide +kernel), poisoned_of rfl (by decide +kernel), rfl⟩,
    ⟨matWord 3, _, _, 64, [square 0 128, 0#512], none, [], mat_at (h := 4097#32) (p := some 0x100000#64) (ops := fourOps) (by simp [matrixRows])
      (by decide +kernel) (by decide +kernel), by decide +kernel, mat_ok (by decide +kernel), ⟨_, List.mem_cons_self .., rfl, rfl, .inl rfl⟩,
      by rfl, by decide +kernel⟩,
    ⟨matWord 3, _, _, 64, [square 0 128, 0#512], none, [], mat_at (h := 4097#32) (p := none) (ops := []) (by simp [matrixRows])
      (by decide +kernel) (by decide +kernel), by decide +kernel, mat_ok (by decide +kernel), .inr (by decide +kernel), rfl, by rfl, by decide +kernel,
      by decide +kernel, performed_of rfl⟩,
    ⟨matWord 3, _, _, 64, [square 0 128, 0#512], mat_at (h := 4097#32) (p := none) (ops := []) (by simp [matrixRows])
      (by decide +kernel) (by decide +kernel), mat_ok (by decide +kernel), .inr (by decide +kernel), .inr (by decide +kernel), by decide +kernel,
      by decide +kernel, by decide +kernel, performed_of rfl⟩⟩

/-- The gang waits at an `MWAIT` or `MOPR` that it issued when operation 4 was the next one. -/
def matAgain (ops : List MatOp) : State :=
  let th : Thread := { thr {} with await := some { pc := 0x100008#64, bound := 4 } }
  { mattering 0#32 none ops with groups := [(3, { block := 2, launch := 1, threads := [(0, th), (1, th)] })] }
def cMatAgain (ops : List MatOp) : Ctx := ⟨3, groupOf (matAgain ops) 3, [0, 1], 0x100008#64⟩

theorem mat_again {i : Instr} (ops : List MatOp) (h : wfInstr i = true) :
    TriesAgain i (matAgain ops) (cMatAgain ops) { pc := 0x100008#64, bound := 4 } :=
  ⟨by rfl, h, ⟨by simp [cMatAgain], fun l h => by
    simp only [cMatAgain, List.mem_cons, List.not_mem_nil, or_false] at h
    rcases h with rfl | rfl <;> rfl⟩, by rfl⟩

theorem first_few : FirstIssue cFew := first_issue rfl
theorem first_mat (h : Word) (p : Option DWord) (ops : List MatOp) : FirstIssue (cMat h p ops) := first_issue rfl

/-- What `MatrixAcceptanceAndStart` asks of an `MWAIT` or `MOPR` that issues. -/
def MatWaits (i : Instr) (s : State) (c : Ctx) (bound : Nat) : Prop :=
  isProt s c.g = false ∧
    ((Issues i [] s c ∧ FirstIssue c ∧ bound = s.nextId) ∨ ∃ a, TriesAgain i s c a ∧ a = { pc := c.pc, bound := bound })

/-- An operation of the array on another tile that has released its operands. -/
def doneOp : MatOp := matOp 0xC0 (matWord 4) 1 (square 0 128) true true
def runningOp : MatOp := matOp 0xC0 (matWord 4) 1 (square 0 128) true false
def newOp : MatOp := matOp 0xC0 (matWord 3) 2 (square 0 128) false false

theorem witness_MatrixAcceptanceAndStart :
    (∃ o s c b, MatWaits (.mwait o) s c b ∧ FirstIssue c ∧ o.zero = false ∧ lrTiles (launchOf s c.g.launch).rcd ≤ o.mt.val) ∧
    (∃ o s c b n a, MatWaits (.mwait o) s c b ∧ o.zero = true ∧ n < lrTiles (launchOf s c.g.launch).rcd ∧ Poisoned s c.g.block c.g.core n a) ∧
    (∃ o s c b, MatWaits (.mwait o) s c b ∧ o.zero = false ∧ o.mt.val < lrTiles (launchOf s c.g.launch).rcd ∧
      Clean s c.g.block c.g.core o.mt.val ∧ ∃ w ∈ (coreOf s c.g.core).matrix, w.cap.block = c.g.block ∧ w.cap.id < b ∧ w.word.mt = o.mt) ∧
    (∃ o s c b, MatWaits (.mwait o) s c b ∧ ¬ FirstIssue c ∧ o.zero = false ∧ o.mt.val < lrTiles (launchOf s c.g.launch).rcd ∧
      Clean s c.g.block c.g.core o.mt.val ∧
      (∃ w ∈ (coreOf s c.g.core).matrix, w.cap.block = c.g.block ∧ w.word.mt = o.mt) ∧
      ∀ w ∈ (coreOf s c.g.core).matrix, ¬ (w.cap.block = c.g.block ∧ w.cap.id < b ∧ w.word.mt = o.mt)) ∧
    (∃ o s c b, MatWaits (.mopr o) s c b ∧ ∃ k ∈ s.cores, ∃ w ∈ k.2.matrix, w.cap.group = c.gid ∧ w.cap.id < b ∧ w.released = false) ∧
    (∃ o s c b, MatWaits (.mopr o) s c b ∧ ¬ FirstIssue c ∧
      ∀ k ∈ s.cores, ∀ w ∈ k.2.matrix, w.cap.group = c.gid → w.cap.id < b → w.released = true) ∧
    (∃ s core w before after, InArray s core w ∧ w.started = false ∧ w.released = false ∧ w.follower = false ∧
      (coreOf s core).matrix = before ++ w :: after ∧ (∀ e ∈ before, e.cap.id ≠ w.cap.id) ∧ before ≠ [] ∧ Idle (before ++ after) ∧
      (∀ n e, before[n]? = some e → MayPass w before n e) ∧ w.peerCore = none) ∧
    (∃ s core w before after, InArray s core w ∧ w.started = false ∧ w.released = false ∧ w.follower = false ∧
      (coreOf s core).matrix = before ++ w :: after ∧ (∀ e ∈ before, e.cap.id ≠ w.cap.id) ∧ ¬ Idle (before ++ after)) ∧
    (∃ s core w p x, InArray s core w ∧ w.started = false ∧ w.released = false ∧ w.follower = false ∧
      (coreOf s core).matrix = [] ++ w :: [] ∧ w.peerCore = some p ∧ p ≠ core ∧ (coreOf s p).matrix = [] ++ x :: [] ∧
      x.cap.id = w.cap.id + 1 ∧ x.started = false ∧ x.released = false ∧ (coreOf s p).stopped = false ∧ Idle ([] : List MatOp)) := by
  refine ⟨⟨{ noTile with mt := 3 }, fewTiles, cFew, 4, ⟨by decide +kernel, .inl ⟨issues_of ctx_few (by decide +kernel), first_few, by decide +kernel⟩⟩, first_few, rfl,
      by decide +kernel⟩,
    ⟨anyTile, mattering 0#32 (some 0#64) [], _, 4, 3, 0#64, ⟨by decide +kernel, .inl ⟨issues_of (ctx_mat ..) (by decide +kernel), first_mat .., by decide +kernel⟩⟩, rfl,
      by decide +kernel, poisoned_of rfl (by decide +kernel)⟩,
    ⟨{ noTile with mt := 4 }, mattering 0#32 none [doneOp], _, 4, ⟨by decide +kernel, .inl ⟨issues_of (ctx_mat ..) (by decide +kernel), first_mat .., by decide +kernel⟩⟩,
      rfl, by decide +kernel, .inr (by decide +kernel), by decide +kernel⟩,
    ⟨{ noTile with mt := 3 }, matAgain [matOp 0xC0 (matWord 3) 7 0#512 true false], _, 4, ⟨by decide +kernel, .inr ⟨_, mat_again _ (by decide +kernel), rfl⟩⟩,
      fun h => absurd (h.2 0 (by decide)) (by decide +kernel), rfl, by decide +kernel, .inr (by decide +kernel), by decide +kernel, by decide +kernel⟩,
    ⟨noTile, mattering 0#32 none [runningOp], _, 4, ⟨by decide +kernel, .inl ⟨issues_of (ctx_mat ..) (by decide +kernel), first_mat .., by decide +kernel⟩⟩,
      by decide +kernel⟩,
    ⟨noTile, matAgain [doneOp, matOp 0xC0 (matWord 3) 7 0#512 true false], _, 4, ⟨by decide +kernel, .inr ⟨_, mat_again _ (by decide +kernel), rfl⟩⟩,
      fun h => absurd (h.2 0 (by decide)) (by decide +kernel), by decide +kernel⟩,
    ⟨mattering 0#32 none [doneOp, newOp], 0, newOp, [doneOp], [], ⟨by decide +kernel, rfl, ⟨.mma (matWord 3), by simp [matrixRows, newOp, matOp],
      by decide +kernel⟩, by decide +kernel, by decide +kernel⟩, rfl, rfl, rfl, rfl, by decide +kernel, by simp, by unfold Idle; decide +kernel,
      fun n e h => ?_, rfl⟩,
    ⟨mattering 0#32 none [runningOp, newOp], 0, newOp, [runningOp], [], ⟨by decide +kernel, rfl, ⟨.mma (matWord 3), by simp [matrixRows, newOp, matOp],
      by decide +kernel⟩, by decide +kernel, by decide +kernel⟩, rfl, rfl, rfl, rfl, by decide +kernel, by unfold Idle; decide +kernel⟩,
    ⟨paired false false, 0, half 0 false false, 1, half 1 false false, ⟨by decide +kernel, rfl, ⟨.mmap (matWord 3), by simp [matrixRows, half, matOp],
      by decide +kernel⟩, by decide +kernel, by decide +kernel⟩, rfl, rfl, rfl, rfl, rfl, by decide, rfl, rfl, rfl, rfl, rfl, fun _ h => by simp at h⟩⟩
  have hn : n = 0 := by
    cases n with
    | zero => rfl
    | succ n => simp at h
  subst hn
  simp only [List.getElem?_cons_zero, Option.some.injEq] at h
  subst h
  exact ⟨fun hw => absurd hw.1.2 (by decide), rfl, .inl rfl⟩

theorem witness_MatrixResults :
    (∃ s core w, InArray s core w ∧ w.started = true ∧ w.released = false ∧ w.out = [] ∧ w.cap.op = 0xC5) ∧
    (∃ s core w, InArray s core w ∧ w.started = true ∧ w.released = false ∧ w.out = [] ∧ w.cap.op = 0xC6) ∧
    (∃ s core w, InArray s core w ∧ w.started = true ∧ w.released = false ∧ w.out = [] ∧ multiplies w.cap.op = true ∧ matElectrum w.word.fa = false) ∧
    (∃ s core w, InArray s core w ∧ w.started = true ∧ w.released = false ∧ w.out = [] ∧ multiplies w.cap.op = true ∧ matElectrum w.word.fa = true ∧ w.chunks = 0) := by
  refine ⟨⟨_, 0, matOp 0xC5 { noTile with mt := 3 } 7 0#512 true false, in_array (i := .mzero { noTile with mt := 3 }) (h := 0#32) (by decide +kernel)
      (by simp [matrixRows, matOp]) (by decide +kernel) rfl, rfl, rfl, rfl, rfl⟩,
    ⟨_, 0, matOp 0xC6 ⟨3, 8, 0, 0, .bf16, .bf16, 0, false, false⟩ 7 (square 6 256) true false, in_array (i := .mldc ⟨3, 8, 0, 0, .bf16, .bf16, 0, false, false⟩)
      (h := 0#32) (by decide +kernel) (by simp [matrixRows, matOp]) (by decide +kernel) rfl, rfl, rfl, rfl, rfl⟩,
    ⟨_, 0, matOp 0xC0 (matWord 3) 7 (square 0 128) true false, in_array (i := .mma (matWord 3)) (h := 0#32) (by decide +kernel)
      (by simp [matrixRows, matOp]) (by decide +kernel) rfl, rfl, rfl, rfl, rfl, rfl⟩,
    ⟨_, 0, matOp 0xC0 { matWord 3 with fa := .dx8, fb := .dx8 } 7 (square 4 64) true false, in_array (i := .mma { matWord 3 with fa := .dx8, fb := .dx8 })
      (h := 0#32) (by decide +kernel) (by simp [matrixRows, matOp]) (by decide +kernel) rfl, rfl, rfl, rfl, rfl, rfl, rfl⟩⟩

/-- A store of a tile that has released its operands, with a byte to write. -/
def storedOp : MatOp := { matOp 0xC7 (matWord 3) 7 (square 6 256) true true with result := some { tag := .f32 }, out := [(0x1000, 1#8)] }

theorem witness_MatrixStoresAndRetirement :
    (∃ s core w, InArray s core w ∧ w.cap.op = 0xC7 ∧ w.started = true ∧ w.released = false ∧
      let r := w.shapes.headD 0#512
      shFmt r = 6 ∧ 64 * fmtSize2 (shFmt r) / 2 ≤ shStride r 1 ∧
      offsetOf (shBase0 r) + 63 * shStride r 1 + 64 * fmtSize2 (shFmt r) / 2 ≤ 2 ^ 19) ∧
    (∃ s core w, InArray s core w ∧ w.released = true ∧ w.follower = false ∧ w.peerCore = none ∧ (∀ e ∈ w.out, e.1 < 2 ^ 19) ∧
      w.out.Pairwise (fun x y => x.1 < y.1) ∧ w.out ≠ []) ∧
    (∃ s core w p x, InArray s core w ∧ w.released = true ∧ w.follower = false ∧ w.peerCore = some p ∧ p ≠ core ∧
      (coreOf s p).matrix.find? (fun z => z.cap.id == w.cap.id + 1) = some x ∧ x.released = true ∧ (coreOf s p).stopped = false ∧
      x.cap.block = w.cap.block ∧ x.cap.pos ≠ w.cap.pos ∧ x.word = w.word) := by
  refine ⟨⟨_, 0, matOp 0xC7 (matWord 3) 7 (square 6 256) true false, in_array (i := .mstc (matWord 3)) (h := 0#32) (by decide +kernel)
      (by simp [matrixRows, matOp]) (by decide +kernel) rfl, rfl, rfl, rfl, by decide +kernel, by decide +kernel, by decide +kernel⟩,
    ⟨_, 0, storedOp, in_array (i := .mstc (matWord 3)) (h := 0#32) (by decide +kernel) (by simp [matrixRows, matOp, storedOp])
      (by decide +kernel) rfl, rfl, rfl, rfl, by decide, by decide, by decide⟩,
    ⟨paired true true, 0, half 0 true true, 1, half 1 true true, ⟨by decide +kernel, rfl, ⟨.mmap (matWord 3), by simp [matrixRows, half, matOp],
      by decide +kernel⟩, by decide +kernel, by decide +kernel⟩, rfl, rfl, rfl, by decide, by decide +kernel, rfl, rfl, rfl, by decide, rfl⟩⟩

end Sys2Proof.Tests

/-! ## Traps -/

namespace Sys2Proof.Tests

open Machine Claims

/-- A record with 2048 bytes of private memory for each lane, at 0x300000. -/
def trapRecord : BitVec 1024 := placedRecord + BitVec.ofNat 1024 (128 * 2 ^ 353 + 0x300000 * 2 ^ 384)

/-- A gang of two of a full group, with a handler, and what it has of a frame. -/
def trapping (base frame : DWord) : State :=
  { placedLaunch State.reset with
    mem := putBytes placedTables placedBase (bytesOf 8 placedHeader.toNat)
    launches := [(1, { rcd := trapRecord, level := 1, nextBlock := 1, trapbase := base })]
    groups := [(3, { block := 2, launch := 1, trapframe := frame, threads := (0, thr {}) :: (1, thr {}) :: (List.range 126).map (fun l => (l + 2, { run := .ready })) })]
    issue := some { gid := 3, gang := [0, 1], pc := 0x100008#64 } }
def cTrapping (base frame : DWord) : Ctx := ⟨3, groupOf (trapping base frame) 3, [0, 1], 0x100008#64⟩
theorem ctx_trapping (base frame : DWord) : ctxOf (trapping base frame) = some (cTrapping base frame) := by rfl

/-- The placed tables map the first GiB to itself. -/
theorem walk_placed {s : State} {va : Nat} (ha : mget 0#128 (partOf s 0).asids 0 = BitVec.ofNat 128 (1 + 0x10000 * 2 ^ 64))
    (h0 : readWord64 s 0x10000 = 0x20001#64) (h1 : readWord64 s 0x20000 = placedLeaf) (hv : va < 2 ^ 30) :
    walkTable s 0 0 va = .leaf placedLeaf 0 30 := by
  have e0 : va / 2 ^ 43 % 2 ^ 13 = 0 := by omega
  have e1 : va / 2 ^ 30 % 2 ^ 13 = 0 := by omega
  unfold walkTable
  simp only [ha, e0, e1]
  rw [show bitsOf (BitVec.ofNat 128 (1 + 0x10000 * 2 ^ 64)) 127 64 = 0x10000 by decide]
  simp only [show 0x10000 + 8 * 0 = 0x10000 by rfl, h0, show pteOut 0x20001#64 + 8 * 0 = 0x20000 by decide, h1]
  rw [if_neg (by decide), if_neg (by decide), if_neg (by decide), if_pos (by decide), if_neg (by decide)]
  decide

theorem direct_placed {s : State} {level va : Nat} {u : PageUse} (ha : mget 0#128 (partOf s 0).asids 0 = BitVec.ofNat 128 (1 + 0x10000 * 2 ^ 64))
    (h0 : readWord64 s 0x10000 = 0x20001#64) (h1 : readWord64 s 0x20000 = placedLeaf) (hv : va < 2 ^ 30) :
    xlateDirect s 0 0 level va u = some (va, pteType placedLeaf) := by
  unfold xlateDirect
  rw [walk_placed ha h0 h1 hv]
  have hb : pteAllows placedLeaf level u = true := by
    have : pteBit placedLeaf 7 = false := by decide
    unfold pteAllows
    cases u <;> simp [this] <;> decide
  rw [if_neg (Nat.not_le.mpr (Nat.lt_of_lt_of_le hv (by decide : 2 ^ 30 ≤ 2 ^ 56)))]
  show (if pteAllows placedLeaf level u = true then some (0 + va % 2 ^ 30, pteType placedLeaf) else none) = some (va, pteType placedLeaf)
  rw [if_pos hb, Nat.mod_eq_of_lt hv, Nat.zero_add]

theorem mapPages_placed {s : State} {level : Nat} {u : PageUse} (ha : mget 0#128 (partOf s 0).asids 0 = BitVec.ofNat 128 (1 + 0x10000 * 2 ^ 64))
    (h0 : readWord64 s 0x10000 = 0x20001#64) (h1 : readWord64 s 0x20000 = placedLeaf) : (ps : List Nat) → (∀ p ∈ ps, p < 2 ^ 18) →
    mapPages s 0 0 level u ps = some (ps.map (fun p => (p, p * 4096)))
  | [], _ => rfl
  | p :: ps, h => by
    have ih := mapPages_placed ha h0 h1 (level := level) (u := u) ps (fun q hq => h q (List.mem_cons_of_mem _ hq))
    have := h p List.mem_cons_self
    unfold mapPages
    rw [direct_placed ha h0 h1 (by omega), ih]
    rfl

/-- Where the group's frame is, and its pages: each maps to itself. -/
def trapBase : Nat := 0x300000 + 128 * 2048 - 229376
def trapPages : List (Nat × Nat) := (pagesOf trapBase frameBytes).map (fun p => (p, p * 4096))

theorem pages_trapping {s : State} (hb : frameBase s (groupOf s 3) = trapBase)
    (hl : (launchOf s (groupOf s 3).launch).part = 0 ∧ (launchOf s (groupOf s 3).launch).asid = 0)
    (ha : mget 0#128 (partOf s 0).asids 0 = BitVec.ofNat 128 (1 + 0x10000 * 2 ^ 64))
    (h0 : readWord64 s 0x10000 = 0x20001#64) (h1 : readWord64 s 0x20000 = placedLeaf) : framePages s 3 = some trapPages := by
  unfold framePages
  simp only [hb, hl]
  exact mapPages_placed ha h0 h1 _ (by decide +kernel)

set_option exponentiation.threshold 600 in
theorem witness_TrapFrames : ∃ s u gid f pages, framePages s gid = some pages ∧ writeFrame s gid f = some u ∧
    frameBase s (groupOf s gid) + frameBytes ≤ 2 ^ 64 ∧ (∀ p ∈ pages, p.2 % 4096 = 0) ∧ (pages.map Prod.snd).Nodup ∧
    Listed (groupOf s gid).threads 128 ∧ (∀ e ∈ (groupOf s gid).threads, Listed e.2.rf.v 256) ∧ Listed (groupOf s gid).uni.k 1024 ∧
    (groupOf s gid).replay.length ≤ 16 ∧ ∀ r ∈ (groupOf s gid).replay, ∀ e ∈ r.operands, e.1 < 128 := by
  have hp : framePages (trapping 0x100000#64 0#64) 3 = some trapPages := pages_trapping (by decide +kernel) ⟨rfl, rfl⟩ rfl (by decide +kernel) (by decide +kernel)
  refine ⟨trapping 0x100000#64 0#64, _, 3, {}, trapPages, hp, by unfold writeFrame; rw [hp]; rfl, by decide +kernel, by decide +kernel, by decide +kernel,
    ⟨by decide +kernel, by decide +kernel⟩, fun e he => ?_, ⟨by decide +kernel, by decide +kernel⟩, by decide +kernel, by decide +kernel⟩
  have h : ∀ e ∈ (groupOf (trapping 0x100000#64 0#64) 3).threads, e.2.rf.v = [] := by decide +kernel
  rw [h e he]
  exact ⟨List.nodup_nil, by simp⟩

/-- What `TrapsAndBreakpoints` has of an instruction that traps. -/
def TrapAt (o : OpCode) (i : Instr) (cls : Nat) (skip : Bool) (s : State) (c : Ctx) : Prop :=
  (i, cls, skip) ∈ selfTraps o ∧ ctxOf s = some c ∧ wfInstr i = true ∧ activeLanes c o.pred ≠ []

/-- The state in which the frame of such a trap is written, and the fault. -/
def trapState (o : OpCode) (s : State) (c : Ctx) : State := completeOlder (closeRegions c s (activeLanes c o.pred)) c.gid
def trapFault (o : OpCode) (cls : Nat) (skip : Bool) (c : Ctx) : FaultInfo :=
  { cls := cls, detail := o.code.toNat, lanes := maskOfLanes (activeLanes c o.pred), gang := maskOfLanes c.gang, pc := c.pc, skip := skip }

theorem traps_at (base frame : DWord) (code : BitVec 16) : TrapAt ⟨pt, code⟩ (.trap ⟨pt, code⟩) 0x0F true (trapping base frame) (cTrapping base frame) :=
  ⟨by simp [selfTraps], ctx_trapping .., rfl, (by decide +kernel : activeLanes (cTrapping 0#64 0#64) pt ≠ [])⟩
theorem breaks_at (base frame : DWord) (code : BitVec 16) : TrapAt ⟨pt, code⟩ (.bkpt ⟨pt, code⟩) 0x10 false (trapping base frame) (cTrapping base frame) :=
  ⟨by simp [selfTraps], ctx_trapping .., rfl, (by decide +kernel : activeLanes (cTrapping 0#64 0#64) pt ≠ [])⟩

def tOp : OpCode := ⟨pt, 0x12⟩
def zTrap (base : DWord) : State := trapState tOp (trapping base 0#64) (cTrapping base 0#64)
def fTrap (base : DWord) : FaultInfo := trapFault tOp 0x0F true (cTrapping base 0#64)

set_option exponentiation.threshold 600 in
theorem pages_zTrap : framePages (zTrap 0x100000#64) 3 = some trapPages := pages_trapping (by decide +kernel) ⟨rfl, rfl⟩ rfl (by decide +kernel) (by decide +kernel)

set_option exponentiation.threshold 600 in
theorem pages_zTrap' : framePages (zTrap 4#64) 3 = some trapPages := pages_trapping (by decide +kernel) ⟨rfl, rfl⟩ rfl (by decide +kernel) (by decide +kernel)

set_option exponentiation.threshold 600 in
theorem handler_zTrap : handlerOk (writeFrameAt (zTrap 0x100000#64) 3 (fTrap 0x100000#64) trapPages)
    (groupOf (writeFrameAt (zTrap 0x100000#64) 3 (fTrap 0x100000#64) trapPages) 3) = true := by decide +kernel

theorem handler_misplaced (s : State) (gid : Nat) (f : FaultInfo) (pages : List (Nat × Nat))
    (h : (launchOf s (groupOf s gid).launch).trapbase.toNat % 8 ≠ 0) :
    handlerOk (writeFrameAt s gid f pages) (groupOf (writeFrameAt s gid f pages) gid) = false := by
  have ht := writeFrameAt_tables s gid f pages
  revert ht
  generalize writeFrameAt s gid f pages = u
  intro ht
  have hl : launchOf u (groupOf u gid).launch = launchOf s (groupOf s gid).launch := by
    unfold launchOf groupOf
    rw [ht.1, ht.2.2]
  unfold handlerOk unitFetch
  rw [hl]
  simp [h]

/-- A state in which the group's frame does not translate. -/
def frameless (base : DWord) : State :=
  { trapping base 0#64 with launches := [(1, { rcd := trapRecord + BitVec.ofNat 1024 (2 ^ 40 * 2 ^ 384), level := 1, nextBlock := 1, trapbase := base })] }

/-- No older access of the group finds an error. -/
def Unfaulted (o : OpCode) (s : State) (c : Ctx) : Prop := olderFault (closeRegions c s (activeLanes c o.pred)) c.gid = none

theorem unfaulted (base frame : DWord) : Unfaulted tOp (trapping base frame) (cTrapping base frame) := by rfl

/-- The trapping gang with an outstanding load of a poisoned line. -/
def poisoned : State :=
  { trapping 0#64 0#64 with cores := [(0, { acc := [{ group := 3, place := .phys [(0x1000, 4)] }] })], poison := [0x40] }
theorem older_poisoned : ∃ x, olderFault (closeRegions ⟨3, groupOf poisoned 3, [0, 1], 0x100008#64⟩ poisoned (activeLanes ⟨3, groupOf poisoned 3, [0, 1], 0x100008#64⟩ pt)) 3 = some x :=
  Option.isSome_iff_exists.mp (by decide +kernel)

set_option exponentiation.threshold 600 in
theorem witness_TrapsAndBreakpoints :
    (∃ o i cls skip s c u, TrapAt o i cls skip s c ∧ Unfaulted o s c ∧ (launchOf s (groupOf (trapState o s c) c.gid).launch).trapbase ≠ 0#64 ∧
      (groupOf (trapState o s c) c.gid).trapframe = 0#64 ∧ writeFrame (trapState o s c) c.gid (trapFault o cls skip c) = some u ∧
      handlerOk u (groupOf u c.gid) = true) ∧
    (∃ o i cls skip s c u, TrapAt o i cls skip s c ∧ Unfaulted o s c ∧ (launchOf s (groupOf (trapState o s c) c.gid).launch).trapbase ≠ 0#64 ∧
      (groupOf (trapState o s c) c.gid).trapframe = 0#64 ∧ writeFrame (trapState o s c) c.gid (trapFault o cls skip c) = some u ∧
      handlerOk u (groupOf u c.gid) = false ∧ (mfind s.launches (groupOf (trapState o s c) c.gid).launch).isSome = true ∧
      (launchOf s (groupOf (trapState o s c) c.gid).launch).final = false) ∧
    (∃ o i cls skip s c, TrapAt o i cls skip s c ∧ Unfaulted o s c ∧ (launchOf s (groupOf (trapState o s c) c.gid).launch).trapbase ≠ 0#64 ∧
      (groupOf (trapState o s c) c.gid).trapframe = 0#64 ∧ writeFrame (trapState o s c) c.gid (trapFault o cls skip c) = none) ∧
    (∃ o i cls skip s c, TrapAt o i cls skip s c ∧ Unfaulted o s c ∧ (launchOf s (groupOf (trapState o s c) c.gid).launch).trapbase ≠ 0#64 ∧
      (groupOf (trapState o s c) c.gid).trapframe ≠ 0#64) ∧
    (∃ o i cls skip s c, TrapAt o i cls skip s c ∧ Unfaulted o s c ∧ (launchOf s (groupOf (trapState o s c) c.gid).launch).trapbase = 0#64 ∧ cls = 0x0F) ∧
    (∃ o i cls skip s c, TrapAt o i cls skip s c ∧ Unfaulted o s c ∧ (launchOf s (groupOf (trapState o s c) c.gid).launch).trapbase = 0#64 ∧ cls = 0x10 ∧
      (sliceOf s (launchOf s (groupOf (trapState o s c) c.gid).launch).slice).errs.length < 256) ∧
    (∃ o i cls skip s c x, TrapAt o i cls skip s c ∧ olderFault (closeRegions c s (activeLanes c o.pred)) c.gid = some x) := by
  refine ⟨⟨tOp, .trap tOp, 0x0F, true, trapping 0x100000#64 0#64, cTrapping 0x100000#64 0#64, writeFrameAt (zTrap 0x100000#64) 3 (fTrap 0x100000#64) trapPages,
      traps_at .., unfaulted .., by decide +kernel, by decide +kernel, ?_, handler_zTrap⟩,
    ⟨tOp, .trap tOp, 0x0F, true, trapping 4#64 0#64, cTrapping 4#64 0#64, writeFrameAt (zTrap 4#64) 3 (fTrap 4#64) trapPages,
      traps_at .., unfaulted .., by decide +kernel, by decide +kernel, ?_, handler_misplaced _ _ _ _ (by decide +kernel), by decide +kernel, by decide +kernel⟩,
    ⟨tOp, .trap tOp, 0x0F, true, frameless 0x100000#64, cTrapping 0x100000#64 0#64,
      ⟨by simp [selfTraps], by rfl, rfl, by decide +kernel⟩, by rfl, by decide +kernel, by decide +kernel, ?_⟩,
    ⟨tOp, .trap tOp, 0x0F, true, trapping 0x100000#64 1#64, cTrapping 0x100000#64 1#64, traps_at .., unfaulted .., by decide +kernel, by decide +kernel⟩,
    ⟨tOp, .trap tOp, 0x0F, true, trapping 0#64 0#64, cTrapping 0#64 0#64, traps_at .., unfaulted .., by decide +kernel, rfl⟩,
    ⟨tOp, .bkpt tOp, 0x10, false, trapping 0#64 0#64, cTrapping 0#64 0#64, breaks_at .., unfaulted .., by decide +kernel, rfl, by decide +kernel⟩,
    ⟨tOp, .trap tOp, 0x0F, true, poisoned, ⟨3, groupOf poisoned 3, [0, 1], 0x100008#64⟩, _, ⟨by simp [selfTraps], by rfl, rfl, by decide +kernel⟩, older_poisoned.choose_spec⟩⟩
  · exact congrArg (Option.map (writeFrameAt (zTrap 0x100000#64) 3 (fTrap 0x100000#64))) pages_zTrap
  · exact congrArg (Option.map (writeFrameAt (zTrap 4#64) 3 (fTrap 4#64))) pages_zTrap'
  · have h : (framePages (trapState tOp (frameless 0x100000#64) (cTrapping 0x100000#64 0#64)) 3).isNone = true := by decide +kernel
    exact congrArg (Option.map _) (Option.isNone_iff_eq_none.mp h)

theorem readFrame_of {s : State} {g : Group} {pages : List (Nat × Nat)}
    (h : mapPages s (launchOf s g.launch).part (launchOf s g.launch).asid (launchOf s g.launch).level .read (pagesOf g.trapframe.toNat frameBytes) = some pages) :
    readFrame s g = some (fun off => readN (fun a => mget memDefault (pagesTable s g pages) (pageByte pages a)) (g.trapframe.toNat + off) 4) := by
  exact congrArg (Option.map (fun pages off => readN (fun a => mget memDefault (pagesTable s g pages) (pageByte pages a)) (g.trapframe.toNat + off) 4)) h

def eTrap : State := trapping 0x100000#64 (BitVec.ofNat 64 trapBase)
def cEret : Ctx := cTrapping 0x100000#64 (BitVec.ofNat 64 trapBase)
theorem frame_eret : cEret.g.trapframe = BitVec.ofNat 64 trapBase := by rfl
theorem read_eret : ∃ w, readFrame eTrap cEret.g = some w :=
  ⟨_, readFrame_of (by
    rw [frame_eret, show (BitVec.ofNat 64 trapBase).toNat = trapBase from by decide +kernel]
    exact mapPages_placed rfl (by decide +kernel) (by decide +kernel) (pagesOf trapBase frameBytes) (by decide +kernel))⟩
theorem quiet_eret : quiet eTrap cEret.gid cEret.g (liveLanes cEret.g) = true := by decide +kernel

theorem witness_ExceptionReturn :
    (∃ s c, ctxOf s = some c ∧ c.g.trapframe = 0#64) ∧
    (∃ s c w, ctxOf s = some c ∧ c.g.trapframe ≠ 0#64 ∧ c.g.sweepMark = none ∧ quiet s c.gid c.g (liveLanes c.g) = true ∧
      readFrame s c.g = some w) := by
  obtain ⟨w, hw⟩ := read_eret
  exact ⟨⟨_, _, ctx_trapping 0#64 0#64, by decide +kernel⟩, ⟨eTrap, cEret, w, ctx_trapping .., by decide +kernel, by decide +kernel, quiet_eret, hw⟩⟩

end Sys2Proof.Tests

/-! ## System registers, regions and translation -/

namespace Sys2Proof.Tests

open Machine Claims

/-- The gang of two in a launch of level 0. -/
def two0 : State := { two with launches := [(1, { rcd := placedRecord, nextBlock := 1 })] }
theorem ctx_two0 : ctxOf two0 = some cTwo := by rfl

def movyTag (d : Reg) : OpMovy := ⟨pt, d, .gentag⟩
/-- A write of the pre-emption budget: v1 and k20 hold numbers in range and out of it. -/
def movywBudget (a : Src) : OpMovyw := ⟨pt, a, .noprebudget⟩

/-- What `SystemRegistersAndRegions` says of one MOVYW: its lanes and what each reads. -/
def wLanes (o : OpMovyw) (c : Ctx) : List Nat := if srcIsK o.a then c.gang else activeLanes c o.pred
def wView (o : OpMovyw) (s : State) (c : Ctx) (l : Nat) : View :=
  if srcIsK o.a then viewOf c s c.gang (lowest c.gang) else viewOf c s (activeLanes c o.pred) l
def WritesAt (o : OpMovyw) (s : State) (c : Ctx) : Prop :=
  Issues (.movyw o) (useSrc o.a (if systemType o.sys = .n64 then 2 else 1)) s c ∧ wLanes o c ≠ [] ∧
    (srcIsK o.a = true → predVal c.g.uni.q o.pred = true)

theorem writes_at {s : State} (o : OpMovyw) (hc : ctxOf s = some cTwo)
    (hb : issuesB (.movyw o) (useSrc o.a (if systemType o.sys = .n64 then 2 else 1)) s cTwo = true)
    (hl : wLanes o cTwo ≠ []) (hp : o.pred = pt) : WritesAt o s cTwo :=
  ⟨issues_of hc hb, hl, fun _ => by rw [hp]; decide +kernel⟩

/-- A group parked by a breakpoint. -/
def parkedAt (p : Park) : State :=
  { two with groups := [(3, { block := 2, launch := 1, park := p, fault := some {}, threads := [(0, thr {}), (1, thr {})], nopre := some 0 })], now := 100 }

theorem witness_SystemRegistersAndRegions :
    (∃ o : OpMovy, isK o.d = false ∧ Somewhere (.movy o) (isK o.d) o.pred (useReg o.d (if systemType o.sys = .n64 then 2 else 1))
      (fun v => o.sys = .gentag → 1 ≤ (launchOf v.s v.g.launch).level)) ∧
    (∃ o : OpMovy, isK o.d = true ∧ Somewhere (.movy o) (isK o.d) o.pred (useReg o.d (if systemType o.sys = .n64 then 2 else 1))
      (fun v => o.sys = .gentag → 1 ≤ (launchOf v.s v.g.launch).level)) ∧
    (∃ (o : OpMovy) (s : State) (c : Ctx), Issues (.movy o) (useReg o.d) s c ∧ o.sys = .gentag ∧ (launchOf s c.g.launch).level = 0 ∧
      isK o.d = false ∧ activeLanes c o.pred ≠ []) ∧
    (∃ (o : OpMovy) (s : State) (c : Ctx), Issues (.movy o) (useReg o.d) s c ∧ o.sys = .gentag ∧ (launchOf s c.g.launch).level = 0 ∧
      isK o.d = true ∧ predVal c.g.uni.q o.pred = true) ∧
    (∃ o s c, WritesAt o s c ∧ o.sys ≠ .fpclear ∧ (launchOf s c.g.launch).level = 0) ∧
    (∃ o s c, WritesAt o s c ∧ 1 ≤ (launchOf s c.g.launch).level ∧ (∀ l ∈ wLanes o c, Readable (wView o s c l) (systemType o.sys) o.a) ∧
      ∀ l ∈ wLanes o c, ¬ systemRange o.sys (srcBits (wView o s c l) (systemType o.sys) o.a)) ∧
    (∃ o s c, WritesAt o s c ∧ 1 ≤ (launchOf s c.g.launch).level ∧ srcIsK o.a = false ∧
      (∀ l ∈ wLanes o c, Readable (wView o s c l) (systemType o.sys) o.a) ∧
      ∀ l ∈ wLanes o c, systemRange o.sys (srcBits (wView o s c l) (systemType o.sys) o.a)) ∧
    (∃ o s c, WritesAt o s c ∧ 1 ≤ (launchOf s c.g.launch).level ∧ srcIsK o.a = true ∧
      (∀ l ∈ wLanes o c, Readable (wView o s c l) (systemType o.sys) o.a) ∧
      ∀ l ∈ wLanes o c, systemRange o.sys (srcBits (wView o s c l) (systemType o.sys) o.a)) ∧
    (∃ (s : State) (gid : Nat) (g : Group) (n : Nat), mfind s.groups gid = some g ∧ g.nopre = some n ∧ s.now * 20 / 17 ≤ n) ∧
    (∃ (s : State) (gid : Nat) (g : Group) (n : Nat), mfind s.groups gid = some g ∧ g.nopre = some n ∧ n < s.now * 20 / 17 ∧ g.park = .none) ∧
    (∃ (s : State) (gid : Nat) (g : Group) (n : Nat), mfind s.groups gid = some g ∧ g.nopre = some n ∧ n < s.now * 20 / 17 ∧ g.park ≠ .none) ∧
    (∃ (s : State) (gid : Nat) (g : Group) (f : FaultInfo), mfind s.groups gid = some g ∧ g.fault = some f ∧ g.park = .bkpt ∧ (mfind s.launches g.launch).isSome = true ∧
      (launchOf s g.launch).final = false) ∧
    (∃ (s : State) (gid : Nat) (g : Group) (f : FaultInfo), mfind s.groups gid = some g ∧ g.fault = some f ∧ g.park = .budget ∧ (mfind s.launches g.launch).isSome = true ∧
      (launchOf s g.launch).final = false) := by
  refine ⟨⟨movyTag (.v 8), rfl, somewhere_v rfl (by decide +kernel) (by decide +kernel) ?_⟩,
    ⟨movyTag (.k 8), rfl, somewhere_k rfl (by decide +kernel) (by decide +kernel) (fun _ => by decide +kernel)⟩,
    ⟨movyTag (.v 8), two0, cTwo, issues_of ctx_two0 (by decide +kernel), rfl, by decide +kernel, rfl, by decide +kernel⟩,
    ⟨movyTag (.k 8), two0, cTwo, issues_of ctx_two0 (by decide +kernel), rfl, by decide +kernel, rfl, by decide +kernel⟩,
    ⟨movywBudget (.reg (.v 4)), two0, cTwo, writes_at _ ctx_two0 (by decide +kernel) (by decide +kernel) rfl, by decide, by decide +kernel⟩,
    ⟨movywBudget (.reg (.v 0)), two, cTwo, writes_at _ ctx_two (by decide +kernel) (by decide +kernel) rfl, by decide +kernel, ?_, ?_⟩,
    ⟨movywBudget (.reg (.v 4)), two, cTwo, writes_at _ ctx_two (by decide +kernel) (by decide +kernel) rfl, by decide +kernel, rfl, ?_, ?_⟩,
    ⟨movywBudget (.reg (.k 4)), two, cTwo, writes_at _ ctx_two (by decide +kernel) (by decide +kernel) rfl, by decide +kernel, rfl, ?_, ?_⟩,
    ⟨{ parkedAt .none with now := 0 }, 3, _, 0, rfl, rfl, by decide +kernel⟩,
    ⟨parkedAt .none, 3, _, 0, rfl, rfl, by decide +kernel, rfl⟩,
    ⟨parkedAt .translation, 3, _, 0, rfl, rfl, by decide +kernel, nofun⟩,
    ⟨parkedAt .bkpt, 3, _, _, rfl, rfl, rfl, by decide +kernel, by decide +kernel⟩,
    ⟨parkedAt .budget, 3, _, _, rfl, rfl, rfl, by decide +kernel, by decide +kernel⟩⟩
  · intro l hl _
    rcases hl with rfl | rfl <;> decide +kernel
  · exact gang_forall (by decide +kernel) (readable_of (by decide +kernel)) (readable_of (by decide +kernel))
  · exact gang_forall (by decide +kernel) (by unfold systemRange; decide +kernel) (by unfold systemRange; decide +kernel)
  · exact gang_forall (by decide +kernel) (readable_of (by decide +kernel)) (readable_of (by decide +kernel))
  · exact gang_forall (by decide +kernel) (by unfold systemRange; decide +kernel) (by unfold systemRange; decide +kernel)
  · exact gang_forall (by decide +kernel) (readable_of (by decide +kernel)) (readable_of (by decide +kernel))
  · exact gang_forall (by decide +kernel) (by unfold systemRange; decide +kernel) (by unfold systemRange; decide +kernel)

/-- The operands that `Translation` has of a TLBI. -/
def iUni (o : OpTlbi) : Bool := decide (o.scope.val ≤ 1) && isK o.d
def iLanes (o : OpTlbi) (c : Ctx) : List Nat := if iUni o then c.gang else activeLanes c o.pred
def iSrc (o : OpTlbi) (c : Ctx) : List Nat := if iUni o then [lowest c.gang] else activeLanes c o.pred
def iView (o : OpTlbi) (s : State) (c : Ctx) (l : Nat) : View := viewOf c s (if iUni o then c.gang else activeLanes c o.pred) l
def TlbiAt (o : OpTlbi) (s : State) (c : Ctx) : Prop :=
  Issues (.tlbi o) (useTlbi o) s c ∧ iLanes o c ≠ [] ∧ (iUni o = true → predVal c.g.uni.q o.pred = true)
def TlbiGoes (o : OpTlbi) (s : State) (c : Ctx) : Prop :=
  TlbiAt o s c ∧ 1 ≤ (launchOf s c.g.launch).level ∧ (∀ n ∈ iSrc o c, (o.scope.val ≤ 1 → Readable (iView o s c n) .n32 (.reg o.d)) ∧
    (o.scope.val = 0 → Addresses (iView o s c n) (.reg o.a))) ∧ c.g.sweepMark = none ∧ quiet s c.gid c.g c.gang = true ∧
    (mfind s.blocks c.g.block).isSome = true

theorem tlbi_at {s : State} {o : OpTlbi} (hc : ctxOf s = some cTwo) (hb : issuesB (.tlbi o) (useTlbi o) s cTwo = true)
    (hl : iLanes o cTwo ≠ []) (hp : o.pred = pt) : TlbiAt o s cTwo :=
  ⟨issues_of hc hb, hl, fun _ => by rw [hp]; decide +kernel⟩

theorem tlbi_goes {o : OpTlbi} (hb : issuesB (.tlbi o) (useTlbi o) two cTwo = true) (hl : iLanes o cTwo ≠ []) (hp : o.pred = pt)
    (hr : (iSrc o cTwo).all (fun n => readableB (iView o two cTwo n) .n32 (.reg o.d) false && addressesB (iView o two cTwo n) (.reg o.a)) = true) :
    TlbiGoes o two cTwo := by
  refine ⟨tlbi_at ctx_two hb hl hp, by decide +kernel, fun n hn => ?_, rfl, by decide +kernel, by decide +kernel⟩
  have := List.all_eq_true.mp hr n hn
  simp only [Bool.and_eq_true] at this
  exact ⟨fun _ => readable_of this.1, fun _ => addresses_of this.2⟩

def tlbiV (scope : Fin 4) : OpTlbi := ⟨pt, if scope = 2 then .v 0 else .v 8, if scope = 0 then .v 4 else .v 0, scope⟩
def tlbiK (scope : Fin 4) : OpTlbi := ⟨pt, .k 8, .k 4, scope⟩

/-- A group whose first thread waits for a page that a slice walks for, of a partition with page tables or without. -/
def walking (asids : Map (BitVec 128)) : State :=
  { two with
    parts := [(0, { state := .running, slices := 1#16, asids := asids })]
    slices := [(0, { walks := [⟨0, 0, 0x300, [3]⟩] })]
    groups := [(3, { block := 2, launch := 1, threads := [(0, { thr {} with run := .blocked (.walk 0x300 (some 0x300000#64)) }), (1, thr {})] })] }

theorem walking_nodup (asids : Map (BitVec 128)) (gid : Nat) : ((groupOf (walking asids) gid).threads.map Prod.fst).Nodup := by
  by_cases h3 : gid = 3
  · subst h3; simp [walking, groupOf, mget, mfind]
  · simp [show groupOf (walking asids) gid = {} by simp [walking, groupOf, mget, mfind, h3]]

/-- A page that waits for Mbotum, with the group that it parks. -/
def faulting : State :=
  { walking [] with
    slices := [(0, { faultq := [⟨0, 0, 0x300, [3]⟩] })]
    groups := [(3, { block := 2, launch := 1, park := .translation, fault := some { cls := 9, addr := 0x300000#64 }, threads := [(0, thr {}), (1, thr {})] })] }

theorem witness_Translation :
    (∃ o s c, TlbiAt o s c ∧ (launchOf s c.g.launch).level = 0) ∧
    (∃ o s c, TlbiGoes o s c ∧ o.scope.val = 0 ∧ iUni o = false ∧ (blockOf s c.g.block).buffer = []) ∧
    (∃ o s c, TlbiGoes o s c ∧ o.scope.val = 0 ∧ iUni o = true) ∧ (∃ o s c, TlbiGoes o s c ∧ o.scope.val = 1) ∧
    (∃ o s c, TlbiGoes o s c ∧ o.scope.val = 2) ∧
    (∃ (s : State) (part : Nat) (x : Tlbi), (partOf s part).tlbis.find? (fun y => y.id == x.id) = some x ∧ tlbiHeld s x part = false ∧
      ∀ y ∈ s.slices, ∀ w ∈ y.2.walks, tlbiHits x part w = false) ∧
    (∃ (s : State) (slice n : Nat) (w : Walk) (e : DWord) (b g : Nat), (∀ gid, ((groupOf s gid).threads.map Prod.fst).Nodup) ∧
      (sliceOf s slice).walks[n]? = some w ∧ walkTable s w.part w.asid (w.page * 4096) = .leaf e b g) ∧
    (∃ (s : State) (slice n gid : Nat) (w : Walk) (x : Group), (x.threads.map Prod.fst).Nodup ∧ (sliceOf s slice).walks[n]? = some w ∧
      walkTable s w.part w.asid (w.page * 4096) = .bad ∧ w.groups = [gid] ∧ mfind s.groups gid = some x ∧
      (∃ e ∈ x.threads, waitsPage w.page e.2 = true) ∧ (sliceOf s (launchOf s x.launch).slice).faultq.length < 1024) ∧
    (∃ (s : State) (slice n gid : Nat) (e : TransFault) (x : Group) (f : FaultInfo), (sliceOf s slice).faultq[n]? = some e ∧
      e.groups = [gid] ∧ mfind s.groups gid = some x ∧ x.park = .translation ∧ x.fault = some f ∧
      (launchOf s x.launch).trapbase = 0#64 ∧
      (mfind s.launches x.launch).isSome = true ∧ (launchOf s x.launch).final = false) := by
  refine ⟨⟨tlbiV 0, two0, cTwo, tlbi_at ctx_two0 (by decide +kernel) (by decide +kernel) rfl, by decide +kernel⟩,
    ⟨tlbiV 0, two, cTwo, tlbi_goes (by decide +kernel) (by decide +kernel) rfl (by decide +kernel), rfl, rfl, by decide +kernel⟩,
    ⟨tlbiK 0, two, cTwo, tlbi_goes (by decide +kernel) (by decide +kernel) rfl (by decide +kernel), rfl, rfl⟩,
    ⟨tlbiV 1, two, cTwo, tlbi_goes (by decide +kernel) (by decide +kernel) rfl (by decide +kernel), rfl⟩,
    ⟨tlbiV 2, two, cTwo, tlbi_goes (by decide +kernel) (by decide +kernel) rfl (by decide +kernel), rfl⟩,
    ⟨{ two with parts := [(0, { tlbis := [⟨9, 3, 0, [(0, 0x300)]⟩] })] }, 0, ⟨9, 3, 0, [(0, 0x300)]⟩, by decide +kernel, by decide +kernel, by decide +kernel⟩,
    ⟨walking [(0, BitVec.ofNat 128 (1 + 0x10000 * 2 ^ 64))], 0, 0, ⟨0, 0, 0x300, [3]⟩, placedLeaf, 0, 30, walking_nodup _, by decide +kernel,
      walk_placed rfl (by decide +kernel) (by decide +kernel) (by decide)⟩,
    ⟨walking [], 0, 0, 3, ⟨0, 0, 0x300, [3]⟩, _, by decide +kernel, by decide +kernel, by decide +kernel, rfl, rfl, by decide +kernel, by decide +kernel⟩,
    ⟨faulting, 0, 0, 3, ⟨0, 0, 0x300, [3]⟩, _, _, by decide +kernel, rfl, rfl, rfl, rfl, by decide +kernel, by decide +kernel,
      by decide +kernel⟩⟩

end Sys2Proof.Tests
/-! ## Service requests -/

namespace Sys2Proof.Tests

open Machine Claims

/-- A SYSC whose blocks stand at v4, or at k4. -/
def syscV : OpSysc := ⟨pt, .v 8, .v 4, 0x100⟩
def syscK : OpSysc := ⟨pt, .k 8, .k 4, 0x100⟩

/-- A gang of two, one of whose request blocks lies in the scratchpad window. -/
def syscMix : State :=
  issuing [(0, thr { v := [(4, ⟨0x200000#32, .b32⟩), (5, ⟨0#32, .b32⟩)] }), (1, thr { v := [(4, ⟨0x40#32, .b32⟩), (5, ⟨0xFE000000#32, .b32⟩)] })]
    { k := [(4, ⟨0x200000#32, .b32⟩), (5, ⟨0#32, .b32⟩)] } [0, 1]
def cSysc : Ctx := ⟨3, groupOf syscMix 3, [0, 1], 0x100008#64⟩
theorem ctx_sysc : ctxOf syscMix = some cSysc := by rfl

def syscSpots : List Spot := spots (fun s g l va => locateBlock s g l false va) syscMix cSysc (fun v => BitVec.ofNat 64 (pairBits v (.reg (.v 4))))

theorem quiet_sysc : Quiet syscMix cSysc cSysc.gang := ⟨rfl, by decide +kernel, rfl, by decide +kernel, by decide +kernel⟩

/-- A slice with one request, which is served or not. -/
def asked (service : Nat) (args : List DWord) (done : Bool) : SyscReq :=
  { id := 9, group := 3, lane := 0, service := service, args := args, block := 0x300000#64, dest := .v 8, done := done }
def asking (r : SyscReq) (m : Map Byte) (p : Partition) (l : Launch) : State :=
  { two with
    mem := m
    slices := [(0, { reqs := [r] })]
    parts := [(0, { p with asids := [(0, BitVec.ofNat 128 (1 + 0x10000 * 2 ^ 64))] })]
    launches := [(1, l)]
    groups := [(3, { block := 2, launch := 1, threads := [(0, { thr {} with run := .blocked (.sysc 9) }), (1, thr {})] })] }

theorem waiting_asked {m : Map Byte} {p : Partition} {l : Launch} (service : Nat) (args : List DWord) :
    Waiting (asking (asked service args false) m p l) 0 (asked service args false) service := ⟨rfl, rfl, rfl⟩

def plainLaunch : Launch := { rcd := placedRecord, nextBlock := 1 }
def shapeMem (x : BitVec 512) : Map Byte := putBytes placedTables 0x200000 (bytesOf 64 x.toNat)

/-- A spec of tumbling windows, its table, the header of its handler and the launch that owns it. -/
def tumbling : BitVec 1024 := BitVec.ofNat 1024 (0x0100 + 1 * 2 ^ 28 + 1 * 2 ^ 32 + 1000 * 2 ^ 448 + 0x100000 * 2 ^ 704)
def specMem (x : BitVec 1024) : Map Byte :=
  putBytes (putBytes placedTables 0x100000 (bytesOf 8 (0xFF * 2 ^ 56 + 250 * 2 ^ 48 + 1 * 2 ^ 40 + 2 ^ 38))) 0x210000 (bytesOf 128 x.toNat)
def specPart (specs : Map Spec) : Partition := { slices := 1#16, winBase := 0x210000#64, specs := specs }
def winLaunch : Launch := { rcd := placedRecord ||| BitVec.ofNat 1024 (2 ^ 20), number := 7, nextBlock := 1 }

/-- An entry of a stream, and its table. -/
def streamEntry (src : Nat) : BitVec 512 := BitVec.ofNat 512 (0x0100 + src * 2 ^ 16 + 8 * 2 ^ 24 + 0x400000 * 2 ^ 128)
def streamMem (x : BitVec 512) : Map Byte := putBytes placedTables 0x290000 (bytesOf 64 x.toNat)

def liveShapes (n : Nat) : Map ShapeSlot := (List.range n).map (fun i => (i, { live := true }))
theorem live_shapes (n : Nat) : ((liveShapes n).filter (fun y => y.2.live)).length = n := by
  rw [List.filter_eq_self.mpr (by simp [liveShapes]), liveShapes, List.length_map, List.length_range]
def fullPart (n : Nat) : Partition := { shapes := liveShapes n }
def fullAsked (n : Nat) : State := asking (asked 1 [0x200000#64] false) (shapeMem tensor) (fullPart n) plainLaunch
theorem full_asked (n : Nat) : (partOf (fullAsked n) (askedBy (fullAsked n) (asked 1 [0x200000#64] false)).part).shapes = liveShapes n := by rfl

set_option exponentiation.threshold 1100 in
theorem witness_SystemCallsAndServices :
    (∃ (o : OpSysc) (s : State) (c : Ctx) (xs : List Spot), Issues (.sysc o) (useSysc o) s c ∧ isK o.d = false ∧ activeLanes c o.pred ≠ [] ∧
      (∀ l ∈ activeLanes c o.pred, Addresses (viewOf c s (activeLanes c o.pred) l) (.reg o.a)) ∧ xs.map Spot.lane = activeLanes c o.pred ∧ c.gang.Nodup ∧
      (∀ x ∈ xs, x.va = BitVec.ofNat 64 (pairBits (viewOf c s (activeLanes c o.pred) x.lane) (.reg o.a)) ∧
        Placed (fun s g l va => locateBlock s g l false va) s c x) ∧ Quiet s c c.gang ∧
      (∀ r ∈ (sliceOf s (launchOf s c.g.launch).slice).reqs, r.group ≠ c.gid) ∧ (∃ x ∈ xs, isScratchVa x.va = true) ∧ ∃ x ∈ xs, isScratchVa x.va = false) ∧
    (∃ (o : OpSysc) (s : State) (c : Ctx) (x : Spot), Issues (.sysc o) (useSysc o) s c ∧ isK o.d = true ∧ predVal c.g.uni.q o.pred = true ∧
      Addresses (viewOf c s c.gang (lowest c.gang)) (.reg o.a) ∧ x.lane = lowest c.gang ∧
      x.va = BitVec.ofNat 64 (pairBits (viewOf c s c.gang (lowest c.gang)) (.reg o.a)) ∧ isScratchVa x.va = false ∧
      Placed (fun s g l va => locateBlock s g l true va) s c x ∧ Quiet s c c.gang ∧
      ∀ r ∈ (sliceOf s (launchOf s c.g.launch).slice).reqs, r.group ≠ c.gid) ∧
    (∃ (s : State) (slice : Nat) (r : SyscReq) (g : Group), (sliceOf s slice).reqs.find? (fun y => y.id == r.id && y.done) = some r ∧
      mfind s.groups r.group = some g ∧ (g.threads.map Prod.fst).Nodup ∧ g.where_ = .resident ∧ (coreOf s g.core).stopped = false ∧
      ∃ e ∈ g.threads, e.2.run = .blocked (.sysc r.id)) ∧
    (∃ s slice r, Waiting s slice r 0) ∧
    (∃ s slice r x, Waiting s slice r 1 ∧ serviceRead s r (firstArg r) 64 = some x ∧ shapeOk (BitVec.ofNat 512 x) = false) ∧
    (∃ s slice r x slot, Waiting s slice r 1 ∧ serviceRead s r (firstArg r) 64 = some x ∧ shapeOk (BitVec.ofNat 512 x) = true ∧
      ((partOf s (askedBy s r).part).shapes.filter (fun y => y.2.live)).length < 2 ^ 20 ∧ slot < 2 ^ 20 ∧
      (mget {} (partOf s (askedBy s r).part).shapes slot).live = false) ∧
    (∃ s slice r x, Waiting s slice r 1 ∧ serviceRead s r (firstArg r) 64 = some x ∧ shapeOk (BitVec.ofNat 512 x) = true ∧
      2 ^ 20 ≤ ((partOf s (askedBy s r).part).shapes.filter (fun y => y.2.live)).length) ∧
    (∃ s slice r, Waiting s slice r 1 ∧ serviceRead s r (firstArg r) 64 = none) ∧
    (∃ s slice r, Waiting s slice r 2 ∧
      let x := mget {} (partOf s (askedBy s r).part).shapes (firstArg r / 4096)
      firstArg r < 2 ^ 32 ∧ x.live = true ∧ firstArg r % 4096 = x.gen ∧ x.gen ≠ 0 ∧ x.tenant = (askedBy s r).tenant) ∧
    (∃ s slice r, Waiting s slice r 2 ∧ ¬ firstArg r < 2 ^ 32) := by
  refine ⟨⟨syscV, syscMix, cSysc, syscSpots, issues_of ctx_sysc (by decide +kernel), rfl, by decide +kernel,
      gang_forall (by decide +kernel) (addresses_of (by decide +kernel)) (addresses_of (by decide +kernel)), by decide +kernel, by decide +kernel, ?_,
      quiet_sysc, by decide +kernel, by decide +kernel, by decide +kernel⟩,
    ⟨syscK, syscMix, cSysc, placeAt (fun s g l va => locateBlock s g l true va) syscMix cSysc 0 0x200000#64, issues_of ctx_sysc (by decide +kernel), rfl,
      by decide +kernel, addresses_of (by decide +kernel), by decide +kernel, by decide +kernel, by decide +kernel, placed_of (by decide +kernel), quiet_sysc,
      by decide +kernel⟩,
    ⟨asking (asked 0 [] true) placedTables {} plainLaunch, 0, asked 0 [] true, groupOf (asking (asked 0 [] true) placedTables {} plainLaunch) 3, rfl, rfl, by decide +kernel, rfl, by decide +kernel, by decide +kernel⟩,
    ⟨_, _, _, waiting_asked (m := placedTables) (p := {}) (l := plainLaunch) 0 []⟩,
    ⟨_, _, _, 0, waiting_asked (m := placedTables) (p := {}) (l := plainLaunch) 1 [0x200000#64], by decide +kernel, by decide +kernel⟩,
    ⟨_, _, _, tensor.toNat, 5, waiting_asked (m := shapeMem tensor) (p := {}) (l := plainLaunch) 1 [0x200000#64], by decide +kernel, by decide +kernel,
      by decide +kernel, by decide, by decide +kernel⟩,
    ⟨fullAsked (2 ^ 20), _, _, tensor.toNat, waiting_asked 1 [0x200000#64], by decide +kernel, by decide +kernel, Nat.le_of_eq (by rw [full_asked, live_shapes])⟩,
    ⟨_, _, _, waiting_asked (m := placedTables) (p := {}) (l := plainLaunch) 1 [0xFE00000000000000#64], by decide +kernel⟩,
    ⟨_, _, _, waiting_asked (m := placedTables) (p := { shapes := [(1, { rcd := tensor, gen := 1, live := true })] }) (l := plainLaunch) 2 [0x1001#64],
      by decide +kernel⟩,
    ⟨_, _, _, waiting_asked (m := placedTables) (p := {}) (l := plainLaunch) 2 [0x100000000#64], by decide +kernel⟩⟩
  intro x hx
  refine ⟨?_, placed_of (List.all_eq_true.mp (by decide +kernel) x hx)⟩
  revert x
  decide +kernel

set_option exponentiation.threshold 1100 in
theorem witness_SpecAndStreamServices :
    (∃ s slice r y n, Waiting s slice r 3 ∧ firstArg r < 4096 ∧ entryOf s r (specAddr (partOf s (askedBy s r).part) (firstArg r)) 128 = some y ∧
      let e := BitVec.ofNat 1024 y
      let x := if bitsOf e 415 384 = 0 then e ||| (BitVec.ofNat 1024 (askedBy s r).number <<< 384) else e
      specCause (writeMem s (specAddr (partOf s (askedBy s r).part) (firstArg r)) (bytesOf 128 x.toNat)) (askedBy s r) (firstArg r) x = n ∧ n ≠ 0) ∧
    (∃ s slice r y, Waiting s slice r 3 ∧ firstArg r < 4096 ∧ entryOf s r (specAddr (partOf s (askedBy s r).part) (firstArg r)) 128 = some y ∧
      let e := BitVec.ofNat 1024 y
      let x := if bitsOf e 415 384 = 0 then e ||| (BitVec.ofNat 1024 (askedBy s r).number <<< 384) else e
      specCause (writeMem s (specAddr (partOf s (askedBy s r).part) (firstArg r)) (bytesOf 128 x.toNat)) (askedBy s r) (firstArg r) x = 0) ∧
    (∃ s slice r, Waiting s slice r 4 ∧ firstArg r < 4096 ∧ specOf s (askedBy s r).part (firstArg r) = none) ∧
    (∃ s slice r x, Waiting s slice r 4 ∧ firstArg r < 4096 ∧ specOf s (askedBy s r).part (firstArg r) = some x ∧ x.tenant ≠ (askedBy s r).tenant) ∧
    (∃ s slice r x, Waiting s slice r 4 ∧ firstArg r < 4096 ∧ specOf s (askedBy s r).part (firstArg r) = some x ∧ x.tenant = (askedBy s r).tenant) ∧
    (∃ s slice r y, Waiting s slice r 5 ∧ firstArg r < 4096 ∧ entryOf s r (streamAddr (partOf s (askedBy s r).part) (firstArg r)) 64 = some y ∧
      streamOk s (askedBy s r).part (BitVec.ofNat 512 y) = false) ∧
    (∃ s slice r y, Waiting s slice r 5 ∧ firstArg r < 4096 ∧ entryOf s r (streamAddr (partOf s (askedBy s r).part) (firstArg r)) 64 = some y ∧
      streamOk s (askedBy s r).part (BitVec.ofNat 512 y) = true ∧ bitsOf (BitVec.ofNat 512 y) 17 16 ≠ 2) ∧
    (∃ (s : State) (slice : Nat) (r : SyscReq) (y : Nat) (tail : DWord), Waiting s slice r 5 ∧ firstArg r < 4096 ∧
      entryOf s r (streamAddr (partOf s (askedBy s r).part) (firstArg r)) 64 = some y ∧
      streamOk s (askedBy s r).part (BitVec.ofNat 512 y) = true ∧ bitsOf (BitVec.ofNat 512 y) 17 16 = 2 ∧
      (xlateDirect s (askedBy s r).part (askedBy s r).asid (askedBy s r).level tail.toNat .write).any (fun z =>
        z.1 == streamAddr (partOf s (askedBy s r).part) (firstArg r) + 28) = true) ∧
    (∃ s slice r n, Waiting s slice r n ∧ 6 ≤ n ∧ n < 0x100) ∧ (∃ s slice r n, Waiting s slice r n ∧ 0x100 ≤ n) := by
  refine ⟨⟨_, _, _, 0, 1, waiting_asked (m := specMem 0#1024) (p := specPart []) (l := winLaunch) 3 [0#64], by decide +kernel, by decide +kernel, by decide +kernel⟩,
    ⟨_, _, _, tumbling.toNat, waiting_asked (m := specMem tumbling) (p := specPart []) (l := winLaunch) 3 [0#64], by decide +kernel, by decide +kernel,
      by decide +kernel⟩,
    ⟨_, _, _, waiting_asked (m := placedTables) (p := specPart []) (l := winLaunch) 4 [2#64], by decide +kernel, by decide +kernel⟩,
    ⟨_, _, _, _, waiting_asked (m := placedTables) (p := specPart [(2, { launch := 1, tenant := 1 })]) (l := winLaunch) 4 [2#64], by decide +kernel, rfl,
      by decide +kernel⟩,
    ⟨_, _, _, _, waiting_asked (m := placedTables) (p := specPart [(2, { launch := 1, tenant := 0 })]) (l := winLaunch) 4 [2#64], by decide +kernel, rfl,
      by decide +kernel⟩,
    ⟨_, _, _, 0, waiting_asked (m := placedTables) (p := specPart []) (l := winLaunch) 5 [0#64], by decide +kernel, by decide +kernel, by decide +kernel⟩,
    ⟨_, _, _, (streamEntry 1).toNat, waiting_asked (m := streamMem (streamEntry 1)) (p := specPart []) (l := winLaunch) 5 [0#64], by decide +kernel,
      by decide +kernel, by decide +kernel, by decide +kernel⟩,
    ⟨asking (asked 5 [0#64] false) (streamMem (streamEntry 2)) (specPart []) winLaunch, _, _, (streamEntry 2).toNat, 0x29001C#64, waiting_asked 5 [0#64], by decide +kernel,
      by decide +kernel, by decide +kernel, by decide +kernel, by decide +kernel⟩,
    ⟨_, _, _, _, waiting_asked (m := placedTables) (p := {}) (l := plainLaunch) 0x42 [], by decide, by decide⟩,
    ⟨_, _, _, _, waiting_asked (m := placedTables) (p := {}) (l := plainLaunch) 0x123 [], by decide⟩⟩

end Sys2Proof.Tests

/-! ## Posts -/

namespace Sys2Proof.Tests

open Machine Claims

/-- A lane that posts what stands at v4: lines of 128 bytes. -/
def postFile (l : Nat) : RegFile := { v := [(4, ⟨BitVec.ofNat 32 (0x200000 + 128 * l), .b32⟩), (5, ⟨0#32, .b32⟩)] }

/-- A work request for port 0 (R323): 64 bytes at 0x300000, in packets of 1 KiB, to peer 0. -/
def request (op : Nat) : BitVec 512 := BitVec.ofNat 512 (0x0100 + op * 2 ^ 16 + 10 * 2 ^ 48 + 0x300000 * 2 ^ 64 + 64 * 2 ^ 128)

/-- Two threads about to post, with three launches of their group pending. -/
def posting (op : Nat) : State :=
  { placedLaunch State.reset with
    mem := putBytes (putBytes placedTables 0x200000 (bytesOf 64 (request op).toNat)) 0x200080 (bytesOf 64 (request op).toNat)
    slices := [(0, { tlb := [⟨0, 0, 0, placedLeaf, 0, 30⟩], peers := [(0, BitVec.ofNat 128 (1 + 2 ^ 64))] })]
    groups := [(3, { block := 2, launch := 1, threads := [(0, thr (postFile 0)), (1, thr (postFile 1))], pending := List.replicate 3 (0#64, 0#1024) })]
    issue := some { gid := 3, gang := [0, 1], pc := 0x100008#64 } }
def cPosting (op : Nat) : Ctx := ⟨3, groupOf (posting op) 3, [0, 1], 0x100008#64⟩
theorem ctx_posting (op : Nat) : ctxOf (posting op) = some (cPosting op) := by rfl

def rAt : OpR := ⟨pt, .v 4⟩
def postSpots (size op : Nat) : List Spot :=
  spots (fun s g l va => locateAligned s g l false va size .read) (posting op) (cPosting op) (fun v => BitVec.ofNat 64 (pairBits v (.reg (.v 4))))

def locatedB (size op : Nat) (x : Spot) : Bool :=
  x.va == BitVec.ofNat 64 (pairBits (viewOf (cPosting op) (posting op) (activeLanes (cPosting op) pt) x.lane) (.reg (.v 4))) && decide (x.va.toNat < 2 ^ 56) &&
    locateAligned (posting op) (cPosting op).g x.lane false x.va size .read == .at x.place x.pt x.commons

theorem posting_at {size op : Nat} (hl : activeLanes (cPosting op) pt = [0, 1])
    (ha : [0, 1].all (fun l => addressesB (viewOf (cPosting op) (posting op) [0, 1] l) (.reg (.v 4))) = true)
    (hx : (postSpots size op).all (locatedB size op) = true) : Posting (posting op) (cPosting op) rAt size (postSpots size op) := by
  refine ⟨by rw [show rAt.pred = pt from rfl, hl]; simp, (by decide : [0, 1].Nodup), fun l hm => ?_, ?_, fun x hm => ?_, rfl, rfl, rfl⟩
  · rw [show rAt.pred = pt from rfl, hl] at hm ⊢
    exact addresses_of (List.all_eq_true.mp ha l hm)
  · rw [show rAt.pred = pt from rfl, hl]
    simp [postSpots, spots, placeAt_lane]
  · have := List.all_eq_true.mp hx x hm
    simp only [locatedB, Bool.and_eq_true, beq_iff_eq, decide_eq_true_eq] at this
    exact ⟨this.1.1, this.1.2, this.2⟩

theorem witness_LaunchAndNetworkPosts :
    (∃ (o : OpR) (s : State) (c : Ctx) (xs : List Spot), Issues (.lnch o) (useReg o.a 2) s c ∧ Posting s c o 128 xs ∧ (∀ x ∈ xs, mustWait s c x = false) ∧
      c.g.sweepMark = none ∧ quiet s c.gid c.g (activeLanes c o.pred) = true ∧ (groupOf s c.gid).pending.length < 4 ∧
      xs.take (4 - (groupOf s c.gid).pending.length) ≠ [] ∧ xs.drop (4 - (groupOf s c.gid).pending.length) ≠ []) ∧
    (∃ (o : OpR) (i : Instr) (recv : Bool) (s : State) (c : Ctx) (xs : List Spot), (i, recv) ∈ posts o ∧ Issues i (useReg o.a 2) s c ∧ Posting s c o 64 xs ∧
      xs.filter (fun x => !requestOk s (launchOf s c.g.launch).part recv (BitVec.ofNat 512 (readPlace s (groupOf s c.gid) x.place 64))) ≠ []) ∧
    (∃ (o : OpR) (s : State) (c : Ctx) (xs : List Spot), Issues (.nsend o) (useReg o.a 2) s c ∧ Posting s c o 64 xs ∧
      xs.filter (fun x => !requestOk s (launchOf s c.g.launch).part false (BitVec.ofNat 512 (readPlace s (groupOf s c.gid) x.place 64))) = [] ∧
      Performed s c ∧ (∀ p, (portQueue s false p).length + xs.length ≤ 4096) ∧
      ∀ x ∈ xs, peerOk (mget 0#128 (sliceOf s (wrPort (BitVec.ofNat 512 (readPlace s (groupOf s c.gid) x.place 64)))).peers
        (wrPeer (BitVec.ofNat 512 (readPlace s (groupOf s c.gid) x.place 64)))) = true) ∧
    (∃ (o : OpR) (s : State) (c : Ctx) (xs : List Spot), Issues (.nrecv o) (useReg o.a 2) s c ∧ Posting s c o 64 xs ∧
      xs.filter (fun x => !requestOk s (launchOf s c.g.launch).part true (BitVec.ofNat 512 (readPlace s (groupOf s c.gid) x.place 64))) = [] ∧
      Performed s c ∧ ∀ p, (portQueue s true p).length + xs.length ≤ 4096) ∧
    (∃ o : OpNctr, isK o.a = false ∧ Somewhere (.nctr o) (isK o.a) o.pred (useReg o.a 2)
      (fun v => (partOf v.s (launchOf v.s v.g.launch).part).slices.getLsbD o.port.val = true)) ∧
    (∃ o : OpNctr, isK o.a = true ∧ Somewhere (.nctr o) (isK o.a) o.pred (useReg o.a 2)
      (fun v => (partOf v.s (launchOf v.s v.g.launch).part).slices.getLsbD o.port.val = true)) ∧
    (∃ (o : OpNctr) (s : State) (c : Ctx), Issues (.nctr o) (useReg o.a 2) s c ∧ isK o.a = false ∧ activeLanes c o.pred ≠ [] ∧
      (partOf s (launchOf s c.g.launch).part).slices.getLsbD o.port.val = false) := by
  have room : ∀ op recv p, (portQueue (posting op) recv p).length + (postSpots 64 op).length ≤ 4096 := by
    intro op recv p
    have h : (portQueue (posting op) recv p).length = 0 := by
      unfold portQueue sliceOf
      by_cases hp : p = 0
      · subst hp; cases recv <;> rfl
      · have : mget {} (posting op).slices p = {} := by simp [posting, mget, mfind, hp]
        rw [this]; cases recv <;> rfl
    rw [h]
    simp [postSpots, spots]
  refine ⟨⟨rAt, posting 0, cPosting 0, postSpots 128 0, issues_of (ctx_posting 0) (by decide +kernel), posting_at (by decide +kernel) (by decide +kernel)
      (by decide +kernel), by decide +kernel, rfl, by decide +kernel, by decide +kernel, by decide +kernel, by decide +kernel⟩,
    ⟨rAt, .nrecv rAt, true, posting 0, cPosting 0, postSpots 64 0, by simp [posts], issues_of (ctx_posting 0) (by decide +kernel),
      posting_at (by decide +kernel) (by decide +kernel) (by decide +kernel), by decide +kernel⟩,
    ⟨rAt, posting 0, cPosting 0, postSpots 64 0, issues_of (ctx_posting 0) (by decide +kernel),
      posting_at (by decide +kernel) (by decide +kernel) (by decide +kernel), by decide +kernel, performed_of rfl, room 0 false, by decide +kernel⟩,
    ⟨rAt, posting 3, cPosting 3, postSpots 64 3, issues_of (ctx_posting 3) (by decide +kernel),
      posting_at (by decide +kernel) (by decide +kernel) (by decide +kernel), by decide +kernel, performed_of rfl, room 3 true⟩,
    ⟨⟨pt, .v 8, 0, 0⟩, rfl, somewhere_v rfl (by decide +kernel) (by decide +kernel) (by rintro l (rfl | rfl) <;> decide +kernel)⟩,
    ⟨⟨pt, .k 8, 4, 0⟩, rfl, somewhere_k rfl (by decide +kernel) (by decide +kernel) (by decide +kernel)⟩,
    ⟨⟨pt, .v 8, 0, 3⟩, two, cTwo, issues_of ctx_two (by decide +kernel), rfl, by decide +kernel, by decide +kernel⟩⟩

/-! ## Wait and wake -/

/-- What WaitPlace says, by evaluation. -/
def waitPlaceB (s : State) (c : Ctx) (o : OpWwait) (uni : Bool) (v : View) (x : Spot) : Bool :=
  x.va == BitVec.ofNat 64 (pairBits v (.reg o.a)) && decide (x.va.toNat < 2 ^ 56) &&
    locateAligned s c.g x.lane uni x.va (waitSize o) .read == .at x.place x.pt x.commons && x.pt == .normal && !mustWait s c x &&
    (placePas x.place).all (fun pa => (mfind s.owner (lineOf pa)).isNone)

theorem wait_place {s : State} {c : Ctx} {o : OpWwait} {uni : Bool} {v : View} {x : Spot} (h : waitPlaceB s c o uni v x = true) :
    WaitPlace s c o uni v x := by
  simp only [waitPlaceB, Bool.and_eq_true, beq_iff_eq, decide_eq_true_eq, Bool.not_eq_true', List.all_eq_true, Option.isNone_iff_eq_none] at h
  exact ⟨h.1.1.1.1.1, h.1.1.1.1.2, h.1.1.1.2, h.1.1.2, h.1.2, h.2⟩

def waitReadyB (o : OpWwait) (v : View) : Bool :=
  addressesB v (.reg o.a) && readableB v (waitType o) o.b false && readableB v .n32 (.reg (.k o.k)) false

theorem wait_ready {o : OpWwait} {v : View} (h : waitReadyB o v = true) : WaitReady o v := by
  simp only [waitReadyB, Bool.and_eq_true] at h
  exact ⟨addresses_of h.1.1, readable_of h.1.2, fun _ => readable_of h.2⟩

/-- A wait of a gang's threads, or of a gang as one, that begins in a state. -/
def WaitsAt (o : OpWwait) (xs : List Spot) : Prop :=
  Issues (.wwait o) (useWait o) mem2 cMem ∧ isK o.a = false ∧ cMem.gang.Nodup ∧ activeLanes cMem o.pred ≠ [] ∧
    (∀ l ∈ cMem.gang, (threadOf cMem.g l).wwait = none) ∧ (∀ l ∈ activeLanes cMem o.pred, WaitReady o (viewOf cMem mem2 (activeLanes cMem o.pred) l)) ∧
    xs.map Spot.lane = activeLanes cMem o.pred ∧ mem2.poison = [] ∧
    ∀ x ∈ xs, WaitPlace mem2 cMem o false (viewOf cMem mem2 (activeLanes cMem o.pred) x.lane) x
def WaitsAsOne (o : OpWwait) (x : Spot) : Prop :=
  Issues (.wwait o) (useWait o) mem2 cMem ∧ isK o.a = true ∧ predVal cMem.g.uni.q o.pred = true ∧ (∀ l ∈ cMem.gang, (threadOf cMem.g l).wwait = none) ∧
    WaitReady o (viewOf cMem mem2 cMem.gang (lowest cMem.gang)) ∧ x.lane = lowest cMem.gang ∧ mem2.poison = [] ∧
    WaitPlace mem2 cMem o true (viewOf cMem mem2 cMem.gang (lowest cMem.gang)) x ∧ ∀ l ∈ cMem.gang, mustWait mem2 cMem { x with lane := l } = false

def waitV (cc : Fin 8) (k : Fin 1024) (tmo : Bool) : OpWwait := ⟨pt, .v 4, .reg (.v 8), k, cc, false, tmo, 2, false⟩
def waitK (cc : Fin 8) : OpWwait := ⟨pt, .k 4, .reg (.k 8), 0, cc, false, false, 2, false⟩
def waitSpots : List Spot := spots (fun s g l va => locateAligned s g l false va 4 .read) mem2 cMem (fun v => BitVec.ofNat 64 (pairBits v (.reg (.v 4))))
def waitSpot : Spot := placeAt (genericUni 4 .read) mem2 cMem 0 0x200000#64

theorem waits_at {o : OpWwait} (h : issuesB (.wwait o) (useWait o) mem2 cMem = true) (ha : isK o.a = false) (hp : o.pred = pt)
    (hr : [0, 1].all (fun l => waitReadyB o (viewOf cMem mem2 [0, 1] l)) = true)
    (hx : waitSpots.all (fun x => waitPlaceB mem2 cMem o false (viewOf cMem mem2 [0, 1] x.lane) x) = true) : WaitsAt o waitSpots := by
  have hl : activeLanes cMem o.pred = [0, 1] := by rw [hp]; decide +kernel
  refine ⟨issues_of ctx_mem h, ha, by decide, by rw [hl]; simp, by decide +kernel, fun l hm => ?_, ?_, rfl, fun x hm => ?_⟩
  · rw [hl] at hm ⊢
    exact wait_ready (List.all_eq_true.mp hr l hm)
  · rw [hl]
    simp [waitSpots, spots, placeAt_lane]
  · rw [hl]
    exact wait_place (List.all_eq_true.mp hx x hm)

theorem waits_as_one {o : OpWwait} (h : issuesB (.wwait o) (useWait o) mem2 cMem = true) (ha : isK o.a = true) (hp : o.pred = pt)
    (hr : waitReadyB o (viewOf cMem mem2 [0, 1] 0) = true) (hx : waitPlaceB mem2 cMem o true (viewOf cMem mem2 [0, 1] 0) waitSpot = true) :
    WaitsAsOne o waitSpot :=
  ⟨issues_of ctx_mem h, ha, by rw [hp]; decide +kernel, by decide +kernel, wait_ready hr, by decide +kernel, rfl, wait_place hx, by decide +kernel⟩

/-- A group whose first thread waits, at a line with an entry. -/
def waitingState (w : WaitReg) : State :=
  { mem2 with
    now := 2000
    parts := [(0, { state := .running, slices := 1#16, asids := [(0, BitVec.ofNat 128 (1 + 0x10000 * 2 ^ 64))]
                    wakes := [(5, { line := 0x8000, waiters := 1, due := [true] }), (6, { line := 0x8001, host := true })] })]
    groups := [(3, { block := 2, launch := 1, threads := [(0, { thr (memRegFile 0) with run := .blocked .wwait, wwait := some w }), (1, thr {})] })] }

/-- The same group off its core, with the thread released but not yet issued. -/
def awakened : State :=
  modGroup (waitingState {}) 3 (fun g => { g with where_ := .swappedOut, threads := [(0, { thr (memRegFile 0) with wwait := some { addr := 0x200010#64, registered := true } }), (1, thr {})] })

theorem holds_eq {v b : Nat} (h : v = b) : WaitHolds 0 v b := h
theorem fails_ne {v b : Nat} (h : v = b) : ¬ WaitHolds 1 v b := fun n => n h

theorem witness_WaitsAndWakes :
    (∃ o xs, WaitsAt o xs ∧ ∃ x ∈ xs, WaitHolds o.cc.val (readPlace mem2 (groupOf mem2 3) x.place (waitSize o))
      (srcBits (viewOf cMem mem2 [0, 1] x.lane) (waitType o) o.b)) ∧
    (∃ o xs, WaitsAt o xs ∧ o.tmo = true ∧ ∃ x ∈ xs, srcBits (viewOf cMem mem2 [0, 1] x.lane) .n32 (.reg (.k o.k)) = 0 ∧
      ¬ WaitHolds o.cc.val (readPlace mem2 (groupOf mem2 3) x.place (waitSize o)) (srcBits (viewOf cMem mem2 [0, 1] x.lane) (waitType o) o.b)) ∧
    (∃ o xs, WaitsAt o xs ∧ o.tmo = true ∧ ∃ x ∈ xs, srcBits (viewOf cMem mem2 [0, 1] x.lane) .n32 (.reg (.k o.k)) ≠ 0 ∧
      ¬ WaitHolds o.cc.val (readPlace mem2 (groupOf mem2 3) x.place (waitSize o)) (srcBits (viewOf cMem mem2 [0, 1] x.lane) (waitType o) o.b)) ∧
    (∃ o xs, WaitsAt o xs ∧ o.tmo = false ∧ ∃ x ∈ xs,
      ¬ WaitHolds o.cc.val (readPlace mem2 (groupOf mem2 3) x.place (waitSize o)) (srcBits (viewOf cMem mem2 [0, 1] x.lane) (waitType o) o.b)) ∧
    (∃ o x, WaitsAsOne o x ∧ WaitHolds o.cc.val (readPlace mem2 (groupOf mem2 3) x.place (waitSize o)) (srcBits (viewOf cMem mem2 [0, 1] 0) (waitType o) o.b)) ∧
    (∃ o x, WaitsAsOne o x ∧ o.tmo = false ∧
      ¬ WaitHolds o.cc.val (readPlace mem2 (groupOf mem2 3) x.place (waitSize o)) (srcBits (viewOf cMem mem2 [0, 1] 0) (waitType o) o.b)) ∧
    (∃ (s : State) (part : Nat) (value : DWord), (partOf s part).state ≠ .free ∧ OneEntryEach (partOf s part).wakes ∧
      value.toNat < 2 ^ 56 ∧ value.toNat / 2 % 32 = 0) ∧
    (∃ (s : State) (part : Nat) (value : DWord), (partOf s part).state ≠ .free ∧ OneEntryEach (partOf s part).wakes ∧
      ¬ (value.toNat < 2 ^ 56 ∧ value.toNat / 2 % 32 = 0) ∧ (sliceOf s (Config.home (value.toNat % 2 ^ 56 / 64) % 16)).errs.length < 256) ∧
    (∃ (s : State) (part n : Nat) (e : WakeEntry) (all : Bool) (rest : List Bool), mfind (partOf s part).wakes n = some e ∧ e.due = all :: rest ∧
      ∃ gid g l th w, mfind s.groups gid = some g ∧ mfind g.threads l = some th ∧ th.run = .blocked .wwait ∧ th.wwait = some w ∧ w.registered = true ∧
        wakeLine w.addr = e.line ∧ (launchOf s g.launch).part = part ∧ (launchOf s g.launch).asid = e.asid ∧ g.where_ = .resident ∧
        (coreOf s g.core).stopped = false) ∧
    (∃ (s : State) (part n : Nat) (e : WakeEntry) (all : Bool) (rest : List Bool), mfind (partOf s part).wakes n = some e ∧ e.due = all :: rest ∧
      ∃ gid g l th w, mfind s.groups gid = some g ∧ mfind g.threads l = some th ∧ th.run = .ready ∧ th.wwait = some w ∧ w.registered = true ∧
        wakeLine w.addr = e.line ∧ (launchOf s g.launch).part = part ∧ (launchOf s g.launch).asid = e.asid ∧ g.where_ = .swappedOut) ∧
    (∃ (s : State) (gid l : Nat) (g : Group) (th : Thread) (w : WaitReg), mfind s.groups gid = some g ∧ mfind g.threads l = some th ∧
      th.run = .blocked .wwait ∧ th.wwait = some w ∧ g.where_ = .resident ∧ (coreOf s g.core).stopped = false ∧
      (∃ n, w.limit = some n ∧ w.since + 1000 * n ≤ s.now * 20 / 17) ∧ w.registered = false ∧ w.polled + 850 ≤ s.now) := by
  have errless : ∀ n, (sliceOf (waitingState ({} : WaitReg)) n).errs.length < 256 := by
    intro n
    by_cases h : n = 0
    · subst h; decide +kernel
    · have : sliceOf (waitingState ({} : WaitReg)) n = ({} : Slice) := by
        show mget ({} : Slice) [(0, _)] n = _
        simp [mget, mfind, h]
      rw [this]; decide
  refine ⟨⟨waitV 0 0 false, _, waits_at (by decide +kernel) rfl rfl (by decide +kernel) (by decide +kernel), ?_⟩,
    ⟨waitV 1 8 true, _, waits_at (by decide +kernel) rfl rfl (by decide +kernel) (by decide +kernel), rfl, ?_⟩,
    ⟨waitV 1 4 true, _, waits_at (by decide +kernel) rfl rfl (by decide +kernel) (by decide +kernel), rfl, ?_⟩,
    ⟨waitV 1 0 false, _, waits_at (by decide +kernel) rfl rfl (by decide +kernel) (by decide +kernel), rfl, ?_⟩,
    ⟨waitK 0, _, waits_as_one (by decide +kernel) rfl rfl (by decide +kernel) (by decide +kernel), ?_⟩,
    ⟨waitK 1, _, waits_as_one (by decide +kernel) rfl rfl (by decide +kernel) (by decide +kernel), rfl, ?_⟩,
    ⟨waitingState {}, 0, 0x200001#64, by decide +kernel, ⟨by decide +kernel, by decide +kernel⟩, by decide⟩,
    ⟨waitingState {}, 0, 0x200002#64, by decide +kernel, ⟨by decide +kernel, by decide +kernel⟩, by decide, errless _⟩,
    ⟨waitingState { addr := 0x200010#64, registered := true }, 0, 5, { line := 0x8000, waiters := 1, due := [true] }, true, [], rfl, rfl, 3,
      groupOf (waitingState { addr := 0x200010#64, registered := true }) 3, 0, _, { addr := 0x200010#64, registered := true }, rfl, rfl, rfl, rfl, rfl,
      by decide +kernel, by decide +kernel, by decide +kernel, rfl, by decide +kernel⟩,
    ⟨awakened, 0, 5, { line := 0x8000, waiters := 1, due := [true] }, true, [], rfl, rfl, 3, groupOf awakened 3, 0, _, { addr := 0x200010#64, registered := true },
      rfl, rfl, rfl, rfl, rfl, by decide +kernel, by decide +kernel, by decide +kernel, rfl⟩,
    ⟨waitingState { limit := some 2 }, 3, 0, groupOf (waitingState { limit := some 2 }) 3, _, { limit := some 2 }, rfl, rfl, rfl, rfl, rfl, by decide +kernel,
      ⟨2, rfl, by decide +kernel⟩, rfl, by decide +kernel⟩⟩
  · exact ⟨waitSpots.headD waitSpot, by decide +kernel, holds_eq (by decide +kernel)⟩
  · exact ⟨waitSpots.headD waitSpot, by decide +kernel, by decide +kernel, fails_ne (by decide +kernel)⟩
  · exact ⟨waitSpots.headD waitSpot, by decide +kernel, by decide +kernel, fails_ne (by decide +kernel)⟩
  · exact ⟨waitSpots.headD waitSpot, by decide +kernel, fails_ne (by decide +kernel)⟩
  · exact holds_eq (by decide +kernel)
  · exact fails_ne (by decide +kernel)

end Sys2Proof.Tests

/-! ## Windows -/

namespace Sys2Proof.Tests

open Machine Claims

/-- A spec of sliding windows with panes, of two words, whose records go to stream 9. -/
def slidingSpec : Spec :=
  { rcd := BitVec.ofNat 1024 (0x0100 + 1 * 2 ^ 16 + 2 ^ 19 + 1 * 2 ^ 28 + 2 * 2 ^ 32 + 9 * 2 ^ 40 + 2 ^ 52 + 1000 * 2 ^ 448 + 100 * 2 ^ 480), launch := 1 }

def windowRecord : Record := { key := 7#64, time := 50#64, payload := List.replicate 12 1#32 }

/-- An activation of that spec in window 100, of key 7. -/
def inWindow (kind : ActKind) (flag : Bool) : Activation :=
  { kind := kind, spec := 5, key := 7#64, win := 100, other := 101, rcd := some windowRecord, winStart := 0#64, winEnd := 1000#64, closeFlag := flag,
    emits := [⟨9, windowRecord⟩] }

/-- A gang of activations, and their slice. -/
def handling (kind : ActKind) (flag : Bool) (todo : List Activation) (gang : List Nat) : State :=
  let th : Thread := { thr { v := regs 40 } with act := some (inWindow kind flag) }
  { placedLaunch State.reset with
    parts := [(0, { state := .running, slices := 1#16, specs := [(5, slidingSpec)], streams := [(9, { src := 3 })] })]
    slices := [(0, { tlb := [⟨0, 0, 0, placedLeaf, 0, 30⟩]
                     windows := [(100, { spec := 5, key := 7#64, start := 0, stop := 1000 }), (101, { spec := 5, key := 7#64, start := 500, stop := 1500 })]
                     keyqs := [{ spec := 5, key := 7#64, running := 1, todo := todo }] })]
    groups := [(3, { block := 2, launch := 1, threads := [(0, th), (1, th)], activation := true })]
    issue := some { gid := 3, gang := gang, pc := 0x100008#64 } }
def cHandling (kind : ActKind) (flag : Bool) (todo : List Activation) (gang : List Nat) : Ctx := ⟨3, groupOf (handling kind flag todo gang) 3, gang, 0x100008#64⟩
theorem ctx_handling (kind : ActKind) (flag : Bool) (todo : List Activation) : ctxOf (handling kind flag todo [0, 1]) = some (cHandling kind flag todo [0, 1]) := by rfl
theorem ctx_handling1 (kind : ActKind) (flag : Bool) (todo : List Activation) : ctxOf (handling kind flag todo [0]) = some (cHandling kind flag todo [0]) := by rfl

theorem runs_under {kind : ActKind} {flag : Bool} {todo : List Activation} {gang : List Nat} {l : Nat} (hl : l = 0 ∨ l = 1) :
    RunsUnder (handling kind flag todo gang) (cHandling kind flag todo gang).g l (inWindow kind flag) slidingSpec := by
  rcases hl with rfl | rfl <;> exact ⟨rfl, rfl⟩

def paneWord : OpPane := ⟨pt, .v 8, .reg (.v 1)⟩

theorem active_handling (kind : ActKind) (flag : Bool) : activeLanes (cHandling kind flag [] [0, 1]) pt = [0, 1] := by
  cases kind <;> cases flag <;> decide +kernel

/-- What `WindowHandlersAndCommits` has of a WEND in one thread. -/
def EndsAt (p : Pred) (s : State) (c : Ctx) (l : Nat) (a : Activation) (x : Spec) : Prop :=
  c.g.activation = true ∧ Issues (.wend p) [] s c ∧ activeLanes c p = [l] ∧ RunsUnder s c.g l a x ∧ c.g.sweepMark = none ∧ quiet s c.gid c.g [l] = true

theorem ends_at {kind : ActKind} {flag : Bool} {todo : List Activation}
    (hb : issuesB (.wend pt) [] (handling kind flag todo [0]) (cHandling kind flag todo [0]) = true)
    (hl : activeLanes (cHandling kind flag todo [0]) pt = [0]) (hq : quiet (handling kind flag todo [0]) 3 (cHandling kind flag todo [0]).g [0] = true) :
    EndsAt pt (handling kind flag todo [0]) (cHandling kind flag todo [0]) 0 (inWindow kind flag) slidingSpec :=
  ⟨rfl, issues_of (ctx_handling1 kind flag todo) hb, hl, runs_under (.inl rfl), rfl, hq⟩

theorem pane_ready {l : Nat} (hl : l = 0 ∨ l = 1) :
    PaneReady (handling .close false [] [0, 1]) (cHandling .close false [] [0, 1]) paneWord l (inWindow .close false) slidingSpec := by
  rcases hl with rfl | rfl <;> exact ⟨⟨rfl, rfl⟩, counts_of (by decide +kernel), rfl, by decide +kernel, by decide +kernel, by decide +kernel⟩

theorem witness_WindowHandlersAndCommits :
    (∃ (i : Instr) (p : Pred) (us : List RegUse) (s : State) (c : Ctx), windowRows [(i, p, us)] ∧ Issues i us s c ∧ c.g.activation = false ∧
      activeLanes c p ≠ []) ∧
    (∃ (o : OpWemit) (s : State) (c : Ctx) (a : Nat → Activation) (x : Nat → Spec), c.g.activation = true ∧
      Issues (.wemit o) (useReg o.key 2 ++ useReg o.time 2 ++ useV o.first.val 12) s c ∧ activeLanes c o.pred ≠ [] ∧
      ∀ l ∈ activeLanes c o.pred, RunsUnder s c.g l (a l) (x l) ∧ spOut (x l).rcd = true ∧ (a l).emits.length < 16) ∧
    (∃ (o : OpWfwd) (s : State) (c : Ctx) (a : Nat → Activation) (x : Nat → Spec) (r : Nat → Record) (st : Stream),
      c.g.activation = true ∧ Issues (.wfwd o) (if o.keep then [] else useReg o.a 2) s c ∧ o.keep = false ∧ activeLanes c o.pred ≠ [] ∧
      streamOf s (launchOf s c.g.launch).part o.stream.val = some st ∧ st.src = 3 ∧
      ∀ l ∈ activeLanes c o.pred, RunsUnder s c.g l (a l) (x l) ∧ (a l).kind ≠ .close ∧ (a l).rcd = some (r l) ∧ (a l).emits.length < 16) ∧
    (∃ (p : Pred) (s : State) (c : Ctx), c.g.activation = true ∧ Issues (.wclose p) [] s c ∧ activeLanes c p ≠ []) ∧
    (∃ (o : OpPane) (s : State) (c : Ctx) (a : Nat → Activation) (x : Nat → Spec), c.g.activation = true ∧
      Issues (.wpnld o) (useReg o.a ++ useSrc o.b) s c ∧ activeLanes c o.pred ≠ [] ∧ ∀ l ∈ activeLanes c o.pred, PaneReady s c o l (a l) (x l)) ∧
    (∃ (o : OpPane) (s : State) (c : Ctx) (a : Nat → Activation) (x : Nat → Spec), c.g.activation = true ∧ c.gang.Nodup ∧
      Issues (.wpnst o) (useReg o.a ++ useSrc o.b) s c ∧ activeLanes c o.pred ≠ [] ∧ ∀ l ∈ activeLanes c o.pred, PaneReady s c o l (a l) (x l)) ∧
    (∃ (p : Pred) (s : State) (c : Ctx) (l : Nat) (a : Activation) (x : Spec) (w : Window) (st : Stream), EndsAt p s c l a x ∧ a.kind = .record ∧ a.closeFlag = true ∧
      mfind (sliceOf s a.slice).windows a.win = some w ∧ streamOf s (launchOf s c.g.launch).part 9 = some st ∧ st.src = 3 ∧
      (keyQueue s a.slice a.spec a.key).todo = []) ∧
    (∃ (p : Pred) (s : State) (c : Ctx) (l : Nat) (a : Activation) (x : Spec), EndsAt p s c l a x ∧ a.kind = .late ∧ a.closeFlag = false ∧
      specFull s a.slice a.spec = false ∧ ∃ b rest, (keyQueue s a.slice a.spec a.key).todo = b :: rest) ∧
    (∃ (p : Pred) (s : State) (c : Ctx) (l : Nat) (a : Activation) (x : Spec) (w : Window), EndsAt p s c l a x ∧ a.kind = .merge ∧ a.other ≠ a.win ∧
      mfind (sliceOf s a.slice).windows a.win = some w) ∧
    (∃ (p : Pred) (s : State) (c : Ctx) (l : Nat) (a : Activation) (x : Spec), EndsAt p s c l a x ∧ a.kind = .close) := by
  refine ⟨⟨.wend pt, pt, [], two, cTwo, .inl ⟨rfl, rfl⟩, issues_of ctx_two (by decide +kernel), rfl, by decide +kernel⟩,
    ⟨⟨pt, .v 4, .v 6, 16⟩, handling .record false [] [0, 1], cHandling .record false [] [0, 1], fun _ => inWindow .record false, fun _ => slidingSpec, rfl,
      issues_of (ctx_handling ..) (by decide +kernel), by decide +kernel,
      gang_forall (active_handling ..) ⟨runs_under (.inl rfl), by decide +kernel, by decide⟩ ⟨runs_under (.inr rfl), by decide +kernel, by decide⟩⟩,
    ⟨⟨pt, .v 4, 9, false⟩, handling .record false [] [0, 1], cHandling .record false [] [0, 1], fun _ => inWindow .record false, fun _ => slidingSpec,
      fun _ => windowRecord, { src := 3 }, rfl, issues_of (ctx_handling ..) (by decide +kernel), rfl, by decide +kernel, rfl, rfl,
      gang_forall (active_handling ..) ⟨runs_under (.inl rfl), by decide, rfl, by decide⟩ ⟨runs_under (.inr rfl), by decide, rfl, by decide⟩⟩,
    ⟨pt, handling .record false [] [0, 1], cHandling .record false [] [0, 1], rfl, issues_of (ctx_handling ..) (by decide +kernel), by decide +kernel⟩,
    ⟨paneWord, handling .close false [] [0, 1], cHandling .close false [] [0, 1], fun _ => inWindow .close false, fun _ => slidingSpec, rfl,
      issues_of (ctx_handling ..) (by decide +kernel), by decide +kernel, gang_forall (active_handling ..) (pane_ready (.inl rfl)) (pane_ready (.inr rfl))⟩,
    ⟨paneWord, handling .close false [] [0, 1], cHandling .close false [] [0, 1], fun _ => inWindow .close false, fun _ => slidingSpec, rfl, by decide,
      issues_of (ctx_handling ..) (by decide +kernel), by decide +kernel, gang_forall (active_handling ..) (pane_ready (.inl rfl)) (pane_ready (.inr rfl))⟩,
    ⟨pt, handling .record true [] [0], cHandling .record true [] [0], 0, inWindow .record true, slidingSpec, _, _,
      ends_at (by decide +kernel) (by decide +kernel) (by decide +kernel), rfl, rfl, rfl, rfl, rfl, by decide +kernel⟩,
    ⟨pt, handling .late false [inWindow .close false] [0], cHandling .late false [inWindow .close false] [0], 0, inWindow .late false, slidingSpec,
      ends_at (by decide +kernel) (by decide +kernel) (by decide +kernel), rfl, rfl, by decide +kernel, inWindow .close false, [], by decide +kernel⟩,
    ⟨pt, handling .merge false [] [0], cHandling .merge false [] [0], 0, inWindow .merge false, slidingSpec, _,
      ends_at (by decide +kernel) (by decide +kernel) (by decide +kernel), rfl, by decide, rfl⟩,
    ⟨pt, handling .close false [] [0], cHandling .close false [] [0], 0, inWindow .close false, slidingSpec,
      ends_at (by decide +kernel) (by decide +kernel) (by decide +kernel), rfl⟩⟩

/-- A spec of tumbling windows of length 1000, with handlers. -/
def tumblingSpec (close late : Nat) : Spec :=
  { rcd := BitVec.ofNat 1024 (0x0100 + 1 * 2 ^ 28 + 2 * 2 ^ 32 + 1000 * 2 ^ 448 + 0x100000 * 2 ^ 704 + close * 2 ^ 832 + late * 2 ^ 896), launch := 1 }

/-- A slice whose key 7 of that spec has an event at its turn. -/
def windowing (x : Spec) (ws : Map Window) (e : KeyEvent) (inbox : List SliceMsg) (acts : List Activation) : State :=
  { placedLaunch State.reset with
    parts := [(0, { state := .running, slices := 1#16, specs := [(5, x)], streams := [(9, { src := 3, specs := [5], pending := [windowRecord] })] })]
    slices := [(0, { wclasses := [4, 4, 4, 4], windows := ws, keyqs := [{ spec := 5, key := 7#64, events := [e] }], inbox := inbox, actq := acts })] }

def deliverNow (w : Int) : KeyEvent := .deliver 9 windowRecord w

theorem delivers_ {x : Spec} {ws : Map Window} {w : Int} (hp : slicePart (windowing x ws (deliverNow w) [] []) 0 = some 0)
    (h : actFull (windowing x ws (deliverNow w) [] []) 0 0 x.tenant = false) :
    Delivers_ (windowing x ws (deliverNow w) [] []) 0 5 7#64 0 x 9 windowRecord w [] :=
  ⟨hp, rfl, rfl, rfl, h⟩

def liveWindow : Window := { spec := 5, key := 7#64, start := 0, stop := 1000 }

theorem witness_WindowEngine :
    (∃ s slice n k part x stream r w rest, Delivers_ s slice n k part x stream r w rest ∧ spKind x.rcd = 0 ∧ spPane x.rcd = false ∧ 0 < spSize x.rcd ∧
      r.time.toInt - r.time.toInt % (spSize x.rcd : Int) + (spSize x.rcd : Int) + (spLateness x.rcd : Int) ≤ w ∧ spLate x.rcd ≠ 0#64) ∧
    (∃ s slice n k part x stream r w rest, Delivers_ s slice n k part x stream r w rest ∧ spKind x.rcd = 0 ∧ spPane x.rcd = false ∧ 0 < spSize x.rcd ∧
      r.time.toInt - r.time.toInt % (spSize x.rcd : Int) + (spSize x.rcd : Int) + (spLateness x.rcd : Int) ≤ w ∧ spLate x.rcd = 0#64 ∧ spFault x.rcd = 0 ∧
      spStop x.rcd = false) ∧
    (∃ s slice n k part x stream r w rest id y, Delivers_ s slice n k part x stream r w rest ∧ spKind x.rcd = 0 ∧ spPane x.rcd = false ∧ 0 < spSize x.rcd ∧
      ¬ r.time.toInt - r.time.toInt % (spSize x.rcd : Int) + (spSize x.rcd : Int) + (spLateness x.rcd : Int) ≤ w ∧
      (sliceOf s slice).windows.find? (fun e => e.2.spec == n && e.2.key == k && e.2.isPane == false &&
        e.2.start == r.time.toInt - r.time.toInt % (spSize x.rcd : Int)) = some (id, y) ∧ mfind (sliceOf s slice).windows id = some y) ∧
    (∃ s slice n k part x stream r w rest, Delivers_ s slice n k part x stream r w rest ∧ spKind x.rcd = 0 ∧ spPane x.rcd = false ∧ 0 < spSize x.rcd ∧
      ¬ r.time.toInt - r.time.toInt % (spSize x.rcd : Int) + (spSize x.rcd : Int) + (spLateness x.rcd : Int) ≤ w ∧
      (sliceOf s slice).windows.find? (fun e => e.2.spec == n && e.2.key == k && e.2.isPane == false &&
        e.2.start == r.time.toInt - r.time.toInt % (spSize x.rcd : Int)) = none ∧
      mfind (sliceOf s slice).windows (slice * 2 ^ 60 + (sliceOf s slice).wcount) = none ∧ spCapacity x.rcd = 0 ∧
      ((sliceOf s slice).windows.filter (fun e => e.2.cls == storeClass (spL x.rcd))).length < ((sliceOf s slice).wclasses[storeClass (spL x.rcd)]?).getD 0) ∧
    (∃ (s : State) (part n : Nat) (st : Stream) (r : Record) (rest : List Record), streamOf s part n = some st ∧ st.src ≠ 2 ∧ st.stopped = false ∧
      (partOf s part).state = .running ∧ st.pending = r :: rest ∧
      ∀ i ∈ st.specs, ∀ x, specOf s part i = some x → actFull s part (ingestSlice s part n st) x.tenant = false) ∧
    (∃ (s : State) (slice part n : Nat) (w : Int) (rest : List SliceMsg), slicePart s slice = some part ∧ (sliceOf s slice).inbox = .mark n w :: rest) ∧
    (∃ (s : State) (slice part n stream : Nat) (k : DWord) (x : Spec) (w : Int) (rest : List KeyEvent), slicePart s slice = some part ∧
      specOf s part n = some x ∧ keyIdle (keyQueue s slice n k) = true ∧ (keyQueue s slice n k).events = .mark stream w :: rest ∧
      ((sliceOf s slice).windows.map Prod.fst).Nodup ∧ ∃ id y, (id, y) ∈ (sliceOf s slice).windows ∧ y.spec = n ∧ y.key = k ∧ y.isPane = false ∧
        y.closing = false ∧ spKind x.rcd ≤ 1 ∧ y.stop + (spLateness x.rcd : Int) ≤ w) ∧
    (∃ (s : State) (slice part n stream id : Nat) (k : DWord) (x : Spec) (m : Option Int) (y : Window) (rest : List KeyEvent), slicePart s slice = some part ∧
      specOf s part n = some x ∧ keyIdle (keyQueue s slice n k) = true ∧ (keyQueue s slice n k).events = .close stream id m :: rest ∧
      mfind (sliceOf s slice).windows id = some y ∧ (∀ w, m = some w → y.stop + spLateness x.rcd ≤ w) ∧ spClose x.rcd = 0#64) ∧
    (∃ (s : State) (slice part n stream id : Nat) (k : DWord) (x : Spec) (m : Option Int) (y : Window) (rest : List KeyEvent), slicePart s slice = some part ∧
      specOf s part n = some x ∧ keyIdle (keyQueue s slice n k) = true ∧ (keyQueue s slice n k).events = .close stream id m :: rest ∧
      mfind (sliceOf s slice).windows id = some y ∧ (∀ w, m = some w → y.stop + spLateness x.rcd ≤ w) ∧ spClose x.rcd ≠ 0#64 ∧ actFull s part slice x.tenant = false) ∧
    (∃ (s : State) (slice core part : Nat) (a : Activation) (x : Spec), slicePart s slice = some part ∧
      (sliceOf s slice).actq.find? (fun b => (specOf s part b.spec).any (fun y => tenantRuns (partOf s part) y.tenant)) = some a ∧
      specOf s part a.spec = some x ∧ (partOf s part).state = .running ∧ promiseDue s part = false ∧
      (partOf s part).slices.getLsbD (coreSlice core) = true ∧ freeActIdx s x.launch < 24576 ∧ (launchOf s x.launch).final = false ∧
      unitRoom s [core] [actNeed (launchOf s x.launch).rcd] = true ∧ coreSlice core = slice ∧ a.kind = .record) := by
  refine ⟨⟨_, 0, 5, 7#64, 0, tumblingSpec 0 0x100000, 9, windowRecord, 5000, [], delivers_ (x := tumblingSpec 0 0x100000) (ws := []) (by decide +kernel) (by decide +kernel), by decide +kernel⟩,
    ⟨_, 0, 5, 7#64, 0, tumblingSpec 0 0, 9, windowRecord, 5000, [], delivers_ (x := tumblingSpec 0 0) (ws := []) (by decide +kernel) (by decide +kernel), by decide +kernel⟩,
    ⟨_, 0, 5, 7#64, 0, tumblingSpec 0 0, 9, windowRecord, 10, [], 100, liveWindow, delivers_ (x := tumblingSpec 0 0) (ws := [(100, liveWindow)]) (by decide +kernel) (by decide +kernel),
      by decide +kernel⟩,
    ⟨_, 0, 5, 7#64, 0, tumblingSpec 0 0, 9, windowRecord, 10, [], delivers_ (x := tumblingSpec 0 0) (ws := []) (by decide +kernel) (by decide +kernel), by decide +kernel⟩,
    ⟨windowing (tumblingSpec 0 0) [] (deliverNow 0) [] [], 0, 9, _, windowRecord, [], rfl, by decide, rfl, by decide +kernel, rfl, fun i hi x hx => ?_⟩,
    ⟨windowing (tumblingSpec 0 0) [] (deliverNow 0) [.mark 9 77] [], 0, 0, 9, 77, [], by decide +kernel, rfl⟩,
    ⟨windowing (tumblingSpec 0 0) [(100, liveWindow)] (.mark 9 5000) [] [], 0, 0, 5, 9, 7#64, tumblingSpec 0 0, 5000, [], by decide +kernel, rfl, by decide +kernel, rfl,
      by decide +kernel, 100, liveWindow, by decide +kernel, rfl, rfl, rfl, rfl, by decide +kernel, by decide +kernel⟩,
    ⟨windowing (tumblingSpec 0 0) [(100, liveWindow)] (.close 9 100 (some 5000)) [] [], 0, 0, 5, 9, 100, 7#64, tumblingSpec 0 0, some 5000, liveWindow, [],
      by decide +kernel, rfl, by decide +kernel, rfl, rfl, by rintro w ⟨⟩; decide +kernel, by decide +kernel⟩,
    ⟨windowing (tumblingSpec 0x100000 0) [(100, liveWindow)] (.close 9 100 none) [] [], 0, 0, 5, 9, 100, 7#64, tumblingSpec 0x100000 0, none, liveWindow, [],
      by decide +kernel, rfl, by decide +kernel, rfl, rfl, by rintro w ⟨⟩, by decide +kernel, by decide +kernel⟩,
    ⟨windowing (tumblingSpec 0 0) [(100, liveWindow)] (deliverNow 0) [] [inWindow .record false], 0, 1, 0, inWindow .record false, tumblingSpec 0 0,
      by decide +kernel, by decide +kernel, rfl, by decide +kernel, by decide +kernel, by decide +kernel, by decide +kernel, by decide +kernel, by decide +kernel, by decide, rfl⟩⟩
  have : i = 5 := by simpa using hi
  subst this
  have : x = tumblingSpec 0 0 := by
    have h : specOf (windowing (tumblingSpec 0 0) [] (deliverNow 0) [] []) 0 5 = some (tumblingSpec 0 0) := rfl
    exact (Option.some.inj (h.symm.trans hx)).symm
  subst this
  decide +kernel

end Sys2Proof.Tests

/-! ## Groups, memory and recovery -/

namespace Sys2Proof.Tests

open Machine Claims

/-- A partition of every slice homes every address. -/
theorem all_home (x : Nat) : (0xFFFF#16).getLsbD (x % 16) = true := by
  have : x % 16 < 16 := Nat.mod_lt _ (by decide)
  generalize x % 16 = n at this
  revert n
  decide

/-- The two threads in a partition of every slice. -/
def everywhere : State := { two with parts := [(0, { state := .running, slices := 0xFFFF#16 })] }

/-- A core with a store unacknowledged and bytes that it holds at a narrow scope. -/
def holding : State := { two with cores := [(0, { stPend := 1, held := [(0x200000, 7#8)] })], owner := [(0x8000, 0)] }

theorem witness_MemoryEvents :
    (∃ s core n, (coreOf s core).stPend = n + 1 ∧ (coreOf s core).stopped = false) ∧
    (∃ (s : State) (line core : Nat), mfind s.owner line = some core ∧ (coreOf s core).stopped = false ∧ ((coreOf s core).held.map Prod.fst).Nodup) ∧
    (∃ (s : State) (part addr size : Nat), (partOf s part).state ≠ .free ∧ Homed s part addr size ∧ s.owner = []) ∧
    (∃ (s : State) (line : Nat), (sliceOf s (Config.home line % 16)).errs.length < 256) := by
  refine ⟨⟨holding, 0, 0, by decide +kernel, by decide +kernel⟩, ⟨holding, 0x8000, 0, by decide +kernel, by decide +kernel, by decide +kernel⟩,
    ⟨everywhere, 0, 0x1000, 64, by decide +kernel, ⟨by decide, fun _ _ => all_home _⟩, rfl⟩, ⟨State.reset, 0, ?_⟩⟩
  rw [show sliceOf State.reset (Config.home 0 % 16) = {} from rfl]
  decide

/-- A group of two threads, of which the first is in an open region or none is, in a block relaunched `n` times. -/
def recovering (region : Option Region) (seen : Bool) : State :=
  { two with
    blocks := [(2, { launch := 1, cores := [0], seen := seen })]
    groups := [(3, { block := 2, launch := 1, threads := [(0, { thr {} with region := region }), (1, thr {})] })] }

/-- What `RecoveryLadder` has of an error that lane 0 consumes. -/
def ErrorAt (s : State) (g : Group) (lanes : BitVec 128) (sub : Nat) (mismatch : Bool) : Prop :=
  mfind s.groups 3 = some g ∧ g.where_ = .resident ∧ sub ≤ 3 ∧ (mismatch = true → isProt s g = true) ∧ Listed g.threads 128 ∧
    ∃ l th, mfind g.threads l = some th ∧ lanes.getLsbD l = true ∧ th.run ≠ .ended

theorem error_at (region : Option Region) (seen : Bool) :
    ErrorAt (recovering region seen) (groupOf (recovering region seen) 3) 1#128 2 false :=
  ⟨rfl, rfl, by decide, by simp, ⟨(by decide : ([0, 1] : List Nat).Nodup), by simp [recovering, groupOf, mget, mfind]⟩,
    0, { thr {} with region := region }, rfl, by decide, by simp [thr]⟩

/-- The same of a mismatch in a protected launch, with a sweep of the group that runs. -/
def protLaunch : State :=
  { recovering none true with
    launches := [(1, { rcd := placedRecord ||| BitVec.ofNat 1024 (2 ^ 18), level := 1, nextBlock := 1 })]
    cores := [(0, { sweeps := [{ cap := { group := 3 }, started := true }] })] }

/-- A thread of an activation whose block has passed a visibility point. -/
def rerunning : State :=
  { two with
    blocks := [(2, { launch := 1, cores := [0], seen := true, isAct := true })]
    groups := [(3, { block := 2, launch := 1, activation := true, threads := [(0, { thr {} with act := some { spec := 5 } })] })] }

theorem witness_RecoveryLadder :
    (∃ s g lanes sub mismatch, ErrorAt s g lanes sub mismatch ∧
      ∀ l th, mfind g.threads l = some th → lanes.getLsbD l = true → th.run ≠ .ended → th.region.isSome = true) ∧
    (∃ s g lanes sub mismatch, ErrorAt s g lanes sub mismatch ∧ (∃ l th, mfind g.threads l = some th ∧ lanes.getLsbD l = true ∧ th.run ≠ .ended ∧ th.region = none) ∧
      (blockOf s g.block).seen = false ∧ (blockOf s g.block).relaunches < 3 ∧ (blockOf s g.block).isAct = false ∧
      (mfind s.launches (blockOf s g.block).launch).isSome = true) ∧
    (∃ s g lanes sub mismatch, ErrorAt s g lanes sub mismatch ∧ (∃ l th, mfind g.threads l = some th ∧ lanes.getLsbD l = true ∧ th.run ≠ .ended ∧ th.region = none) ∧
      (blockOf s g.block).seen = true ∧ (mfind s.launches g.launch).isSome = true ∧ (launchOf s g.launch).final = false) ∧
    (∃ s g lanes, ErrorAt s g lanes 1 true ∧ (∃ w ∈ (coreOf s g.core).sweeps, w.cap.group = 3 ∧ w.started = true) ∧
      (blockOf s g.block).seen = true ∧ (blockOf s g.block).isAct = false ∧ (mfind s.launches g.launch).isSome = true ∧ (launchOf s g.launch).final = false) ∧
    (∃ s g lanes sub mismatch, ErrorAt s g lanes sub mismatch ∧ (∃ l th, mfind g.threads l = some th ∧ lanes.getLsbD l = true ∧ th.run ≠ .ended ∧ th.region = none) ∧
      (blockOf s g.block).isAct = true ∧ (blockOf s g.block).relaunches < 3 ∧ ∃ l th a, mfind g.threads l = some th ∧ th.run ≠ .ended ∧ th.act = some a) := by
  refine ⟨⟨_, _, _, _, _, error_at (some {}) false, fun l th h hl _ => ?_⟩,
    ⟨_, _, _, _, _, error_at none false, ⟨0, thr {}, rfl, by decide, by decide, rfl⟩, by decide +kernel, by decide +kernel, by decide +kernel, by decide +kernel⟩,
    ⟨_, _, _, _, _, error_at none true, ⟨0, thr {}, rfl, by decide, by decide, rfl⟩, by decide +kernel, by decide +kernel, by decide +kernel⟩,
    ⟨protLaunch, groupOf protLaunch 3, 1#128, ⟨rfl, rfl, by decide, fun _ => by decide +kernel, ⟨(by decide : ([0, 1] : List Nat).Nodup), by decide +kernel⟩,
      0, thr {}, rfl, by decide, by decide⟩, ⟨_, .head _, rfl, rfl⟩, by decide +kernel, by decide +kernel, by decide +kernel, by decide +kernel⟩,
    ⟨rerunning, groupOf rerunning 3, 1#128, 2, false, ⟨rfl, rfl, by decide, nofun, ⟨(by decide : ([0] : List Nat).Nodup), by decide +kernel⟩,
      0, { thr {} with act := some { spec := 5 } }, rfl, by decide, by decide⟩, ⟨0, { thr {} with act := some { spec := 5 } }, rfl, by decide, by decide, rfl⟩,
      by decide +kernel, by decide +kernel, 0, { thr {} with act := some { spec := 5 } }, { spec := 5 }, rfl, by decide, rfl⟩⟩
  have h0 : l = 0 ∨ l = 1 := by
    by_cases h0 : l = 0
    · exact .inl h0
    · by_cases h1 : l = 1
      · exact .inr h1
      · simp [recovering, groupOf, mget, mfind, h0, h1] at h
  rcases h0 with rfl | rfl
  · have : th = { thr {} with region := some {} } := (Option.some.inj h).symm
    rw [this]; rfl
  · exact absurd hl (by decide)

/-- The trapping group parked at its frame. -/
def parkedFrame : State :=
  { trapping 0x100000#64 0#64 with
    groups := [(3, { groupOf (trapping 0x100000#64 0#64) 3 with park := .frame, fault := some (fTrap 0x100000#64) })] }

theorem unparked_frame : unparked parkedFrame 3 = zTrap 0x100000#64 := by decide +kernel

set_option exponentiation.threshold 600 in
theorem pages_parked : framePages parkedFrame 3 = some trapPages := pages_trapping (by decide +kernel) ⟨rfl, rfl⟩ rfl (by decide +kernel) (by decide +kernel)

/-- A group whose threads wait, on a core or off it, and one demoted and nearly starved. -/
def swapping (where_ : Residency) : State :=
  { two with
    groups := [(3, { block := 2, launch := 1, where_ := where_, threads := [(0, { thr {} with run := .blocked .retry }), (1, { thr {} with run := .blocked (.bar 0) })] })] }
def demoting : State :=
  { two with groups := [(3, { block := 2, launch := 1, starve := 255, threads := [(0, { thr {} with demote := 1 }), (1, thr {})] })] }

theorem swap_begun : ∀ e ∈ (groupOf (swapping .resident) 3).threads, e.2.run ≠ .ended → ∀ a, e.2.act = some a → a.begun = true := by
  intro e he _ a ha
  have h : ∀ e ∈ (groupOf (swapping .resident) 3).threads, e.2.act = none := by decide +kernel
  rw [h e he] at ha
  cases ha

theorem witness_GroupEventsAndSwaps :
    (∃ (s : State) (gid : Nat) (g : Group) (pc : DWord), mfind s.groups gid = some g ∧ (g.threads.map Prod.fst).Nodup ∧
      ∃ e ∈ g.threads, e.2.pc = pc ∧ e.2.demote = 1) ∧
    (∃ (s : State) (gid : Nat) (g : Group), mfind s.groups gid = some g ∧ g.starve = 255 ∧ ranked s g = true) ∧
    (∃ (s : State) (gid : Nat) (g : Group), mfind s.groups gid = some g ∧ g.starve ≠ 255) ∧
    (∃ (s : State) (gid : Nat) (g : Group), mfind s.groups gid = some g ∧ ranked s g = false) ∧
    (∃ (s : State) (gid : Nat) (g : Group) (f : FaultInfo) (u : State), mfind s.groups gid = some g ∧ g.park = .frame ∧ g.fault = some f ∧ g.where_ = .resident ∧
      (coreOf s g.core).stopped = false ∧ (writeFrame s gid f).isSome = true ∧ s.poison = [] ∧ (launchOf s g.launch).trapbase ≠ 0#64 ∧ g.trapframe = 0#64 ∧
      writeFrame (unparked s gid) gid f = some u ∧ handlerOk u (groupOf u gid) = true) ∧
    (∃ s c, ctxOf s = some c) ∧
    (∃ (s : State) (gid : Nat) (g : Group), mfind s.groups gid = some g ∧ g.where_ = .resident ∧ (coreOf s g.core).stopped = false ∧ liveLanes g ≠ [] ∧
      allWait g = true ∧ g.nopre = none ∧ accessesDone s gid g = true ∧ bytesUsed (sliceOf s (g.core / 16)).portable + (448 * 512 + 32) ≤ 8 * 2 ^ 20 ∧
      (blockOf s g.block).cores.length ≤ 1 ∧ ∀ e ∈ g.threads, e.2.run ≠ .ended → ∀ a, e.2.act = some a → a.begun = true) ∧
    (∃ (s : State) (gid : Nat) (g : Group) (core sub : Nat), mfind s.groups gid = some g ∧ g.where_ = .swappedOut ∧ (blockOf s g.block).cores.contains core = true ∧
      (blockOf s g.block).where_ = .resident ∧ (coreOf s core).stopped = false ∧ sub < 12 ∧ subGroups s core sub < 8 ∧
      ((coreUse s core).plus (groupNeed (launchOf s g.launch).rcd g.idx)).fits coreStorage = true) := by
  refine ⟨⟨demoting, 3, _, 0x100008#64, rfl, by decide +kernel, by decide +kernel⟩, ⟨demoting, 3, groupOf demoting 3, rfl, rfl, by decide +kernel⟩, ⟨two, 3, _, rfl, by decide +kernel⟩,
    ⟨swapping .resident, 3, groupOf (swapping .resident) 3, rfl, by decide +kernel⟩,
    ⟨parkedFrame, 3, groupOf parkedFrame 3, fTrap 0x100000#64, writeFrameAt (zTrap 0x100000#64) 3 (fTrap 0x100000#64) trapPages, rfl, rfl, rfl, rfl, by decide +kernel,
      by unfold writeFrame; rw [pages_parked]; rfl, rfl, by decide +kernel, by decide +kernel, ?_, handler_zTrap⟩,
    ⟨two, cTwo, ctx_two⟩,
    ⟨swapping .resident, 3, groupOf (swapping .resident) 3, rfl, rfl, by decide +kernel, by decide +kernel, by decide +kernel, rfl, by decide +kernel, by decide +kernel,
      by decide +kernel, swap_begun⟩,
    ⟨swapping .swappedOut, 3, groupOf (swapping .swappedOut) 3, 0, 4, rfl, rfl, by decide +kernel, by decide +kernel, by decide +kernel, by decide, by decide +kernel,
      by decide +kernel⟩⟩
  rw [unparked_frame]
  exact congrArg (Option.map (writeFrameAt (zTrap 0x100000#64) 3 (fTrap 0x100000#64))) pages_zTrap

end Sys2Proof.Tests

/-! ## Launches and queues -/

namespace Sys2Proof.Tests

open Machine Claims

/-- A packet of a queue at 0x200000, and the descriptor of its queue, number 4. -/
@[irreducible] def packet (kind op addr value timeout : Nat) : BitVec 512 :=
  BitVec.ofNat 512 (0x0100 + kind * 2 ^ 16 + op * 2 ^ 20 + timeout * 2 ^ 32 + addr * 2 ^ 64 + value * 2 ^ 128)
def descriptor : BitVec 512 := BitVec.ofNat 512 (0x0100 + 2 ^ 17 + 6 * 2 ^ 24 + 0x200000 * 2 ^ 64 + 1 * 2 ^ 160)

/-- A slice whose queue 4 holds a packet. -/
def queued (x : BitVec 512) (z : QSlot) : State :=
  { placedLaunch State.reset with
    mem := putBytes (putBytes (putBytes placedTables 0x100000 (bytesOf 8 placedHeader.toNat)) 0x200000 (bytesOf 64 x.toNat)) 0x300000 (bytesOf 128 placedRecord.toNat)
    slices := [(0, { queues := [(4, descriptor)], qslots := [z] })]
    now := 10000 }

def idleSlot : QSlot := { queue := 4 }
def busySlot : QSlot := { queue := 4, launching := true }

/-- A packet at the head of an idle queue. -/
theorem at_head {kind : Nat} {x : BitVec 512} (hp : slicePart (queued x idleSlot) 0 = some 0) (hh : headPacket (queued x idleSlot) 0 0 4 = .packet x)
    (hk : bitsOf x 19 16 = kind) (hd : bitsOf x 23 23 = 0) : AtHead (queued x idleSlot) 0 4 0 idleSlot kind x :=
  ⟨hp, rfl, rfl, rfl, by simp [sliceOf, queued, mget, mfind], hh, hk, by rw [hd]; simp⟩

/-- The placed launch with blocks still to be dispatched: two in all. -/
def dispatching : State :=
  { placedLaunch State.reset with
    launches := [(1, { rcd := placedRecord + BitVec.ofNat 1024 (2 ^ 128), level := 1 })], blocks := [], groups := [] }

/-- A saved block 0 whose launch's block 1 spins. -/
def promising : State :=
  { two with
    blocks := [(2, { launch := 1, where_ := .saved }), (5, { launch := 1, idx := 1, cores := [0] })]
    groups := [(3, { block := 2, launch := 1, where_ := .saved, threads := [(0, thr {})] }), (6, { block := 5, launch := 1, threads := [(0, { thr {} with demote := 3 })] })] }

/-- A group whose threads have ended, with another of its block or alone. -/
def retiring (other : Bool) (n : Nat) : State :=
  { two with
    launches := [(1, { rcd := placedRecord + BitVec.ofNat 1024 (n * 2 ^ 128), level := 1, nextBlock := 1 })]
    groups := (3, { block := 2, launch := 1, threads := [(0, { thr {} with run := .ended })] }) :: (if other then [(4, { block := 2, launch := 1, threads := [(0, thr {})] })] else []) }

/-- What the distributor needs of a group that retires. -/
def RetiresAt (s : State) (gid : Nat) (g : Group) : Prop :=
  mfind s.groups gid = some g ∧ liveLanes g = [] ∧ g.where_ = .resident ∧ g.park = .none ∧ g.pending = [] ∧ groupBusy s gid g = false

set_option exponentiation.threshold 1100 in
theorem witness_LaunchRecords :
    (∃ r : BitVec 1024, bitsOf r 15 0 ≠ 0x0100) ∧ (∃ r : BitVec 1024, bitsOf r 15 0 = 0x0100 ∧ bitsOf r 47 40 = 0) ∧
    (∃ (s : State) (part asid level : Nat) (r : BitVec 1024) (w : DWord), bitsOf r 15 0 = 0x0100 ∧ fieldsOk r = true ∧ bitsOf r 868 864 = 0 ∧
      unitFetch s part asid level (BitVec.ofNat 64 (bitsOf r 127 64)) = some w ∧ bitsOf w 63 56 ≠ 0xFF) ∧
    (∃ (s : State) (part asid level : Nat) (r : BitVec 1024) (w : DWord), bitsOf r 15 0 = 0x0100 ∧ fieldsOk r = true ∧ bitsOf r 868 864 = 0 ∧
      unitFetch s part asid level (BitVec.ofNat 64 (bitsOf r 127 64)) = some w ∧ w.getLsbD 38 = true) ∧
    (∃ (s : State) (part asid level : Nat) (r : BitVec 1024), bitsOf r 15 0 = 0x0100 ∧ fieldsOk r = true ∧ bitsOf r 868 864 = 0 ∧
      unitFetch s part asid level (BitVec.ofNat 64 (bitsOf r 127 64)) = none) ∧
    (∃ (s : State) (part asid level : Nat) (r : BitVec 1024), bitsOf r 15 0 = 0x0100 ∧ fieldsOk r = true ∧ bitsOf r 868 864 = 0 ∧
      badEntry s part asid level r = false ∧ bitsOf r 767 704 = 0 ∧ oversize r = true) ∧
    (∃ (s : State) (part asid level : Nat) (r : BitVec 1024), bitsOf r 15 0 = 0x0100 ∧ fieldsOk r = true ∧ bitsOf r 868 864 = 0 ∧
      badEntry s part asid level r = false ∧ bitsOf r 767 704 = 0 ∧ oversize r = false) := by
  refine ⟨⟨0#1024, by decide +kernel⟩, ⟨0x0100#1024, by decide +kernel⟩,
    ⟨{ placedLaunch State.reset with mem := placedTables }, 0, 0, 1, placedRecord, 0#64, by decide +kernel⟩,
    ⟨{ placedLaunch State.reset with mem := putBytes placedTables 0x100000 (bytesOf 8 (0xFF * 2 ^ 56 + 2 ^ 38)) }, 0, 0, 1, placedRecord,
      BitVec.ofNat 64 (0xFF * 2 ^ 56 + 2 ^ 38), by decide +kernel⟩,
    ⟨State.reset, 0, 0, 1, placedRecord, by decide +kernel⟩,
    ⟨placedLaunch State.reset, 0, 0, 1, placedRecord + BitVec.ofNat 1024 (127 * 2 ^ 40), by decide +kernel⟩,
    ⟨placedLaunch State.reset, 0, 0, 1, placedRecord, by decide +kernel⟩⟩

set_option exponentiation.threshold 1100 in
theorem witness_LaunchRecordsAndDistributor :
    (∃ (s : State) (gid : Nat) (g : Group) (a : DWord) (r : BitVec 1024) (rest : List (DWord × BitVec 1024)), mfind s.groups gid = some g ∧ g.pending = (a, r) :: rest ∧
      intake s (launchOf s g.launch).part < 256 ∧ (∀ b ∈ s.blocks, b.2.launch ≠ s.nextId) ∧
      refusalOf s (childSource s g a.toNat).part (childSource s g a.toNat).asid (childSource s g a.toNat).level r = none) ∧
    (∃ (s : State) (slice q part : Nat) (z : QSlot) (x : BitVec 512) (r : Nat), slicePart s slice = some part ∧ slotFor s slice q = some z ∧ z.launching = true ∧
      intake s part < 256 ∧ headPacket s part slice q = .packet x ∧ s.owner = [] ∧
      unitBytes s part (qdAsid (descOf s slice q)) (qdLevel (descOf s slice q)) (pkAddr x) 128 = some r) ∧
    (∃ (s : State) (part lid : Nat) (l : Launch) (i n : Nat) (av : Option Nat) (u : List Nat), (partOf s part).state = .running ∧ promiseDue s part = false ∧ activationDue s part = false ∧
      dispatchable s part = [(lid, l)] ∧ nextReady l = some (i, n, av) ∧ placeFor s l i av = some u ∧
      mfind s.launches lid = some l ∧ l.relaunch = []) ∧
    (∃ (s : State) (block : Nat) (u : List Nat) (gid : Nat) (g : Group), promised s block = true ∧ (blockOf s block).where_ = .saved ∧
      placeFor s (launchOf s (blockOf s block).launch) (blockOf s block).idx none = some u ∧ mfind s.groups gid = some g ∧ g.block = block) ∧
    (∃ s gid g, RetiresAt s gid g ∧ ∃ e ∈ s.groups, e.1 ≠ gid ∧ e.2.block = g.block) ∧
    (∃ s gid g b l, RetiresAt s gid g ∧ (∀ e ∈ s.groups, e.1 ≠ gid → e.2.block ≠ g.block) ∧ mfind s.blocks g.block = some b ∧ b.buffer = [] ∧ b.isAct = false ∧
      mfind s.launches b.launch = some l ∧ l.retired + 1 = bitsOf l.rcd 159 128 + 1 ∧ ownsSpec s b.launch = false ∧ l.final = false) ∧
    (∃ s gid g b l, RetiresAt s gid g ∧ (∀ e ∈ s.groups, e.1 ≠ gid → e.2.block ≠ g.block) ∧ mfind s.blocks g.block = some b ∧ b.buffer = [] ∧ b.isAct = false ∧
      mfind s.launches b.launch = some l ∧ l.retired + 1 ≠ bitsOf l.rcd 159 128 + 1) ∧
    (∃ (s : State) (lid : Nat) (l : Launch), mfind s.launches lid = some l ∧ l.final = false ∧ bitsOf l.rcd 863 832 ≠ 0 ∧
      bitsOf l.rcd 863 832 * 850 ≤ s.now - l.accepted ∧ l.status = .running) := by
  refine ⟨⟨{ two with groups := [(3, { block := 2, launch := 1, pending := [(0x300000#64, placedRecord)], threads := [(0, thr {})] })] }, 3, _, 0x300000#64, placedRecord, [],
      rfl, rfl, by decide +kernel, by decide +kernel, by decide +kernel⟩,
    ⟨queued (packet 1 0 0x300000 0 0) busySlot, 0, 4, 0, busySlot, packet 1 0 0x300000 0 0, placedRecord.toNat, by decide +kernel, rfl, rfl, by decide +kernel,
      by decide +kernel, rfl, by decide +kernel⟩,
    ⟨dispatching, 0, 1, { rcd := placedRecord + BitVec.ofNat 1024 (2 ^ 128), level := 1 }, 0, 0, none, [0], by decide +kernel, by decide +kernel, by decide +kernel,
      by decide +kernel, by decide +kernel, by decide +kernel, rfl, rfl⟩,
    ⟨promising, 2, [1], 3, _, by decide +kernel, by decide +kernel, by decide +kernel, rfl, by decide +kernel⟩,
    ⟨retiring true 0, 3, _, ⟨rfl, by decide +kernel, rfl, rfl, rfl, by decide +kernel⟩, by decide +kernel⟩,
    ⟨retiring false 0, 3, groupOf (retiring false 0) 3, _, _, ⟨rfl, by decide +kernel, rfl, rfl, rfl, by decide +kernel⟩, by decide +kernel, rfl, rfl, rfl, rfl,
      by decide +kernel, by decide +kernel, rfl⟩,
    ⟨retiring false 1, 3, groupOf (retiring false 1) 3, _, _, ⟨rfl, by decide +kernel, rfl, rfl, rfl, by decide +kernel⟩, by decide +kernel, rfl, rfl, rfl, rfl,
      by decide +kernel⟩,
    ⟨{ two with launches := [(1, { rcd := placedRecord + BitVec.ofNat 1024 (2 ^ 832), nextBlock := 1 })], now := 1000 }, 1, _, rfl, rfl, by decide +kernel, by decide +kernel, rfl⟩⟩

/-- The same slice with its 64 slots taken by queues whose rings are empty (`np` 0) or that keep their slots. -/
def crowded (np : Nat) : State :=
  { queued 0#512 idleSlot with
    slices := [(0, { queues := (70, descriptor) :: (List.range 64).map (fun i => (i, BitVec.ofNat 512 (0x0100 + np * 2 ^ 16))), qslots := (List.range 64).map (fun i => { queue := i }) })] }

theorem ready_eq {x : BitVec 512} {v : Nat} (h : bitsOf x 22 20 = 0) (hv : v = bitsOf x 191 128) : SemaphoreReady x v := by
  unfold SemaphoreReady
  rw [h]
  exact hv
theorem unready_eq {x : BitVec 512} {v : Nat} (h : bitsOf x 22 20 = 0) (hv : v ≠ bitsOf x 191 128) : ¬ SemaphoreReady x v := by
  unfold SemaphoreReady
  rw [h]
  exact hv

theorem ready_now : SemaphoreReady (packet 2 0 0x400000 0 0) 0 := by
  have h := @ready_eq (packet 2 0 0x400000 0 0) 0 (by decide +kernel) (by decide +kernel)
  assumption
theorem ready_never : ¬ SemaphoreReady (packet 2 0 0x400000 7 0) 0 := by
  have h := @unready_eq (packet 2 0 0x400000 7 0) 0 (by decide +kernel) (by decide +kernel)
  assumption

/-- A descriptor that a notify takes (R307, R308): its version, zero MBZ bits, an aligned ring and a legal size. -/
def TakesNotify (d : BitVec 512) : Prop :=
  bitsOf d 15 0 = 0x0100 ∧ bitsOf d 511 216 = 0 ∧ bitsOf d 63 51 = 0 ∧ bitsOf d 39 29 = 0 ∧ bitsOf d 23 19 = 0 ∧
    bitsOf d 127 64 % 4096 = 0 ∧ 6 ≤ bitsOf d 28 24 ∧ bitsOf d 28 24 ≤ 16

theorem takes_descriptor : TakesNotify descriptor := by unfold TakesNotify; decide +kernel

theorem witness_Queues :
    (∃ (s : State) (slice : Nat), slicePart s slice = none) ∧
    (∃ (s : State) (slice : Nat) (v : DWord), slicePart s slice ≠ none ∧ 4096 ≤ v.toNat ∧ (sliceOf s slice).errs.length < 256) ∧
    (∃ (s : State) (slice : Nat) (v : DWord), slicePart s slice ≠ none ∧ ¬ TakesNotify (descOf s slice (v.toNat % 4096)) ∧ 256 ≤ (sliceOf s slice).errs.length) ∧
    (∃ (s : State) (slice : Nat) (v : DWord) (z : QSlot), slicePart s slice ≠ none ∧ v.toNat < 4096 ∧
      TakesNotify (descOf s slice (v.toNat % 4096)) ∧ slotFor s slice (v.toNat % 4096) = some z) ∧
    (∃ (s : State) (slice : Nat) (v : DWord), slicePart s slice ≠ none ∧ v.toNat < 4096 ∧
      TakesNotify (descOf s slice (v.toNat % 4096)) ∧ slotFor s slice (v.toNat % 4096) = none ∧ (sliceOf s slice).qslots.length < 64) ∧
    (∃ (s : State) (slice : Nat) (v : DWord) (e : QSlot), slicePart s slice ≠ none ∧ v.toNat < 4096 ∧
      TakesNotify (descOf s slice (v.toNat % 4096)) ∧ slotFor s slice (v.toNat % 4096) = none ∧ 64 ≤ (sliceOf s slice).qslots.length ∧
      evictable s slice = some e) ∧
    (∃ (s : State) (slice : Nat) (v : DWord), slicePart s slice ≠ none ∧ v.toNat < 4096 ∧
      TakesNotify (descOf s slice (v.toNat % 4096)) ∧ slotFor s slice (v.toNat % 4096) = none ∧ 64 ≤ (sliceOf s slice).qslots.length ∧
      evictable s slice = none) ∧
    (∃ (s : State) (part n : Nat) (b : Budget), (partOf s part).state ≠ .free ∧ (partOf s part).periodNext ≤ s.now * 20 / 17 ∧ mfind (partOf s part).budgets n = some b) ∧
    (∃ s slice q part z x, AtHead s slice q part z 0 x) ∧ (∃ s slice q part z x, AtHead s slice q part z 1 x) ∧
    (∃ s slice q part z x v, AtHead s slice q part z 2 x ∧ SemaphoreReady x v ∧ s.owner = [] ∧
      unitBytes s part (bitsOf (descOf s slice q) 207 192) (bitsOf (descOf s slice q) 17 17) (bitsOf x 127 64) 8 = some v) ∧
    (∃ s slice q part z x v, AtHead s slice q part z 2 x ∧ ¬ SemaphoreReady x v ∧ s.owner = [] ∧
      unitBytes s part (bitsOf (descOf s slice q) 207 192) (bitsOf (descOf s slice q) 17 17) (bitsOf x 127 64) 8 = some v) ∧
    (∃ s slice q part z x, AtHead s slice q part z 2 x ∧ s.owner = [] ∧
      unitBytes s part (bitsOf (descOf s slice q) 207 192) (bitsOf (descOf s slice q) 17 17) (bitsOf x 127 64) 8 = none) ∧
    (∃ s slice q part z x v pa a, AtHead s slice q part z 3 x ∧ s.owner = [] ∧
      unitBytes s part (bitsOf (descOf s slice q) 207 192) (bitsOf (descOf s slice q) 17 17) (bitsOf x 127 64) 8 = some v ∧
      xlateDirect s part (bitsOf (descOf s slice q) 207 192) (bitsOf (descOf s slice q) 17 17) (bitsOf x 127 64) .write = some (pa, a)) ∧
    (∃ (s : State) (slice q part : Nat) (z : QSlot) (x : BitVec 512) (v : Nat), slicePart s slice = some part ∧ slotFor s slice q = some z ∧ z.waiting = some x ∧ s.owner = [] ∧
      unitBytes s part (bitsOf (descOf s slice q) 207 192) (bitsOf (descOf s slice q) 17 17) (bitsOf x 127 64) 8 = some v) ∧
    (∃ (s : State) (slice q : Nat) (z : QSlot) (x : BitVec 512), slotFor s slice q = some z ∧ z.waiting = some x ∧ bitsOf x 63 32 ≠ 0 ∧
      bitsOf x 63 32 * 850 ≤ s.now - z.since) ∧
    (∃ (s : State) (slice q part : Nat) (z : QSlot), slicePart s slice = some part ∧ slotFor s slice q = some z ∧ z.launching = false ∧ z.waiting = none ∧
      q ∉ (sliceOf s slice).stopped ∧ headPacket s part slice q = .bad) := by
  refine ⟨⟨{ two with parts := [(0, { slices := 1#16 })] }, 0, by decide +kernel⟩,
    ⟨two, 0, 4096#64, by decide +kernel, by decide, by decide +kernel⟩,
    ⟨{ two with slices := [(0, { errs := List.replicate 256 {} })] }, 0, 9#64, by decide +kernel,
      fun h => absurd h.1 (by decide +kernel), by decide +kernel⟩,
    ⟨queued 0#512 idleSlot, 0, 4#64, idleSlot, by decide +kernel, by decide, takes_descriptor, by decide +kernel⟩,
    ⟨queued 0#512 { queue := 5 }, 0, 4#64, by decide +kernel, by decide, takes_descriptor, by decide +kernel, by decide +kernel⟩,
    ⟨crowded 0, 0, 70#64, { queue := 0 }, by decide +kernel, by decide, takes_descriptor, by decide +kernel, by decide +kernel, by decide +kernel⟩,
    ⟨crowded 1, 0, 70#64, by decide +kernel, by decide, takes_descriptor, by decide +kernel, by decide +kernel, by decide +kernel⟩,
    ⟨{ two with parts := [(0, { state := .running, periodNext := 0, budgets := [(1, {})] })] }, 0, 1, {}, by decide +kernel, by decide +kernel, rfl⟩,
    ⟨_, 0, 4, 0, _, packet 0 0 0 0 0, at_head (by decide +kernel) (by decide +kernel) (by decide +kernel) (by decide +kernel)⟩,
    ⟨_, 0, 4, 0, _, packet 1 0 0x300000 0 0, at_head (by decide +kernel) (by decide +kernel) (by decide +kernel) (by decide +kernel)⟩,
    ⟨queued (packet 2 0 0x400000 0 0) idleSlot, 0, 4, 0, _, packet 2 0 0x400000 0 0, 0,
      at_head (by decide +kernel) (by decide +kernel) (by decide +kernel) (by decide +kernel), ready_now, rfl, by decide +kernel⟩,
    ⟨queued (packet 2 0 0x400000 7 0) idleSlot, 0, 4, 0, _, packet 2 0 0x400000 7 0, 0,
      at_head (by decide +kernel) (by decide +kernel) (by decide +kernel) (by decide +kernel), ready_never, rfl, by decide +kernel⟩,
    ⟨queued (packet 2 0 0x4000000000 7 0) idleSlot, 0, 4, 0, _, packet 2 0 0x4000000000 7 0,
      at_head (by decide +kernel) (by decide +kernel) (by decide +kernel) (by decide +kernel), rfl, by decide +kernel⟩,
    ⟨queued (packet 3 1 0x400000 7 0) idleSlot, 0, 4, 0, _, packet 3 1 0x400000 7 0, 0, 0x400000, .normal,
      at_head (by decide +kernel) (by decide +kernel) (by decide +kernel) (by decide +kernel), rfl, by decide +kernel, by decide +kernel⟩,
    ⟨queued (packet 2 0 0x400000 7 0) { queue := 4, waiting := some (packet 2 0 0x400000 7 0) }, 0, 4, 0, _, packet 2 0 0x400000 7 0, 0, by decide +kernel, rfl, rfl, rfl,
      by decide +kernel⟩,
    ⟨queued (packet 2 0 0x400000 7 1) { queue := 4, waiting := some (packet 2 0 0x400000 7 1) }, 0, 4, _, packet 2 0 0x400000 7 1, rfl, rfl, by decide +kernel,
      by decide +kernel⟩,
    ⟨queued 0#512 idleSlot, 0, 4, 0, idleSlot, by decide +kernel, rfl, rfl, rfl, by decide +kernel, by decide +kernel⟩⟩

end Sys2Proof.Tests

/-! ## The network -/

namespace Sys2Proof.Tests

open Machine Claims

/-- A message of an operation, with its length, and a counter or none: its buffer at 0x300000, packets of 1 KiB. -/
def message (op len ctr : Nat) (sent : Map Nat) : NetMsg :=
  { id := 9, level := 1, req := BitVec.ofNat 512 (0x0100 + op * 2 ^ 16 + 10 * 2 ^ 48 + 0x300000 * 2 ^ 64 + len * 2 ^ 128 + ctr * 2 ^ 320), retry := 2, sent := sent }

/-- A port with posted messages, receives and arriving messages. -/
def port (sends recvs : List NetMsg) (ins : List Inbound) (barred : Bool) : State :=
  { placedLaunch State.reset with
    slices := [(0, { sendq := sends, recvq := recvs, inbound := ins, barred := barred })] }

theorem part_port (sends recvs : List NetMsg) (ins : List Inbound) (barred : Bool) : slicePart (port sends recvs ins barred) 0 = some 0 :=
  (by decide +kernel : slicePart (port [] [] [] false) 0 = some 0)

/-- A packet of a message with one byte of payload. -/
def netPacket (kind len k offset : Nat) : NetPacket := ⟨0, 0, 9, kind, 0, len, 10, 0, k, offset, [7#8]⟩

theorem apart_one (pages : List (Nat × Nat)) (va : Nat) : Apart pages va 1 := fun i j hi hj _ => by omega

/-- The message that a packet continues. -/
def started : Inbound := { msg := 9, len := 64, placed := [0] }

/-- A port whose tables map the top of the address space of key 0, whatever that space is: to the top of the first GiB. -/
def remote : State :=
  { port [] [] [] false with
    mem := putBytes (putBytes [] 0x1FFF8 (bytesOf 8 0x20001)) 0x2FFF8 (bytesOf 8 placedLeaf.toNat)
    parts := [(0, { state := .running, slices := 1#16, asids := [(Config.keyAsid 0, BitVec.ofNat 128 (1 + 0x10000 * 2 ^ 64))] })] }

theorem remote_top {u : PageUse} {va : Nat} (h : va / 2 ^ 30 = 2 ^ 26 - 1) : xlateDirect remote 0 (Config.keyAsid 0) 0 va u = some (va % 2 ^ 30, pteType placedLeaf) := by
  have ha : mget 0#128 (partOf remote 0).asids (Config.keyAsid 0) = BitVec.ofNat 128 (1 + 0x10000 * 2 ^ 64) := by
    simp [remote, partOf, mget, mfind]
  have h0 : readWord64 remote 0x1FFF8 = 0x20001#64 := by decide +kernel
  have h1 : readWord64 remote 0x2FFF8 = placedLeaf := by decide +kernel
  have e0 : va / 2 ^ 43 % 2 ^ 13 = 8191 := by omega
  have e1 : va / 2 ^ 30 % 2 ^ 13 = 8191 := by omega
  have hw : walkTable remote 0 (Config.keyAsid 0) va = .leaf placedLeaf 0 30 := by
    unfold walkTable
    simp only [ha, e0, e1]
    rw [show bitsOf (BitVec.ofNat 128 (1 + 0x10000 * 2 ^ 64)) 127 64 = 0x10000 by decide]
    simp only [show 0x10000 + 8 * 8191 = 0x1FFF8 by rfl, h0, show pteOut 0x20001#64 + 8 * 8191 = 0x2FFF8 by decide, h1]
    rw [if_neg (by decide), if_neg (by decide), if_neg (by decide), if_pos (by decide), if_neg (by decide)]
    decide
  unfold xlateDirect
  rw [hw]
  have hb : pteAllows placedLeaf 0 u = true := by
    have : pteBit placedLeaf 7 = false := by decide
    unfold pteAllows
    cases u <;> simp [this] <;> decide
  rw [if_neg (by omega : ¬ va ≥ 2 ^ 56)]
  show (if pteAllows placedLeaf 0 u = true then some (0 + va % 2 ^ 30, pteType placedLeaf) else none) = some (va % 2 ^ 30, pteType placedLeaf)
  rw [if_pos hb, Nat.zero_add]

/-- The offset at which the last byte of the address space is reached through key 0. -/
def topOffset : Nat := 2 ^ 56 - 1 - (Config.keyBase 0).toNat

theorem top_offset : (Config.keyBase 0).toNat + topOffset = 2 ^ 56 - 1 := by
  have := (Config.keyBase 0).isLt
  unfold topOffset
  omega

theorem remote_pages (u : PageUse) : mapPages remote 0 (Config.keyAsid 0) 0 u (pagesOf ((Config.keyBase 0).toNat + topOffset) 1) =
    some [(2 ^ 44 - 1, 2 ^ 30 - 4096)] := by
  rw [top_offset, show pagesOf (2 ^ 56 - 1) 1 = [2 ^ 44 - 1] by decide]
  unfold mapPages
  rw [remote_top (by decide)]
  rfl

/-- A port that holds what is given. -/
def portOf (z : Slice) : State := { placedLaunch State.reset with slices := [(0, z)] }

/-- An answer to a read of 64 bytes at 0x300000. -/
def answering (sent : Map Nat) : Answer := { id := 9, va := 0x300000, len := 64, sent := sent }

/-- A flow entry that drops the messages of sender 0. -/
def dropFlow : BitVec 256 := BitVec.ofNat 256 (1 + 3 * 2 ^ 84)

/-- A port of a partition that has no address space. -/
def unreached (z : Slice) : State := { portOf z with parts := [(0, { state := .running, slices := 1#16 })] }

theorem unreached_pages (z : Slice) (u : PageUse) :
    mapPages (unreached z) 0 (Config.keyAsid 0) 0 u (pagesOf ((Config.keyBase 0).toNat + topOffset) 1) = none := by
  rw [top_offset, show pagesOf (2 ^ 56 - 1) 1 = [2 ^ 44 - 1] by decide]
  have ha : mget 0#128 (partOf (unreached z) 0).asids (Config.keyAsid 0) = 0#128 := by simp [unreached, partOf, mget, mfind]
  have hw : walkTable (unreached z) 0 (Config.keyAsid 0) ((2 ^ 44 - 1) * 4096) = .bad := by
    unfold walkTable
    simp only [ha]
    rw [if_pos (by decide)]
  unfold mapPages xlateDirect
  rw [hw, if_neg (by decide)]

theorem no_budget {s : State} {n : Nat} (h : (partOf s 0).budgets = []) : budgetLimit (budgetOf s 0 n).bound .net = 0 := by
  unfold budgetOf
  rw [h]
  exact (by decide +kernel : budgetLimit ({} : Budget).bound .net = 0)

theorem part_remote (z : Slice) : slicePart (unreached z) 0 = some 0 := (by decide +kernel : slicePart (unreached {}) 0 = some 0)

theorem witness_Network :
    (∃ s slice msg k m, sendOf s slice msg = some m ∧ k < packetsOf m ∧ k ∉ m.acked ∧ mget 0 m.sent k = 0 ∧
      exhausted (budgetOf s m.part m.budget) .net = false ∧ ∃ x, unitBytes s m.part m.asid m.level (bitsOf m.req 127 64 + k * 2 ^ bitsOf m.req 51 48)
        (min (2 ^ bitsOf m.req 51 48) (bitsOf m.req 159 128 - k * 2 ^ bitsOf m.req 51 48)) = some x ∧ bitsOf m.req 19 16 ≠ 2) ∧
    (∃ s slice msg k m, sendOf s slice msg = some m ∧ k < packetsOf m ∧ k ∉ m.acked ∧ k ∈ m.lost ∧
      exhausted (budgetOf s m.part m.budget) .net = false ∧ bitsOf m.req 19 16 = 2) ∧
    (∃ s slice id k a x, sendOf s slice id = none ∧ answerOf s slice id = some a ∧ k * 2 ^ a.pktlog < a.len ∧ k ∉ a.acked ∧ mget 0 a.sent k = 0 ∧
      exhausted (budgetOf s a.part a.budget) .net = false ∧
      unitBytes s a.part a.asid 0 (a.va + k * 2 ^ a.pktlog) (min (2 ^ a.pktlog) (a.len - k * 2 ^ a.pktlog)) = some x) ∧
    (∃ s slice id a, sendOf s slice id = none ∧ answerOf s slice id = some a ∧
      ∃ k, k * 2 ^ a.pktlog < a.len ∧ ¬ (k ∈ a.acked ∨ k ∈ [1] ∧ mget 0 a.sent k ≠ 0)) ∧
    (∃ s slice id k a, sendOf s slice id = none ∧ answerOf s slice id = some a ∧ mget 0 a.sent k ≠ 0 ∧ k ∉ a.acked ∧ k ∉ a.lost) ∧
    (∃ s slice msg m, sendOf s slice msg = some m ∧ bitsOf m.req 19 16 ≠ 2 ∧ ∃ k, k < packetsOf m ∧ ¬ (k ∈ m.acked ∨ k ∈ [1] ∧ mget 0 m.sent k ≠ 0)) ∧
    (∃ s slice msg m, sendOf s slice msg = some m ∧ bitsOf m.req 19 16 ≠ 2 ∧ (∀ k, k < packetsOf m → k ∈ m.acked ∨ k ∈ [0] ∧ mget 0 m.sent k ≠ 0) ∧
      bitsOf m.req 383 320 = 0) ∧
    (∃ s slice msg m v pa a, sendOf s slice msg = some m ∧ bitsOf m.req 19 16 ≠ 2 ∧ (∀ k, k < packetsOf m → k ∈ m.acked ∨ k ∈ [0] ∧ mget 0 m.sent k ≠ 0) ∧
      bitsOf m.req 383 320 ≠ 0 ∧ s.owner = [] ∧ unitBytes s m.part m.asid m.level (bitsOf m.req 383 320) 8 = some v ∧
      xlateDirect s m.part m.asid m.level (bitsOf m.req 383 320) .write = some (pa, a)) ∧
    (∃ s slice msg k m, sendOf s slice msg = some m ∧ mget 0 m.sent k ≠ 0 ∧ k ∉ m.acked ∧ k ∉ m.lost ∧ mget 0 m.sent k ≤ m.retry) ∧
    (∃ s slice msg k m v pa a, sendOf s slice msg = some m ∧ mget 0 m.sent k ≠ 0 ∧ k ∉ m.acked ∧ k ∉ m.lost ∧ m.retry < mget 0 m.sent k ∧
      bitsOf m.req 383 320 ≠ 0 ∧ s.owner = [] ∧ unitBytes s m.part m.asid m.level (bitsOf m.req 383 320) 8 = some v ∧
      xlateDirect s m.part m.asid m.level (bitsOf m.req 383 320) .write = some (pa, a) ∧ (sliceOf s slice).errs.length < 256) := by
  refine ⟨⟨port [message 0 64 0 []] [] [] false, 0, 9, 0, message 0 64 0 [], by decide +kernel, by decide +kernel, by decide +kernel, by decide +kernel, by decide +kernel, 0,
      by decide +kernel, by decide +kernel⟩,
    ⟨port [{ message 2 64 0 [(0, 1)] with lost := [0] }] [] [] false, 0, 9, 0, { message 2 64 0 [(0, 1)] with lost := [0] }, by decide +kernel, by decide +kernel, by decide +kernel,
      by decide +kernel, by decide +kernel, by decide +kernel⟩,
    ⟨portOf { answers := [answering []] }, 0, 9, 0, answering [], 0, rfl, rfl, by decide, by decide, rfl, by decide +kernel, by decide +kernel⟩,
    ⟨portOf { answers := [answering []] }, 0, 9, answering [], rfl, rfl, 0, by decide, by decide⟩,
    ⟨portOf { answers := [answering [(0, 1)]] }, 0, 9, 0, answering [(0, 1)], rfl, rfl, by decide, by decide, by decide⟩,
    ⟨port [message 0 2048 0 [(0, 1)]] [] [] false, 0, 9, message 0 2048 0 [(0, 1)], by decide +kernel, by decide +kernel, 1, by decide +kernel, by decide +kernel⟩,
    ⟨port [message 0 64 0 [(0, 1)]] [] [] false, 0, 9, message 0 64 0 [(0, 1)], by decide +kernel, by decide +kernel, by decide +kernel, by decide +kernel⟩,
    ⟨port [message 0 64 0x400000 [(0, 1)]] [] [] false, 0, 9, message 0 64 0x400000 [(0, 1)], 0, 0x400000, .normal, by decide +kernel, by decide +kernel, by decide +kernel,
      by decide +kernel, rfl, by decide +kernel, by decide +kernel⟩,
    ⟨port [message 0 64 0 [(0, 1)]] [] [] false, 0, 9, 0, message 0 64 0 [(0, 1)], by decide +kernel, by decide +kernel, by decide +kernel, by decide +kernel, by decide +kernel⟩,
    ⟨port [message 0 64 0x400000 [(0, 3)]] [] [] false, 0, 9, 0, message 0 64 0x400000 [(0, 3)], 0, 0x400000, .normal, by decide +kernel, by decide +kernel, by decide +kernel,
      by decide +kernel, by decide +kernel, by decide +kernel, rfl, by decide +kernel, by decide +kernel, by decide +kernel⟩⟩

/-- The premises that the clauses of an arriving packet share. -/
def Reaches (s : State) (p : NetPacket) (kind : Nat) : Prop := slicePart s 0 = some 0 ∧ (sliceOf s 0).barred = false ∧ p.kind = kind

theorem reaches (z : Slice) {p : NetPacket} {kind : Nat} (hz : z.barred = false) (hp : p.kind = kind) : Reaches (portOf z) p kind :=
  ⟨(by decide +kernel : slicePart (portOf {}) 0 = some 0), hz, hp⟩
theorem reaches_remote {p : NetPacket} {kind : Nat} (hp : p.kind = kind) : Reaches remote p kind :=
  ⟨(by decide +kernel : slicePart { port [] [] [] false with parts := [(0, { state := .running, slices := 1#16 })] } 0 = some 0), rfl, hp⟩
theorem reaches_none (z : Slice) {p : NetPacket} {kind : Nat} (hz : z.barred = false) (hp : p.kind = kind) : Reaches (unreached z) p kind := ⟨part_remote z, hz, hp⟩

theorem witness_NetworkSends :
    (∃ (s : State) (slice : Nat), slicePart s slice = none) ∧
    (∃ (s : State) (slice part : Nat), slicePart s slice = some part ∧ (sliceOf s slice).barred = true) ∧
    (∃ s p x, Reaches s p 0 ∧ arriving s 0 p = some x ∧ x.act = 3) ∧
    (∃ s p n e, Reaches s p 0 ∧ arriving s 0 p = none ∧ matchFlow s 0 p = some (n, e) ∧ bitsOf e 87 84 = 3) ∧
    (∃ s p x, Reaches s p 0 ∧ arriving s 0 p = some x ∧ p.k ∈ x.placed ∧ x.act ≠ 3 ∧ (x.act = 0 → x.recv ≠ none) ∧
      exhausted (budgetOf s 0 (inboundEntry x)) .net = false) ∧
    (∃ s p x, Reaches s p 0 ∧ Begun s 0 p x ∧ x.act = 0 ∧ x.recv = none ∧ posted s 0 0 x.tag = none) ∧
    (∃ (s : State) (p : NetPacket) (x : Inbound) (m : NetMsg) (pages : List (Nat × Nat)), Reaches s p 0 ∧ Begun s 0 p x ∧ x.act = 0 ∧ x.recv = none ∧
      x.placed = [] ∧ posted s 0 0 x.tag = some m ∧ 2 ^ x.pktlog < x.len ∧
      mapPages s m.part m.asid m.level .write (pagesOf (bitsOf m.req 127 64 + p.k * 2 ^ x.pktlog)
        (max 1 (p.payload.take (bitsOf m.req 159 128 - p.k * 2 ^ x.pktlog)).length)) = some pages ∧
      Apart pages (bitsOf m.req 127 64 + p.k * 2 ^ x.pktlog) (p.payload.take (bitsOf m.req 159 128 - p.k * 2 ^ x.pktlog)).length ∧
      budgetLimit (budgetOf s 0 m.budget).bound .net = 0) ∧
    (∃ (s : State) (slice part : Nat) (r : ConnRequest), slicePart s slice = some part ∧ r.aiFull = true ∧ r.security = false ∧
      (r.delivery = .rud ∧ r.op ≤ 2) ∧ r.paths = 8 ∧ r.payload = 4096 ∧ r.lowest ≤ 0x0100 ∧ 0x0100 ≤ r.highest) ∧
    (∃ (s : State) (slice part : Nat) (r : ConnRequest), slicePart s slice = some part ∧ r.aiFull = true ∧ r.security = false ∧
      r.delivery = .rudi ∧ r.op = 0) := by
  refine ⟨⟨State.reset, 0, by decide +kernel⟩,
    ⟨port [] [] [] true, 0, 0, part_port .., rfl⟩,
    ⟨portOf { inbound := [{ msg := 9, act := 3 }] }, netPacket 0 64 0 0, { msg := 9, act := 3 }, reaches _ rfl rfl, rfl, rfl⟩,
    ⟨portOf { flows := [(5, dropFlow)] }, netPacket 0 64 0 0, 5, dropFlow, reaches _ rfl rfl, rfl, by decide +kernel, by decide +kernel⟩,
    ⟨portOf { inbound := [{ started with recv := some (message 3 2048 0 []) }] }, netPacket 0 64 0 0, { started with recv := some (message 3 2048 0 []) },
      reaches _ rfl rfl, rfl, by decide, by decide, nofun, by decide +kernel⟩,
    ⟨portOf {}, netPacket 0 64 0 0, freshInbound (netPacket 0 64 0 0), reaches _ rfl rfl, .inr ⟨rfl, rfl, rfl⟩, rfl, rfl, rfl⟩,
    ⟨portOf { recvq := [message 3 2048 0 []] }, netPacket 0 2048 0 0, freshInbound (netPacket 0 2048 0 0), message 3 2048 0 [], [(0x300, 0x300000)],
      reaches _ rfl rfl, .inr ⟨rfl, rfl, rfl⟩, rfl, rfl, rfl, by decide +kernel, by decide +kernel, by decide +kernel, ?_, by decide +kernel⟩,
    ⟨port [] [] [] false, 0, 0, ⟨true, .rud, 2, 8, false, 4096, 0x0100, 0x0100⟩, part_port .., by decide⟩,
    ⟨port [] [] [] false, 0, 0, ⟨true, .rudi, 0, 8, false, 4096, 0x0100, 0x0100⟩, part_port .., by decide⟩⟩
  rw [show ((netPacket 0 2048 0 0).payload.take (bitsOf (message 3 2048 0 []).req 159 128 - (netPacket 0 2048 0 0).k *
    2 ^ (freshInbound (netPacket 0 2048 0 0)).pktlog)).length = 1 by decide +kernel]
  exact apart_one _ _

theorem witness_NetworkOneSided :
    (∃ s p x, Reaches s p 1 ∧ WriteBegun s 0 p x ∧ p.k ∈ x.placed ∧ exhausted (budgetOf s 0 x.tenant) .net = false) ∧
    (∃ s p x, Reaches s p 1 ∧ WriteBegun s 0 p x ∧ p.k ∉ x.placed ∧
      mapPages s 0 (Config.keyAsid p.tag) 0 .write (pagesOf ((Config.keyBase p.tag).toNat + p.offset) (max 1 p.payload.length)) = none) ∧
    (∃ s p x pages, Reaches s p 1 ∧ WriteBegun s 0 p x ∧ p.k ∉ x.placed ∧
      mapPages s 0 (Config.keyAsid p.tag) 0 .write (pagesOf ((Config.keyBase p.tag).toNat + p.offset) (max 1 p.payload.length)) = some pages ∧
      Apart pages ((Config.keyBase p.tag).toNat + p.offset) p.payload.length ∧ budgetLimit (budgetOf s 0 x.tenant).bound .net = 0) ∧
    (∃ s p, Reaches s p 2 ∧ (sliceOf s 0).answers.any (fun a => a.dfa == p.dfa && a.jobid == p.jobid && a.msg == p.msg) = true) ∧
    (∃ s p, Reaches s p 2 ∧ (sliceOf s 0).answers.any (fun a => a.dfa == p.dfa && a.jobid == p.jobid && a.msg == p.msg) = false ∧
      unitBytes s 0 (Config.keyAsid p.tag) 0 ((Config.keyBase p.tag).toNat + p.offset) p.len = none) ∧
    (∃ s p x, Reaches s p 2 ∧ (sliceOf s 0).answers.any (fun a => a.dfa == p.dfa && a.jobid == p.jobid && a.msg == p.msg) = false ∧
      unitBytes s 0 (Config.keyAsid p.tag) 0 ((Config.keyBase p.tag).toNat + p.offset) p.len = some x) ∧
    (∀ last : Bool, ∃ (s : State) (p : NetPacket) (m : NetMsg) (pages : List (Nat × Nat)), Reaches s p 3 ∧
      (sliceOf s 0).sendq.find? (fun m => m.id == p.msg && bitsOf m.req 19 16 == 2) = some m ∧ sendOf s 0 p.msg = some m ∧ p.k ∉ m.placed ∧
      ((∃ k, k * 2 ^ bitsOf m.req 51 48 < bitsOf m.req 159 128 ∧ k ≠ p.k ∧ k ∉ m.placed) ↔ last = false) ∧ bitsOf m.req 383 320 = 0 ∧
      mapPages s m.part m.asid m.level .write (pagesOf (bitsOf m.req 127 64 + p.k * 2 ^ bitsOf m.req 51 48) (max 1 p.payload.length)) = some pages ∧
      Apart pages (bitsOf m.req 127 64 + p.k * 2 ^ bitsOf m.req 51 48) p.payload.length ∧ budgetLimit (budgetOf s m.part m.budget).bound .net = 0) := by
  refine ⟨⟨portOf { inbound := [started] }, netPacket 1 64 0 0, started, reaches _ rfl rfl, .inl ⟨rfl, rfl⟩, by decide, by decide +kernel⟩,
    ⟨unreached {}, netPacket 1 64 0 topOffset, _, reaches_none _ rfl rfl, .inr ⟨rfl, rfl⟩, nofun, unreached_pages _ _⟩,
    ⟨remote, netPacket 1 64 0 topOffset, _, [(2 ^ 44 - 1, 2 ^ 30 - 4096)], reaches_remote rfl, .inr ⟨rfl, rfl⟩, nofun, remote_pages .write, apart_one _ _, no_budget rfl⟩,
    ⟨portOf { answers := [{ msg := 9 }] }, netPacket 2 1 0 0, reaches _ rfl rfl, rfl⟩,
    ⟨unreached {}, netPacket 2 1 0 topOffset, reaches_none _ rfl rfl, rfl, congrArg (Option.map _) (unreached_pages {} .read)⟩,
    ⟨remote, netPacket 2 1 0 topOffset, _, reaches_remote rfl, rfl, congrArg (Option.map _) (remote_pages .read)⟩, fun last => ?_⟩
  cases last
  · exact ⟨port [message 2 4096 0 [(0, 1)]] [] [] false, netPacket 3 64 0 0, message 2 4096 0 [(0, 1)], [(0x300, 0x300000)], ⟨part_port .., rfl, rfl⟩, by decide +kernel,
      by decide +kernel, by decide +kernel, ⟨fun _ => rfl, fun _ => ⟨1, by decide +kernel⟩⟩, by decide +kernel, by decide +kernel, apart_one _ _, by decide +kernel⟩
  · refine ⟨port [message 2 64 0 [(0, 1)]] [] [] false, netPacket 3 64 0 0, message 2 64 0 [(0, 1)], [(0x300, 0x300000)], ⟨part_port .., rfl, rfl⟩, by decide +kernel,
      by decide +kernel, by decide +kernel, ⟨fun h => ?_, nofun⟩, by decide +kernel, by decide +kernel, apart_one _ _, by decide +kernel⟩
    obtain ⟨k, h1, h2, -⟩ := h
    rw [show bitsOf (message 2 64 0 [(0, 1)]).req 51 48 = 10 by decide +kernel, show bitsOf (message 2 64 0 [(0, 1)]).req 159 128 = 64 by decide +kernel] at h1
    exact absurd (show k = 0 by omega) h2

end Sys2Proof.Tests

/-! ## Images and the portable path -/

namespace Sys2Proof.Tests

open Machine Claims

/-- An image of a core of partition 0, whose set is slot `own` alone. -/
def imageIn (own : Nat) (part : Nat) (rev : Word) (corrupt : Bool) : Image :=
  { isSealed := true, part := part, rev := rev, set := [(0, own)], own := (0, own), corrupt := corrupt }

/-- A partition with an image store of eight slots, and the images in slots of slice 0's area and of the store. -/
def archive (images store : Map Image) : State :=
  { State.reset with
    parts := [(0, { state := .running, slices := 1#16, storeSize := 8, store := store })]
    slices := [(0, { images := images })] }

/-- The same while an operation uses slot 3. -/
def archiveBusy (images : Map Image) : State :=
  { archive images [] with slices := [(0, { images := images, imgOps := [{ cmd := 5#64, slots := [(0, 3)], entries := [0] }] })] }

/-- A core whose stop is not sealed yet. -/
def stopping : State :=
  { two with
    cores := [(0, { stopped := true, image := some 3 })]
    slices := [(0, { images := [(3, { imageIn 3 0 0#32 false with isSealed := false })], imgOps := [{ cmd := 1#64, cores := [0], slots := [(0, 3)], reports := [0] }] })] }

/-- A core on which a group is in a region that bars its pre-emption. -/
def regionNoPre : State := { two with groups := [(3, { groupOf two 3 with nopre := some 10 })] }

/-- An idle core, and one whose bytes are taken. -/
def reservedCore : State := { archive [(3, imageIn 3 0 0#32 false)] [] with cores := [(0, { reserved := true })] }

/-- What an image command's clauses share. -/
def Commanded (s : State) (op : Nat) (cmd : DWord) : Prop :=
  MayIssue s 0 0 cmd ∧ bitsOf cmd 3 0 = op ∧ commandOk s 0 cmd = true

theorem commanded_of {s : State} {op : Nat} {cmd : DWord} (hp : slicePart s 0 = some 0) (hl : (partOf s 0).sliceLength = 0) (h : bitsOf cmd 3 0 = op)
    (h4 : bitsOf cmd 3 0 ≠ 4) (ok : commandOk s 0 cmd = true) : Commanded s op cmd :=
  ⟨⟨hp, fun e => absurd e h4, fun _ _ _ => by simp [tenantRuns, hl]⟩, h, ok⟩

theorem commanded_archive (images store : Map Image) (op : Nat) (cmd : DWord) (h : bitsOf cmd 3 0 = op) (h4 : bitsOf cmd 3 0 ≠ 4)
    (ok : commandOk (archive [] []) 0 cmd = true) : Commanded (archive images store) op cmd :=
  commanded_of (by simp [slicePart, archive]) rfl h h4 ok

theorem witness_ImageCommands :
    (∃ (s : State) (slice part : Nat) (cmd : DWord) (i : Instr), MayIssue s slice part cmd ∧ (bitsOf cmd 3 0, i) ∈ imageCommands slice cmd ∧ bitsOf cmd 63 44 ≠ 0) ∧
    (∃ (s : State) (slice part : Nat) (cmd : DWord) (i : Instr), MayIssue s slice part cmd ∧ (bitsOf cmd 3 0, i) ∈ imageCommands slice cmd ∧
      bitsOf cmd 3 0 = 3 ∧ bitsOf cmd 27 12 ≠ 0) ∧
    (∃ (s : State) (slice part : Nat) (cmd : DWord) (i : Instr) (set : List Nat) (slots : List (Nat × Nat)), MayIssue s slice part cmd ∧
      (bitsOf cmd 3 0, i) ∈ imageCommands slice cmd ∧ bitsOf cmd 3 0 = 1 ∧ commandOk s part cmd = true ∧ StopReady s cmd set slots ∧
      (s.groups.map Prod.fst).Nodup ∧ setNoPre s set = false) ∧
    (∃ (s : State) (slice part : Nat) (cmd : DWord) (i : Instr) (set : List Nat) (slots : List (Nat × Nat)), MayIssue s slice part cmd ∧
      (bitsOf cmd 3 0, i) ∈ imageCommands slice cmd ∧ bitsOf cmd 3 0 = 4 ∧ commandOk s part cmd = true ∧ StopReady s cmd set slots ∧
      (s.groups.map Prod.fst).Nodup ∧ setNoPre s set = true) ∧
    (∃ (s : State) (slice part : Nat) (cmd : DWord) (i : Instr) (x : Nat × ImgOp), MayIssue s slice part cmd ∧
      (bitsOf cmd 3 0, i) ∈ imageCommands slice cmd ∧ bitsOf cmd 3 0 = 1 ∧ commandOk s part cmd = true ∧
      deferredStop s (icCore cmd) = none ∧ pendingStop s (icCore cmd) = some x) ∧
    (∃ s cmd, Commanded s 2 cmd ∧ sealedAt s (bitsOf cmd 39 36, bitsOf cmd 43 40) = none) ∧
    (∃ s cmd im, Commanded s 2 cmd ∧ sealedAt s (bitsOf cmd 39 36, bitsOf cmd 43 40) = some im ∧ im.set = [(bitsOf cmd 39 36, bitsOf cmd 43 40)] ∧
      slotInUse s (bitsOf cmd 39 36, bitsOf cmd 43 40) = true) ∧
    (∃ s cmd im, Commanded s 2 cmd ∧ sealedAt s (bitsOf cmd 39 36, bitsOf cmd 43 40) = some im ∧ im.set = [(bitsOf cmd 39 36, bitsOf cmd 43 40)] ∧
      coreScans s (bitsOf cmd 31 28 * 16 + bitsOf cmd 35 32) = false ∧ slotInUse s (bitsOf cmd 39 36, bitsOf cmd 43 40) = false ∧
      coreIdle s (bitsOf cmd 31 28 * 16 + bitsOf cmd 35 32) = false) ∧
    (∀ ok : Bool × Bool × Bool, ∃ s cmd im, Commanded s 2 cmd ∧ sealedAt s (bitsOf cmd 39 36, bitsOf cmd 43 40) = some im ∧
      im.set = [(bitsOf cmd 39 36, bitsOf cmd 43 40)] ∧ coreScans s (bitsOf cmd 31 28 * 16 + bitsOf cmd 35 32) = false ∧
      slotInUse s (bitsOf cmd 39 36, bitsOf cmd 43 40) = false ∧ coreIdle s (bitsOf cmd 31 28 * 16 + bitsOf cmd 35 32) = true ∧
      (im.part = 0 ↔ ok.1 = true) ∧ (im.rev = coreRev s (bitsOf cmd 31 28 * 16 + bitsOf cmd 35 32) ↔ ok.2.1 = true) ∧ im.corrupt = ok.2.2) ∧
    (∃ s cmd, Commanded s 3 cmd ∧ sealedAt s (bitsOf cmd 39 36, bitsOf cmd 43 40) = none) ∧
    (∃ s cmd im, Commanded s 3 cmd ∧ sealedAt s (bitsOf cmd 39 36, bitsOf cmd 43 40) = some im ∧ slotInUse s (bitsOf cmd 39 36, bitsOf cmd 43 40) = true) ∧
    (∀ corrupt : Bool, ∃ s cmd im, Commanded s 3 cmd ∧ sealedAt s (bitsOf cmd 39 36, bitsOf cmd 43 40) = some im ∧
      slotInUse s (bitsOf cmd 39 36, bitsOf cmd 43 40) = false ∧ areaMoves s (bitsOf cmd 39 36) = false ∧ im.corrupt = corrupt) ∧
    (∃ s cmd, Commanded s 5 cmd ∧ sealedAt s (bitsOf cmd 39 36, bitsOf cmd 43 40) = none) ∧
    (∃ s cmd im, Commanded s 5 cmd ∧ sealedAt s (bitsOf cmd 39 36, bitsOf cmd 43 40) = some im ∧ (partOf s 0).storeSize ≤ bitsOf cmd 27 12) ∧
    (∃ s cmd im, Commanded s 5 cmd ∧ sealedAt s (bitsOf cmd 39 36, bitsOf cmd 43 40) = some im ∧ bitsOf cmd 27 12 < (partOf s 0).storeSize ∧
      mfind (partOf s 0).store (bitsOf cmd 27 12) = none ∧ slotInUse s (bitsOf cmd 39 36, bitsOf cmd 43 40) = false ∧ areaMoves s (bitsOf cmd 39 36) = false) ∧
    (∃ s cmd, Commanded s 6 cmd ∧ mfind (partOf s 0).store (bitsOf cmd 27 12) = none) ∧
    (∀ there : Bool, ∃ s cmd im, Commanded s 6 cmd ∧ bitsOf cmd 27 12 < (partOf s 0).storeSize ∧ mfind (partOf s 0).store (bitsOf cmd 27 12) = some im ∧
      (∀ x ∈ im.set, slotInUse s x = false ∧ areaMoves s x.1 = false) ∧ ∃ x ∈ im.set, (imageAt s x).isSome = there) := by
  have r (part : Nat) (rev : Word) (c : Bool) := commanded_archive [(3, imageIn 3 part rev c)] [] 2 0x30000000002#64 rfl (by decide) rfl
  refine ⟨⟨archive [] [], 0, 0, 0x800000000000001#64, .imageStop 0 0x800000000000001#64, ⟨by decide +kernel, fun h => absurd h (by decide), fun _ _ _ => rfl⟩, .head _, by decide⟩,
    ⟨archive [] [], 0, 0, 0x1003#64, .imageDiscard 0 0x1003#64, ⟨by decide +kernel, fun h => absurd h (by decide), fun _ _ _ => rfl⟩, .tail _ (.tail _ (.head _)), rfl, by decide⟩,
    ⟨two, 0, 0, 1#64, .imageStop 0 1#64, [0], [(0, 0)], ⟨by decide +kernel, fun h => absurd h (by decide), fun _ _ _ => rfl⟩, .head _, rfl, by decide +kernel,
      ⟨by decide +kernel, by decide +kernel, by decide +kernel, by decide +kernel⟩, by decide +kernel, by decide +kernel⟩,
    ⟨regionNoPre, 0, 0, 4#64, .imageStopAndSelfTest 0 4#64, [0], [(0, 0)], ⟨by decide +kernel, fun _ => by decide +kernel, fun _ _ _ => rfl⟩, .tail _ (.tail _ (.tail _ (.head _))), rfl, by decide +kernel,
      ⟨by decide +kernel, by decide +kernel, by decide +kernel, by decide +kernel⟩, by decide +kernel, by decide +kernel⟩,
    ⟨stopping, 0, 0, 1#64, .imageStop 0 1#64, (0, { cmd := 1#64, cores := [0], slots := [(0, 3)], reports := [0] }),
      ⟨by decide +kernel, fun h => absurd h (by decide), fun _ _ _ => rfl⟩, .head _, rfl, by decide +kernel, by decide +kernel, by decide +kernel⟩,
    ⟨archive [] [], 2#64, commanded_archive _ _ 2 _ rfl (by decide) rfl, by decide +kernel⟩,
    ⟨archiveBusy [(3, imageIn 3 0 0#32 false)], 0x30000000002#64, imageIn 3 0 0#32 false, commanded_of (by decide +kernel) rfl rfl (by decide) (by decide +kernel), rfl, rfl, by decide +kernel⟩,
    ⟨reservedCore, 0x30000000002#64, imageIn 3 0 0#32 false, commanded_of (by decide +kernel) rfl rfl (by decide) (by decide +kernel), rfl, rfl, by decide +kernel, by decide +kernel, by decide +kernel⟩,
    fun ok => ⟨archive [(3, imageIn 3 (if ok.1 then 0 else 1) (coreRev State.reset 0 + if ok.2.1 then 0#32 else 1#32) ok.2.2)] [], 0x30000000002#64, _,
      r .., rfl, rfl, rfl, rfl, rfl, ?_, ?_, rfl⟩,
    ⟨archive [] [], 3#64, commanded_archive _ _ 3 _ rfl (by decide) rfl, by decide +kernel⟩,
    ⟨archiveBusy [(3, imageIn 3 0 0#32 false)], 0x30000000003#64, imageIn 3 0 0#32 false, commanded_of (by decide +kernel) rfl rfl (by decide) (by decide +kernel), rfl, by decide +kernel⟩,
    fun corrupt => ⟨archive [(3, imageIn 3 0 0#32 corrupt)] [], 0x30000000003#64, imageIn 3 0 0#32 corrupt, commanded_archive _ _ 3 _ rfl (by decide) rfl, rfl, rfl, rfl, rfl⟩,
    ⟨archive [] [], 5#64, commanded_archive _ _ 5 _ rfl (by decide) rfl, by decide +kernel⟩,
    ⟨archive [(3, imageIn 3 0 0#32 false)] [], 0x30000008005#64, imageIn 3 0 0#32 false, commanded_archive _ _ 5 _ rfl (by decide) rfl, rfl, by decide +kernel⟩,
    ⟨archive [(3, imageIn 3 0 0#32 false)] [], 0x30000007005#64, imageIn 3 0 0#32 false, commanded_archive _ _ 5 _ rfl (by decide) rfl, rfl, by decide +kernel, rfl, rfl, rfl⟩,
    ⟨archive [] [], 0x7006#64, commanded_archive _ _ 6 _ rfl (by decide) rfl, by decide +kernel⟩,
    fun there => ⟨archive (if there then [(3, imageIn 3 0 0#32 false)] else []) [(7, imageIn 3 0 0#32 false)], 0x7006#64, imageIn 3 0 0#32 false,
      commanded_archive _ _ 6 _ rfl (by decide) rfl, (by decide : 7 < 8), rfl, ?_, (0, 3), .head _, ?_⟩⟩
  · rcases ok with ⟨a, b, c⟩; cases a <;> simp [imageIn]
  · have h (w : Word) : w + 0#32 = w := by simp
    have h1 (w : Word) : w + 1#32 ≠ w := by bv_omega
    have e (m : Map Image) : coreRev (archive m []) 0 = coreRev State.reset 0 := rfl
    rw [show bitsOf (0x30000000002#64) 31 28 * 16 + bitsOf (0x30000000002#64) 35 32 = 0 by decide, e]
    rcases ok with ⟨a, b, c⟩; cases b <;> simp [imageIn]
  · cases there <;> decide +kernel
  · cases there <;> decide +kernel

end Sys2Proof.Tests

/-! ## Images, portable contexts and cooperative launches -/

namespace Sys2Proof.Tests

open Machine Claims

/-- A stopped core with an access that has left it. -/
def edge (a : Access) : State := { State.reset with cores := [(0, { stopped := true, acc := [a] })] }

/-- An access to four bytes of memory. -/
def accessOf (kind : AccKind) (ptype : PageType) : Access := { kind := kind, ptype := ptype, place := .phys [(0x1000, 4)], order := .plain }

/-- What the clauses of a response share. -/
def Responds (s : State) (a : Access) : Prop :=
  (coreOf s 0).stopped = true ∧ (coreOf s 0).acc[0]? = some a ∧ a.captured = none ∧ a.replay = false ∧ (∃ ps, a.place = .phys ps) ∧
    owedPromotion s 0 a = none ∧ s.poison = []

theorem responds_edge (kind : AccKind) (ptype : PageType) : Responds (edge (accessOf kind ptype)) (accessOf kind ptype) :=
  ⟨rfl, rfl, rfl, rfl, ⟨_, rfl⟩, rfl, rfl⟩

/-- A stop of core 0 that is ready to be sealed. -/
def sealing : State :=
  { two with
    cores := [(0, { stopped := true, image := some 3, gentag := 1#32 })]
    slices := [(0, { images := [(3, { imageIn 3 0 0#32 false with isSealed := false, groups := [3], blocks := [2] })],
                     imgOps := [{ cmd := 0x30000000001#64, cores := [0], slots := [(0, 3)], reports := [0] }] })] }

/-- An operation of each kind that is streaming, on core 0 or to and from entry 5 of the image store. -/
def streaming (cmd : DWord) (cores entries : List Nat) (images store : Map Image) : State :=
  { two with
    parts := [(0, { state := .running, slices := 1#16, storeSize := 8, store := store })]
    groups := [(3, { groupOf two 3 with where_ := .imaged })]
    blocks := [(2, { blockOf two 2 with where_ := .imaged })]
    slices := [(0, { images := images, imgOps := [{ cmd := cmd, cores := cores, slots := [(0, 3)], entries := entries, reports := [0] }] })] }

/-- The image of the group and the block. -/
def heldImage : Image := { imageIn 3 0 0#32 false with groups := [3], blocks := [2] }

/-- A slice whose portable contexts leave no room. -/
def crammed : State := { two with slices := [(0, { portable := [(9, 8 * 2 ^ 20)] })] }

/-- A cooperative launch without a place, whose block is in an image. -/
def coopImaged : State :=
  { two with
    launches := [(1, { rcd := placedRecord, level := 1, nextBlock := 1, status := .coopUnplaceable })]
    groups := [(3, { groupOf two 3 with where_ := .imaged })]
    blocks := [(2, { blockOf two 2 with where_ := .imaged })]
    slices := [(0, { images := [(3, { heldImage with rev := coreRev State.reset 0 })] })] }

theorem place_coop : ∃ u, (launchBlocks coopImaged 1).foldl (coopPlace 0) (some (coopImaged, [])) = some u ∧ (mfind u.1.launches 1).isSome = true := by
  have hb : launchBlocks coopImaged 1 = [2] := by decide +kernel
  have hs : blockSet coopImaged 2 = some ([(0, 3)], [{ heldImage with rev := coreRev State.reset 0 }]) := rfl
  have hn : [(0, 3)].any (slotInUse coopImaged) = false := by decide +kernel
  have hu : partUnits coopImaged 0 .quad = [[0, 1, 2, 3], [4, 5, 6, 7], [8, 9, 10, 11], [12, 13, 14, 15]] := by decide +kernel
  have hi : [0, 1, 2, 3].all (fun c => coreIdle coopImaged c && !coreScans coopImaged c) = true := by decide +kernel
  have hr : coreRev coopImaged 0 = coreRev State.reset 0 := rfl
  have hq : quadFor coopImaged 0 [] [{ heldImage with rev := coreRev State.reset 0 }] = some [0, 1, 2, 3] := by
    unfold quadFor
    rw [hu, List.find?_cons_of_pos]
    rw [hi]
    simp [heldImage, imageIn, hr]
  refine ⟨(placeWhole coopImaged [(0, 3)] [0], [0, 1, 2, 3]), ?_, by decide +kernel⟩
  rw [hb]
  simp only [List.foldl_cons, List.foldl_nil, coopPlace, Option.bind_some, hs, hn, hq]
  rfl

theorem witness_ImagesAndContexts :
    (∃ s a, Responds s a ∧ a.kind = .load ∧ a.ptype = .normal) ∧
    (∃ s a, Responds s a ∧ a.kind = .load ∧ a.ptype = .device) ∧
    (∃ s a, Responds s a ∧ a.kind = .atomic ∧ ∀ b ∈ (coreOf s 0).acc.take 0, b.captured = none → overlap b.place a.place = false) ∧
    (∃ (s : State) (core n : Nat), (coreOf s core).stopped = true ∧ (coreOf s core).stPend = n + 1) ∧
    (∃ (s : State) (core gen sl n : Nat) (im : Image), ((coreOf s core).stopped = false ∨ (coreOf s core).gentag.toNat ≠ gen) ∧
      lateImage s core (fun im => im.gentag.toNat == gen && im.late < im.stPend) = some (true, sl, n, im)) ∧
    (∃ (s : State) (block : Nat) (b : Block), mfind s.blocks block = some b ∧ b.where_ = .resident ∧ blockNoPre s block = true ∧ b.preempt = false) ∧
    (∃ (s : State) (core id : Nat) (w : Sweep), (coreOf s core).stopped = true ∧ (coreOf s core).bops.find? (fun w => w.cap.id == id) = some w) ∧
    (∃ (s : State) (slice : Nat) (o : ImgOp), (sliceOf s slice).imgOps.find? (unsealed s) = some o ∧ o.cores.Nodup ∧ o.slots.Nodup ∧
      o.cores.length = o.slots.length ∧ (∀ c ∈ o.cores, ∀ a ∈ (coreOf s c).acc, mustCapture a = false) ∧ (∀ x ∈ o.slots, (imageAt s x).isSome = true) ∧ o.cores ≠ []) ∧
    (∃ (s : State) (o : ImgOp) (x : Nat × Nat) (c : Nat) (im : Image), slicePart s 0 = some 0 ∧
      (sliceOf s 0).imgOps.find? (fun o => !o.waiting && (bitsOf o.cmd 3 0 == 2 || bitsOf o.cmd 3 0 == 5 || bitsOf o.cmd 3 0 == 6)) = some o ∧
      bitsOf o.cmd 3 0 = 2 ∧ o.slots = [x] ∧ o.cores = [c] ∧ imageAt s x = some im ∧ (∀ a ∈ im.core.acc, a.captured = none) ∧ im.groups = [3] ∧
      (mfind s.groups 3).isSome = true) ∧
    (∃ (s : State) (o : ImgOp) (x : Nat × Nat) (e : Nat) (im : Image), slicePart s 0 = some 0 ∧
      (sliceOf s 0).imgOps.find? (fun o => !o.waiting && (bitsOf o.cmd 3 0 == 2 || bitsOf o.cmd 3 0 == 5 || bitsOf o.cmd 3 0 == 6)) = some o ∧
      bitsOf o.cmd 3 0 = 5 ∧ o.slots = [x] ∧ o.entries = [e] ∧ imageAt s x = some im) ∧
    (∃ (s : State) (o : ImgOp) (x : Nat × Nat) (e : Nat) (im : Image), slicePart s 0 = some 0 ∧
      (sliceOf s 0).imgOps.find? (fun o => !o.waiting && (bitsOf o.cmd 3 0 == 2 || bitsOf o.cmd 3 0 == 5 || bitsOf o.cmd 3 0 == 6)) = some o ∧
      bitsOf o.cmd 3 0 = 6 ∧ o.slots = [x] ∧ o.entries = [e] ∧ mfind (partOf s 0).store e = some im) ∧
    (∀ room : Bool, ∃ (s : State) (block : Nat) (b : Block), mfind s.blocks block = some b ∧ b.where_ = .resident ∧ drainedBlock s block = true ∧
      (s.groups.map Prod.fst).Nodup ∧ (∀ c ∈ b.cores, (∀ w ∈ (coreOf s c).sweeps, w.cap.block ≠ block) ∧ ∀ w ∈ (coreOf s c).matrix, w.cap.block ≠ block) ∧
      (room = true → bytesUsed (sliceOf s (coreSlice (b.cores.headD 0))).portable + bytesUsed (blockContexts s block) ≤ 8 * 2 ^ 20) ∧
      (room = false → 8 * 2 ^ 20 < bytesUsed (sliceOf s (coreSlice (b.cores.headD 0))).portable + bytesUsed (blockContexts s block) ∧
        (partOf s (launchOf s b.launch).part).overflow < bytesUsed (partOf s (launchOf s b.launch).part).overflowUsed + bytesUsed (blockContexts s block))) ∧
    (∃ (s : State) (lid : Nat) (u : State × List Nat), (launchOf s lid).status = .coopUnplaceable ∧ (launchOf s lid).final = false ∧
      (partOf s (launchOf s lid).part).state = .running ∧ tenantRuns (partOf s (launchOf s lid).part) (launchOf s lid).tenant = true ∧
      (launchBlocks s lid).foldl (coopPlace (launchOf s lid).part) (some (s, [])) = some u ∧ (mfind u.1.launches lid).isSome = true) := by
  obtain ⟨u, hu, hl⟩ := place_coop
  refine ⟨⟨_, _, responds_edge .load .normal, rfl, rfl⟩, ⟨_, _, responds_edge .load .device, rfl, rfl⟩,
    ⟨_, _, responds_edge .atomic .normal, rfl, fun b hb => by simp at hb⟩,
    ⟨{ State.reset with cores := [(0, { stopped := true, stPend := 1 })] }, 0, 0, rfl, rfl⟩,
    ⟨archive [(3, { imageIn 3 0 0#32 false with gentag := 7#32, stPend := 1 })] [], 0, 7, 0, 3, { imageIn 3 0 0#32 false with gentag := 7#32, stPend := 1 },
      .inl (by decide +kernel), by decide +kernel⟩,
    ⟨regionNoPre, 2, blockOf regionNoPre 2, by decide +kernel, by decide +kernel, by decide +kernel, by decide +kernel⟩,
    ⟨{ State.reset with cores := [(0, { stopped := true, bops := [{ cap := { id := 5 } }] })] }, 0, 5, { cap := { id := 5 } }, rfl, rfl⟩,
    ⟨sealing, 0, { cmd := 0x30000000001#64, cores := [0], slots := [(0, 3)], reports := [0] }, by decide +kernel, by decide, by decide, rfl, by decide +kernel,
      by decide +kernel, by decide⟩,
    ⟨streaming 0x30000000002#64 [0] [] [(3, heldImage)] [], { cmd := 0x30000000002#64, cores := [0], slots := [(0, 3)], reports := [0] }, (0, 3), 0, heldImage,
      by decide +kernel, by decide +kernel, rfl, rfl, rfl, rfl, by decide, rfl, by decide +kernel⟩,
    ⟨streaming 0x30000005005#64 [] [5] [(3, heldImage)] [], { cmd := 0x30000005005#64, slots := [(0, 3)], entries := [5], reports := [0] }, (0, 3), 5, heldImage,
      by decide +kernel, by decide +kernel, rfl, rfl, rfl, rfl⟩,
    ⟨streaming 0x5006#64 [] [5] [] [(5, heldImage)], { cmd := 0x5006#64, slots := [(0, 3)], entries := [5], reports := [0] }, (0, 3), 5, heldImage,
      by decide +kernel, by decide +kernel, rfl, rfl, rfl, rfl⟩,
    fun room => ?_,
    ⟨coopImaged, 1, u, by decide +kernel, by decide +kernel, by decide +kernel, by decide +kernel, hu, hl⟩⟩
  cases room
  · exact ⟨crammed, 2, blockOf crammed 2, by decide +kernel, by decide +kernel, by decide +kernel, by decide +kernel, by decide +kernel, nofun, fun _ => by decide +kernel⟩
  · exact ⟨two, 2, blockOf two 2, by decide +kernel, by decide +kernel, by decide +kernel, by decide +kernel, by decide +kernel, fun _ => by decide +kernel, nofun⟩

end Sys2Proof.Tests

/-! ## Partitions and the service cores -/

namespace Sys2Proof.Tests

open Machine Claims

/-- Two running partitions: 0 with slices 0 and 1, and 1 with slice 2. -/
def parted : State :=
  { State.reset with booted := true, parts := [(0, { state := .running, slices := 3#16 }), (1, { state := .running, slices := 4#16 })] }

/-- A tenant whose slice is over: of a partition on which nothing runs, and of one with a group. -/
def tenantOver : State :=
  { two with now := 100000, groups := [], parts := [(0, { state := .running, slices := 1#16, sliceLength := 100000 })] }
def tenantLeaves : State := { tenantOver with groups := two.groups }

theorem clear_parted : clearSlice (([] : Map Nat).foldl copyPage parted) 1 0 [0] = some parted := by decide +kernel

theorem witness_Partitions :
    (∃ (s : State) (n : Nat) (slices : BitVec 16), s.booted = true ∧ n < 16 ∧ (partOf s n).state = .free ∧ ∃ p ∈ s.parts, p.2.slices &&& slices ≠ 0#16) ∧
    (∃ (s : State) (n : Nat) (slices : BitVec 16) (commons wsc : Nat), s.booted = true ∧ n < 16 ∧ (partOf s n).state = .free ∧
      (∀ k, k < 4 → slices.getLsbD (Config.home ((freeBase s k).toNat / 64) % 16) = true) ∧
      ¬ (slices = 0#16 ∨ 20 < commons ∨ 8 < wsc ∨ commons < wsc ∨ (∃ p ∈ s.parts, p.2.slices &&& slices ≠ 0#16) ∨
        ∃ k, k < 16 ∧ slices.getLsbD k = true ∧ (sliceOf s k).barred = true)) ∧
    (∃ (s : State) (n : Nat), (partOf s n).state = .running) ∧
    (∃ (s : State) (n : Nat), (partOf s n).state ≠ .free) ∧
    (∃ (s : State) (slice src dst : Nat) (keep : Map Nat) (left : List Nat) (u : State), src ≠ dst ∧ (partOf s src).state = .running ∧
      (partOf s dst).state = .running ∧ slice < 16 ∧ (partOf s src).slices.getLsbD slice = true ∧ (sliceOf s slice).barred = false ∧
      left = (partSlices s src).filter (fun k => k ≠ slice) ∧ left ≠ [] ∧ moveReady s slice src = true ∧
      (∀ k ∈ partSlices s dst, (sliceOf s k).inbox = []) ∧ clearSlice (keep.foldl copyPage s) slice src left = some u) ∧
    (∃ (s : State) (slice part : Nat) (counts : List Nat), slicePart s slice = some part ∧ (partOf s part).specs = [] ∧ counts.length = 4 ∧
      counts.foldl (· + ·) 0 ≤ 2 ^ 26) ∧
    (∃ (s : State) (part slots : Nat), (partOf s part).state = .running ∧ slots ≤ 65536) ∧
    (∃ (s : State) (part next : Nat), (partOf s part).state = .running ∧ (partOf s part).sliceLength ≠ 0 ∧
      (partOf s part).sliceStart + (partOf s part).sliceLength ≤ s.now * 20 / 17 ∧ next < 256 ∧
      ∀ c ∈ partCores s part, holdsTenant s (partOf s part).tenant c = false) ∧
    (∃ (s : State) (part next c : Nat) (set : List Nat) (slots : List (Nat × Nat)), (partOf s part).state = .running ∧ (partOf s part).sliceLength ≠ 0 ∧
      (partOf s part).sliceStart + (partOf s part).sliceLength ≤ s.now * 20 / 17 ∧ next < 256 ∧
      (∀ k ∈ partCores s part, holdsTenant s (partOf s part).tenant k = true ↔ k = c) ∧ c ∈ partCores s part ∧
      (partCores s part).Nodup ∧ (s.groups.map Prod.fst).Nodup ∧ StopReady s (stopCmd s c 0) set slots ∧ setNoPre s set = false) := by
  refine ⟨⟨parted, 2, 1#16, rfl, by decide, rfl, (0, { state := .running, slices := 3#16 }), .head _, by decide⟩,
    ⟨{ State.reset with booted := true }, 15, 0xFFFF#16, 20, 8, rfl, by decide, rfl, fun _ _ => all_home _, by decide +kernel⟩,
    ⟨parted, 0, rfl⟩, ⟨parted, 0, by decide +kernel⟩,
    ⟨parted, 1, 0, 1, [], [0], parted, by decide, rfl, rfl, by decide, by decide +kernel, by decide +kernel, by decide +kernel, by decide, by decide +kernel, by decide +kernel,
      clear_parted⟩,
    ⟨parted, 0, 0, [2 ^ 25, 2 ^ 25, 0, 0], by decide +kernel, by decide +kernel, rfl, by decide +kernel⟩,
    ⟨parted, 0, 65536, rfl, by decide⟩,
    ⟨tenantOver, 0, 255, by decide +kernel, by decide +kernel, by decide +kernel, by decide, by decide +kernel⟩,
    ⟨tenantLeaves, 0, 255, 0, [0], [(0, 0)], by decide +kernel, by decide +kernel, by decide +kernel, by decide, by decide +kernel, by decide +kernel, by decide +kernel,
      by decide +kernel, ⟨by decide +kernel, by decide +kernel, by decide +kernel, by decide +kernel⟩, by decide +kernel⟩⟩

theorem part_everywhere (x : Nat) : slicePart everywhere (x % 16) = some 0 := by
  have : x % 16 < 16 := Nat.mod_lt _ (by decide)
  generalize x % 16 = n at this
  revert n
  decide

theorem witness_ServiceCoreAccesses :
    (∃ (s : State) (slice part addr size : Nat), slicePart s slice = some part ∧ (partOf s part).state = .running ∧ 1 ≤ size ∧ size ≤ 8 ∧ addr % size = 0 ∧
      Config.home (addr / 64) % 16 = slice) ∧
    (∃ (s : State) (slice part : Nat), slicePart s slice = some part ∧ (partOf s part).state = .running) ∧
    (∃ (s : State) (slice part asid line n : Nat) (e : WakeEntry), slicePart s slice = some part ∧ (partOf s part).state = .running ∧ asid < 65536 ∧ line < 2 ^ 50 ∧
      wakeEntry s part asid line = some (n, e)) :=
  ⟨⟨everywhere, _, 0, 0x1000, 8, part_everywhere _, by decide +kernel, by decide, by decide, by decide, rfl⟩, ⟨parted, 2, 1, by decide +kernel, rfl⟩,
    ⟨{ two with parts := [(0, { state := .running, slices := 1#16, wakes := [(5, { asid := 65535, line := 2 ^ 50 - 1, waiters := 1 })] })] }, 0, 0, 65535, 2 ^ 50 - 1, 5,
      { asid := 65535, line := 2 ^ 50 - 1, waiters := 1 }, by decide +kernel, by decide +kernel, by decide, by decide, by decide +kernel⟩⟩

end Sys2Proof.Tests

/-! ## Wear, health and the device -/

namespace Sys2Proof.Tests

open Machine Claims

/-- A core under self-test of a stop of slice 0, with its wear, on a cluster that has lost some pairs. -/
def testing (w : Wear) (deconf : List Deconf) : State :=
  { parted with
    deconf := deconf
    cores := [(0, { selfTest := true, wear := w })]
    slices := [(0, { imgOps := [{ cmd := 4#64, cores := [0], reports := [0] }] })] }

/-- Two pairs of slice 0 gone. -/
def twoGone : List Deconf := [{ slice := 0, pair := 6 }, { slice := 0, pair := 7 }]

/-- The wear of a core at the highest offset with a critical path short of slack. -/
def worn : Wear := { offset := 40, slack := [19, 50, 50, 50, 50, 50, 50, 50] }

theorem witness_WearAndHealth :
    (∃ s : State, s.booted = false) ∧
    (∃ (core : Nat) (slacks : List Nat), core < 256 ∧ slacks.length = 8 ∧ ∃ x ∈ slacks, x < 20) ∧
    (∀ n, n = 0 ∨ n = 99 → ∃ (s : State) (core : Nat) (slacks : List Nat), core < 256 ∧ slacks.length = 8 ∧ (∀ x ∈ slacks, 20 ≤ x) ∧ (∀ x ∈ slacks, 45 < x) ∧
      (coreOf s core).wear.above45 = n) ∧
    (∃ (core : Nat) (slacks : List Nat), core < 256 ∧ slacks.length = 8 ∧ (∀ x ∈ slacks, 20 ≤ x) ∧ ∃ x ∈ slacks, x ≤ 45) ∧
    (∃ core temp volt : Nat, core < 256 ∧ temp < 8 ∧ volt < 8) ∧
    (∃ (s : State) (core : Nat), configured s core = true ∧ (∀ c ∈ sliceCores s (core / 16), (coreOf s c).wear.testDue = false ∧ (coreOf s c).selfTest = false) ∧
      (coreOf s core).wear.tested + 86400000000000 ≤ s.now * 20 / 17) ∧
    (∀ fails : Bool, ∃ (s : State) (slice part : Nat) (o : ImgOp) (pass : Bool), slicePart s slice = some part ∧ (sliceOf s slice).imgOps.find? (fun o =>
        !o.waiting && bitsOf o.cmd 3 0 == 4 && o.cores.any (fun c => (coreOf s c).selfTest)) = some o ∧
      ((pass = false ∨ ((coreOf s (icCore o.cmd)).wear.offset = 40 ∧ ∃ x ∈ (coreOf s (icCore o.cmd)).wear.slack, x < 20)) ↔ fails = true) ∧
      clPairs s (icCore o.cmd / 16) ≠ 6) ∧
    (∃ (s : State) (slice part : Nat) (o : ImgOp), slicePart s slice = some part ∧ (sliceOf s slice).imgOps.find? (fun o =>
        !o.waiting && bitsOf o.cmd 3 0 == 4 && o.cores.any (fun c => (coreOf s c).selfTest)) = some o ∧
      (coreOf s (icCore o.cmd)).wear.offset = 40 ∧ (∃ x ∈ (coreOf s (icCore o.cmd)).wear.slack, x < 20) ∧ clPairs s (icCore o.cmd / 16) = 6) ∧
    (∃ (s : State) (slice pair : Nat), slice < 16 ∧ pair < 8 ∧ pairGone s slice pair = false ∧ clPairs s slice ≤ 6 ∧ pairAtLimit s slice pair = true ∧
      pairFailed s slice pair = false) ∧
    (∃ (s : State) (slice pair : Nat), slice < 16 ∧ pair < 8 ∧ pairGone s slice pair = false ∧ clPairs s slice ≤ 6 ∧ pairFailed s slice pair = true) ∧
    (∃ (s : State) (slice pair : Nat), slice < 16 ∧ pair < 8 ∧ pairGone s slice pair = false ∧ 6 < clPairs s slice ∧ pairAtLimit s slice pair = true ∧
      pairReady s slice pair = true) ∧
    (∃ s : State, s.booted = true) ∧
    (∃ s : State, (s.parts.map Prod.fst).Nodup ∧ s.parts ≠ []) := by
  refine ⟨⟨State.reset, rfl⟩, ⟨255, [19, 50, 50, 50, 50, 50, 50, 50], by decide, rfl, by decide⟩,
    fun n _ => ⟨testing { above45 := n } [], 0, List.replicate 8 46, by decide, rfl, by decide, by decide, rfl⟩,
    ⟨255, List.replicate 8 45, by decide, rfl, by decide, by decide⟩, ⟨255, 7, 7, by decide, by decide, by decide⟩,
    ⟨{ State.reset with now := 73440000000000 }, 255, by decide +kernel, by decide +kernel, by decide +kernel⟩,
    fun fails => ?_,
    ⟨testing worn twoGone, 0, 0, { cmd := 4#64, cores := [0], reports := [0] }, by decide +kernel, by decide +kernel, by decide +kernel, by decide +kernel, by decide +kernel⟩,
    ⟨testing worn twoGone, 0, 0, by decide, by decide, by decide +kernel, by decide +kernel, by decide +kernel, by decide +kernel⟩,
    ⟨testing { failed := true } twoGone, 0, 0, by decide, by decide, by decide +kernel, by decide +kernel, by decide +kernel⟩,
    ⟨testing worn [] |> fun s => { s with slices := [] }, 0, 0, by decide, by decide, by decide +kernel, by decide +kernel, by decide +kernel, by decide +kernel⟩,
    ⟨parted, rfl⟩, ⟨parted, by decide +kernel, by decide +kernel⟩⟩
  cases fails
  · exact ⟨testing {} [], 0, 0, { cmd := 4#64, cores := [0], reports := [0] }, true, by decide +kernel, by decide +kernel, by decide +kernel, by decide +kernel⟩
  · exact ⟨testing {} [], 0, 0, { cmd := 4#64, cores := [0], reports := [0] }, false, by decide +kernel, by decide +kernel, by decide +kernel, by decide +kernel⟩

end Sys2Proof.Tests

namespace Sys2Proof.Tests

open Machine Claims

/-- Two threads about to issue the word at their PC. -/
def ready (w : Nat) : State := placeWord { two with issue := none } (placedBase + 8) w

/-- Their gang. -/
def qReady : Issue := { gid := 3, gang := [0, 1], pc := 0x100008#64 }

theorem issues_ready : IssuesNext (ready 0x01700600C8280020) qReady :=
  ⟨rfl, by decide +kernel, by decide +kernel, .inl (by decide +kernel)⟩

/-- Whether an outcome is a next state. -/
def goesOn (o : Out) : Bool :=
  match o with
  | .next _ => true
  | _ => false

theorem next_of {o : Out} (h : goesOn o = true) : ∃ t, o = .next t := by
  cases o with
  | next t => exact ⟨t, rfl⟩
  | fault r => cases r
  | refused r => simp [goesOn] at h

theorem unheld_add : Unheld { ready 0x01700600C8280020 with issue := some qReady } qReady
    (.iadd ⟨⟨false, 7⟩, .v 3, .reg (.v 3), .imm 5, .reg (.v 0), .s32, .ne, false, false⟩) :=
  ⟨by decide +kernel, by decide +kernel, by decide +kernel, by decide +kernel, by decide +kernel, by decide +kernel⟩

theorem unheld_other : Unheld { ready 0xFF70000000000000 with issue := some qReady } qReady
    (.unassignedOpcode (BitVec.ofNat 64 (readN (readMem (ready 0xFF70000000000000)) (placedBase + 8) 8))) :=
  ⟨by decide +kernel, by decide +kernel, by decide +kernel, by decide +kernel, by decide +kernel, by decide +kernel⟩

theorem witness_StepRunsDecodedInstruction :
    (∃ (s : State) (q : Issue) (c : Ctx) (pa : Nat) (attr : PageType) (i : Instr), IssuesNext s q ∧ ctxOf { s with issue := some q } = some c ∧
      (groupOf s q.gid).replay = [] ∧ xlate { s with issue := some q } c.g (threadOf c.g (lowest c.gang)).walked (launchOf s c.g.launch).part
        (launchOf s c.g.launch).asid (launchOf s c.g.launch).level q.pc.toNat .exec 512 = .ok pa attr ∧ mfind s.stale (pa / 8) = none ∧
      decodeWord (readN (readMem s) pa 8) = .ok i ∧ Unheld { s with issue := some q } q i ∧ ∃ t, exec i { s with issue := some q } = .next t) ∧
    (∃ (s : State) (q : Issue) (c : Ctx) (pa : Nat) (attr : PageType) (e : DecodeError), IssuesNext s q ∧ ctxOf { s with issue := some q } = some c ∧
      (groupOf s q.gid).replay = [] ∧ xlate { s with issue := some q } c.g (threadOf c.g (lowest c.gang)).walked (launchOf s c.g.launch).part
        (launchOf s c.g.launch).asid (launchOf s c.g.launch).level q.pc.toNat .exec 512 = .ok pa attr ∧ mfind s.stale (pa / 8) = none ∧
      decodeWord (readN (readMem s) pa 8) = .error e ∧
      Unheld { s with issue := some q } q (.unassignedOpcode (BitVec.ofNat 64 (readN (readMem s) pa 8))) ∧
      ∃ t, exec (.unassignedOpcode (BitVec.ofNat 64 (readN (readMem s) pa 8))) { s with issue := some q } = .next t) ∧
    (∃ (s : State) (i : Instr) (rest : List Instr) (t : State), s.agenda = i :: rest ∧ exec i { s with agenda := rest } = .next t) ∧
    (∃ (s : State) (i : Instr) (rest : List Instr) (r : Refusal), s.agenda = i :: rest ∧ exec i { s with agenda := rest } = .refused r) := by
  refine ⟨⟨ready 0x01700600C8280020, qReady, ⟨3, groupOf two 3, [0, 1], 0x100008#64⟩, placedBase + 8, .normal,
      .iadd ⟨⟨false, 7⟩, .v 3, .reg (.v 3), .imm 5, .reg (.v 0), .s32, .ne, false, false⟩, issues_ready, rfl, by decide +kernel, by decide +kernel, by decide +kernel,
      (congrArg decodeWord (by decide +kernel : readN (readMem (ready 0x01700600C8280020)) (placedBase + 8) 8 = 0x01700600C8280020)).trans rfl,
      unheld_add, next_of (by decide +kernel)⟩,
    ⟨ready 0xFF70000000000000, qReady, ⟨3, groupOf two 3, [0, 1], 0x100008#64⟩, placedBase + 8, .normal, .header,
      ⟨rfl, by decide +kernel, by decide +kernel, .inl (by decide +kernel)⟩, rfl, by decide +kernel, by decide +kernel, by decide +kernel,
      (congrArg decodeWord (by decide +kernel : readN (readMem (ready 0xFF70000000000000)) (placedBase + 8) 8 = 0xFF70000000000000)).trans rfl,
      unheld_other, next_of (by decide +kernel)⟩,
    ⟨{ State.reset with agenda := [.boot true] }, .boot true, [], _, rfl, rfl⟩,
    ⟨{ State.reset with agenda := [.launchTimeout 7] }, .launchTimeout 7, [], _, rfl, rfl⟩⟩

theorem witness_MemoryStaysCanonical : ∃ s t : State, Memory.wf s.mem = true ∧ step s = .next t := by
  obtain ⟨t, h⟩ := next_of (by decide +kernel : goesOn (step (ready 0x01700600C8280020)) = true)
  exact ⟨_, t, by decide +kernel, h⟩

theorem witness_TablesStayAscending : ∃ s t : State, TablesAscending s ∧ step s = .next t := by
  obtain ⟨t, h⟩ := next_of (by decide +kernel : goesOn (step (ready 0x01700600C8280020)) = true)
  exact ⟨_, t, ⟨by unfold Ascending; decide +kernel, by unfold Ascending; decide +kernel, by unfold Ascending; decide +kernel, by unfold Ascending; decide +kernel⟩, h⟩

end Sys2Proof.Tests

/-! ## Ill-formed terms: one for each check, which the check refuses (R60..R79 and the chapter of each row) -/

namespace Sys2Proof.Tests

/-- The predicate that is always true. -/
def pAll : Pred := ⟨false, 7⟩

/-- An operation of format A on v1, v2 and v3. -/
def opA (t : Tag) : OpA := ⟨pAll, .v 2, .reg (.v 4), .reg (.v 6), zeroA, t, .ne, false, false⟩
where
  /-- The operand that is not used. -/
  zeroA : Src := .reg (.v 0)

/-- The same with a third operand. -/
def opA3 (t : Tag) : OpA := { opA t with c := .reg (.v 8) }

/-- The same with one operand. -/
def opA1 (t : Tag) : OpA := { opA t with b := .reg (.v 0) }

/-- Whether every instruction of a list is refused. -/
def allRefused (l : List Instr) : Bool := l.all (fun i => !i.wf)

/-- The base terms are well-formed: only the change makes each of the others ill-formed. -/
theorem test_wellformed_bases : [Instr.iadd (opA .s32), .imad (opA3 .s32), .iabs (opA1 .s32), .shl (opA .b32), .popc (opA1 .b32), .bfx (opA3 .n64),
    .lea (opA3 .s32), .mov (opA1 .b32), .ffma (opA3 .f32), .frcp (opA1 .f32), .fclass (opA1 .f16x2), .fdot2 (opA3 .bf16x2),
    .idot4 (opA3 .s8x4), .pack (opA .f16x2)].all Instr.wf = true := by decide

theorem test_illformed_integer : allRefused [
    .iadd (opA .f32), .iadd { opA .s32 with rm := .up }, .iadd { opA .s32 with x := true }, .iadd { opA .s32 with c := .reg (.v 1) },
    .iadd { opA .s32 with d := .k 2 }, .iadd { opA .s64 with d := .v 3 }, .iadd { opA .s64 with a := .reg (.v 5) }, .iadd { opA .n64 with b := .const .pi },
    .imul (opA .s8x4), .imulh { opA .s32 with sat := true }, .imad { opA3 .s64 with c := .reg (.v 9) }, .idiv (opA .n8x4), .irem { opA .s32 with sat := true },
    .imin { opA .s32 with sat := true }, .iabs (opA1 .n32), .iabs { opA1 .s32 with b := .reg (.v 1) }, .and (opA .f32), .shl (opA .s8x4),
    .popc { opA1 .n64 with a := .reg (.v 5) }, .brev (opA1 .s8x4), .bfx (opA3 .s8x4), .lea { opA3 .s32 with d := .v 3 }, .lea { opA3 .s32 with a := .reg (.v 5) },
    .lea (opA3 .s64)] = true := by decide

theorem test_illformed_moves : allRefused [
    .sel ⟨pAll, .v 1, .reg (.v 2), .imm 5, false, 0, .void, true⟩, .sel ⟨pAll, .v 1, .reg (.v 2), .reg (.v 3), false, 0, .void, false⟩,
    .icmp ⟨pAll, .v 1, .reg (.v 2), .reg (.v 3), 8, 0, .s32, false⟩, .icmp ⟨pAll, .v 1, .reg (.v 2), .reg (.v 3), 2, 0, .b32, false⟩,
    .icmp ⟨pAll, .v 1, .reg (.v 2), .reg (.v 3), 0, 0, .s32, true⟩, .mov { opA1 .b32 with x := true }, .mov { opA1 .void with x := true, a := .imm 5 },
    .mov (opA1 .af), .mov { opA1 .s64 with d := .v 3 }, .movi ⟨pAll, .v 1, .void, 0#32⟩, .movi ⟨pAll, .v 1, .n64, 0#32⟩, .movs ⟨pAll, .v 1, .clock⟩,
    .movs ⟨pAll, .k 0, .lane⟩, .movs ⟨pAll, .v 2, .gang⟩, .iaddi ⟨pAll, .v 1, .reg (.v 2), .f32, 0#26⟩, .lopi ⟨pAll, .v 1, .reg (.v 2), .f32, 0, 0#24⟩] = true := by
  decide

theorem test_illformed_float : allRefused [
    .fadd (opA .s32), .fadd { opA .f32 with c := .reg (.v 1) }, .fmin { opA .f32 with rm := .up }, .fmin { opA .f32 with sat := true }, .frcp (opA1 .bf16x2),
    .frcp { opA1 .f32 with rm := .tz }, .fcmp ⟨pAll, .v 1, .reg (.v 2), .reg (.v 3), 8, 0, .f32, false⟩, .fcmp ⟨pAll, .v 1, .reg (.v 2), .reg (.v 3), 0, 0, .s32, false⟩,
    .fclass { opA1 .f32 with sat := true }, .frnd { opA1 .f32 with sat := true }, .cvt ⟨pAll, .v 1, .reg (.v 2), .f32, .f32, .ne, false, false⟩,
    .cvt ⟨pAll, .v 1, .reg (.v 2), .f32, .bf16x2, .ne, false, false⟩, .cvt ⟨pAll, .v 1, .reg (.v 2), .f32, .s64, .ne, false, false⟩,
    .cvt ⟨pAll, .v 1, .reg (.v 2), .f32, .s32, .ne, true, false⟩, .pack (opA .f32), .pack { opA .f16x2 with c := .reg (.v 1) }, .pack { opA3 .s8x4 with rm := .up },
    .unpk ⟨pAll, .v 1, .reg (.v 2), 2, .f16x2⟩, .unpk ⟨pAll, .v 1, .reg (.v 2), 0, .s32⟩, .fdot2 (opA3 .f32), .idot4 (opA3 .s32),
    .idot4 { opA3 .s8x4 with rm := .up }] = true := by decide

theorem test_illformed_affine : allRefused [
    .afrng ⟨pAll, .v 1, 0, false⟩, .afrng ⟨pAll, .k 2, 0, false⟩,
    .afget ⟨pAll, .k 1, 0, .reg (.v 0), 0, false⟩, .afget ⟨pAll, .v 1, 0, .reg (.v 1), 0, false⟩, .afsym ⟨pAll, .v 1, .reg (.v 0), 1⟩, .afsym ⟨pAll, .k 1, .reg (.v 2), 0⟩,
    .afsym ⟨pAll, .k 1, .reg (.v 2), 1⟩, .afld ⟨pAll, 0, .reg (.v 2), .part, .rel, .norm, 0#19⟩, .afst ⟨pAll, 0, .reg (.v 2), .part, .acq, .norm, 0#19⟩,
    .afld ⟨pAll, 0, .reg (.v 3), .part, .plain, .norm, 0#19⟩, .afld ⟨pAll, 0, .const .zero, .part, .plain, .norm, 0#19⟩,
    .afst ⟨pAll, 0, .imm 0, .blk, .plain, .norm, 0#19⟩] = true := by decide

theorem test_illformed_lanes : allRefused [
    .pmov (.set pAll true (.reg (.v 1)) 1), .pmov (.set pAll false (.reg (.k 1)) 1), .pmov (.set pAll false (.const .pi) 1),
    .vote ⟨pAll, .k 1, 0, false, 0, 7, .gang⟩, .vote ⟨pAll, .v 2, 0, false, 3, 7, .gang⟩, .vote ⟨pAll, .v 4, 0, false, 3, 1, .gang⟩,
    .shfl ⟨pAll, .k 1, .reg (.v 2), .imm 1, 0, .gang⟩, .shfl ⟨pAll, .v 1, .imm 2, .imm 1, 0, .gang⟩, .shfl ⟨pAll, .v 1, .reg (.v 2), .const .pi, 0, .gang⟩,
    .gred ⟨pAll, .k 1, .reg (.v 2), .add, false, .gang, .s32, .ne, false⟩, .gred ⟨pAll, .v 1, .reg (.v 2), .and, false, .gang, .f32, .ne, false⟩,
    .gred ⟨pAll, .v 1, .reg (.v 2), .add, true, .gang, .s32, .ne, false⟩, .gscan ⟨pAll, .v 1, .reg (.v 2), .min, true, .gang, .f32, .up, false⟩,
    .gscan ⟨pAll, .v 1, .reg (.v 2), .add, true, .gang, .f32, .ne, true⟩, .matchLanes ⟨pAll, .v 2, .reg (.v 2), 7, .gang, .b32⟩,
    .matchLanes ⟨pAll, .v 4, .reg (.v 2), 7, .gang, .f32⟩, .ixset ⟨pAll, .const .pi, .imm 0, 0⟩] = true := by decide

theorem test_illformed_memory : allRefused [
    .ld ⟨pAll, .reg (.v 1), .reg (.v 2), .b32, .part, .rel, .norm, 0#19⟩, .ld ⟨pAll, .reg (.v 1), .reg (.v 3), .b32, .part, .plain, .norm, 0#19⟩,
    .ld ⟨pAll, .imm 1, .reg (.v 2), .b32, .part, .plain, .norm, 0#19⟩, .ld ⟨pAll, .reg (.v 2), .reg (.v 2), .b128, .part, .plain, .norm, 0#19⟩,
    .ld ⟨pAll, .reg (.k 1), .reg (.v 2), .b32, .part, .plain, .norm, 0#19⟩, .st ⟨pAll, .reg (.v 1), .reg (.v 2), .b32, .part, .acq, .norm, 0#19⟩,
    .st ⟨pAll, .reg (.v 1), .imm 2, .b32, .part, .plain, .norm, 0#19⟩, .st ⟨pAll, .reg (.v 1), .reg (.v 2), .s64, .part, .plain, .norm, 0#19⟩,
    .lds ⟨pAll, .reg (.k 1), .reg (.v 2), .b32, .blk, .plain, .norm, 0#19⟩, .lds ⟨pAll, .reg (.v 1), .imm 2, .b32, .blk, .plain, .norm, 0#19⟩,
    .sts ⟨pAll, .const .pi, .reg (.v 2), .n32, .blk, .plain, .norm, 0#19⟩, .ldk ⟨pAll, .v 1, .reg (.k 2), 0, .part, .plain, .norm, 0#19⟩,
    .ldk ⟨pAll, .k 1, .reg (.v 2), 0, .part, .plain, .norm, 0#19⟩, .ldk ⟨pAll, .k 1, .const .one, 0, .part, .plain, .norm, 0#19⟩,
    .pref ⟨pAll, .reg (.v 1), .part, .norm, 0#19⟩, .ldx ⟨pAll, 0, 1, .reg (.v 2), .s64, .part, .plain, .norm, 0#19⟩,
    .ldx ⟨pAll, 0, 1, .reg (.v 2), .b32, .part, .rel, .norm, 0#19⟩, .stx ⟨pAll, 0, 1, .reg (.v 2), .b32, .part, .acq, .norm, 0#19⟩,
    .cctl ⟨pAll, 2, .reg (.v 0), .part, .norm, 1#19⟩, .cctl ⟨pAll, 0, .imm 1, .part, .norm, 0#19⟩,
    .atom ⟨pAll, .v 1, .reg (.v 2), .reg (.v 3), .add, .f32, .part, .plain⟩, .atom ⟨pAll, .v 1, .reg (.v 2), .imm 3, .cas, .b32, .part, .plain⟩,
    .atom ⟨pAll, .v 1, .reg (.v 2), .reg (.v 255), .cas, .b32, .part, .plain⟩, .atom ⟨pAll, .v 2, .reg (.v 2), .reg (.v 254), .cas, .s64, .part, .plain⟩,
    .atom ⟨pAll, .k 1, .reg (.v 2), .reg (.k 3), .add, .s32, .part, .plain⟩, .atoms ⟨pAll, .k 1, .reg (.k 2), .reg (.k 3), .add, .s32, .blk, .plain⟩,
    .atoms ⟨pAll, .v 1, .imm 2, .reg (.v 3), .add, .s32, .blk, .plain⟩, .red ⟨pAll, .v 1, .reg (.v 2), .reg (.v 3), .add, .s32, .part, .plain⟩,
    .red ⟨pAll, .v 0, .reg (.v 2), .reg (.v 3), .exch, .b32, .part, .plain⟩, .red ⟨pAll, .v 0, .reg (.v 2), .reg (.v 3), .add, .s32, .part, .acq⟩] = true := by decide

/-- A sweep of 1 element of type `t`. -/
def opV (t : Tag) : OpV := ⟨1, t, 0, 0, 0, 0, 0, 0, 0⟩

theorem test_illformed_sweeps : allRefused [
    .vadd { opV .f32 with cnt := 0 }, .vadd (opV .b32), .vadd { opV .f32 with mod := 2 }, .vmin { opV .f32 with mod := 1 }, .vexp { opV .f32 with ks2 := 1 },
    .vexp (opV .s32), .vcvt { opV .f32 with mod := 4 }, .vcvt { opV .b32 with mod := 4 }, .vcvt { opV .dx8x4 with mod := 12 },
    .vcvt { opV .f32 with mod := 2, ks2 := 1 }, .vred { opV .f32 with mod := 3 }, .vred { opV .f32 with std := 1 }, .vred { opV .f32 with mod := 4 },
    .vscan { opV .f32 with mod := 3 }, .vscan { opV .f32 with st2 := 1 }, .vgth { opV .b32 with mod := 3 }, .vgth { opV .b32 with st2 := 1 },
    .vsct { opV .b32 with std := 1 }, .vmov (opV .f32), .vsel { opV .b32 with mod := 1 }, .vcmp { opV .f32 with mod := 8 }, .vlrec { opV .f32 with st1 := 7 },
    .vlrec { opV .f32 with st2 := 1 }, .bop { opV .f16x2 with mod := 6 }, .bop { opV .b32 with mod := 10 }] = true := by decide

/-- A matrix word that names no format. -/
def opX : OpX := ⟨0, 0, 0, 0, .bf16, .bf16, 0, false, false⟩

theorem test_illformed_matrix : allRefused [
    .mma { opX with fb := .f16 }, .mma { opX with km := 1 }, .mma { opX with fa := .dx8, fb := .dx8, ta := true }, .mmas { opX with ta := true },
    .mwait { opX with ka := 1 }, .mwait { opX with zero := true, mt := 1 }, .mopr { opX with mt := 1 }, .mopr { opX with zero := true },
    .mzero { opX with fa := .f16, fb := .f16 }, .mzero { opX with kn := 1 }, .mldc { opX with kb := 1 }, .mldc { opX with zero := true },
    .mstc { opX with kn := 4 }, .mstc { opX with km := 1 }] = true := by decide

/-- A copy or a sync word. -/
def opQ : OpQ := ⟨pAll, 0, 0, 0, 0, 0, 0⟩

theorem test_illformed_copies_and_syncs : allRefused [
    .cpy { opQ with mask := 1 }, .cpy { opQ with dir := 2 }, .cpym opQ, .cpym { opQ with mask := 1, dir := 1 }, .cpyx { opQ with dir := 1 },
    .cpyw { opQ with seg := 1 }, .synci { opQ with dir := 1 }, .syncw { opQ with mask := 1 }, .synca { opQ with kd := 1 }, .synct { opQ with kd := 1 },
    .synct { opQ with ks := 1 }, .synct { opQ with seg := 1 }] = true := by decide

theorem test_illformed_control_and_system : allRefused [
    .bri ⟨pAll, false, .v 1⟩, .bri ⟨pAll, true, .v 2⟩, .call ⟨pAll, .k 2, .direct 1#32⟩, .call ⟨pAll, .v 1, .direct 1#32⟩, .call ⟨pAll, .v 2, .indirect (.v 1)⟩,
    .ret ⟨pAll, .k 2⟩, .ret ⟨pAll, .v 1⟩, .lnch ⟨pAll, .v 1⟩, .wwait ⟨pAll, .v 1, .imm 1, 0, 0, false, false, 7, false⟩,
    .wwait ⟨pAll, .v 2, .imm 1, 0, 6, false, false, 7, false⟩, .wwait ⟨pAll, .v 2, .const .pi, 0, 0, false, false, 7, false⟩,
    .wwait ⟨pAll, .v 2, .imm 1, 1, 0, false, false, 7, false⟩, .wwait ⟨pAll, .k 2, .reg (.v 1), 0, 0, false, false, 7, false⟩, .wwake ⟨pAll, .v 1, false⟩,
    .wemit ⟨pAll, .k 2, .v 2, 0⟩, .wemit ⟨pAll, .v 2, .v 3, 0⟩, .wemit ⟨pAll, .v 2, .v 4, 245⟩, .wpnld ⟨pAll, .k 1, .imm 0⟩, .wpnst ⟨pAll, .v 1, .reg (.k 1)⟩,
    .wpnst ⟨pAll, .v 1, .const .one⟩, .wfwd ⟨pAll, .v 2, 0, true⟩, .wfwd ⟨pAll, .v 1, 0, false⟩, .nsend ⟨pAll, .v 1⟩, .nrecv ⟨pAll, .k 1⟩, .nctr ⟨pAll, .v 1, 0, 0⟩,
    .nctr ⟨pAll, .v 2, 8, 0⟩, .sysc ⟨pAll, .v 1, .v 1, 0#16⟩, .sysc ⟨pAll, .k 1, .v 2, 0#16⟩, .movy ⟨pAll, .v 2, .fpclear⟩, .movy ⟨pAll, .v 1, .trapbase⟩,
    .movyw ⟨pAll, .reg (.v 2), .trapframe⟩, .movyw ⟨pAll, .reg (.v 1), .trapbase⟩, .tlbi ⟨pAll, .v 2, .v 1, 0⟩, .tlbi ⟨pAll, .v 2, .v 2, 1⟩,
    .tlbi ⟨pAll, .v 2, .v 0, 2⟩, .tlbi ⟨pAll, .v 0, .v 0, 3⟩] = true := by decide

/-! ## Words that the spec writes out, for each format and family (R71..R77); its opcode map gives the rest -/

theorem test_decode_integer : decodeWord 0x1A701200C8511020 = .ok (.icmp ⟨pAll, .v 9, .reg (.v 3), .imm 10, 2, 1, .s32, false⟩) := by rfl

theorem test_decode_float : decodeWord 0x4270040040200024 = .ok (.cvt ⟨pAll, .v 2, .reg (.v 1), .f32, .s32, .tz, false, false⟩) := by rfl

theorem test_decode_affine : decodeWord 0x5571A030070000F0 = .ok (.afmul ⟨pAll, 1, 0, 2, false⟩) ∧
    decodeWord 0x5B70083000000040 = .ok (.afrng ⟨pAll, .v 4, 0, false⟩) := by constructor <;> rfl

theorem test_decode_affine_memory : decodeWord 0x5E71800281800000 = .ok (.afst ⟨pAll, 0, .reg (.v 10), .part, .plain, .norm, 0#19⟩) ∧
    decodeWord 0x5F78044040040030 = .ok (.afsym ⟨pAll, .k 2, .imm 1, 2⟩) := by constructor <;> rfl

theorem test_decode_lanes : decodeWord 0x65700C0142040830 = .ok (.gscan ⟨pAll, .v 6, .reg (.v 5), .add, true, .kregs 2, .n32, .ne, false⟩) := by rfl

theorem test_decode_memory : decodeWord 0x7070080091A00010 = .ok (.ld ⟨pAll, .reg (.v 4), .reg (.v 2), .b32, .part, .acq, .norm, 16#19⟩) ∧
    decodeWord 0x75700C0088080980 = .ok (.atom ⟨pAll, .v 6, .reg (.v 2), .imm 1, .add, .s32, .part, .plain⟩) := by constructor <;> rfl

theorem test_decode_copies : decodeWord 0x90701C1C08C01000 = .ok (.cpy ⟨pAll, 7, 28, 35, 0, 1, 0⟩) ∧
    decodeWord 0x91701818017C0002 = .ok (.cpym ⟨pAll, 6, 24, 5, 15, 0, 2⟩) := by constructor <;> rfl

theorem test_decode_syncs : decodeWord 0x9470780405800000 = .ok (.synci ⟨pAll, 30, 4, 22, 0, 0, 0⟩) ∧
    decodeWord 0x95700005058C0000 = .ok (.synca ⟨pAll, 0, 5, 22, 3, 0, 0⟩) := by constructor <;> rfl

theorem test_decode_waits_for_syncs : decodeWord 0x96707C1E05800000 = .ok (.syncw ⟨pAll, 31, 30, 22, 0, 0, 0⟩) ∧
    decodeWord 0x9770600005800000 = .ok (.synct ⟨pAll, 24, 0, 22, 0, 0, 0⟩) := by constructor <;> rfl

theorem test_decode_sweeps : decodeWord 0xB200340210290300 = .ok (.vlrec ⟨3, .f32, 4, 1, 5, 1, 6, 0, 0⟩) := by rfl

theorem test_decode_matrix : decodeWord 0xC018100480000800 = .ok (.mma ⟨3, 8, 9, 0, .bf16, .bf16, 16, false, false⟩) ∧
    decodeWord 0xC718180680000080 = .ok (.mstc ⟨3, 12, 13, 0, .bf16, .bf16, 1, false, false⟩) := by constructor <;> rfl

theorem test_decode_control : decodeWord 0xD571000000000003 = .ok (.bar ⟨pAll, true, 3⟩) ∧ decodeWord 0xDA70000000000000 = .ok (.nopre false) := by
  constructor <;> rfl

theorem test_decode_waits : decodeWord 0xD870084000C00050 = .ok (.wwait ⟨pAll, .v 4, .imm 0, 12, 0, false, true, 2, false⟩) ∧
    decodeWord 0xD970080000000001 = .ok (.wwake ⟨pAll, .v 4, true⟩) := by constructor <;> rfl

theorem test_decode_windows : decodeWord 0xE170280580000000 = .ok (.wemit ⟨pAll, .v 20, .v 22, 0⟩) ∧
    decodeWord 0xE570100000000011 = .ok (.wfwd ⟨pAll, .v 8, 17, false⟩) := by constructor <;> rfl

theorem test_decode_network : decodeWord 0xE970140000000000 = .ok (.nrecv ⟨pAll, .v 10⟩) ∧ decodeWord 0xEA70100000000052 = .ok (.nctr ⟨pAll, .v 8, 2, 5⟩) := by
  constructor <;> rfl

theorem test_decode_system : decodeWord 0xF170040100000001 = .ok (.sysc ⟨pAll, .v 2, .v 4, 1#16⟩) ∧
    decodeWord 0xF4700000C0070000 = .ok (.movyw ⟨pAll, .reg (.v 3), .fpclear⟩) := by constructor <;> rfl

/-- Words that the decoder refuses: a header, a wrong reserved operand, an unassigned opcode, a nonzero field that must be zero, a reserved
scope, and a constant that the type does not hold (R60..R78). -/
theorem test_decode_refuses : decodeWord 0xFF02042000300000 = .error .header ∧ decodeWord 0x01700600CC780020 = .error .reservedSpecifier ∧
    decodeWord 0x2070000000000000 = .error .unassigned ∧ decodeWord 0x0070000000000000 = .error .mbz ∧
    decodeWord 0x7070080092A00010 = .error .reservedCode ∧ decodeWord 0x01700600CC500020 = .error .forbidden := by
  refine ⟨?_, ?_, ?_, ?_, ?_, ?_⟩ <;> rfl

/-! ## Encoding -/

theorem witness_DecodeOfEncode : (Instr.iadd (opA .s32)).isWord = true ∧ (Instr.iadd (opA .s32)).WellFormed := by constructor <;> decide

theorem witness_EncodeOfDecode : ∃ (w : Nat) (i : Instr), w < 2 ^ 64 ∧ decodeWord w = .ok i :=
  ⟨0x1A701200C8511020, _, by decide, test_decode_integer⟩

end Sys2Proof.Tests
end

/-! ## Proofs: operands read under a type (R105) -/

namespace Sys2Proof.Machine

open Claims

/-- A computation goes on from the value and the flags that its first part leaves. -/
theorem Sem.bind_of_ok {α β : Type} {m : Sem α} {k : α → Sem β} {fl fl' : Flags} {a : α} (h : m fl = .ok (a, fl')) :
    (m >>= k) fl = k a fl' := by
  simp only [bind, StateT.bind, h, Except.bind]

/-- VOID where a register is void. -/
def regVoid (x : Val) : Flags := if x.tag = .void then flVOID else 0#7

theorem readVal_of_readable {x : Val} {t : Tag} {raw : Bool} (h : RegReadable x t raw) (fl : Flags) :
    readVal x t raw fl = .ok (regBits x, fl ||| regVoid x) := by
  by_cases hv : x.tag = .void
  · simp only [readVal, regBits, regVoid, hv, if_true]
    rfl
  · have ht : tagOk t x.tag raw = true := by
      simpa only [RegReadable, hv, false_or, tagOk, Bool.or_eq_true, beq_iff_eq, or_assoc] using h
    simp only [readVal, regBits, regVoid, hv, ht, if_false, if_true, BitVec.or_zero]
    rfl

theorem mixed_eq_false {x y : Val} (h : ¬ Mixed x y) :
    ((x.tag == .s64 && y.tag == .n64) || (x.tag == .n64 && y.tag == .s64)) = false := by
  rw [Bool.eq_false_iff]
  simpa only [Mixed, ne_eq, Bool.or_eq_true, Bool.and_eq_true, beq_iff_eq] using h

theorem readTyped_of_readable {v : View} {r : Reg} {t : Tag} {raw : Bool} (h : Readable v t (.reg r) raw) (fl : Flags) :
    readTyped v r t raw fl = .ok (srcBits v t (.reg r), fl ||| voidOf v t (.reg r)) := by
  obtain ⟨hlo, hpair⟩ := h
  cases ht : is64 t with
  | false =>
    simp only [readTyped, ht, Bool.false_eq_true, if_false, readVal_of_readable hlo]
    simp only [srcBits, voidOf, ht, regVoid, Bool.false_eq_true, false_and, if_false, BitVec.or_zero]
  | true =>
    obtain ⟨hhi, hmix⟩ := hpair ht
    simp only [readTyped, ht, if_true, mixed_eq_false hmix]
    rw [Sem.bind_of_ok (a := ()) (fl' := fl) rfl, Sem.bind_of_ok (readVal_of_readable hlo _),
      Sem.bind_of_ok (readVal_of_readable hhi _)]
    simp only [srcBits, voidOf, ht, if_true, true_and, regVoid, BitVec.or_assoc]
    rfl

theorem readSrc_of_readable {v : View} {s : Src} {t : Tag} {raw : Bool} (h : Readable v t s raw) (fl : Flags) :
    readSrc v s t raw fl = .ok (srcBits v t s, fl ||| voidOf v t s) := by
  cases s with
  | reg r => exact readTyped_of_readable h fl
  | imm i => simp only [readSrc, srcBits, voidOf, BitVec.or_zero]; rfl
  | const c => simp only [readSrc, srcBits, voidOf, BitVec.or_zero]; rfl

/-- A format A row reads its first `n` sources and takes 0 for the others. -/
theorem readA_of_readable {v : View} {o : OpA} {n : Nat} (hn : n = 1 ∨ n = 2 ∨ n = 3)
    (h : ∀ x ∈ sources o n, Readable v o.t x) :
    readA v o n false 0#7 = .ok ((srcBits v o.t o.a, if n ≥ 2 then srcBits v o.t o.b else 0,
      if n ≥ 3 then srcBits v o.t o.c else 0), voidFlags v ((sources o n).map (fun x => (o.t, x)))) := by
  rcases hn with rfl | rfl | rfl <;>
    simp only [sources, List.take, List.forall_mem_cons] at h
  · obtain ⟨ha, -⟩ := h
    rw [readA, Sem.bind_of_ok (readSrc_of_readable ha _)]
    rfl
  · obtain ⟨ha, hb, -⟩ := h
    rw [readA, Sem.bind_of_ok (readSrc_of_readable ha _), if_pos (Nat.le_refl 2),
      Sem.bind_of_ok (readSrc_of_readable hb _)]
    rfl
  · obtain ⟨ha, hb, hc, -⟩ := h
    rw [readA, Sem.bind_of_ok (readSrc_of_readable ha _), if_pos (by decide), Sem.bind_of_ok (readSrc_of_readable hb _)]
    dsimp only
    rw [if_pos (Nat.le_refl 3), Sem.bind_of_ok (readSrc_of_readable hc _)]
    rfl

/-! ## Proofs: elements of a register (R96) -/

theorem joinElems_lt (w : Nat) (xs : List Nat) : joinElems w xs < 2 ^ (w * xs.length) := by
  induction xs with
  | nil => exact Nat.two_pow_pos _
  | cons e es ih =>
    have he : e % 2 ^ w < 2 ^ w := Nat.mod_lt _ (Nat.two_pow_pos w)
    calc e % 2 ^ w + 2 ^ w * joinElems w es
      _ < 2 ^ w * (joinElems w es + 1) := by rw [Nat.mul_add_one]; omega
      _ ≤ 2 ^ w * 2 ^ (w * es.length) := Nat.mul_le_mul_left _ ih
      _ = 2 ^ (w * (e :: es).length) := by rw [List.length_cons, Nat.mul_add_one, Nat.pow_add, Nat.mul_comm]

/-- Each element of a joined register is the one that was put there. -/
theorem joinElems_div_mod (w : Nat) (xs : List Nat) (i : Nat) (h : i < xs.length) :
    joinElems w xs / 2 ^ (w * i) % 2 ^ w = xs[i] % 2 ^ w := by
  induction xs generalizing i with
  | nil => exact absurd h (Nat.not_lt_zero i)
  | cons e es ih =>
    cases i with
    | zero => rw [Nat.mul_zero, Nat.pow_zero, Nat.div_one, joinElems, Nat.add_mul_mod_self_left, Nat.mod_mod]; rfl
    | succ i =>
      have hhead : joinElems w (e :: es) / 2 ^ w = joinElems w es := by
        rw [joinElems, Nat.add_mul_div_left _ _ (Nat.two_pow_pos w), Nat.div_eq_of_lt (Nat.mod_lt _ (Nat.two_pow_pos w)),
          Nat.zero_add]
      rw [Nat.mul_add_one, Nat.add_comm, Nat.pow_add, ← Nat.div_div_eq_div_mul, hhead]
      exact ih i (Nat.lt_of_succ_lt_succ h)

theorem intElems_lt (t : Tag) (sat : Bool) (op : Int → Int → Int → Int) (a b c : Nat) :
    intElems t sat op a b c < 2 ^ (elemWidth t * elems t) := by
  have h := joinElems_lt (elemWidth t) ((List.range (elems t)).map (fun i =>
    putInt t sat (op (intOf t (elemOf t a i)) (intOf t (elemOf t b i)) (intOf t (elemOf t c i)))))
  rwa [List.length_map, List.length_range] at h

theorem elemOf_intElems (t : Tag) (sat : Bool) (op : Int → Int → Int → Int) (a b c : Nat) {e : Nat} (he : e < elems t) :
    elemOf t (intElems t sat op a b c) e =
      putInt t sat (op (intOf t (elemOf t a e)) (intOf t (elemOf t b e)) (intOf t (elemOf t c e))) % 2 ^ elemWidth t := by
  rw [elemOf, intElems, joinElems_div_mod _ _ _ (by rwa [List.length_map, List.length_range])]
  rw [List.getElem_map, List.getElem_range]

/-! ## Proofs: an exact result brought into its range (R97, R136) -/

theorem elemWidth_pos (t : Tag) : 0 < elemWidth t := by cases t <;> decide

theorem int_two_pow_pos (w : Nat) : (0 : Int) < 2 ^ w := Int.pow_pos (by decide)

theorem natCast_two_pow (w : Nat) : ((2 ^ w : Nat) : Int) = 2 ^ w := Int.natCast_pow 2 w

theorem two_pow_elemWidth (t : Tag) : (2 : Int) ^ elemWidth t = 2 * 2 ^ (elemWidth t - 1) := by
  obtain ⟨k, hk⟩ := Nat.exists_eq_succ_of_ne_zero (Nat.pos_iff_ne_zero.1 (elemWidth_pos t))
  rw [hk, Nat.succ_sub_one, Int.pow_succ, Int.mul_comm]

theorem highest_eq (t : Tag) : highest_ t = lowest_ t + 2 ^ elemWidth t - 1 := by
  have := two_pow_elemWidth t
  unfold highest_ lowest_
  split <;> omega

theorem intOf_mod (t : Tag) (x : Nat) : intOf t (x % 2 ^ elemWidth t) = intOf t x := by
  simp only [intOf, Nat.mod_mod]

/-- An element's number is in its type's range. -/
theorem intOf_mem_range (t : Tag) (x : Nat) : lowest_ t ≤ intOf t x ∧ intOf t x < lowest_ t + 2 ^ elemWidth t := by
  have hw := two_pow_elemWidth t
  have hx := Int.ofNat_lt.2 (Nat.mod_lt x (Nat.two_pow_pos (elemWidth t)))
  have hh := natCast_two_pow (elemWidth t - 1)
  rw [natCast_two_pow] at hx
  cases hs : isSigned t with
  | false => simp only [intOf, lowest_, hs, Bool.false_and, Bool.false_eq_true, if_false]; omega
  | true =>
    simp only [intOf, lowest_, hs, Bool.true_and, decide_eq_true_eq, if_true]
    split <;> omega

/-- An element's number is congruent to its bits. -/
theorem intOf_emod (t : Tag) (x : Nat) : intOf t x % 2 ^ elemWidth t = x % 2 ^ elemWidth t := by
  have hmod : ((x % 2 ^ elemWidth t : Nat) : Int) % 2 ^ elemWidth t = x % 2 ^ elemWidth t := by
    rw [Int.natCast_emod, natCast_two_pow, Int.emod_emod]
  simp only [intOf]
  split
  · rw [Int.sub_emod_right, hmod]
  · exact hmod

theorem wrapInt_emod (w : Nat) (x : Int) : (wrapInt w x : Int) % 2 ^ w = x % 2 ^ w := by
  have hw := int_two_pow_pos w
  rw [wrapInt, natCast_two_pow, Int.toNat_of_nonneg (Int.emod_nonneg x (Int.ne_of_gt hw)), Int.emod_emod]

/-- The one number of a range of length `m` that is congruent to `x` modulo `m`. -/
theorem eq_add_emod_of_congr {L m x y : Int} (hlo : L ≤ y) (hhi : y < L + m) (h : y % m = x % m) :
    y = L + (x - L) % m := by
  rw [Int.sub_emod, ← h, ← Int.sub_emod, Int.emod_eq_of_lt (by omega) (by omega)]
  omega

/-- A wrapped integer is the one of its type's range that is congruent to it (R97). -/
theorem intOf_wrapInt (t : Tag) (x : Int) :
    intOf t (wrapInt (elemWidth t) x) = lowest_ t + (x - lowest_ t) % 2 ^ elemWidth t := by
  obtain ⟨hlo, hhi⟩ := intOf_mem_range t (wrapInt (elemWidth t) x)
  exact eq_add_emod_of_congr hlo hhi ((intOf_emod t _).trans (wrapInt_emod _ x))

theorem intOf_wrapInt_of_mem {t : Tag} {x : Int} (hlo : lowest_ t ≤ x) (hhi : x ≤ highest_ t) :
    intOf t (wrapInt (elemWidth t) x) = x := by
  have := highest_eq t
  rw [intOf_wrapInt, Int.emod_eq_of_lt (by omega) (by omega)]
  omega

theorem intRange_eq {t : Tag} (ht : t ∈ arithPacked) : intRange t = (lowest_ t, highest_ t) := by
  simp only [arithPacked, List.mem_cons, List.not_mem_nil, or_false] at ht
  rcases ht with rfl | rfl | rfl | rfl | rfl | rfl <;> decide

theorem clampInt_eq {t : Tag} (ht : t ∈ arithPacked) (x : Int) :
    clampInt t x = min (max x (lowest_ t)) (highest_ t) := by
  have := highest_eq t
  have := int_two_pow_pos (elemWidth t)
  rw [clampInt, intRange_eq ht]
  omega

/-- WHAT A RESULT ELEMENT HOLDS: the exact integer brought into the range of the type (R97, R136). -/
theorem intOf_putInt {t : Tag} (ht : t ∈ arithPacked) (sat : Bool) (x : Int) : intOf t (putInt t sat x) = fit t sat x := by
  cases sat with
  | false => exact intOf_wrapInt t x
  | true =>
    have := highest_eq t
    have := int_two_pow_pos (elemWidth t)
    simp only [putInt, fit, if_true, clampInt_eq ht]
    exact intOf_wrapInt_of_mem (by omega) (by omega)

/-! ## Proofs: the arithmetic rows (R136, R137) -/

/-- An operation that reads no more than its first `n` operands. -/
def ReadsFirst (n : Nat) (op : Int → Int → Int → Int) : Prop :=
  ∀ a b c b' c', (2 ≤ n → b = b') → (3 ≤ n → c = c') → op a b c = op a b' c'

/-- An arithmetic row is read, computed and written with one exact operation of `n` operands, and takes integer types. -/
structure ArithRow (o : OpA) (i : Instr) (n : Nat) (op : Int → Int → Int → Int) : Prop where
  runs : ∀ s, exec i s = runRegs i (isK o.d) o.pred (useA o n) (semInt n op o) s
  typed : wfInstr i = true → o.t ∈ arithPacked
  count : n = 1 ∨ n = 2 ∨ n = 3
  reads : ReadsFirst n op

/-- What an arithmetic row computes from sources that can be read. -/
theorem semInt_of_readable {v : View} {o : OpA} {n : Nat} (op : Int → Int → Int → Int) (hn : n = 1 ∨ n = 2 ∨ n = 3)
    (h : ∀ x ∈ sources o n, Readable v o.t x) :
    semInt n op o v 0#7 = .ok (writeEff o.d o.t (intElems o.t o.sat op (srcBits v o.t o.a)
      (if n ≥ 2 then srcBits v o.t o.b else 0) (if n ≥ 3 then srcBits v o.t o.c else 0)),
      voidFlags v ((sources o n).map (fun x => (o.t, x)))) := by
  rw [semInt, Sem.bind_of_ok (readA_of_readable hn h)]
  rfl

/-- A row computes each element from the elements of the sources it uses. -/
theorem intOf_elemOf_intElems {t : Tag} (ht : t ∈ arithPacked) {n : Nat} {op : Int → Int → Int → Int}
    (hop : ReadsFirst n op) (sat : Bool) (a b c : Nat) {e : Nat} (he : e < elems t) :
    intOf t (elemOf t (intElems t sat op a (if n ≥ 2 then b else 0) (if n ≥ 3 then c else 0)) e) =
      fit t sat (op (intOf t (elemOf t a e)) (intOf t (elemOf t b e)) (intOf t (elemOf t c e))) := by
  rw [elemOf_intElems t sat op _ _ _ he, intOf_mod, intOf_putInt ht]
  exact congrArg _ (hop _ _ _ _ _ (fun h => by rw [if_pos h]) (fun h => by rw [if_pos h]))

/-- An accepted word of a row has one of the row's types (R67). -/
theorem mem_types_of_wfT {r : RowA} {o : OpA} (h : wfT r o = true) : o.t ∈ r.types := by
  simp only [wfT, wfA, modsOk, Bool.and_eq_true, and_assoc, List.contains_iff_mem] at h
  obtain ⟨ht, -⟩ := h
  exact ht

theorem arithTypes_subset : arithTypes ⊆ arithPacked := by decide

theorem signed_subset : [Tag.s32, .s64, .s8x4] ⊆ arithPacked := by decide

theorem quotient_neg_left (a b : Int) : quotient (-a) b = -quotient a b := by
  simp only [quotient, Int.sign_neg, Int.natAbs_neg, Int.neg_mul]

theorem quotient_neg_right (a b : Int) : quotient a (-b) = -quotient a b := by
  simp only [quotient, Int.sign_neg, Int.natAbs_neg, Int.mul_neg, Int.neg_mul]

theorem quotient_natCast (m n : Nat) : quotient m n = (m : Int).tdiv n := by
  rw [quotient, Int.natAbs_natCast, Int.natAbs_natCast, ← Int.ofNat_tdiv]
  rcases Nat.eq_zero_or_pos m with rfl | hm
  · rw [Nat.zero_div, Int.natCast_zero, Int.mul_zero]
  rcases Nat.eq_zero_or_pos n with rfl | hn
  · rw [Nat.div_zero, Int.natCast_zero, Int.mul_zero]
  rw [Int.sign_eq_one_of_pos (Int.natCast_pos.2 hm), Int.sign_eq_one_of_pos (Int.natCast_pos.2 hn), Int.one_mul,
    Int.one_mul]

/-- The quotient by magnitudes is the one truncated toward zero (R137). -/
theorem quotient_eq_tdiv (a b : Int) : quotient a b = a.tdiv b := by
  obtain ⟨m, rfl | rfl⟩ := a.eq_nat_or_neg <;> obtain ⟨n, rfl | rfl⟩ := b.eq_nat_or_neg
  · exact quotient_natCast m n
  · rw [quotient_neg_right, quotient_natCast, Int.tdiv_neg]
  · rw [quotient_neg_left, quotient_natCast, Int.neg_tdiv]
  · rw [quotient_neg_left, quotient_neg_right, quotient_natCast, Int.neg_tdiv, Int.tdiv_neg]

/-- The high half of a product: the part above the low half, divided exactly (R136). -/
theorem sub_emod_ediv (x : Int) (w : Nat) : (x - x % 2 ^ w) / 2 ^ w = x.fdiv (2 ^ w) := by
  have hw := int_two_pow_pos w
  rw [← Int.mul_ediv_self, Int.mul_ediv_cancel_left _ (Int.ne_of_gt hw),
    Int.fdiv_eq_ediv_of_nonneg _ (Int.le_of_lt hw)]

theorem idivOp_eq (t : Tag) (a b : Int) :
    idivOp t a b = if b = 0 then (if isSigned t then -1 else highest_ t) else quotient a b := by
  rw [quotient_eq_tdiv, idivOp, highest_]
  cases isSigned t <;> rfl

theorem iremOp_eq (a b : Int) : iremOp a b = if b = 0 then a else a - b * quotient a b := by
  rw [quotient_eq_tdiv, iremOp]

theorem natAbs_eq_ite (a : Int) : (a.natAbs : Int) = if a < 0 then -a else a := by
  split <;> omega

/-- A row of two sources whose model operation agrees with the table's. -/
theorem ArithRow.two {o : OpA} {i : Instr} {f g : Int → Int → Int}
    (hx : ∀ s, exec i s = runRegs i (isK o.d) o.pred (useA o 2) (semInt 2 (fun a b _ => f a b) o) s)
    (hfg : ∀ a b, f a b = g a b) (ht : wfInstr i = true → o.t ∈ arithPacked) : ArithRow o i 2 (fun a b _ => g a b) where
  runs s := by
    obtain rfl : f = g := funext (fun a => funext (hfg a))
    exact hx s
  typed := ht
  count := .inr (.inl rfl)
  reads _ _ _ _ _ hb _ := by rw [hb (Nat.le_refl 2)]

theorem arithRow_iabs (o : OpA) : ArithRow o (.iabs o) 1 (fun a _ _ => if a < 0 then -a else a) where
  runs s := by simp only [← natAbs_eq_ite]; rfl
  typed hw := signed_subset (mem_types_of_wfT hw)
  count := .inl rfl
  reads _ _ _ _ _ _ _ := rfl

theorem arithRow_imad (o : OpA) : ArithRow o (.imad o) 3 (fun a b c => a * b + c) where
  runs _ := rfl
  typed hw := arithTypes_subset (mem_types_of_wfT hw)
  count := .inr (.inr rfl)
  reads _ _ _ _ _ hb hc := by rw [hb (by decide), hc (Nat.le_refl 3)]

/-- Every row of the table is run by the model with the table's operation. -/
theorem arithRow_of_mem {o : OpA} {i : Instr} {n : Nat} {op : Int → Int → Int → Int} (h : (i, n, op) ∈ arithRows o) :
    ArithRow o i n op := by
  have hplain {r : RowA} (hr : r.types = arithTypes) (hw : wfT r o = true) : o.t ∈ arithPacked :=
    arithTypes_subset (hr ▸ mem_types_of_wfT hw)
  simp only [arithRows, List.mem_cons, Prod.mk.injEq, List.not_mem_nil, or_false] at h
  rcases h with iadd | isub | imul | imulh | imad | imin | imax | iabs | idiv | irem
  · obtain ⟨rfl, rfl, rfl⟩ := iadd
    exact .two (fun _ => rfl) (fun _ _ => rfl) mem_types_of_wfT
  · obtain ⟨rfl, rfl, rfl⟩ := isub
    exact .two (fun _ => rfl) (fun _ _ => rfl) mem_types_of_wfT
  · obtain ⟨rfl, rfl, rfl⟩ := imul
    exact .two (fun _ => rfl) (fun _ _ => rfl) (hplain rfl)
  · obtain ⟨rfl, rfl, rfl⟩ := imulh
    exact .two (fun _ => rfl) (fun a b => (sub_emod_ediv (a * b) _).symm) (hplain rfl)
  · obtain ⟨rfl, rfl, rfl⟩ := imad
    exact arithRow_imad o
  · obtain ⟨rfl, rfl, rfl⟩ := imin
    exact .two (fun _ => rfl) (fun _ _ => Int.min_def _ _) mem_types_of_wfT
  · obtain ⟨rfl, rfl, rfl⟩ := imax
    exact .two (fun _ => rfl) (fun _ _ => Int.max_def _ _) mem_types_of_wfT
  · obtain ⟨rfl, rfl, rfl⟩ := iabs
    exact arithRow_iabs o
  · obtain ⟨rfl, rfl, rfl⟩ := idiv
    exact .two (fun _ => rfl) (idivOp_eq o.t) (hplain rfl)
  · obtain ⟨rfl, rfl, rfl⟩ := irem
    exact .two (fun _ => rfl) iremOp_eq (hplain rfl)

/-- Only accepted words issue, so completion may assume one (R78, R79). -/
theorem completes_of_wf {i : Instr} {uni : Bool} {p : Pred} {us : List RegUse} {ready : View → Prop}
    {ok : View → Result → Prop} (h : wfInstr i = true → Completes i uni p us ready ok) : Completes i uni p us ready ok :=
  fun s c hi => h hi.wf s c hi

/-- Settles O1: each row of the table runs as one computation on its sources, whose elements are exact results brought
into their range. -/
theorem integerArithmetic : Obligations.IntegerArithmetic := by
  intro o i n op hmem
  have row := arithRow_of_mem hmem
  refine completes_of_wf (fun hw => runRegs_completes row.runs (fun v hready => ?_))
  exact ⟨⟨_, [], _⟩, semInt_of_readable op row.count hready, rfl, _, ⟨rfl, rfl⟩, intElems_lt o.t o.sat op _ _ _,
    fun e he => intOf_elemOf_intElems (row.typed hw) row.reads o.sat _ _ _ he⟩

end Sys2Proof.Machine

namespace Sys2Proof.Machine

open Claims

/-! ## Proofs: powers of two and rising functions -/

/-- The rational number 2^e. -/
def pow2 (e : Int) : Rat := 2 ^ e

theorem pow2_pos (e : Int) : 0 < pow2 e := Rat.zpow_pos (by decide)

theorem pow2_ne_zero (e : Int) : pow2 e ≠ 0 := Rat.ne_of_gt (pow2_pos e)

theorem pow2_add (a b : Int) : pow2 (a + b) = pow2 a * pow2 b := Rat.zpow_add (by decide) a b

theorem pow2_zero : pow2 0 = 1 := Rat.zpow_zero 2

theorem pow2_natCast (k : Nat) : pow2 k = (2 ^ k : Nat) := by
  rw [pow2, Rat.zpow_natCast, Rat.natCast_pow]
  rfl

theorem pow2_of_nonneg {k : Int} (h : 0 ≤ k) : pow2 k = (2 ^ k.toNat : Nat) := by
  rw [← pow2_natCast, Int.toNat_of_nonneg h]

theorem one_le_pow2 {k : Int} (h : 0 ≤ k) : 1 ≤ pow2 k := by
  rw [pow2_of_nonneg h]
  exact Rat.natCast_le_natCast.2 (Nat.two_pow_pos _)

theorem pow2_le_pow2 {a b : Int} (h : a ≤ b) : pow2 a ≤ pow2 b := by
  have hb : pow2 b = pow2 (b - a) * pow2 a := by rw [← pow2_add, Int.sub_add_cancel]
  rw [hb, ← Rat.one_mul (pow2 a), ← Rat.mul_assoc, Rat.mul_one]
  exact Rat.mul_le_mul_of_nonneg_right (one_le_pow2 (by omega)) (Rat.le_of_lt (pow2_pos a))

/-- A negative power of two is at most a half. -/
theorem pow2_add_self_le_one {k : Int} (h : k < 0) : pow2 k + pow2 k ≤ 1 := by
  have hone : pow2 (k + 1) ≤ pow2 0 := pow2_le_pow2 (by omega)
  have htwo : pow2 1 = 2 := pow2_natCast 1
  rw [pow2_add, htwo, pow2_zero] at hone
  grind

theorem eq_of_mul_eq_mul {a b c : Rat} (hc : 0 < c) (h : a * c = b * c) : a = b := by
  have hne : c ≠ 0 := Rat.ne_of_gt hc
  rw [← Rat.mul_div_cancel (a := a) hne, h, Rat.mul_div_cancel hne]

theorem natCast_succ (n : Nat) : ((n + 1 : Nat) : Rat) = n + 1 := Rat.natCast_add n 1

theorem natCast_pred {n : Nat} (h : n ≠ 0) : ((n - 1 : Nat) : Rat) = n - 1 := by
  have hn : ((n - 1 + 1 : Nat) : Rat) = n := by rw [Nat.sub_add_cancel (Nat.pos_of_ne_zero h)]
  rw [natCast_succ] at hn
  grind

/-- Each value is below the next. -/
def Rising (u : Nat → Nat) : Prop := ∀ p, u p < u (p + 1)

theorem Rising.le_of_le {u : Nat → Nat} (hu : Rising u) {a b : Nat} (h : a ≤ b) : u a ≤ u b := by
  induction h with
  | refl => exact Nat.le_refl _
  | step _ ih => exact Nat.le_trans ih (Nat.le_of_lt (hu _))

theorem Rising.lt_iff {u : Nat → Nat} (hu : Rising u) {a b : Nat} : u a < u b ↔ a < b := by
  constructor
  · intro h
    exact Nat.lt_of_not_le fun hba => Nat.not_le_of_lt h (hu.le_of_le hba)
  · intro h
    exact Nat.lt_of_lt_of_le (hu a) (hu.le_of_le h)

theorem Rising.injective {u : Nat → Nat} (hu : Rising u) {a b : Nat} (h : u a = u b) : a = b := by
  have hab := hu.lt_iff (a := a) (b := b)
  have hba := hu.lt_iff (a := b) (b := a)
  omega

theorem rising_id : Rising id := fun p => Nat.lt_succ_self p

/-! ## Proofs: rounding a rational number (R99) -/

/-- The comparisons of a rational number of units. -/
structure Cuts (cut : Nat → Nat → Ordering) (y : Rat) : Prop where
  lt_iff : ∀ n d, 0 < d → (cut n d = .lt ↔ (n : Rat) < y * d)
  gt_iff : ∀ n d, 0 < d → (cut n d = .gt ↔ y * d < n)

theorem Cuts.eq_iff {cut : Nat → Nat → Ordering} {y : Rat} (h : Cuts cut y) (n : Nat) {d : Nat} (hd : 0 < d) :
    cut n d = .eq ↔ (n : Rat) = y * d := by
  have hlt := h.lt_iff n d hd
  have hgt := h.gt_iff n d hd
  cases hc : cut n d <;> simp only [hc, reduceCtorEq, true_iff, false_iff] at hlt hgt ⊢ <;> grind

theorem ratio_cuts {N D : Nat} (hD : 0 < D) {y : Rat} (hy : y * D = N) : Cuts (ratio N D) y := by
  have hD' : (0 : Rat) < D := Rat.natCast_pos.2 hD
  have hn (n : Nat) : ((n * D : Nat) : Rat) = n * D := Rat.natCast_mul n D
  have hN (d : Nat) : ((N * d : Nat) : Rat) = y * d * D := by rw [Rat.natCast_mul, ← hy]; grind
  constructor
  · intro n d _
    rw [ratio, Nat.compare_eq_lt, ← Rat.natCast_lt_natCast, hn, hN, Rat.mul_lt_mul_right hD']
  · intro n d _
    rw [ratio, Nat.compare_eq_gt, ← Rat.natCast_lt_natCast, hn, hN, Rat.mul_lt_mul_right hD']

theorem Cuts.scale {cut : Nat → Nat → Ordering} {y : Rat} (h : Cuts cut y) (k : Nat) :
    Cuts (fun n d => cut n (d * 2 ^ k)) (y * pow2 k) := by
  have hd (d : Nat) : y * pow2 k * d = y * (d * 2 ^ k : Nat) := by rw [pow2_natCast, Rat.natCast_mul]; grind
  constructor
  · intro n d hpos
    rw [hd]
    exact h.lt_iff n _ (Nat.mul_pos hpos (Nat.two_pow_pos k))
  · intro n d hpos
    rw [hd]
    exact h.gt_iff n _ (Nat.mul_pos hpos (Nat.two_pow_pos k))

/-- No other value is nearer to y than that of p, and p is even on a tie. -/
def Nearest (u : Nat → Nat) (y : Rat) (p : Nat) : Prop :=
  (p = 0 ∨ (u (p - 1) + u p : Rat) < y * 2 ∨ ((u (p - 1) + u p : Rat) = y * 2 ∧ p % 2 = 0)) ∧
    (y * 2 < (u p + u (p + 1) : Rat) ∨ ((u p + u (p + 1) : Rat) = y * 2 ∧ p % 2 = 0))

/-- The value of p is the last one that is not above y. -/
def NextBelow (u : Nat → Nat) (y : Rat) (p : Nat) : Prop := (u p : Rat) ≤ y ∧ y < u (p + 1)

/-- The value of p is the first one that is not below y. -/
def NextAbove (u : Nat → Nat) (y : Rat) (p : Nat) : Prop := y ≤ u p ∧ (p = 0 ∨ (u (p - 1) : Rat) < y)

/-- `RoundsTo` of a rational magnitude. -/
def RoundsAt (u : Nat → Nat) (mode : Rnd) (neg : Bool) (y : Rat) (p : Nat) : Prop :=
  if mode = .ne then Nearest u y p
  else if mode = .tz ∨ (mode = .up ∧ neg = true) ∨ (mode = .dn ∧ neg = false) then NextBelow u y p
  else NextAbove u y p

section
variable {cut : Nat → Nat → Ordering} {y : Rat} (h : Cuts cut y)
include h

theorem Cuts.one_lt (n : Nat) : cut n 1 = .lt ↔ (n : Rat) < y := by
  rw [h.lt_iff n 1 Nat.one_pos, show ((1 : Nat) : Rat) = 1 from rfl, Rat.mul_one]

theorem Cuts.one_gt (n : Nat) : cut n 1 = .gt ↔ y < n := by
  rw [h.gt_iff n 1 Nat.one_pos, show ((1 : Nat) : Rat) = 1 from rfl, Rat.mul_one]

theorem Cuts.one_eq (n : Nat) : cut n 1 = .eq ↔ (n : Rat) = y := by
  rw [h.eq_iff n Nat.one_pos, show ((1 : Nat) : Rat) = 1 from rfl, Rat.mul_one]

theorem Cuts.roundsTo_iff (u : Nat → Nat) (mode : Rnd) (neg : Bool) (p : Nat) :
    RoundsTo u mode neg cut p ↔ RoundsAt u mode neg y p := by
  have hlt (n : Nat) := h.lt_iff n 2 Nat.two_pos
  have hgt (n : Nat) := h.gt_iff n 2 Nat.two_pos
  have heq (n : Nat) := h.eq_iff n Nat.two_pos
  rw [show ((2 : Nat) : Rat) = 2 from rfl] at hlt hgt heq
  simp only [RoundsTo, RoundsAt, Nearest, NextBelow, NextAbove, h.one_lt, h.one_gt, hlt, hgt, heq, ne_eq, Rat.not_lt,
    Rat.natCast_add]

end

/-- A mode and a sign round in one of three ways, whatever the values (R99). -/
theorem roundsAt_cases (mode : Rnd) (neg : Bool) :
    (∀ u y p, RoundsAt u mode neg y p ↔ Nearest u y p) ∨ (∀ u y p, RoundsAt u mode neg y p ↔ NextBelow u y p) ∨
      (∀ u y p, RoundsAt u mode neg y p ↔ NextAbove u y p) := by
  cases mode <;> cases neg <;> simp [RoundsAt]

section
variable {u : Nat → Nat} {mode : Rnd} {neg : Bool} {y y' : Rat} {p p' : Nat}

/-- Rounding is monotone. -/
theorem RoundsAt.mono (hu : Rising u) (h : RoundsAt u mode neg y p) (h' : RoundsAt u mode neg y' p') (hy : y ≤ y') :
    p ≤ p' := by
  refine Nat.le_of_not_lt fun hlt => ?_
  have hp : p ≠ 0 := by omega
  have hlow : (u p' : Rat) ≤ u (p - 1) := Rat.natCast_le_natCast.2 (hu.le_of_le (by omega))
  have hup : (u (p' + 1) : Rat) ≤ u p := Rat.natCast_le_natCast.2 (hu.le_of_le hlt)
  rcases roundsAt_cases mode neg with hm | hm | hm <;> rw [hm] at h h'
  · obtain ⟨h, -⟩ := h
    obtain ⟨-, h'⟩ := h'
    rcases h.resolve_left hp with h | ⟨h, hpar⟩
    · rcases h' with h' | ⟨h', -⟩ <;> grind
    · rcases h' with h' | ⟨h', hpar'⟩
      · grind
      · have : p' = p - 1 := hu.injective (Rat.natCast_inj.1 (by grind))
        omega
  · obtain ⟨h, -⟩ := h
    obtain ⟨-, h'⟩ := h'
    grind
  · have h := h.2.resolve_left hp
    obtain ⟨h', -⟩ := h'
    grind

theorem RoundsAt.unique (hu : Rising u) (h : RoundsAt u mode neg y p) (h' : RoundsAt u mode neg y p') : p = p' :=
  Nat.le_antisymm (h.mono hu h' Rat.le_refl) (h'.mono hu h Rat.le_refl)

/-- A value rounds to itself. -/
theorem roundsAt_self (hu : Rising u) (mode : Rnd) (neg : Bool) (p : Nat) : RoundsAt u mode neg (u p) p := by
  have hup : (u p : Rat) < u (p + 1) := Rat.natCast_lt_natCast.2 (hu p)
  have hlow : p = 0 ∨ (u (p - 1) : Rat) < u p :=
    p.eq_zero_or_pos.imp_right fun h => Rat.natCast_lt_natCast.2 (hu.lt_iff.2 (Nat.sub_one_lt_of_lt h))
  rcases roundsAt_cases mode neg with hm | hm | hm <;> rw [hm]
  · exact ⟨hlow.imp_right fun h => .inl (by grind), .inl (by grind)⟩
  · exact ⟨Rat.le_refl, hup⟩
  · exact ⟨Rat.le_refl, hlow⟩

theorem RoundsAt.ge_of_ge (hu : Rising u) (h : RoundsAt u mode neg y p) {a : Nat} (ha : (u a : Rat) ≤ y) : a ≤ p :=
  (roundsAt_self hu mode neg a).mono hu h ha

theorem RoundsAt.le_of_le (hu : Rising u) (h : RoundsAt u mode neg y p) {b : Nat} (hb : y ≤ u b) : p ≤ b :=
  h.mono hu (roundsAt_self hu mode neg b) hb

/-- Rounding among whole steps is rounding among the values of `u` where these are steps of size `c`: at p, and at
each neighbour of p unless the value of p already lies on the other side. -/
theorem RoundsAt.of_steps (hu : Rising u) {c : Rat} (hc : 0 < c) {n : Nat} (h : RoundsAt id mode neg y n)
    (hpar : p % 2 = n % 2) (hp : (u p : Rat) = n * c)
    (hlow : p = 0 ∨ (n : Rat) ≤ y ∨ (n ≠ 0 ∧ (u (p - 1) : Rat) = (n - 1) * c))
    (hup : y ≤ n ∨ (u (p + 1) : Rat) = (n + 1) * c) : RoundsAt u mode neg (y * c) p := by
  have hnext : (n : Rat) * c < u (p + 1) := hp ▸ Rat.natCast_lt_natCast.2 (hu p)
  have hprev : p ≠ 0 → (u (p - 1) : Rat) < n * c := fun h =>
    hp ▸ Rat.natCast_lt_natCast.2 (hu.lt_iff.2 (Nat.sub_one_lt h))
  have hle {a b : Rat} (hab : a ≤ b) : a * c ≤ b * c := Rat.mul_le_mul_of_nonneg_right hab (Rat.le_of_lt hc)
  have hlt {a b : Rat} (hab : a < b) : a * c < b * c := Rat.mul_lt_mul_of_pos_right hab hc
  rcases roundsAt_cases mode neg with hm | hm | hm <;> rw [hm] at h ⊢ <;> obtain ⟨h1, h2⟩ := h
  · simp only [id, natCast_succ] at h1 h2
    constructor
    · rw [hp]
      refine Decidable.or_iff_not_imp_left.2 fun h0 => ?_
      rcases hlow.resolve_left h0 with hn | ⟨hn, hp'⟩
      · have := hle hn
        exact .inl (by grind)
      · rw [natCast_pred hn] at h1
        rcases h1.resolve_left hn with h1 | ⟨h1, hev⟩
        · have := hlt h1
          exact .inl (by grind)
        · exact .inr ⟨by rw [hp']; grind, hpar.trans hev⟩
    · rw [hp]
      rcases hup with hn | hp'
      · have := hle hn
        exact .inl (by grind)
      · rcases h2 with h2 | ⟨h2, hev⟩
        · have := hlt h2
          exact .inl (by grind)
        · exact .inr ⟨by rw [hp']; grind, hpar.trans hev⟩
  · simp only [id, natCast_succ] at h1 h2
    refine ⟨hp ▸ hle h1, ?_⟩
    rcases hup with hn | hp'
    · have := hle hn
      grind
    · exact hp' ▸ hlt h2
  · simp only [id] at h1 h2
    refine ⟨hp ▸ hle h1, Decidable.or_iff_not_imp_left.2 fun h0 => ?_⟩
    rcases hlow.resolve_left h0 with hn | ⟨hn, hp'⟩
    · have := hle hn
      have := hprev h0
      grind
    · have h2 := h2.resolve_left hn
      rw [natCast_pred hn] at h2
      exact hp' ▸ hlt h2

theorem nearest_id_below {n : Nat} (hlo : (n : Rat) < y) (h : y * 2 < n + (n + 1) ∨ (y * 2 = n + (n + 1) ∧ n % 2 = 0)) :
    Nearest id y n := by
  simp only [Nearest, id, natCast_succ]
  refine ⟨Decidable.or_iff_not_imp_left.2 fun hn => .inl ?_, h.imp_right (And.imp_left Eq.symm)⟩
  rw [natCast_pred hn]
  grind

theorem nearest_id_above {n : Nat} (hhi : y < n + 1) (h : n + (n + 1) < y * 2 ∨ (y * 2 = n + (n + 1) ∧ n % 2 = 1)) :
    Nearest id y (n + 1) := by
  simp only [Nearest, id, Nat.add_sub_cancel, natCast_succ]
  exact ⟨.inr (h.imp_right fun ⟨h, hodd⟩ => ⟨h.symm, by omega⟩), .inl (by grind)⟩

/-- How a number compares with the middle of two whole ones, n and n + 1. -/
def ComparesHalf (y : Rat) (n : Nat) : Ordering → Prop
  | .lt => y * 2 < n + (n + 1)
  | .eq => y * 2 = n + (n + 1)
  | .gt => n + (n + 1) < y * 2

/-- The nearer of the whole numbers on both sides, or on a tie the even one. -/
theorem nearest_id_between {n : Nat} (hlo : (n : Rat) < y) (hhi : y < n + 1) {half : Ordering}
    (hhalf : ComparesHalf y n half) :
    Nearest id y (if roundsUp .ne neg n half false then n + 1 else n) := by
  cases half with
  | lt => exact nearest_id_below hlo (.inl hhalf)
  | gt => exact nearest_id_above hhi (.inl hhalf)
  | eq =>
    rcases Nat.mod_two_eq_zero_or_one n with heven | hodd
    · simpa [roundsUp, heven] using nearest_id_below hlo (.inr ⟨hhalf, heven⟩)
    · simpa [roundsUp, hodd] using nearest_id_above hhi (.inr ⟨hhalf, hodd⟩)

/-- Rounding a number between two whole ones: up where `roundsUp` says so of its comparison with their middle. -/
theorem roundsAt_id_between {n : Nat} (hlo : (n : Rat) < y) (hhi : y < n + 1) {half : Ordering}
    (hhalf : ComparesHalf y n half) :
    RoundsAt id mode neg y (if roundsUp mode neg n half false then n + 1 else n) := by
  have hbelow : NextBelow id y n := ⟨Rat.le_of_lt hlo, (natCast_succ n).symm ▸ hhi⟩
  have habove : NextAbove id y (n + 1) := ⟨(natCast_succ n).symm ▸ Rat.le_of_lt hhi, .inr hlo⟩
  cases mode with
  | ne => exact nearest_id_between hlo hhi hhalf
  | tz => simpa [RoundsAt, roundsUp] using hbelow
  | up => cases neg <;> simpa [RoundsAt, roundsUp]
  | dn => cases neg <;> simpa [RoundsAt, roundsUp]
end

/-- The comparison with the half that `roundSteps` makes of a remainder. -/
theorem comparesHalf_of_remainder {y : Rat} {n r d : Nat} (hd : d ≠ 0)
    (hy : y * (2 ^ d : Nat) = (n * 2 ^ d + r : Nat)) :
    ComparesHalf y n (if r < 2 ^ (d - 1) then .lt else if r = 2 ^ (d - 1) then .eq else .gt) := by
  have hpos : (0 : Rat) < (2 ^ (d - 1) : Nat) := Rat.natCast_pos.2 (Nat.two_pow_pos _)
  rw [← Nat.two_pow_pred_mul_two (Nat.pos_of_ne_zero hd)] at hy
  generalize 2 ^ (d - 1) = h at hy hpos
  have hmid : y * 2 * h = (n + n) * h + r := by push_cast at hy; grind
  split
  · next hlt =>
    have hlt := Rat.natCast_lt_natCast.2 hlt
    refine (Rat.mul_lt_mul_right hpos).1 ?_
    grind
  · next hge =>
    split
    · next heq =>
      subst heq
      exact eq_of_mul_eq_mul hpos (by grind)
    · next hne =>
      have hgt : (h : Rat) < r := Rat.natCast_lt_natCast.2 (by omega)
      refine (Rat.mul_lt_mul_right hpos).1 ?_
      grind

theorem roundSteps_of_le (mode : Rnd) (neg : Bool) (m : Nat) {e q : Int} (h : q ≤ e) :
    roundSteps mode neg m e false q = (m * 2 ^ (e - q).toNat, true) := by
  simp [roundSteps, h, roundsUp]

theorem roundSteps_of_lt (mode : Rnd) (neg : Bool) (m : Nat) {e q : Int} (h : e < q) :
    roundSteps mode neg m e false q =
      (let d := (q - e).toNat
       let n := m / 2 ^ d
       let r := m % 2 ^ d
       let half := if r < 2 ^ (d - 1) then .lt else if r = 2 ^ (d - 1) then .eq else .gt
       (if roundsUp mode neg n half (r == 0) then n + 1 else n, r == 0)) := by
  simp only [roundSteps, ge_iff_le, Int.not_le.2 h, if_false, Bool.not_false, Bool.and_true, Bool.false_eq_true]

theorem natCast_ne_between {y : Rat} {a : Nat} (hlo : (a : Rat) < y) (hhi : y < a + 1) (n : Nat) : (n : Rat) ≠ y := by
  intro hn
  have h1 : a < n := Rat.natCast_lt_natCast.1 (hn ▸ hlo)
  have h2 : n < a + 1 := Rat.natCast_lt_natCast.1 (by rw [natCast_succ, hn]; exact hhi)
  omega

/-- The magnitude in steps where these are larger than its own: a ratio of whole numbers. -/
theorem scaled_mul_two_pow (m : Nat) {e q : Int} (h : e < q) :
    (m : Rat) * pow2 (e - q) * (2 ^ (q - e).toNat : Nat) = m := by
  rw [← pow2_of_nonneg (by omega), Rat.mul_assoc, ← pow2_add, show e - q + (q - e) = 0 by omega, pow2_zero, Rat.mul_one]

/-- WHAT `roundSteps` GIVES: the magnitude in steps, rounded to a whole number of them, and whether it was one. -/
theorem roundSteps_roundsAt (mode : Rnd) (neg : Bool) (m : Nat) (e q : Int) :
    RoundsAt id mode neg (m * pow2 (e - q)) (roundSteps mode neg m e false q).1 ∧
      ((roundSteps mode neg m e false q).2 = true ↔
        ((roundSteps mode neg m e false q).1 : Rat) = m * pow2 (e - q)) := by
  rcases Int.lt_or_le e q with hlt | hle
  · have hy := scaled_mul_two_pow m hlt
    rw [roundSteps_of_lt _ _ _ hlt]
    dsimp only
    have hd : (q - e).toNat ≠ 0 := by omega
    generalize m * pow2 (e - q) = y at hy ⊢
    generalize (q - e).toNat = d at hy hd ⊢
    have hpos : (0 : Rat) < (2 ^ d : Nat) := Rat.natCast_pos.2 (Nat.two_pow_pos d)
    have hmod := Rat.natCast_lt_natCast.2 (Nat.mod_lt m (Nat.two_pow_pos d))
    rw [← Nat.div_add_mod' m (2 ^ d)] at hy
    generalize m / 2 ^ d = n at hy ⊢
    generalize m % 2 ^ d = r at hy hmod ⊢
    have hhalf := comparesHalf_of_remainder hd hy
    rw [Rat.natCast_add, Rat.natCast_mul] at hy
    rcases Nat.eq_zero_or_pos r with rfl | hr
    · obtain rfl : y = n := eq_of_mul_eq_mul hpos (hy.trans (Rat.add_zero _))
      simp only [BEq.rfl, roundsUp, if_true, Bool.false_eq_true, if_false]
      exact ⟨roundsAt_self rising_id mode neg n, trivial⟩
    · have hr' : (0 : Rat) < r := Rat.natCast_pos.2 hr
      have hlo : (n : Rat) < y := (Rat.mul_lt_mul_right hpos).1 (by grind)
      have hhi : y < n + 1 := (Rat.mul_lt_mul_right hpos).1 (by grind)
      rw [beq_eq_false_iff_ne.2 (Nat.ne_of_gt hr)]
      exact ⟨roundsAt_id_between hlo hhi hhalf, iff_of_false Bool.false_ne_true (natCast_ne_between hlo hhi _)⟩
  · have hy : (m : Rat) * pow2 (e - q) = (m * 2 ^ (e - q).toNat : Nat) := by
      rw [pow2_of_nonneg (by omega), Rat.natCast_mul]
    rw [roundSteps_of_le _ _ _ hle, hy]
    exact ⟨roundsAt_self rising_id mode neg _, by simp⟩

/-! ## Proofs: the values of a format (R98) -/

theorem fracBits_pos (f : FloatFmt) : 0 < f.fracBits := by cases f <;> decide

/-- Every pattern is a number of steps of a size 2^j, which are normal or the smallest ones. -/
theorem exists_steps (f : FloatFmt) (p : Nat) :
    ∃ j n, p = j * 2 ^ f.fracBits + n ∧ (j = 0 ∨ 2 ^ f.fracBits ≤ n) ∧ n < 2 ^ (f.fracBits + 1) := by
  have hp := Nat.div_add_mod' p (2 ^ f.fracBits)
  have hr := Nat.mod_lt p (Nat.two_pow_pos f.fracBits)
  rw [Nat.pow_succ]
  cases h : p / 2 ^ f.fracBits with
  | zero =>
    rw [h] at hp
    exact ⟨0, p, by omega, .inl rfl, by omega⟩
  | succ j =>
    rw [h, Nat.succ_mul] at hp
    exact ⟨j, 2 ^ f.fracBits + p % 2 ^ f.fracBits, by omega, .inr (by omega), by omega⟩

/-- What a number of steps of size 2^j denotes. -/
theorem units_steps (f : FloatFmt) {j n : Nat} (hlo : j = 0 ∨ 2 ^ f.fracBits ≤ n) (hhi : n ≤ 2 ^ (f.fracBits + 1)) :
    units f (j * 2 ^ f.fracBits + n) = n * 2 ^ j := by
  have hM := Nat.two_pow_pos f.fracBits
  rw [Nat.pow_succ] at hhi
  generalize hm : 2 ^ f.fracBits = M at *
  rcases Nat.lt_or_ge n M with hn | hn
  · obtain rfl : j = 0 := by omega
    simp [units, hm, Nat.div_eq_of_lt hn, Nat.mod_eq_of_lt hn]
  · rcases Nat.eq_or_lt_of_le hhi with rfl | hn'
    · have hp : j * M + M * 2 = M * (j + 2) := by rw [Nat.mul_add, Nat.mul_comm j]
      rw [units, hm, hp, Nat.mul_div_cancel_left _ hM, Nat.mul_mod_right, if_neg (by omega)]
      rw [show j + 2 - 1 = j + 1 by omega, Nat.pow_succ, Nat.add_zero, Nat.mul_assoc, Nat.mul_comm (2 ^ j)]
    · have hp : j * M + n = M * (j + 1) + (n - M) := by rw [Nat.mul_succ, Nat.mul_comm j]; omega
      rw [units, hm, hp, Nat.mul_add_div hM, Nat.mul_add_mod, Nat.div_eq_of_lt (by omega), Nat.mod_eq_of_lt (by omega),
        if_neg (by omega)]
      rw [show j + 1 + 0 - 1 = j by omega, Nat.add_sub_cancel' hn]

theorem units_rising (f : FloatFmt) : Rising (units f) := by
  intro p
  obtain ⟨j, n, rfl, hlo, hhi⟩ := exists_steps f p
  rw [Nat.add_assoc, units_steps f hlo (Nat.le_of_lt hhi), units_steps f (hlo.imp_right (by omega)) hhi]
  exact Nat.mul_lt_mul_of_pos_right n.lt_succ_self (Nat.two_pow_pos j)

/-- A magnitude rounded to whole steps of size 2^j, normal ones or the smallest, is rounded among the values. -/
theorem roundsAt_units (f : FloatFmt) {mode : Rnd} {neg : Bool} {j n : Nat} {y : Rat} (h : RoundsAt id mode neg y n)
    (hlo : j = 0 ∨ (2 ^ f.fracBits : Nat) ≤ y) (hhi : y < (2 ^ (f.fracBits + 1) : Nat)) :
    RoundsAt (units f) mode neg (y * pow2 j) (j * 2 ^ f.fracBits + n) ∧
      units f (j * 2 ^ f.fracBits + n) = n * 2 ^ j := by
  have hlo' : j = 0 ∨ 2 ^ f.fracBits ≤ n := hlo.imp_right fun hy => h.ge_of_ge rising_id hy
  have hhi' : n ≤ 2 ^ (f.fracBits + 1) := h.le_of_le rising_id (Rat.le_of_lt hhi)
  have hu := units_steps f hlo' hhi'
  have hcast (k : Nat) : ((k * 2 ^ j : Nat) : Rat) = k * pow2 j := by rw [Rat.natCast_mul, pow2_natCast]
  refine ⟨h.of_steps (units_rising f) (pow2_pos j) ?_ (by rw [hu, hcast]) ?_ ?_, hu⟩
  · obtain ⟨c, hc⟩ : 2 ∣ 2 ^ f.fracBits := Nat.pow_dvd_pow 2 (fracBits_pos f)
    rw [hc, Nat.mul_left_comm, Nat.mul_add_mod]
  · rcases Nat.eq_zero_or_pos n with rfl | hn
    · exact .inl (by rw [hlo'.resolve_right (by have := Nat.two_pow_pos f.fracBits; omega), Nat.zero_mul])
    · have hn0 : n ≠ 0 := Nat.ne_of_gt hn
      refine .inr ?_
      by_cases hj : j = 0 ∨ 2 ^ f.fracBits ≤ n - 1
      · have hprev := units_steps f hj (by omega)
        exact .inr ⟨hn0, by rw [Nat.add_sub_assoc hn, hprev, hcast, natCast_pred hn0]⟩
      · rw [not_or] at hj
        obtain rfl : n = 2 ^ f.fracBits := by have := hlo'.resolve_left hj.1; omega
        exact .inl (hlo.resolve_left hj.1)
  · rcases Nat.eq_or_lt_of_le hhi' with rfl | hn
    · exact .inl (Rat.le_of_lt hhi)
    · have hnext := units_steps f (hlo'.imp_right (by omega)) hn
      exact .inr (by rw [Nat.add_assoc, hnext, hcast, natCast_succ])

/-! ## Proofs: the one rounding of a finite magnitude (R99, R100, R103) -/

/-- In an unbounded exponent range the steps of a magnitude are normal. -/
theorem freeStep_normal (f : FloatFmt) {m : Nat} (hm : m ≠ 0) (e : Int) :
    ((2 ^ f.fracBits : Nat) : Rat) ≤ m * pow2 (e - freeStep f m e) ∧
      (m : Rat) * pow2 (e - freeStep f m e) < (2 ^ (f.fracBits + 1) : Nat) := by
  have hlo : ((2 ^ Nat.log2 m : Nat) : Rat) ≤ m := Rat.natCast_le_natCast.2 (Nat.log2_self_le hm)
  have hhi : (m : Rat) < (2 ^ (Nat.log2 m + 1) : Nat) := Rat.natCast_lt_natCast.2 Nat.lt_log2_self
  have hs : e - freeStep f m e = f.fracBits - Nat.log2 m := by rw [freeStep]; omega
  have hpos := pow2_pos (f.fracBits - Nat.log2 m)
  have hmul (a : Nat) : pow2 (Nat.log2 m + a : Nat) * pow2 (f.fracBits - Nat.log2 m) = pow2 (f.fracBits + a : Nat) := by
    rw [← pow2_add]
    congr 1
    omega
  rw [← pow2_natCast] at hlo hhi
  rw [hs, ← pow2_natCast, ← pow2_natCast]
  constructor
  · calc pow2 f.fracBits = pow2 (Nat.log2 m) * pow2 (f.fracBits - Nat.log2 m) := (hmul 0).symm
      _ ≤ _ := Rat.mul_le_mul_of_nonneg_right hlo (Rat.le_of_lt hpos)
  · calc (m : Rat) * pow2 (f.fracBits - Nat.log2 m)
        < pow2 (Nat.log2 m + 1 : Nat) * pow2 (f.fracBits - Nat.log2 m) := Rat.mul_lt_mul_of_pos_right hhi hpos
      _ = _ := hmul 1

section
variable (f : FloatFmt) (mode : Rnd) (neg : Bool) {m : Nat} (e : Int)

/-- A magnitude rounded in steps of 2^q, which are its normal ones or larger and then the smallest, is rounded among the
values. -/
theorem roundSteps_units (hm : m ≠ 0) {q : Int} {j : Nat} (hq : freeStep f m e ≤ q) (hj : j = 0 ∨ q = freeStep f m e) :
    let n := (roundSteps mode neg m e false q).1
    RoundsAt (units f) mode neg (m * pow2 (e - q) * pow2 j) (j * 2 ^ f.fracBits + n) ∧
      units f (j * 2 ^ f.fracBits + n) = n * 2 ^ j := by
  obtain ⟨hlo, hhi⟩ := freeStep_normal f hm e
  refine roundsAt_units f (roundSteps_roundsAt mode neg m e q).1 (hj.imp_right fun h => by rw [h]; exact hlo) ?_
  have hle : (m : Rat) * pow2 (e - q) ≤ m * pow2 (e - freeStep f m e) :=
    Rat.mul_le_mul_of_nonneg_left (pow2_le_pow2 (by omega)) Rat.natCast_nonneg
  grind

theorem scale_eq_normal (s k : Int) :
    (m : Rat) * pow2 (e - s) * pow2 k = m * pow2 (e - freeStep f m e) * pow2 (freeStep f m e - s + k) := by
  rw [Rat.mul_assoc, Rat.mul_assoc, ← pow2_add, ← pow2_add]
  congr 2
  omega

/-- Scaled to where it is normal, a magnitude rounds as in its normal steps. -/
theorem roundSteps_scaled (hm : m ≠ 0) {k j : Nat} (hj : (j : Int) = freeStep f m e - minStep f + k) :
    let n := (roundSteps mode neg m e false (freeStep f m e)).1
    let y : Rat := m * pow2 (e - minStep f) * pow2 k
    (2 ^ f.fracBits : Nat) ≤ y ∧ RoundsAt (units f) mode neg y (j * 2 ^ f.fracBits + n) ∧
      (units f (j * 2 ^ f.fracBits + n) < 2 ^ (f.fracBits + k) ↔
        (n : Rat) * pow2 (freeStep f m e - minStep f) < pow2 f.fracBits) := by
  intro n y
  have hy : y = m * pow2 (e - freeStep f m e) * pow2 j := by
    rw [hj]
    exact scale_eq_normal f e _ k
  obtain ⟨hround, hunits⟩ := roundSteps_units f mode neg e hm (Int.le_refl (freeStep f m e)) (j := j) (.inr rfl)
  obtain ⟨hnormal, -⟩ := freeStep_normal f hm e
  refine ⟨?_, hy ▸ hround, ?_⟩
  · have hnonneg : 0 ≤ (m : Rat) * pow2 (e - freeStep f m e) :=
      Rat.mul_nonneg Rat.natCast_nonneg (Rat.le_of_lt (pow2_pos _))
    have hle := Rat.mul_le_mul_of_nonneg_left (one_le_pow2 (Int.natCast_nonneg j)) hnonneg
    rw [hy]
    grind
  · rw [hunits, ← Rat.natCast_lt_natCast, Rat.natCast_mul, ← pow2_natCast, ← pow2_natCast, hj, Int.natCast_add,
      pow2_add, pow2_add, ← Rat.mul_assoc, Rat.mul_lt_mul_right (pow2_pos _)]

/-- The magnitude of a normal scale compares with 2^fracBits as `Tiny` asks. -/
theorem normal_iff {cut : Nat → Nat → Ordering} {y : Rat} (hc : Cuts cut y) (k : Nat) :
    cut (2 ^ f.fracBits) (2 ^ k) ≠ .gt ↔ ((2 ^ f.fracBits : Nat) : Rat) ≤ y * pow2 k := by
  rw [ne_eq, hc.gt_iff _ _ (Nat.two_pow_pos k), Rat.not_lt, pow2_natCast]

/-- A scale at which a magnitude is normal is no smaller than its own. -/
theorem scale_nonneg (hm : m ≠ 0) {k : Nat} (h : ((2 ^ f.fracBits : Nat) : Rat) ≤ m * pow2 (e - minStep f) * pow2 k) :
    0 ≤ freeStep f m e - minStep f + k := by
  refine Int.not_lt.1 fun hneg => ?_
  have hhalf := pow2_add_self_le_one hneg
  have hsmall := (freeStep_normal f hm e).2
  rw [scale_eq_normal f] at h
  have hpos : 0 ≤ (m : Rat) * pow2 (e - freeStep f m e) :=
    Rat.mul_nonneg Rat.natCast_nonneg (Rat.le_of_lt (pow2_pos _))
  have := Rat.mul_le_mul_of_nonneg_left hhalf hpos
  rw [Nat.pow_succ, Rat.natCast_mul, show ((2 : Nat) : Rat) = 2 from rfl] at hsmall
  grind

/-- TINY (R100): the magnitude rounded in its normal steps stays below the smallest normal value. -/
theorem tiny_iff (hm : m ≠ 0) {cut : Nat → Nat → Ordering} (hc : Cuts cut (m * pow2 (e - minStep f))) :
    Tiny f mode neg cut ↔
      ((roundSteps mode neg m e false (freeStep f m e)).1 : Rat) * pow2 (freeStep f m e - minStep f) <
        pow2 f.fracBits := by
  constructor
  · rintro ⟨k, p, hk, hp, hlt⟩
    have hj := scale_nonneg f e hm ((normal_iff f hc k).1 hk)
    obtain ⟨-, hround, hiff⟩ := roundSteps_scaled f mode neg e hm (k := k) (Int.toNat_of_nonneg hj)
    rw [(hc.scale k).roundsTo_iff] at hp
    rwa [hp.unique (units_rising f) hround, hiff] at hlt
  · intro hlt
    obtain ⟨hnormal, hround, hiff⟩ := roundSteps_scaled f mode neg e hm (k := (minStep f - freeStep f m e).toNat)
      (j := (freeStep f m e - minStep f).toNat) (by omega)
    exact ⟨_, _, (normal_iff f hc _).2 hnormal, ((hc.scale _).roundsTo_iff _ _ _ _).2 hround, hiff.2 hlt⟩

/-- The pattern that a magnitude rounds to when the exponent is unbounded above. -/
def roundedMag (f : FloatFmt) (mode : Rnd) (neg : Bool) (m : Nat) (e : Int) : Nat :=
  (max (minStep f) (freeStep f m e) - minStep f).toNat * 2 ^ f.fracBits +
    (roundSteps mode neg m e false (max (minStep f) (freeStep f m e))).1

theorem roundFin_eq (sat : Bool) :
    roundFin f mode sat neg m e false =
      (let exact := (roundSteps mode neg m e false (max (minStep f) (freeStep f m e))).2
       let tiny : Bool := freeStep f m e < minStep f &&
         (roundSteps mode neg m e false (freeStep f m e)).1 < 2 ^ (f.fracBits + (minStep f - freeStep f m e).toNat)
       if roundedMag f mode neg m e > f.maxBits then
         ⟨withSign f neg (overflowMag f mode sat neg).1, flOVF ||| flINX⟩
       else ⟨withSign f neg (roundedMag f mode neg m e),
         (if exact then 0#7 else flINX) ||| (if tiny && !exact then flUNF else 0#7)⟩) := rfl

theorem overflowMag_eq (sat : Bool) : (overflowMag f mode sat neg).1 = overflowed f mode sat neg := by
  cases sat <;> cases f <;> cases mode <;> cases neg <;> rfl

theorem roundedMag_roundsAt (hm : m ≠ 0) :
    RoundsAt (units f) mode neg (m * pow2 (e - minStep f)) (roundedMag f mode neg m e) ∧
      ((roundSteps mode neg m e false (max (minStep f) (freeStep f m e))).2 = true ↔
        (units f (roundedMag f mode neg m e) : Rat) = m * pow2 (e - minStep f)) := by
  have hround := roundSteps_units f mode neg e hm (Int.le_max_right (minStep f) _)
    (j := (max (minStep f) (freeStep f m e) - minStep f).toNat) (by omega)
  have hexact := (roundSteps_roundsAt mode neg m e (max (minStep f) (freeStep f m e))).2
  have hscale : (m : Rat) * pow2 (e - minStep f) = m * pow2 (e - max (minStep f) (freeStep f m e)) *
      pow2 (max (minStep f) (freeStep f m e) - minStep f).toNat := by
    rw [Rat.mul_assoc, ← pow2_add]
    congr 2
    omega
  obtain ⟨hp, hu⟩ := hround
  rw [← hscale] at hp
  refine ⟨hp, hexact.trans ?_⟩
  rw [roundedMag, hu, hscale, Rat.natCast_mul, ← pow2_natCast]
  exact ⟨fun h => by rw [h], eq_of_mul_eq_mul (pow2_pos _)⟩

/-- The model's test for a tiny magnitude (R100). -/
theorem tinyTest_iff (hm : m ≠ 0) {cut : Nat → Nat → Ordering} (hc : Cuts cut (m * pow2 (e - minStep f))) :
    (freeStep f m e < minStep f ∧
      (roundSteps mode neg m e false (freeStep f m e)).1 < 2 ^ (f.fracBits + (minStep f - freeStep f m e).toNat)) ↔
    Tiny f mode neg cut := by
  rw [tiny_iff f mode neg e hm hc]
  rcases Int.lt_or_le (freeStep f m e) (minStep f) with hlt | hge
  · have hscale : pow2 f.fracBits = pow2 (f.fracBits + (minStep f - freeStep f m e).toNat : Nat) *
        pow2 (freeStep f m e - minStep f) := by
      rw [← pow2_add]
      congr 1
      omega
    rw [and_iff_right hlt, hscale, Rat.mul_lt_mul_right (pow2_pos _), pow2_natCast, Rat.natCast_lt_natCast]
  · refine iff_of_false (fun h => absurd h.1 (Int.not_lt.2 hge)) (Rat.not_lt.2 ?_)
    have hn := (roundSteps_roundsAt mode neg m e (freeStep f m e)).1.ge_of_ge rising_id (freeStep_normal f hm e).1
    calc pow2 f.fracBits = (2 ^ f.fracBits : Nat) := pow2_natCast _
      _ ≤ (roundSteps mode neg m e false (freeStep f m e)).1 := Rat.natCast_le_natCast.2 hn
      _ = (roundSteps mode neg m e false (freeStep f m e)).1 * 1 := (Rat.mul_one _).symm
      _ ≤ _ := Rat.mul_le_mul_of_nonneg_left (one_le_pow2 (Int.sub_nonneg.2 hge)) Rat.natCast_nonneg

/-- WHAT `roundFin` DELIVERS: the one rounding of a magnitude, with the flags of R103. -/
theorem roundFin_delivers (sat : Bool) (hm : m ≠ 0) {cut : Nat → Nat → Ordering}
    (hc : Cuts cut (m * pow2 (e - minStep f))) :
    Delivers f mode sat (.num neg cut) (roundFin f mode sat neg m e false).bits
      (roundFin f mode sat neg m e false).flags := by
  obtain ⟨hp, hexact⟩ := roundedMag_roundsAt f mode neg e hm
  have htiny := tinyTest_iff f mode neg e hm hc
  refine ⟨roundedMag f mode neg m e, (hc.roundsTo_iff _ _ _ _).2 hp, fun hover => ?_, fun hfin => ?_⟩
  · rw [roundFin_eq]
    simp only [gt_iff_lt, hover, if_true, overflowMag_eq, and_self]
  · have heq : cut (units f (roundedMag f mode neg m e)) 1 = .eq ↔
        (roundSteps mode neg m e false (max (minStep f) (freeStep f m e))).2 = true := by
      rw [hc.one_eq, hexact]
    rw [roundFin_eq]
    simp only [gt_iff_lt, Nat.not_lt.2 hfin, if_false, true_and, ne_eq, heq, ← htiny]
    refine ⟨fun h => by simp [h], fun h ht => by simp [h, ht], fun h ht => ?_⟩
    simp only [h, Bool.not_false, Bool.and_true, Bool.and_eq_true, decide_eq_true_eq, ht, if_false]
    rfl

end

/-! ## Proofs: exact results as the model holds them (R98, R101) -/

/-- INV where a condition holds. -/
def invalidIf (p : Bool) : Flags := if p then flINV else 0#7

theorem invalidIf_or (p q : Bool) : invalidIf p ||| invalidIf q = invalidIf (p || q) := by
  cases p <;> cases q <;> rfl

/-- The number that a sign, a significand and an exponent denote. -/
def finVal (neg : Bool) (m : Nat) (e : Int) : Rat := (if neg then -(m : Rat) else m) * pow2 e

/-- A value of the model, with the flags found before the rounding, holds an exact result in units of a format. -/
inductive HoldsExact (f : FloatFmt) : FV × Flags → Exact → Prop
  | nan (s invalid : Bool) : HoldsExact f (.nan s, invalidIf invalid) (.nan invalid)
  | inf (neg : Bool) : HoldsExact f (.inf neg, 0#7) (.inf neg)
  | num {neg : Bool} {m : Nat} {e X : Int} {D : Nat} {zeroNeg : Bool} (hD : 0 < D)
      (hval : finVal neg m e * D = X * pow2 (minStep f)) (hzero : m = 0 → neg = zeroNeg) :
      HoldsExact f (.fin neg m e, 0#7) (number X D zeroNeg)

theorem finVal_pos (m : Nat) (e : Int) : finVal false m e = m * pow2 e := rfl

theorem finVal_neg (m : Nat) (e : Int) : finVal true m e = -(m * pow2 e) := Rat.neg_mul _ _

theorem mag_nonneg (m : Nat) (e : Int) : 0 ≤ (m : Rat) * pow2 e :=
  Rat.mul_nonneg Rat.natCast_nonneg (Rat.le_of_lt (pow2_pos e))

theorem mag_eq_zero {m : Nat} {e : Int} : (m : Rat) * pow2 e = 0 ↔ m = 0 := by
  rw [Rat.mul_eq_zero, Rat.natCast_eq_zero_iff, or_iff_left (pow2_ne_zero e)]

theorem finVal_eq_zero {neg : Bool} {m : Nat} {e : Int} : finVal neg m e = 0 ↔ m = 0 := by
  rw [← mag_eq_zero (m := m) (e := e)]
  cases neg
  · rfl
  · rw [finVal_neg]
    grind

theorem natAbs_cast (x : Int) : (x.natAbs : Rat) = if x < 0 then -(x : Rat) else x := by
  rw [← Rat.intCast_natCast]
  split
  · rw [← Rat.intCast_neg, Int.ofNat_natAbs_of_nonpos (by omega)]
  · rw [Int.natAbs_of_nonneg (by omega)]

/-- A finite value that is a number of units over a denominator: its sign and its magnitude are that number's. -/
theorem finVal_units {neg : Bool} {m : Nat} {e X s : Int} {D : Nat} (hD : 0 < D) (hm : m ≠ 0)
    (h : finVal neg m e * D = X * pow2 s) :
    X ≠ 0 ∧ decide (X < 0) = neg ∧ (m : Rat) * pow2 (e - s) * D = X.natAbs := by
  have hD' : (0 : Rat) < D := Rat.natCast_pos.2 hD
  have hmag : (0 : Rat) < m * pow2 e * D :=
    Rat.mul_pos (Rat.mul_pos (Rat.natCast_pos.2 (Nat.pos_of_ne_zero hm)) (pow2_pos e)) hD'
  have hs : (m : Rat) * pow2 e = m * pow2 (e - s) * pow2 s := by rw [Rat.mul_assoc, ← pow2_add, Int.sub_add_cancel]
  cases neg
  · rw [finVal_pos] at h
    have hX : 0 < X := Rat.intCast_pos.1 ((Rat.mul_pos_iff_of_pos_right (pow2_pos s)).1 (h ▸ hmag))
    refine ⟨Int.ne_of_gt hX, decide_eq_false (by omega), eq_of_mul_eq_mul (pow2_pos s) ?_⟩
    rw [natAbs_cast, if_neg (by omega), ← h, hs]
    grind
  · rw [finVal_neg] at h
    have hX : X < 0 := Rat.intCast_neg_iff.1 ((Rat.mul_neg_iff_of_pos_right (pow2_pos s)).1 (by grind))
    refine ⟨Int.ne_of_lt hX, decide_eq_true hX, eq_of_mul_eq_mul (pow2_pos s) ?_⟩
    rw [natAbs_cast, if_pos hX, Rat.neg_mul, ← h, hs]
    grind

/-- WHAT `rounded` DELIVERS: the one rounding of the exact result that the value holds. -/
theorem rounded_delivers {f : FloatFmt} {x : FV × Flags} {E : Exact} (h : HoldsExact f x E) (mode : Rnd) (sat : Bool) :
    Delivers f mode sat E (rounded f mode sat x).bits (rounded f mode sat x).flags := by
  cases h with
  | nan s invalid => simp [rounded, roundFV, Delivers, invalidIf]
  | inf neg => cases sat <;> cases hf : f.hasInf <;> simp [rounded, roundFV, Delivers, hf]
  | @num neg m e X D zeroNeg hD hval hzero =>
    by_cases hm : m = 0
    · have hX : X = 0 := by
        rw [finVal_eq_zero.2 hm, Rat.zero_mul, eq_comm, Rat.mul_eq_zero, or_iff_left (pow2_ne_zero _)] at hval
        exact Rat.intCast_eq_zero_iff.1 hval
      simp [rounded, roundFV, number, hm, hX, Delivers, hzero hm]
    · obtain ⟨hX, hneg, hmag⟩ := finVal_units hD hm hval
      have hfin := roundFin_delivers f mode neg e sat hm (ratio_cuts hD hmag)
      rw [number, if_neg hX, hneg]
      simpa only [rounded, roundFV, hm, if_false, BitVec.or_zero] using hfin

/-! ## Proofs: the value of a pattern (R98, R101) -/

theorem two_pow_width (f : FloatFmt) : 2 ^ f.width = f.signBit * 2 := by
  rw [FloatFmt.signBit, ← Nat.pow_succ]
  congr 1
  rw [FloatFmt.width]
  omega

/-- The value of a finite pattern: its significand counts its steps. -/
def finiteValue (f : FloatFmt) (b : Nat) : FV :=
  let ex := magBits f b / 2 ^ f.fracBits
  let fr := magBits f b % 2 ^ f.fracBits
  if ex = 0 then .fin (signOf f b) fr (minStep f)
  else .fin (signOf f b) (2 ^ f.fracBits + fr) (minStep f + (ex - 1 : Nat))

theorem finiteValue_eq (f : FloatFmt) (b : Nat) :
    (if magBits f b / 2 ^ f.fracBits = 0 then
      .fin (signOf f b) (magBits f b % 2 ^ f.fracBits) (1 - f.bias - f.fracBits)
    else .fin (signOf f b) (2 ^ f.fracBits + magBits f b % 2 ^ f.fracBits)
      ((magBits f b / 2 ^ f.fracBits : Nat) - f.bias - f.fracBits)) = finiteValue f b := by
  rw [finiteValue]
  split
  · rfl
  · next h =>
    rw [minStep]
    congr 1
    generalize magBits f b / 2 ^ f.fracBits = ex at h ⊢
    omega

/-- E4M3 alone has no infinity. -/
theorem hasInf_eq_false {f : FloatFmt} : f.hasInf = false → f = .e4m3 := by
  cases f <;> decide

/-- WHAT A PATTERN DENOTES: a NaN, an infinity or a finite value. -/
theorem valueOf_eq (f : FloatFmt) (b : Nat) :
    valueOf f b = if nanBits f b then .nan (signalling f b) else if infinite f b then .inf (signOf f b)
      else finiteValue f b := by
  have hsign : (b % 2 ^ f.width / f.signBit == 1) = signOf f b := by
    rw [signOf, two_pow_width, Nat.mod_mul_right_div_self]
  have hmag : b % 2 ^ f.width % f.signBit = magBits f b := by
    rw [magBits, two_pow_width, Nat.mod_mul_right_mod]
  rw [← finiteValue_eq]
  simp only [valueOf, hsign, hmag]
  cases hf : f.hasInf with
  | false =>
    have hquiet : signalling f b = false := by
      rw [hasInf_eq_false hf]
      simp [signalling, FloatFmt.fracBits]
    simp [nanBits, infinite, hf, hquiet]
  | true =>
    rcases Nat.lt_trichotomy (magBits f b) f.infBits with h | h | h
    · simp [nanBits, infinite, hf, Nat.ne_of_lt h, Nat.not_lt.2 (Nat.le_of_lt h)]
    · simp [nanBits, infinite, hf, h]
    · simp [nanBits, signalling, hf, h, Nat.ne_of_gt h]

/-- The magnitude of a finite value and its significand. -/
theorem finiteValue_spec (f : FloatFmt) (b : Nat) :
    ∃ m e, finiteValue f b = .fin (signOf f b) m e ∧ (m : Rat) * pow2 e = units f (magBits f b) * pow2 (minStep f) ∧
      (m = 0 ↔ magBits f b = 0) ∧ (m < 2 ^ f.fracBits ↔ magBits f b < 2 ^ f.fracBits) ∧ m < 2 ^ (f.fracBits + 1) := by
  have hM := Nat.two_pow_pos f.fracBits
  have hr := Nat.mod_lt (magBits f b) hM
  have hdm := Nat.div_add_mod' (magBits f b) (2 ^ f.fracBits)
  by_cases h : magBits f b / 2 ^ f.fracBits = 0
  · rw [h, Nat.zero_mul, Nat.zero_add] at hdm
    refine ⟨magBits f b % 2 ^ f.fracBits, minStep f, by simp only [finiteValue, h, if_true], ?_, ?_⟩
    · simp only [units, h, if_true]
    · rw [hdm, Nat.pow_succ]
      exact ⟨Iff.rfl, Iff.rfl, by omega⟩
  · refine ⟨2 ^ f.fracBits + magBits f b % 2 ^ f.fracBits, _, by simp only [finiteValue, h, if_false]; rfl, ?_, ?_⟩
    · simp only [units, h, if_false]
      rw [pow2_add, pow2_natCast, Rat.natCast_mul]
      grind
    · have hge := Nat.mul_le_mul_right (2 ^ f.fracBits) (Nat.pos_of_ne_zero h)
      rw [Nat.pow_succ]
      omega

/-- What is known of a pattern by the value that it denotes. -/
inductive PatternCase (f : FloatFmt) (b : Nat) : FV → Prop
  | nan (hnan : nanBits f b = true) (hinf : infinite f b = false) (hmag : magBits f b ≠ 0) :
    PatternCase f b (.nan (signalling f b))
  | inf (hnan : nanBits f b = false) (hsig : signalling f b = false) (hinf : infinite f b = true)
      (hmag : magBits f b ≠ 0) :
    PatternCase f b (.inf (signOf f b))
  | fin (hnan : nanBits f b = false) (hsig : signalling f b = false) (hinf : infinite f b = false) {m : Nat} {e : Int}
    (hunits : (m : Rat) * pow2 e = units f (magBits f b) * pow2 (minStep f)) (hzero : m = 0 ↔ magBits f b = 0)
    (hsub : m < 2 ^ f.fracBits ↔ magBits f b < 2 ^ f.fracBits) (hm : m < 2 ^ (f.fracBits + 1)) :
    PatternCase f b (.fin (signOf f b) m e)

/-- A NaN is no infinity, nor a zero. -/
theorem infinite_eq_false_of_nan {f : FloatFmt} {b : Nat} (h : nanBits f b = true) :
    infinite f b = false ∧ magBits f b ≠ 0 := by
  rw [nanBits, decide_eq_true_iff] at h
  cases hf : f.hasInf with
  | false => exact ⟨by rw [infinite, hf, Bool.false_and], Nat.ne_of_gt (Nat.zero_lt_of_lt h)⟩
  | true =>
    rw [hf, if_pos rfl] at h
    have hinf : infinite f b = false := by
      rw [infinite, hf, Bool.true_and, beq_eq_false_iff_ne]
      exact Nat.ne_of_gt h
    exact ⟨hinf, Nat.ne_of_gt (Nat.zero_lt_of_lt h)⟩

theorem patternCase (f : FloatFmt) (b : Nat) : PatternCase f b (valueOf f b) := by
  have hbig : 0 < f.infBits := by cases f <;> decide
  have hsig : nanBits f b = false → signalling f b = false := fun h => by simp [signalling, h]
  rw [valueOf_eq]
  cases hnan : nanBits f b with
  | true =>
    obtain ⟨hinf, hmag⟩ := infinite_eq_false_of_nan hnan
    exact .nan hnan hinf hmag
  | false =>
    cases hinf : infinite f b with
    | true =>
      simp only [infinite, Bool.and_eq_true, beq_iff_eq] at hinf
      exact .inf hnan (hsig hnan) (by simpa [infinite]) (by omega)
    | false =>
      obtain ⟨m, e, heq, hunits, hzero, hsub, hm⟩ := finiteValue_spec f b
      simp only [Bool.false_eq_true, if_false, heq]
      exact .fin hnan (hsig hnan) hinf hunits hzero hsub hm

theorem finVal_of_units {f : FloatFmt} {b m : Nat} {e : Int}
    (h : (m : Rat) * pow2 e = units f (magBits f b) * pow2 (minStep f)) :
    finVal (signOf f b) m e = amount f b * pow2 (minStep f) := by
  cases hs : signOf f b
  · rw [finVal_pos, h, amount, hs]
    rfl
  · rw [finVal_neg, h, amount, hs, if_pos rfl, Rat.intCast_neg, Rat.neg_mul]
    rfl

/-! ## Proofs: exact sums and products (R100, R170) -/

theorem finVal_eq_signedAt (neg : Bool) (m : Nat) {e lo : Int} (h : lo ≤ e) :
    finVal neg m e = signedAt neg m e lo * pow2 lo := by
  have he : (m : Rat) * pow2 e = (m * 2 ^ (e - lo).toNat : Nat) * pow2 lo := by
    rw [Rat.natCast_mul, ← pow2_of_nonneg (by omega), Rat.mul_assoc, ← pow2_add, Int.sub_add_cancel]
  cases neg
  · exact he
  · rw [finVal_neg, he, signedAt, if_pos rfl, Rat.intCast_neg, Rat.neg_mul]
    rfl

theorem finVal_ofInt (x : Int) (e : Int) : finVal (decide (x < 0)) x.natAbs e = x * pow2 e := by
  rw [finVal, natAbs_cast]
  by_cases h : x < 0
  · simp only [h, decide_true, if_true, Rat.neg_neg]
  · simp only [h, decide_false, if_false, Bool.false_eq_true]

theorem eq_zero_of_finVal_add_eq_zero {neg : Bool} {m1 m2 : Nat} {e1 e2 : Int}
    (h : finVal neg m1 e1 + finVal neg m2 e2 = 0) : m1 = 0 ∧ m2 = 0 := by
  have h1 := mag_nonneg m1 e1
  have h2 := mag_nonneg m2 e2
  have hzero : (m1 : Rat) * pow2 e1 = 0 ∧ (m2 : Rat) * pow2 e2 = 0 := by
    cases neg
    · rw [finVal_pos, finVal_pos] at h
      constructor <;> grind
    · rw [finVal_neg, finVal_neg] at h
      constructor <;> grind
  exact hzero.imp mag_eq_zero.1 mag_eq_zero.1

/-- The exact sum of finite values; a zero keeps the sign of zeros of one sign and else takes the mode's. -/
theorem fvAdd_fin (mode : Rnd) (n1 n2 : Bool) (m1 m2 : Nat) (e1 e2 : Int) :
    ∃ n m e, fvAdd mode (.fin n1 m1 e1) (.fin n2 m2 e2) = (.fin n m e, 0#7) ∧
      finVal n m e = finVal n1 m1 e1 + finVal n2 m2 e2 ∧ (m = 0 → n = if n1 = n2 then n1 else mode == .dn) := by
  have hsum : finVal n1 m1 e1 + finVal n2 m2 e2 =
      (signedAt n1 m1 e1 (min e1 e2) + signedAt n2 m2 e2 (min e1 e2) : Int) * pow2 (min e1 e2) := by
    rw [finVal_eq_signedAt n1 m1 (Int.min_le_left e1 e2), finVal_eq_signedAt n2 m2 (Int.min_le_right e1 e2),
      Rat.intCast_add, Rat.add_mul]
  have hboth : n1 = n2 → signedAt n1 m1 e1 (min e1 e2) + signedAt n2 m2 e2 (min e1 e2) = 0 → m1 = 0 ∧ m2 = 0 := by
    rintro rfl h
    exact eq_zero_of_finVal_add_eq_zero (hsum.trans (by rw [h, Rat.intCast_zero, Rat.zero_mul]))
  rw [hsum]
  simp only [fvAdd]
  generalize signedAt n1 m1 e1 (min e1 e2) + signedAt n2 m2 e2 (min e1 e2) = x at *
  by_cases hx : x = 0
  · rw [if_pos hx]
    refine ⟨_, 0, _, rfl, by rw [finVal_eq_zero.2 rfl, hx, Rat.intCast_zero, Rat.zero_mul], fun _ => ?_⟩
    by_cases hn : n1 = n2
    · rw [if_pos (hboth hn hx), zeroSign]
    · simp only [zeroSign, hn, if_false, ite_self]
  · rw [if_neg hx]
    exact ⟨_, _, _, rfl, finVal_ofInt x _, fun h => absurd (Int.natAbs_eq_zero.1 h) hx⟩

theorem finVal_mul (n1 n2 : Bool) (m1 m2 : Nat) (e1 e2 : Int) :
    finVal (n1 != n2) (m1 * m2) (e1 + e2) = finVal n1 m1 e1 * finVal n2 m2 e2 := by
  have hmag : ((m1 * m2 : Nat) : Rat) * pow2 (e1 + e2) = m1 * pow2 e1 * (m2 * pow2 e2) := by
    rw [pow2_add, Rat.natCast_mul]
    grind
  cases n1 <;> cases n2
  · exact hmag
  · exact (finVal_neg _ _).trans (by rw [hmag, finVal_pos, finVal_neg]; grind)
  · exact (finVal_neg _ _).trans (by rw [hmag, finVal_pos, finVal_neg]; grind)
  · exact (finVal_pos _ _).trans (by rw [hmag, finVal_neg, finVal_neg]; grind)

/-- One is 2^unitExp of the smallest values of a format. -/
theorem two_pow_unitExp (f : FloatFmt) : pow2 (minStep f) * (2 ^ unitExp f : Nat) = 1 := by
  have h : minStep f + unitExp f = 0 := by cases f <;> decide
  rw [← pow2_natCast, ← pow2_add, h, pow2_zero]

theorem intCast_mul_two_pow (X : Int) (k : Nat) : ((X * 2 ^ k : Int) : Rat) = X * (2 ^ k : Nat) := by
  rw [Rat.intCast_mul, ← Rat.intCast_natCast, Int.natCast_pow]
  rfl

/-- A number of units of one format in units of another. -/
theorem units_in_format (f g : FloatFmt) (X : Int) :
    X * pow2 (minStep f) * (2 ^ unitExp f : Nat) = (X * 2 ^ unitExp g : Int) * pow2 (minStep g) := by
  rw [intCast_mul_two_pow, Rat.mul_assoc, two_pow_unitExp, Rat.mul_assoc, Rat.mul_comm _ (pow2 (minStep g)),
    two_pow_unitExp]

section
variable {f : FloatFmt} {a b c : Nat} {x y z : FV} {mode : Rnd}

theorem fvAdd_of_nan (mode : Rnd) (h : (x.isNan || y.isNan) = true) :
    fvAdd mode x y = (.nan false, invalidIf (x.isSig || y.isSig)) := by
  match x, y with
  | .nan _, .nan _ => rfl
  | .nan s, .inf _ | .nan s, .fin .. => exact congrArg (fun p => (FV.nan false, invalidIf p)) (Bool.or_false s).symm
  | .inf _, .nan _ | .fin .., .nan _ => rfl
  | .inf _, .inf _ | .inf _, .fin .. | .fin .., .inf _ | .fin .., .fin .. => exact absurd h Bool.false_ne_true

theorem fvMul_of_nan (h : (x.isNan || y.isNan) = true) :
    fvMul x y = (.nan false, invalidIf (x.isSig || y.isSig)) := by
  match x, y with
  | .nan _, .nan _ => rfl
  | .nan s, .inf _ | .nan s, .fin .. => exact congrArg (fun p => (FV.nan false, invalidIf p)) (Bool.or_false s).symm
  | .inf _, .nan _ | .fin .., .nan _ => rfl
  | .inf _, .inf _ | .inf _, .fin .. | .fin .., .inf _ | .fin .., .fin .. => exact absurd h Bool.false_ne_true

theorem PatternCase.isNan_eq (h : PatternCase f a x) : x.isNan = nanBits f a := by
  cases h <;> simp [FV.isNan, *]

theorem PatternCase.isSig_eq (h : PatternCase f a x) : x.isSig = signalling f a := by
  cases h <;> simp [FV.isSig, *]

/-- `exact(a + b)` (R100, R170). -/
theorem PatternCase.sum (ha : PatternCase f a x) (hb : PatternCase f b y) (mode : Rnd) :
    HoldsExact f (fvAdd mode x y) (exactSum f mode a b) := by
  cases hn : nanBits f a || nanBits f b with
  | true =>
    rw [fvAdd_of_nan mode (by rw [ha.isNan_eq, hb.isNan_eq, hn]), ha.isSig_eq, hb.isSig_eq, exactSum, hn, if_pos rfl]
    exact .nan _ _
  | false =>
    obtain ⟨hna, hnb⟩ := Bool.or_eq_false_iff.1 hn
    rw [exactSum, hn, if_neg Bool.false_ne_true]
    cases ha with
    | nan hna' => exact absurd hna' (by simp [hna])
    | inf _ _ hia =>
      cases hb with
      | nan hnb' => exact absurd hnb' (by simp [hnb])
      | inf _ _ hib =>
        by_cases hs : signOf f a = signOf f b
        · simpa [hia, fvAdd, hs] using .inf _
        · simpa [hia, hib, fvAdd, hs] using .nan _ true
      | fin _ _ hib => simpa [hia, hib, fvAdd] using .inf _
    | fin _ _ hia hua =>
      cases hb with
      | nan hnb' => exact absurd hnb' (by simp [hnb])
      | inf _ _ hib => simpa [hia, hib, fvAdd] using .inf _
      | fin _ _ hib hub =>
        obtain ⟨n, m, e, hadd, hval, hzero⟩ := fvAdd_fin mode (signOf f a) (signOf f b) _ _ _ _
        rw [hadd]
        simp only [hia, hib, Bool.false_and, Bool.false_eq_true, if_false]
        refine .num Nat.one_pos ((Rat.mul_one _).trans ?_) hzero
        rw [hval, finVal_of_units hua, finVal_of_units hub, Rat.intCast_add, Rat.add_mul]

theorem signalling_of_number (h : nanBits f a = false) : signalling f a = false := by
  rw [signalling, h, Bool.false_and, Bool.false_and]

/-- What is known of a product by the value that the model gives it (R170). -/
inductive ProductCase (f : FloatFmt) (a b : Nat) : FV × Flags → Prop
  | nan (h : (nanBits f a || nanBits f b) = !zeroTimesInf f a b) :
    ProductCase f a b (.nan false, invalidIf (signalling f a || signalling f b || zeroTimesInf f a b))
  | inf (hnan : (nanBits f a || nanBits f b) = false) (hzti : zeroTimesInf f a b = false)
    (hinf : (infinite f a || infinite f b) = true) : ProductCase f a b (.inf (signOf f a != signOf f b), 0#7)
  | fin (hnan : (nanBits f a || nanBits f b) = false) (hzti : zeroTimesInf f a b = false)
    (hinf : (infinite f a || infinite f b) = false) {m : Nat} {e : Int}
    (hval : finVal (signOf f a != signOf f b) m e =
      (amount f a * amount f b : Int) * (pow2 (minStep f) * pow2 (minStep f))) :
    ProductCase f a b (.fin (signOf f a != signOf f b) m e, 0#7)

theorem zeroTimesInf_of_nan (h : (nanBits f a || nanBits f b) = true) : zeroTimesInf f a b = false := by
  rcases Bool.or_eq_true_iff.1 h with h | h <;>
    obtain ⟨hinf, hmag⟩ := infinite_eq_false_of_nan h <;>
    simp [zeroTimesInf, hinf, hmag]

theorem PatternCase.mul (ha : PatternCase f a x) (hb : PatternCase f b y) : ProductCase f a b (fvMul x y) := by
  cases hn : nanBits f a || nanBits f b with
  | true =>
    have hzti := zeroTimesInf_of_nan hn
    rw [fvMul_of_nan (by rw [ha.isNan_eq, hb.isNan_eq, hn]), ha.isSig_eq, hb.isSig_eq]
    simpa only [hzti, Bool.or_false] using ProductCase.nan (f := f) (a := a) (b := b) (by rw [hn, hzti, Bool.not_false])
  | false =>
    obtain ⟨hna, hnb⟩ := Bool.or_eq_false_iff.1 hn
    cases ha with
    | nan hna' => exact absurd hna' (by simp [hna])
    | inf _ _ hia hza =>
      cases hb with
      | nan hnb' => exact absurd hnb' (by simp [hnb])
      | inf _ _ hib hzb => exact .inf hn (by simp [zeroTimesInf, *]) (by simp [hia])
      | @fin _ _ hib m e _ hzb =>
        by_cases hm : m = 0
        · simpa [fvMul, hm, hzb.1 hm, hia, zeroTimesInf, invalidIf, signalling_of_number hna,
            signalling_of_number hnb] using
            ProductCase.nan (f := f) (a := a) (b := b) (by simp [zeroTimesInf, hna, hnb, hia, hzb.1 hm])
        · simp only [fvMul, hm, if_false]
          exact .inf hn (by simp [zeroTimesInf, hib, mt hzb.2 hm]) (by simp [hia])
    | @fin _ _ hia m e hua hza =>
      cases hb with
      | nan hnb' => exact absurd hnb' (by simp [hnb])
      | inf _ _ hib hzb =>
        by_cases hm : m = 0
        · simpa [fvMul, hm, hza.1 hm, hib, zeroTimesInf, invalidIf, signalling_of_number hna,
            signalling_of_number hnb] using
            ProductCase.nan (f := f) (a := a) (b := b) (by simp [zeroTimesInf, hna, hnb, hib, hza.1 hm])
        · simp only [fvMul, hm, if_false]
          exact .inf hn (by simp [zeroTimesInf, hia, mt hza.2 hm]) (by simp [hib])
      | fin _ _ hib hub =>
        refine .fin hn (by simp [zeroTimesInf, hia, hib]) (by simp [hia, hib]) ?_
        rw [finVal_mul, finVal_of_units hua, finVal_of_units hub, Rat.intCast_mul]
        grind

/-- A finite product in units. -/
theorem product_units (X : Rat) :
    X * (pow2 (minStep f) * pow2 (minStep f)) * (2 ^ unitExp f : Nat) = X * pow2 (minStep f) := by
  rw [Rat.mul_assoc, Rat.mul_assoc, two_pow_unitExp, Rat.mul_one]

/-- `exact(a * b)` (R170). -/
theorem ProductCase.product {p : FV × Flags} (h : ProductCase f a b p) : HoldsExact f p (exactProduct f a b) := by
  cases h with
  | nan h =>
    cases hz : zeroTimesInf f a b with
    | false =>
      simp only [exactProduct, h, hz, Bool.not_false, if_true, Bool.or_false]
      exact .nan _ _
    | true =>
      simp only [exactProduct, h, hz, Bool.not_true, Bool.false_eq_true, if_false, if_true, Bool.or_true]
      exact .nan _ _
  | inf hnan hzti hinf =>
    simp only [exactProduct, hnan, hzti, hinf, Bool.false_eq_true, if_false, if_true]
    exact .inf _
  | fin hnan hzti hinf hval =>
    simp only [exactProduct, hnan, hzti, hinf, Bool.false_eq_true, if_false]
    refine .num (Nat.two_pow_pos _) ?_ (fun _ => rfl)
    rw [hval, product_units]

/-- `exact(a * b + c)` (R170). -/
theorem ProductCase.fma {p : FV × Flags} (h : ProductCase f a b p) (hc : PatternCase f c z) (mode : Rnd) :
    HoldsExact f ((fvAdd mode p.1 z).1, p.2 ||| (fvAdd mode p.1 z).2) (exactFma f mode a b c) := by
  cases h with
  | nan h =>
    rw [fvAdd_of_nan mode (by rfl), invalidIf_or, hc.isSig_eq, FV.isSig, Bool.false_or]
    cases hz : zeroTimesInf f a b with
    | false =>
      simp only [exactFma, h, hz, Bool.not_false, Bool.true_or, if_true, Bool.or_false]
      exact .nan _ _
    | true =>
      simp only [exactFma, h, hz, Bool.not_true, Bool.false_or, Bool.true_or, Bool.or_true, if_true, ite_self]
      exact .nan _ true
  | inf hnan hzti hinf =>
    simp only [exactFma, hnan, hzti, hinf, Bool.false_or, Bool.or_false, Bool.false_eq_true, if_false, if_true]
    obtain ⟨hna, hnb⟩ := Bool.or_eq_false_iff.1 hnan
    cases hc with
    | nan hnc =>
      simp only [hnc, if_true, signalling_of_number hna, signalling_of_number hnb, Bool.false_or, fvAdd, BitVec.zero_or]
      exact .nan _ _
    | inf hnc _ hic =>
      by_cases hs : (signOf f a != signOf f b) = signOf f c
      · simpa [hnc, hic, fvAdd, hs] using .inf _
      · simpa [hnc, hic, fvAdd, hs, Ne.symm hs] using .nan _ true
    | fin hnc _ hic => simpa [hnc, hic, fvAdd] using .inf _
  | fin hnan hzti hinf hval =>
    simp only [exactFma, hnan, hzti, hinf, Bool.false_or, Bool.or_false, Bool.false_eq_true, if_false]
    obtain ⟨hna, hnb⟩ := Bool.or_eq_false_iff.1 hnan
    cases hc with
    | nan hnc =>
      simp only [hnc, if_true, signalling_of_number hna, signalling_of_number hnb, Bool.false_or, fvAdd, BitVec.zero_or]
      exact .nan _ _
    | inf hnc _ hic => simpa [hnc, hic, fvAdd] using .inf _
    | fin hnc _ hic huc =>
      obtain ⟨n, m, e, hadd, hsum, hzero⟩ := fvAdd_fin mode (signOf f a != signOf f b) (signOf f c) _ _ _ _
      rw [hadd]
      simp only [hnc, hic, Bool.false_eq_true, if_false, BitVec.zero_or]
      refine .num (Nat.two_pow_pos _) ?_ hzero
      rw [hsum, hval, finVal_of_units huc, Rat.add_mul, product_units, Rat.intCast_add,
        intCast_mul_two_pow]
      grind

/-- A pattern with its sign reversed, as `FSUB` reads its second operand. -/
def flipSign (f : FloatFmt) (b : Nat) : Nat := if signOf f b then magBits f b else f.signBit + magBits f b

theorem magBits_lt (f : FloatFmt) (b : Nat) : magBits f b < f.signBit := Nat.mod_lt b (Nat.two_pow_pos _)

theorem magBits_flipSign (f : FloatFmt) (b : Nat) : magBits f (flipSign f b) = magBits f b := by
  rw [flipSign]
  split
  · exact Nat.mod_mod b _
  · rw [magBits, Nat.add_mod_left, magBits, Nat.mod_mod]

theorem signOf_flipSign (f : FloatFmt) (b : Nat) : signOf f (flipSign f b) = !signOf f b := by
  have hlt := magBits_lt f b
  rw [flipSign]
  cases signOf f b
  · have hpos : 0 < f.signBit := Nat.two_pow_pos _
    simp [signOf, Nat.add_div_left _ hpos, Nat.div_eq_of_lt hlt]
  · simp [signOf, Nat.div_eq_of_lt hlt]

/-- A pattern with its sign reversed denotes the value with its sign reversed. -/
theorem PatternCase.negate (h : PatternCase f b y) : PatternCase f (flipSign f b) y.negate := by
  have hmag := magBits_flipSign f b
  have hsign := signOf_flipSign f b
  have hnan : nanBits f (flipSign f b) = nanBits f b := by rw [nanBits, hmag, ← nanBits]
  have hinf : infinite f (flipSign f b) = infinite f b := by rw [infinite, hmag, ← infinite]
  have hsig : signalling f (flipSign f b) = signalling f b := by rw [signalling, hmag, hnan, ← signalling]
  cases h <;> simp only [FV.negate, ← hsig, ← hsign]
  case nan h1 h2 h3 => exact .nan (hnan.trans h1) (hinf.trans h2) (hmag.symm ▸ h3)
  case inf h1 h2 h3 h4 => exact .inf (hnan.trans h1) (hsig.trans h2) (hinf.trans h3) (hmag.symm ▸ h4)
  case fin h1 h2 h3 _ _ h4 h5 h6 h7 =>
    exact .fin (hnan.trans h1) (hsig.trans h2) (hinf.trans h3) (by rwa [hmag]) (by rwa [hmag]) (by rwa [hmag]) h7

end

/-! ## Proofs: conversions between formats (R102, R103, R177) -/

section
variable {f : FloatFmt} {a : Nat} {x : FV}

/-- A value taken to another format (R102, R103). -/
theorem PatternCase.conversion (h : PatternCase f a x) (g : FloatFmt) :
    HoldsExact g (x, invalidIf (x.isSig || (x.isNan && g = .e4m3))) (exactConversion f g a) := by
  cases h with
  | nan hnan =>
    simp only [exactConversion, hnan, if_true, FV.isSig, FV.isNan, Bool.true_and]
    exact .nan _ _
  | inf hnan _ hinf =>
    simp only [exactConversion, hnan, hinf, Bool.false_eq_true, if_false, if_true]
    exact .inf _
  | fin hnan _ hinf hunits =>
    simp only [exactConversion, hnan, hinf, Bool.false_eq_true, if_false]
    refine .num (Nat.two_pow_pos _) ?_ (fun _ => rfl)
    rw [finVal_of_units hunits, units_in_format f g]

theorem cvtFloat_delivers (src dst : FloatFmt) (mode : Rnd) (sat : Bool) (a : Nat) :
    Delivers dst mode sat (exactConversion src dst a) (cvtFloat src dst mode sat a).bits
      (cvtFloat src dst mode sat a).flags :=
  rounded_delivers ((patternCase src a).conversion dst) mode sat

/-- An integer rounded to a format (R177). -/
theorem fvInt_delivers (x : Int) (f : FloatFmt) (mode : Rnd) (sat : Bool) :
    Delivers f mode sat (number (x * 2 ^ unitExp f) 1 false) (roundFV f mode sat (fvInt x)).bits
      (roundFV f mode sat (fvInt x)).flags := by
  have hval : finVal (decide (x < 0)) x.natAbs 0 = (x * 2 ^ unitExp f : Int) * pow2 (minStep f) := by
    rw [finVal_ofInt, intCast_mul_two_pow, Rat.mul_assoc, Rat.mul_comm _ (pow2 (minStep f)), two_pow_unitExp,
      pow2_zero]
  have hzero : x.natAbs = 0 → decide (x < 0) = false := fun h => by simp [Int.natAbs_eq_zero.1 h]
  simpa only [rounded, fvInt, BitVec.or_zero] using rounded_delivers
    (.num Nat.one_pos ((Rat.mul_one _).trans hval) hzero) mode sat

end

/-! ## Proofs: comparisons, minima and classes (R171..R173) -/

/-- A pattern's magnitude with its sign: the order of numbers, in which -0 equals +0. -/
def signedMag (f : FloatFmt) (b : Nat) : Int := if signOf f b then -(magBits f b : Int) else magBits f b

theorem units_eq_zero_iff {f : FloatFmt} {p : Nat} : units f p = 0 ↔ p = 0 := by
  have h0 : units f 0 = 0 := by simp [units]
  exact ⟨fun h => (units_rising f).injective (h.trans h0.symm), fun h => h ▸ h0⟩

theorem amount_lt_iff (f : FloatFmt) (a b : Nat) : amount f a < amount f b ↔ signedMag f a < signedMag f b := by
  have hlt := (units_rising f).lt_iff (a := magBits f a) (b := magBits f b)
  have hgt := (units_rising f).lt_iff (a := magBits f b) (b := magBits f a)
  have ha := units_eq_zero_iff (f := f) (p := magBits f a)
  have hb := units_eq_zero_iff (f := f) (p := magBits f b)
  simp only [amount, signedMag]
  split <;> split <;> omega

theorem finLt_eq (n1 : Bool) (m1 : Nat) (e1 : Int) (n2 : Bool) (m2 : Nat) (e2 : Int) :
    finLt n1 m1 e1 n2 m2 e2 = decide (finVal n1 m1 e1 < finVal n2 m2 e2) := by
  rw [finVal_eq_signedAt n1 m1 (Int.min_le_left e1 e2), finVal_eq_signedAt n2 m2 (Int.min_le_right e1 e2), finLt,
    decide_eq_decide, Rat.mul_lt_mul_right (pow2_pos _), Rat.intCast_lt_intCast]

section
variable {f : FloatFmt} {a b : Nat} {x y : FV}

/-- An infinity lies beyond every finite value. -/
theorem magBits_lt_of_infinite (ha : infinite f a = true) (hnb : nanBits f b = false) (hb : infinite f b = false) :
    magBits f b < magBits f a := by
  simp only [infinite, Bool.and_eq_true, beq_iff_eq] at ha
  obtain ⟨hf, ha⟩ := ha
  simp only [nanBits, infinite, hf, if_true, Bool.true_and, beq_eq_false_iff_ne, decide_eq_false_iff_not] at hnb hb
  omega

theorem magBits_eq_of_infinite (ha : infinite f a = true) (hb : infinite f b = true) : magBits f b = magBits f a := by
  simp only [infinite, Bool.and_eq_true, beq_iff_eq] at ha hb
  rw [ha.2, hb.2]

/-- Of two patterns the one with the larger magnitude decides their order by its sign. -/
theorem signedMag_lt_of_larger (h : magBits f b < magBits f a) :
    signedMag f a < signedMag f b ↔ signOf f a = true := by
  rcases Bool.eq_false_or_eq_true (signOf f a) with hs | hs
  · simp only [signedMag, hs, if_true, iff_true]
    split <;> omega
  · simp only [signedMag, hs, Bool.false_eq_true, if_false, iff_false]
    split <;> omega

theorem signedMag_gt_of_larger (h : magBits f b < magBits f a) :
    signedMag f b < signedMag f a ↔ (!signOf f a) = true := by
  rcases Bool.eq_false_or_eq_true (signOf f a) with hs | hs
  · simp only [signedMag, hs, if_true, Bool.not_true, Bool.false_eq_true, iff_false]
    split <;> omega
  · simp only [signedMag, hs, Bool.false_eq_true, if_false, Bool.not_false, iff_true]
    split <;> omega

theorem signedMag_lt_of_eq (h : magBits f b = magBits f a) (h0 : magBits f a ≠ 0) :
    signedMag f a < signedMag f b ↔ (signOf f a && !signOf f b) = true := by
  rcases Bool.eq_false_or_eq_true (signOf f a) with hs | hs <;>
    rcases Bool.eq_false_or_eq_true (signOf f b) with hs' | hs' <;>
    simp [signedMag, hs, hs', h]
  omega

/-- Numbers are ordered as their signed magnitudes. -/
theorem PatternCase.fvLt_eq (ha : PatternCase f a x) (hb : PatternCase f b y) (hna : nanBits f a = false)
    (hnb : nanBits f b = false) : fvLt x y = decide (signedMag f a < signedMag f b) := by
  rw [Bool.eq_iff_iff, decide_eq_true_iff]
  cases ha with
  | nan h => exact absurd h (by simp [hna])
  | inf _ _ hia hza =>
    cases hb with
    | nan h => exact absurd h (by simp [hnb])
    | inf _ _ hib => exact (signedMag_lt_of_eq (magBits_eq_of_infinite hia hib) hza).symm
    | fin _ _ hib => exact (signedMag_lt_of_larger (magBits_lt_of_infinite hia hnb hib)).symm
  | fin _ _ hia hua =>
    cases hb with
    | nan h => exact absurd h (by simp [hnb])
    | inf _ _ hib => exact (signedMag_gt_of_larger (magBits_lt_of_infinite hib hna hia)).symm
    | fin _ _ _ hub =>
      rw [fvLt, finLt_eq, decide_eq_true_iff, ← amount_lt_iff, finVal_of_units hua, finVal_of_units hub,
        Rat.mul_lt_mul_right (pow2_pos _), Rat.intCast_lt_intCast]

theorem PatternCase.isZero_eq (h : PatternCase f a x) : x.isZero = decide (magBits f a = 0) := by
  cases h with
  | nan _ _ h => simp [FV.isZero, h]
  | inf _ _ _ h => simp [FV.isZero, h]
  | fin _ _ _ _ h => rw [FV.isZero, Bool.eq_iff_iff, beq_iff_eq, decide_eq_true_iff, h]

theorem PatternCase.isNeg_eq (h : PatternCase f a x) (hn : nanBits f a = false) : x.isNeg = signOf f a := by
  cases h with
  | nan h => exact absurd h (by simp [hn])
  | inf => rfl
  | fin => rfl

/-- The order with -0 below +0 (R171). -/
theorem PatternCase.below_eq (ha : PatternCase f a x) (hb : PatternCase f b y) (hna : nanBits f a = false)
    (hnb : nanBits f b = false) : below x y = decide (orderKey f a < orderKey f b) := by
  rw [below, ha.isZero_eq, hb.isZero_eq, ha.isNeg_eq hna, hb.isNeg_eq hnb, ha.fvLt_eq hb hna hnb]
  by_cases hz : magBits f a = 0 ∧ magBits f b = 0
  · rcases Bool.eq_false_or_eq_true (signOf f a) with hsa | hsa <;>
      rcases Bool.eq_false_or_eq_true (signOf f b) with hsb | hsb <;> simp [orderKey, hz, hsa, hsb]
  · rw [← Bool.decide_and, decide_eq_false hz, if_neg Bool.false_ne_true, decide_eq_decide]
    simp only [orderKey, signedMag]
    split <;> split <;> omega

/-- WHAT `FMIN` AND `FMAX` CHOOSE (R171). -/
theorem elMinMax_bits (f : FloatFmt) (isMax : Bool) (a b : Nat) :
    (elMinMax f isMax a b).bits = chosen f (fun x y => if isMax then decide (y < x) else decide (x < y)) a b := by
  have ha := patternCase f a
  have hb := patternCase f b
  simp only [elMinMax, chosen, ha.isNan_eq, hb.isNan_eq]
  cases hna : nanBits f a <;> cases hnb : nanBits f b
  case false.false =>
    rw [ha.below_eq hb hna hnb, hb.below_eq ha hnb hna]
    cases isMax <;> simp
  all_goals simp

theorem sigFlags_pair (f : FloatFmt) (a b : Nat) :
    sigFlags [valueOf f a, valueOf f b] = invalidIf (signalling f a || signalling f b) := by
  simp [sigFlags, invalidIf, (patternCase f a).isSig_eq, (patternCase f b).isSig_eq]

theorem elMinMax_flags (f : FloatFmt) (isMax : Bool) (a b : Nat) :
    (elMinMax f isMax a b).flags = invalidIf (signalling f a || signalling f b) := by
  simp only [elMinMax, sigFlags_pair, apply_ite Rounded.flags, ite_self]

/-- The class of an element (R173). -/
theorem classMask_eq (f : FloatFmt) (a : Nat) : classMask f a = 2 ^ classBit f a := by
  have h := patternCase f a
  rw [classMask]
  generalize valueOf f a = x at h
  cases h with
  | nan hn => simp only [classBit, hn, if_true]; split <;> rfl
  | inf hn _ hi => simp only [classBit, hn, hi, if_true, Bool.false_eq_true, if_false]; split <;> rfl
  | fin hn _ hi _ hzero hsub =>
    simp only [classBit, hn, hi, hzero, hsub, Bool.false_eq_true, if_false]
    (repeat' split) <;> rfl

/-- Both elements are numbers. -/
def Numbers (f : FloatFmt) (a b : Nat) : Prop := nanBits f a = false ∧ nanBits f b = false

theorem fvLt_of_nan (h : (x.isNan || y.isNan) = true) : fvLt x y = false := by
  match x, y with
  | .nan _, _ => rfl
  | .inf _, .nan _ | .fin .., .nan _ => rfl
  | .inf _, .inf _ | .inf _, .fin .. | .fin .., .inf _ | .fin .., .fin .. => exact absurd h Bool.false_ne_true

theorem fvLt_iff (f : FloatFmt) (a b : Nat) :
    fvLt (valueOf f a) (valueOf f b) = true ↔ Numbers f a b ∧ signedMag f a < signedMag f b := by
  have ha := patternCase f a
  have hb := patternCase f b
  by_cases h : Numbers f a b
  · rw [ha.fvLt_eq hb h.1 h.2, decide_eq_true_iff, and_iff_right h]
  · refine iff_of_false ?_ (fun h' => h h'.1)
    rw [Numbers, ← ha.isNan_eq, ← hb.isNan_eq] at h
    rw [fvLt_of_nan (by rwa [← Bool.not_eq_false, Bool.or_eq_false_iff])]
    exact Bool.false_ne_true

theorem numbers_comm {f : FloatFmt} {a b : Nat} : Numbers f a b ↔ Numbers f b a := and_comm

theorem fvEq_iff (f : FloatFmt) (a b : Nat) :
    fvEq (valueOf f a) (valueOf f b) = true ↔ Numbers f a b ∧ signedMag f a = signedMag f b := by
  simp only [fvEq, (patternCase f a).isNan_eq, (patternCase f b).isNan_eq, Bool.and_eq_true, Bool.not_eq_true',
    ← Bool.not_eq_true (fvLt _ _), fvLt_iff, numbers_comm (a := b), and_assoc]
  by_cases hn : Numbers f a b
  · simp only [hn, hn.1, hn.2, true_and]
    omega
  · exact iff_of_false (fun h => hn ⟨h.1, h.2.1⟩) (fun h => hn h.1)

/-- WHAT `FCMP` TESTS (R172). -/
theorem fcmpHolds_iff (f : FloatFmt) (cc a b : Nat) :
    fcmpHolds cc (valueOf f a) (valueOf f b) = true ↔ floatCondition f cc a b := by
  match cc with
  | 0 => exact fvEq_iff f a b
  | 1 =>
    rw [fcmpHolds, Bool.not_eq_true', ← Bool.not_eq_true, fvEq_iff]
    rfl
  | 2 => exact fvLt_iff f a b
  | 3 =>
    simp only [fcmpHolds, Bool.or_eq_true, fvLt_iff, fvEq_iff, ← and_or_left, ← Int.le_iff_lt_or_eq]
    rfl
  | 4 =>
    rw [fcmpHolds, fvLt_iff, numbers_comm]
    rfl
  | 5 =>
    simp only [fcmpHolds, Bool.or_eq_true, fvLt_iff, fvEq_iff, numbers_comm (a := b), ← and_or_left,
      eq_comm (a := signedMag f a), ← Int.le_iff_lt_or_eq]
    rfl
  | 6 => simp [fcmpHolds, floatCondition, (patternCase f a).isNan_eq, (patternCase f b).isNan_eq]
  | n + 7 =>
    have h : fcmpHolds (n + 7) (valueOf f a) (valueOf f b) = (nanBits f a || nanBits f b) := by
      rw [← (patternCase f a).isNan_eq, ← (patternCase f b).isNan_eq]
      rfl
    rw [h]
    change _ ↔ ¬ Numbers f a b
    rw [Numbers, ← Bool.or_eq_false_iff, Bool.not_eq_false]

end

/-! ## Proofs: rounding to an integer (R174, R177) -/

section
variable {f : FloatFmt} {b m : Nat} {e : Int}

/-- A finite element rounded to a whole number, and whether it was one. -/
theorem roundSteps_whole (h : (m : Rat) * pow2 e = units f (magBits f b) * pow2 (minStep f)) (mode : Rnd) (neg : Bool) :
    RoundsTo id mode neg (ratio (units f (magBits f b)) (2 ^ unitExp f)) (roundSteps mode neg m e false 0).1 ∧
      ((roundSteps mode neg m e false 0).2 = true ↔
        (roundSteps mode neg m e false 0).1 * 2 ^ unitExp f = units f (magBits f b)) := by
  obtain ⟨hround, hexact⟩ := roundSteps_roundsAt mode neg m e 0
  have hy : (m : Rat) * pow2 (e - 0) * (2 ^ unitExp f : Nat) = units f (magBits f b) := by
    rw [Int.sub_zero, h, Rat.mul_assoc, two_pow_unitExp, Rat.mul_one]
  refine ⟨((ratio_cuts (Nat.two_pow_pos _) hy).roundsTo_iff _ _ _ _).2 hround, hexact.trans ?_⟩
  rw [← Rat.natCast_inj, Rat.natCast_mul, ← hy]
  exact ⟨fun h => by rw [h], eq_of_mul_eq_mul (Rat.natCast_pos.2 (Nat.two_pow_pos _))⟩

/-- A whole number of no more bits than a significand is a value of the format. -/
theorem exists_units_eq_whole (f : FloatFmt) {N : Nat} (h0 : N ≠ 0) (hN : N ≤ 2 ^ f.fracBits) :
    ∃ p, units f p = N * 2 ^ unitExp f ∧ p ≤ f.maxBits := by
  have hfmt : f.fracBits ≤ unitExp f ∧ (unitExp f + 2) * 2 ^ f.fracBits ≤ f.maxBits := by cases f <;> decide
  obtain ⟨hexp, hmax⟩ := hfmt
  have hlog : Nat.log2 N ≤ f.fracBits :=
    (Nat.pow_le_pow_iff_right (by decide)).1 (Nat.le_trans (Nat.log2_self_le h0) hN)
  obtain ⟨i, hi⟩ := Nat.exists_eq_add_of_le hlog
  obtain ⟨j, hj⟩ := Nat.exists_eq_add_of_le (show i ≤ unitExp f by omega)
  have hlo : 2 ^ f.fracBits ≤ N * 2 ^ i := by
    rw [hi, Nat.pow_add]
    exact Nat.mul_le_mul_right _ (Nat.log2_self_le h0)
  have hhi : N * 2 ^ i < 2 ^ (f.fracBits + 1) := by
    rw [hi, Nat.add_right_comm, Nat.pow_add]
    exact Nat.mul_lt_mul_of_pos_right Nat.lt_log2_self (Nat.two_pow_pos i)
  refine ⟨j * 2 ^ f.fracBits + N * 2 ^ i, ?_, ?_⟩
  · rw [units_steps f (.inr hlo) (Nat.le_of_lt hhi), hj, Nat.pow_add, Nat.mul_assoc]
  · calc j * 2 ^ f.fracBits + N * 2 ^ i ≤ unitExp f * 2 ^ f.fracBits + 2 ^ (f.fracBits + 1) :=
          Nat.add_le_add (Nat.mul_le_mul_right _ (by omega)) (Nat.le_of_lt hhi)
      _ = (unitExp f + 2) * 2 ^ f.fracBits := by rw [Nat.pow_succ, Nat.add_mul, Nat.mul_comm 2]
      _ ≤ f.maxBits := hmax

/-- A value of the format is delivered as it is. -/
theorem roundFV_bits_of_units (f : FloatFmt) (mode : Rnd) (sat neg : Bool) {N p : Nat}
    (hp : units f p = N * 2 ^ unitExp f) (hmax : p ≤ f.maxBits) :
    (roundFV f mode sat (.fin neg N 0)).bits = withSign f neg p := by
  by_cases h0 : N = 0
  · obtain rfl : p = 0 := units_eq_zero_iff.1 (by rw [hp, h0, Nat.zero_mul])
    simp [roundFV, h0]
  · have hy : (N : Rat) * pow2 (0 - minStep f) = units f p := by
      refine eq_of_mul_eq_mul (pow2_pos (minStep f)) ?_
      rw [Rat.mul_assoc, ← pow2_add, Int.sub_add_cancel, pow2_zero, hp, Rat.natCast_mul, Rat.mul_assoc,
        Rat.mul_comm _ (pow2 (minStep f)), two_pow_unitExp]
    have hcuts : Cuts (ratio (units f p) 1) (N * pow2 (0 - minStep f)) :=
      ratio_cuts Nat.one_pos ((Rat.mul_one _).trans hy)
    obtain ⟨p', hp', -, hfin⟩ := roundFin_delivers f mode neg 0 sat h0 hcuts
    rw [hcuts.roundsTo_iff, hy] at hp'
    obtain rfl := hp'.unique (units_rising f) (roundsAt_self (units_rising f) mode neg p)
    simpa only [roundFV, h0, if_false] using (hfin hmax).1

theorem magBits_le_max (hn : nanBits f b = false) (hi : infinite f b = false) : magBits f b ≤ f.maxBits := by
  have hfmt : f.hasInf = true → f.infBits = f.maxBits + 1 := by cases f <;> decide
  cases hf : f.hasInf with
  | false => simpa [nanBits, hf] using hn
  | true =>
    simp only [nanBits, infinite, hf, if_true, Bool.true_and, beq_eq_false_iff_ne, decide_eq_false_iff_not] at hn hi
    have := hfmt hf
    omega

theorem withSign_magBits (ha : b < 2 ^ f.width) : withSign f (signOf f b) (magBits f b) = b := by
  rw [two_pow_width] at ha
  have hdm := Nat.div_add_mod b f.signBit
  have hdiv : b / f.signBit < 2 := Nat.div_lt_of_lt_mul ha
  rcases Nat.le_one_iff_eq_zero_or_eq_one.1 (Nat.le_of_lt_succ hdiv) with h | h
  · rw [h, Nat.mul_zero, Nat.zero_add] at hdm
    simpa [withSign, signOf, magBits, h] using hdm
  · rw [h, Nat.mul_one] at hdm
    simpa [withSign, signOf, magBits, h] using hdm

/-- The whole number that a finite element rounds to is a value of its format, no larger than the largest. -/
theorem exists_units_eq_rounded (hn : nanBits f b = false) (hi : infinite f b = false)
    (h : (m : Rat) * pow2 e = units f (magBits f b) * pow2 (minStep f)) (hm : m < 2 ^ (f.fracBits + 1))
    (mode : Rnd) (neg : Bool) :
    ∃ p, units f p = (roundSteps mode neg m e false 0).1 * 2 ^ unitExp f ∧ p ≤ f.maxBits := by
  obtain ⟨hround, hexact⟩ := roundSteps_roundsAt mode neg m e 0
  rcases Int.lt_or_le e 0 with he | he
  · by_cases h0 : (roundSteps mode neg m e false 0).1 = 0
    · exact ⟨0, by rw [h0, Nat.zero_mul, units_eq_zero_iff], Nat.zero_le _⟩
    · refine exists_units_eq_whole f h0 (hround.le_of_le rising_id ?_)
      have hhalf := Rat.mul_le_mul_of_nonneg_left (pow2_add_self_le_one he) (Rat.natCast_nonneg (a := m))
      have hm' : (m : Rat) < (2 ^ (f.fracBits + 1) : Nat) := Rat.natCast_lt_natCast.2 hm
      rw [Nat.pow_succ, Rat.natCast_mul, show ((2 : Nat) : Rat) = 2 from rfl] at hm'
      rw [Int.sub_zero, id]
      grind
  · have hex : (roundSteps mode neg m e false 0).2 = true := by rw [roundSteps_of_le _ _ _ he]
    exact ⟨magBits f b, ((roundSteps_whole h mode neg).2.1 hex).symm, magBits_le_max hn hi⟩

theorem roundToInt_eq (mode : Rnd) (neg : Bool) (m : Nat) (e : Int) :
    roundToInt mode neg m e =
      (if neg then -((roundSteps mode neg m e false 0).1 : Int) else (roundSteps mode neg m e false 0).1,
        (roundSteps mode neg m e false 0).2) := rfl

theorem natAbs_roundToInt (mode : Rnd) (neg : Bool) (m : Nat) (e : Int) :
    (roundToInt mode neg m e).1.natAbs = (roundSteps mode neg m e false 0).1 := by
  rw [roundToInt_eq]
  cases neg <;> simp

/-- WHAT `FRND` DELIVERS (R174). -/
theorem elRound_integral (f : FloatFmt) (mode : Rnd) {a : Nat} (ha : a < 2 ^ f.width) :
    Integral f mode a (elRound f mode a).bits := by
  have h := patternCase f a
  rw [elRound]
  generalize valueOf f a = x at h
  cases h with
  | nan hn => simp only [Integral, hn, if_true]
  | inf hn _ hi =>
    have hmag : f.infBits = magBits f a := by
      simp only [infinite, Bool.and_eq_true, beq_iff_eq] at hi
      exact hi.2.symm
    simp only [Integral, hn, hi, Bool.false_eq_true, if_false, if_true]
    rw [hmag, withSign_magBits ha]
  | fin hn _ hi hu _ _ hm =>
    obtain ⟨p, hp, hmax⟩ := exists_units_eq_rounded hn hi hu hm mode (signOf f a)
    simp only [Integral, hn, hi, Bool.false_eq_true, if_false]
    refine ⟨_, p, (roundSteps_whole hu mode _).1, hp, hmax, ?_⟩
    rw [natAbs_roundToInt]
    exact roundFV_bits_of_units f .ne false _ hp hmax

theorem elRound_flags (f : FloatFmt) (mode : Rnd) (a : Nat) :
    (elRound f mode a).flags = invalidIf (signalling f a) := by
  have h := patternCase f a
  rw [elRound]
  generalize valueOf f a = x at h
  cases h with
  | nan => rfl
  | inf _ hs | fin _ hs => rw [hs]; rfl

end

theorem zero_mem_range (t : Tag) : lowest_ t ≤ 0 ∧ 0 ≤ highest_ t := by
  have h := int_two_pow_pos (elemWidth t)
  have h' := int_two_pow_pos (elemWidth t - 1)
  cases hs : isSigned t <;> simp only [lowest_, highest_, hs, if_true, if_false, Bool.false_eq_true] <;> omega

/-- An integer delivered where its type holds it; else the nearest end of the range, with INV (R177). -/
theorem clamped_result {t : Tag} (ht : t ∈ arithPacked) (x : Int) (fl : Flags) {r : Rounded}
    (hr : r = if clampInt t x = x then ⟨wrapInt (elemWidth t) x, fl⟩
      else ⟨wrapInt (elemWidth t) (clampInt t x), flINV⟩) :
    if x < lowest_ t then intOf t r.bits = lowest_ t ∧ r.flags = flINV
    else if highest_ t < x then intOf t r.bits = highest_ t ∧ r.flags = flINV
    else intOf t r.bits = x ∧ r.flags = fl := by
  obtain ⟨hlo, hhi⟩ := zero_mem_range t
  have hclamp := clampInt_eq ht x
  split
  · next h =>
    have hc : clampInt t x = lowest_ t := by omega
    rw [hc, if_neg (by omega)] at hr
    exact hr ▸ ⟨intOf_wrapInt_of_mem (Int.le_refl _) (by omega), rfl⟩
  · split
    · next h =>
      have hc : clampInt t x = highest_ t := by omega
      rw [hc, if_neg (by omega)] at hr
      exact hr ▸ ⟨intOf_wrapInt_of_mem (by omega) (Int.le_refl _), rfl⟩
    · rw [if_pos (by omega)] at hr
      exact hr ▸ ⟨intOf_wrapInt_of_mem (by omega) (by omega), rfl⟩

/-- WHAT `CVT` OF A FLOAT DELIVERS (R177). -/
theorem cvtToInt_toInteger {t : Tag} (ht : t ∈ arithPacked) (mode : Rnd) (a : Nat) :
    ToInteger t mode a (intOf t (cvtToInt t mode a).bits) (cvtToInt t mode a).flags := by
  have h := patternCase .f32 a
  obtain ⟨hlo, hhi⟩ := zero_mem_range t
  rw [cvtToInt]
  generalize valueOf .f32 a = x at h
  cases h with
  | nan hn =>
    simp only [ToInteger, hn, if_true, and_true]
    simp [intOf]
  | inf hn _ hi =>
    simp only [ToInteger, hn, hi, Bool.false_eq_true, if_false, if_true, and_true, intRange_eq ht]
    refine intOf_wrapInt_of_mem ?_ ?_ <;> split <;> omega
  | fin hn _ hi hu =>
    obtain ⟨hround, hexact⟩ := roundSteps_whole hu mode (signOf .f32 a)
    simp only [ToInteger, hn, hi, Bool.false_eq_true, if_false]
    refine ⟨_, hround, clamped_result ht _ _ ?_⟩
    simp only [roundToInt_eq, hexact]
    rfl

/-! ## Proofs: the exact sum of two products and an addend (R180) -/

section
variable {f : FloatFmt} {a b c a0 b0 a1 b1 : Nat} {p q : FV × Flags} {z : FV}

/-- A product without a value. -/
def noProduct (f : FloatFmt) (a b : Nat) : Bool := nanBits f a || nanBits f b || zeroTimesInf f a b

/-- An infinite product. -/
def infProduct (f : FloatFmt) (a b : Nat) : Bool := (infinite f a || infinite f b) && !noProduct f a b

theorem ProductCase.isNan_eq (h : ProductCase f a b p) : p.1.isNan = noProduct f a b := by
  cases h with
  | nan h => simp [noProduct, FV.isNan, h]
  | inf hn hz | fin hn hz => simp [noProduct, FV.isNan, hn, hz]

theorem ProductCase.flags_eq (h : ProductCase f a b p) :
    p.2 = invalidIf (signalling f a || signalling f b || zeroTimesInf f a b) := by
  cases h with
  | nan h => rfl
  | inf hn hz | fin hn hz =>
    obtain ⟨hna, hnb⟩ := Bool.or_eq_false_iff.1 hn
    simp [signalling_of_number hna, signalling_of_number hnb, hz, invalidIf]

theorem ProductCase.isInf_eq (h : ProductCase f a b p) : p.1.isInf = infProduct f a b := by
  cases h with
  | nan h => simp [infProduct, noProduct, FV.isInf, h]
  | inf hn hz hi => simp [infProduct, noProduct, FV.isInf, hn, hz, hi]
  | fin hn hz hi => simp [infProduct, FV.isInf, hi]

theorem ProductCase.isNeg_eq (h : ProductCase f a b p) (hi : infProduct f a b = true) :
    p.1.isNeg = (signOf f a != signOf f b) := by
  cases h with
  | nan h => simp [infProduct, noProduct, h] at hi
  | inf | fin => rfl

/-- The sign of a zero sum in `FDOT2`: that of three zeros of one sign, or else the mode's. -/
theorem dot_zero_sign (mode : Rnd) (n0 n1 nc : Bool) (m0 m1 mc : Nat) (e0 e1 ec : Int) :
    (if [FV.fin n0 m0 e0, .fin n1 m1 e1, .fin nc mc ec].all (fun x => x.isZero && x.isNeg) then true
      else if [FV.fin n0 m0 e0, .fin n1 m1 e1, .fin nc mc ec].all (fun x => x.isZero && !x.isNeg) then false
      else mode == .dn) = if m0 = 0 ∧ m1 = 0 ∧ mc = 0 ∧ n0 = n1 ∧ n1 = nc then nc else mode == .dn := by
  by_cases hz : m0 = 0 ∧ m1 = 0 ∧ mc = 0
  · obtain ⟨rfl, rfl, rfl⟩ := hz
    cases n0 <;> cases n1 <;> cases nc <;> rfl
  · have hall (g : FV → Bool) :
        [FV.fin n0 m0 e0, .fin n1 m1 e1, .fin nc mc ec].all (fun x => x.isZero && g x) = false := by
      refine Bool.eq_false_iff.2 fun h => hz ?_
      simp only [List.all_cons, List.all_nil, FV.isZero, Bool.and_true, Bool.and_eq_true, beq_iff_eq] at h
      exact ⟨h.1.1, h.2.1.1, h.2.2.1⟩
    rw [hall FV.isNeg, hall (fun x => !x.isNeg), if_neg Bool.false_ne_true, if_neg Bool.false_ne_true,
      if_neg (fun h => hz ⟨h.1, h.2.1, h.2.2.1⟩)]

/-- The exact sum of finite values in `FDOT2`, with the sign of a zero. -/
theorem fvDot_fin (mode : Rnd) (n0 n1 nc : Bool) (m0 m1 mc : Nat) (e0 e1 ec : Int) :
    ∃ n m e, fvDot mode (.fin n0 m0 e0, 0#7) (.fin n1 m1 e1, 0#7) (.fin nc mc ec, 0#7) = (.fin n m e, 0#7) ∧
      finVal n m e = finVal n0 m0 e0 + finVal n1 m1 e1 + finVal nc mc ec ∧
      (m = 0 → n = if m0 = 0 ∧ m1 = 0 ∧ mc = 0 ∧ n0 = n1 ∧ n1 = nc then nc else mode == .dn) := by
  obtain ⟨n', m', e', h', hval', -⟩ := fvAdd_fin mode n0 n1 m0 m1 e0 e1
  obtain ⟨n, m, e, h, hval, -⟩ := fvAdd_fin mode n' nc m' mc e' ec
  rw [hval'] at hval
  simp only [fvDot, h', h]
  by_cases hm : m = 0
  · rw [finVal_eq_zero.2 hm] at hval
    refine ⟨_, 0, 0, ?_, (finVal_eq_zero.2 rfl).trans hval, fun _ => dot_zero_sign mode n0 n1 nc m0 m1 mc e0 e1 ec⟩
    simp only [hm, if_true]
    rfl
  · refine ⟨n, m, e, ?_, hval, fun h => absurd h hm⟩
    simp [hm, FV.isInf, FV.isNan]

theorem ProductCase.inf_and (h : ProductCase f a b p) (g : Bool → Bool) :
    (p.1.isInf && g p.1.isNeg) = (infProduct f a b && g (signOf f a != signOf f b)) := by
  rw [h.isInf_eq]
  cases hi : infProduct f a b with
  | false => rfl
  | true => rw [h.isNeg_eq hi]

theorem PatternCase.inf_and (h : PatternCase f c z) (g : Bool → Bool) :
    (z.isInf && g z.isNeg) = (infinite f c && g (signOf f c)) := by
  cases h with
  | nan _ hi | fin _ _ hi => simp [FV.isInf, hi]
  | inf _ _ hi => simp [FV.isInf, FV.isNeg, hi]

/-- An infinite term of one sign in the sum of `FDOT2`: where `g` holds of the sign. -/
def infTerm (f : FloatFmt) (a0 b0 a1 b1 c : Nat) (g : Bool → Bool) : Bool :=
  infProduct f a0 b0 && g (signOf f a0 != signOf f b0) || infProduct f a1 b1 && g (signOf f a1 != signOf f b1) ||
    infinite .f32 c && g (signOf .f32 c)

theorem any_inf_eq (hp : ProductCase f a0 b0 p) (hq : ProductCase f a1 b1 q) (hc : PatternCase .f32 c z)
    (g : Bool → Bool) :
    [p.1, q.1, z].any (fun x => x.isInf && g x.isNeg) = infTerm f a0 b0 a1 b1 c g := by
  simp only [List.any_cons, List.any_nil, hp.inf_and, hq.inf_and, hc.inf_and, infTerm, Bool.or_false, Bool.or_assoc]

/-- A term of the sum of `FDOT2` without a value. -/
def noTerm (f : FloatFmt) (a0 b0 a1 b1 c : Nat) : Bool := noProduct f a0 b0 || noProduct f a1 b1 || nanBits .f32 c

/-- An operand or a product of `FDOT2` is invalid. -/
def invalidTerm (f : FloatFmt) (a0 b0 a1 b1 c : Nat) : Bool :=
  signalling f a0 || signalling f b0 || zeroTimesInf f a0 b0 ||
    (signalling f a1 || signalling f b1 || zeroTimesInf f a1 b1) || signalling .f32 c

theorem exactDot_eq (f : FloatFmt) (mode : Rnd) (a0 b0 a1 b1 c : Nat) :
    exactDot f mode a0 b0 a1 b1 c =
      if noTerm f a0 b0 a1 b1 c || infTerm f a0 b0 a1 b1 c (fun n => !n) && infTerm f a0 b0 a1 b1 c id then
        .nan (invalidTerm f a0 b0 a1 b1 c || infTerm f a0 b0 a1 b1 c (fun n => !n) && infTerm f a0 b0 a1 b1 c id)
      else if infTerm f a0 b0 a1 b1 c (fun n => !n) then .inf false
      else if infTerm f a0 b0 a1 b1 c id then .inf true
      else number
        ((amount f a0 * amount f b0 + amount f a1 * amount f b1) * 2 ^ 149 + amount .f32 c * 2 ^ (2 * unitExp f))
        (2 ^ (2 * unitExp f))
        (if amount f a0 * amount f b0 = 0 ∧ amount f a1 * amount f b1 = 0 ∧ magBits .f32 c = 0 ∧
            (signOf f a0 != signOf f b0) = (signOf f a1 != signOf f b1) ∧ (signOf f a1 != signOf f b1) = signOf .f32 c
          then signOf .f32 c else mode == .dn) := by
  have hnan : noTerm f a0 b0 a1 b1 c = (nanBits f a0 || nanBits f b0 || nanBits f a1 || nanBits f b1 ||
      nanBits .f32 c || (zeroTimesInf f a0 b0 || zeroTimesInf f a1 b1)) := by
    simp only [noTerm, noProduct]
    ac_rfl
  have hinv (r : Bool) : (invalidTerm f a0 b0 a1 b1 c || r) = (zeroTimesInf f a0 b0 || zeroTimesInf f a1 b1 || r ||
      signalling f a0 || signalling f b0 || signalling f a1 || signalling f b1 || signalling .f32 c) := by
    rw [invalidTerm]
    ac_rfl
  rw [hnan, hinv]
  rfl

theorem invalidTerm_of_terms (h : noTerm f a0 b0 a1 b1 c = false) : invalidTerm f a0 b0 a1 b1 c = false := by
  simp only [noTerm, noProduct, Bool.or_eq_false_iff] at h
  obtain ⟨⟨⟨⟨ha0, hb0⟩, hz0⟩, ⟨ha1, hb1⟩, hz1⟩, hc⟩ := h
  simp only [invalidTerm, signalling_of_number, ha0, hb0, hz0, ha1, hb1, hz1, hc, Bool.or_self]

theorem no_inf_of_infTerm (hpos : infTerm f a0 b0 a1 b1 c (fun n => !n) = false)
    (hneg : infTerm f a0 b0 a1 b1 c id = false) :
    infProduct f a0 b0 = false ∧ infProduct f a1 b1 = false ∧ infinite .f32 c = false := by
  simp only [infTerm, id, Bool.or_eq_false_iff] at hpos hneg
  have hsign (i s : Bool) (h : (i && !s) = false) (h' : (i && s) = false) : i = false := by
    cases s
    · simpa using h
    · simpa using h'
  obtain ⟨⟨h0, h1⟩, hc⟩ := hpos
  obtain ⟨⟨h0', h1'⟩, hc'⟩ := hneg
  exact ⟨hsign _ _ h0 h0', hsign _ _ h1 h1', hsign _ _ hc hc'⟩

/-- A product that is a number denotes the product of the units of its factors. -/
theorem ProductCase.fin_of_number (h : ProductCase f a b p) (hno : noProduct f a b = false)
    (hinf : infProduct f a b = false) : ∃ m e, p = (.fin (signOf f a != signOf f b) m e, 0#7) ∧
      finVal (signOf f a != signOf f b) m e = (amount f a * amount f b : Int) * (pow2 (minStep f) * pow2 (minStep f)) ∧
      (m = 0 ↔ amount f a * amount f b = 0) := by
  cases h with
  | nan h => simp [noProduct, h] at hno
  | inf hn hz hi => simp [infProduct, hno, hi] at hinf
  | fin _ _ _ hval =>
    refine ⟨_, _, rfl, hval, ?_⟩
    have hpos := Rat.mul_pos (pow2_pos (minStep f)) (pow2_pos (minStep f))
    rw [← finVal_eq_zero, hval, Rat.mul_eq_zero, or_iff_left (Rat.ne_of_gt hpos), Rat.intCast_eq_zero_iff]

theorem PatternCase.fin_of_number (h : PatternCase f c z) (hn : nanBits f c = false) (hi : infinite f c = false) :
    ∃ m e, z = .fin (signOf f c) m e ∧ finVal (signOf f c) m e = amount f c * pow2 (minStep f) ∧
      (m = 0 ↔ magBits f c = 0) := by
  cases h with
  | nan h => simp [hn] at h
  | inf _ _ h => simp [hi] at h
  | fin _ _ _ hu hz => exact ⟨_, _, rfl, finVal_of_units hu, hz⟩

/-- A sum of products in units of f32. -/
theorem square_units (f : FloatFmt) (X : Int) :
    X * (pow2 (minStep f) * pow2 (minStep f)) * (2 ^ (2 * unitExp f) : Nat) =
      (X * 2 ^ 149 : Int) * pow2 (minStep .f32) := by
  have hf := two_pow_unitExp f
  have hg : pow2 (minStep .f32) * (2 ^ 149 : Nat) = 1 := two_pow_unitExp .f32
  have hsquare : pow2 (minStep f) * pow2 (minStep f) * (2 ^ (2 * unitExp f) : Nat) = 1 := by
    rw [Nat.two_mul, Nat.pow_add, Rat.natCast_mul]
    grind
  rw [Rat.mul_assoc, hsquare, intCast_mul_two_pow, Rat.mul_assoc, Rat.mul_comm _ (pow2 (minStep .f32)), hg]

/-- The sum of `FDOT2` in units of f32. -/
theorem dot_units (f : FloatFmt) (X C : Int) :
    (X * (pow2 (minStep f) * pow2 (minStep f)) + C * pow2 (minStep .f32)) * (2 ^ (2 * unitExp f) : Nat) =
      (X * 2 ^ 149 + C * 2 ^ (2 * unitExp f) : Int) * pow2 (minStep .f32) := by
  rw [Rat.add_mul, square_units, Rat.intCast_add, Rat.add_mul, intCast_mul_two_pow C, Rat.mul_assoc C, Rat.mul_assoc C,
    Rat.mul_comm (pow2 (minStep .f32))]

/-- `exact(a0 * b0 + a1 * b1 + c)` of numbers (R180). -/
theorem dot_holds_fin (hp : ProductCase f a0 b0 p) (hq : ProductCase f a1 b1 q) (hc : PatternCase .f32 c z) (mode : Rnd)
    (hno : noTerm f a0 b0 a1 b1 c = false) (hpos : infTerm f a0 b0 a1 b1 c (fun n => !n) = false)
    (hneg : infTerm f a0 b0 a1 b1 c id = false) :
    HoldsExact .f32 (fvDot mode p q (z, sigFlags [z])) (exactDot f mode a0 b0 a1 b1 c) := by
  obtain ⟨hi0, hi1, hic⟩ := no_inf_of_infTerm hpos hneg
  rw [exactDot_eq, hno, hpos, hneg]
  simp only [noTerm, Bool.or_eq_false_iff] at hno
  obtain ⟨⟨hn0, hn1⟩, hnc⟩ := hno
  obtain ⟨m0, e0, rfl, hv0, hz0⟩ := hp.fin_of_number hn0 hi0
  obtain ⟨m1, e1, rfl, hv1, hz1⟩ := hq.fin_of_number hn1 hi1
  obtain ⟨mc, ec, rfl, hvc, hzc⟩ := hc.fin_of_number hnc hic
  obtain ⟨n, m, e, hdot, hval, hzero⟩ := fvDot_fin mode (signOf f a0 != signOf f b0) (signOf f a1 != signOf f b1)
    (signOf .f32 c) m0 m1 mc e0 e1 ec
  rw [show sigFlags [FV.fin (signOf .f32 c) mc ec] = 0#7 from rfl, hdot]
  simp only [hz0, hz1, hzc] at hzero
  refine .num (Nat.two_pow_pos _) ?_ hzero
  rw [hval, hv0, hv1, hvc, ← Rat.add_mul, ← Rat.intCast_add, dot_units]

/-- `exact(a0 * b0 + a1 * b1 + c)` (R180). -/
theorem dot_holds (hp : ProductCase f a0 b0 p) (hq : ProductCase f a1 b1 q) (hc : PatternCase .f32 c z) (mode : Rnd) :
    HoldsExact .f32 (fvDot mode p q (z, sigFlags [z])) (exactDot f mode a0 b0 a1 b1 c) := by
  have hpos := any_inf_eq hp hq hc (fun n => !n)
  have hneg := any_inf_eq hp hq hc id
  have hnan : [p.1, q.1, z].any FV.isNan = noTerm f a0 b0 a1 b1 c := by
    simp [noTerm, hp.isNan_eq, hq.isNan_eq, hc.isNan_eq, Bool.or_assoc]
  have hflags : p.2 ||| q.2 ||| sigFlags [z] = invalidIf (invalidTerm f a0 b0 a1 b1 c) := by
    have : sigFlags [z] = invalidIf (signalling .f32 c) := by simp [sigFlags, invalidIf, hc.isSig_eq]
    rw [hp.flags_eq, hq.flags_eq, this, invalidIf_or, invalidIf_or, invalidTerm]
  simp only [id] at hneg
  rw [exactDot_eq]
  by_cases hboth : (infTerm f a0 b0 a1 b1 c (fun n => !n) && infTerm f a0 b0 a1 b1 c id) = true
  · simp only [fvDot, hpos, hneg, hflags, hboth, Bool.or_true, if_true]
    rw [show flINV = invalidIf true from rfl, invalidIf_or, Bool.or_true]
    exact .nan _ true
  rw [Bool.not_eq_true] at hboth
  cases hno : noTerm f a0 b0 a1 b1 c with
  | true =>
    simp only [fvDot, hpos, hneg, hnan, hflags, hboth, hno, Bool.or_false, if_true, Bool.false_eq_true, if_false]
    exact .nan _ _
  | false =>
    have hvalid := invalidTerm_of_terms hno
    cases hip : infTerm f a0 b0 a1 b1 c (fun n => !n) with
    | true =>
      simp only [hip, Bool.true_and] at hboth
      simp only [fvDot, hpos, hneg, hnan, hflags, hboth, hno, hip, hvalid, Bool.and_false, Bool.or_false, if_true,
        Bool.false_eq_true, if_false]
      exact .inf _
    | false =>
      cases hin : infTerm f a0 b0 a1 b1 c id with
      | true =>
        simp only [fvDot, hpos, hneg, hnan, hflags, hno, hip, hin, hvalid, Bool.and_true, Bool.or_false, if_true,
          Bool.false_eq_true, if_false]
        exact .inf _
      | false =>
        have h := dot_holds_fin hp hq hc mode hno hip hin
        rwa [exactDot_eq, hno, hip, hin] at h

end

/-! ## Proofs: float rows, element by element (R167, R169) -/

theorem special_lt (f : FloatFmt) : f.nanBits < f.signBit ∧ f.infBits < f.signBit ∧ f.maxBits < f.signBit := by
  cases f <;> decide

theorem withSign_lt {f : FloatFmt} (neg : Bool) {p : Nat} (hp : p < f.signBit) : withSign f neg p < 2 ^ f.width := by
  rw [two_pow_width]
  cases neg <;> simp only [withSign, if_true, if_false, Bool.false_eq_true] <;> omega

theorem nanBits_lt (f : FloatFmt) : f.nanBits < 2 ^ f.width := withSign_lt false (special_lt f).1

theorem bits_lt_of_delivers {f : FloatFmt} {mode : Rnd} {sat : Bool} {E : Exact} {z : Nat} {fl : Flags}
    (h : Delivers f mode sat E z fl) : z < 2 ^ f.width := by
  obtain ⟨-, hinf, hmax⟩ := special_lt f
  cases E with
  | nan invalid => exact h.1 ▸ nanBits_lt f
  | inf neg =>
    simp only [Delivers] at h
    split at h
    · exact h.1 ▸ withSign_lt neg hmax
    · exact h.1 ▸ withSign_lt neg hinf
  | zero neg => exact h.1 ▸ withSign_lt neg (Nat.two_pow_pos _)
  | num neg cut =>
    obtain ⟨p, -, hover, hfin⟩ := h
    rcases Nat.lt_or_ge f.maxBits p with hp | hp
    · refine (hover hp).1 ▸ withSign_lt neg ?_
      rw [overflowed]
      split <;> assumption
    · exact (hfin hp).1 ▸ withSign_lt neg (Nat.lt_of_le_of_lt hp hmax)

theorem integral_lt {f : FloatFmt} {mode : Rnd} {a z : Nat} (ha : a < 2 ^ f.width) (h : Integral f mode a z) :
    z < 2 ^ f.width := by
  rw [Integral] at h
  split at h
  · exact h ▸ nanBits_lt f
  · split at h
    · exact h ▸ ha
    · obtain ⟨n, p, -, -, hp, rfl⟩ := h
      exact withSign_lt _ (Nat.lt_of_le_of_lt hp (special_lt f).2.2)

/-- A float type: its elements have the width of their format and fill one register. -/
theorem floatTypes_spec {t : Tag} (ht : t ∈ floatTypes) :
    elemWidth t = (fmtOf t).width ∧ elemWidth t * elems t = 32 := by
  simp only [floatTypes, List.mem_cons, List.not_mem_nil, or_false] at ht
  rcases ht with rfl | rfl | rfl <;> exact ⟨rfl, rfl⟩

theorem elemOf_lt (t : Tag) (x e : Nat) : elemOf t x e < 2 ^ elemWidth t := Nat.mod_lt _ (Nat.two_pow_pos _)

/-- Elements that fit read back from a joined register. -/
theorem elemOf_joinElems (t : Tag) (xs : List Nat) {e : Nat} (he : e < xs.length) (hlt : xs[e] < 2 ^ elemWidth t) :
    elemOf t (joinElems (elemWidth t) xs) e = xs[e] := by
  rw [elemOf, joinElems_div_mod _ _ _ he, Nat.mod_eq_of_lt hlt]

theorem mapElems_flags (t : Tag) (op : Nat → Nat → Nat → Rounded) (a b c : Nat) :
    (mapElems t op a b c).flags = allFlags (elems t)
      (fun e => (op (elemOf t a e) (elemOf t b e) (elemOf t c e)).flags) := by
  simp only [mapElems, allFlags, List.foldl_map]

theorem mapElems_bits_lt (t : Tag) (op : Nat → Nat → Nat → Rounded) (a b c : Nat) :
    (mapElems t op a b c).bits < 2 ^ (elemWidth t * elems t) := by
  simpa [mapElems] using joinElems_lt (elemWidth t)
    (((List.range (elems t)).map (fun i => op (elemOf t a i) (elemOf t b i) (elemOf t c i))).map (·.bits))

theorem elemOf_mapElems (t : Tag) (op : Nat → Nat → Nat → Rounded) (a b c : Nat) {e : Nat} (he : e < elems t)
    (hlt : (op (elemOf t a e) (elemOf t b e) (elemOf t c e)).bits < 2 ^ elemWidth t) :
    elemOf t (mapElems t op a b c).bits e = (op (elemOf t a e) (elemOf t b e) (elemOf t c e)).bits := by
  have h := elemOf_joinElems t
    (((List.range (elems t)).map (fun i => op (elemOf t a i) (elemOf t b i) (elemOf t c i))).map (·.bits)) (e := e)
    (by simpa using he) (by simpa using hlt)
  simpa [mapElems] using h

theorem delivered_ok (r : Rounded) (fl : Flags) : delivered r fl = .ok (r.bits, fl ||| r.flags) := rfl

/-- A format A row reads its first `n` sources, under `.raw` or not, and takes 0 for the others. -/
theorem readA_of_readable_raw {v : View} {o : OpA} {n : Nat} {raw : Bool} (hn : n = 1 ∨ n = 2 ∨ n = 3)
    (h : ∀ x ∈ sources o n, Readable v o.t x raw) :
    readA v o n raw 0#7 = .ok ((srcBits v o.t o.a, if n ≥ 2 then srcBits v o.t o.b else 0,
      if n ≥ 3 then srcBits v o.t o.c else 0), voidFlags v ((sources o n).map (fun x => (o.t, x)))) := by
  have hread (s : Src) (hs : s ∈ sources o n) (fl : Flags) := readSrc_of_readable (h s hs) fl
  rcases hn with rfl | rfl | rfl <;>
    simp only [sources, List.take, List.mem_cons, List.not_mem_nil, or_false] at hread
  · exact Sem.bind_of_ok (hread o.a rfl _)
  · exact (Sem.bind_of_ok (hread o.a (.inl rfl) _)).trans (Sem.bind_of_ok (hread o.b (.inr rfl) _))
  · exact (Sem.bind_of_ok (hread o.a (.inl rfl) _)).trans ((Sem.bind_of_ok (hread o.b (.inr (.inl rfl)) _)).trans
      (Sem.bind_of_ok (hread o.c (.inr (.inr rfl)) _)))

/-- What a float row computes of element `e`, a source that it does not use counting as 0. -/
def floatElemAt (v : View) (o : OpA) (n : Nat) (op : FloatFmt → Nat → Nat → Nat → Rounded) (e : Nat) : Rounded :=
  op (fmtOf o.t) (elemOf o.t (srcBits v o.t o.a) e) (elemOf o.t (if n ≥ 2 then srcBits v o.t o.b else 0) e)
    (elemOf o.t (if n ≥ 3 then srcBits v o.t o.c else 0) e)

/-- WHAT A FLOAT ROW COMPUTES from sources that can be read: each element on its own, with the flags of all. -/
theorem semFloat_of_readable {v : View} {o : OpA} {n : Nat} {op : FloatFmt → Nat → Nat → Nat → Rounded}
    (hn : n = 1 ∨ n = 2 ∨ n = 3) (ht : o.t ∈ floatTypes) (h : ∀ x ∈ sources o n, Readable v o.t x o.x)
    (hlt : ∀ e, e < elems o.t → (floatElemAt v o n op e).bits < 2 ^ (fmtOf o.t).width) :
    ∃ z, semFloat n op o v 0#7 = .ok (writeEff o.d o.t z, voidFlags v ((sources o n).map (fun x => (o.t, x))) |||
        allFlags (elems o.t) (fun e => (floatElemAt v o n op e).flags)) ∧
      z < 2 ^ 32 ∧ ∀ e, e < elems o.t → elemOf o.t z e = (floatElemAt v o n op e).bits := by
  obtain ⟨hw, h32⟩ := floatTypes_spec ht
  refine ⟨(mapElems o.t (op (fmtOf o.t)) (srcBits v o.t o.a) (if n ≥ 2 then srcBits v o.t o.b else 0)
    (if n ≥ 3 then srcBits v o.t o.c else 0)).bits, ?_, ?_, fun e he => ?_⟩
  · rw [semFloat, Sem.bind_of_ok (readA_of_readable_raw hn h)]
    dsimp only
    rw [Sem.bind_of_ok (delivered_ok _ _), mapElems_flags]
    rfl
  · exact h32 ▸ mapElems_bits_lt _ _ _ _ _
  · exact elemOf_mapElems _ _ _ _ _ he (hw ▸ hlt e he)

/-! ## Proofs: the float rows of R170 to R174 -/

/-- A row of R170 is run by the model as a float row whose elements are the exact results `x` rounded once. -/
structure FloatRow (o : OpA) (i : Instr) (n : Nat) (x : FloatFmt → Nat → Nat → Nat → Exact) : Prop where
  count : n = 2 ∨ n = 3
  typed : wfInstr i = true → o.t ∈ floatTypes
  runs : ∃ op : FloatFmt → Nat → Nat → Nat → Rounded,
    (∀ s, exec i s = runRegs i (isK o.d) o.pred (useA o n) (semFloat n op o) s) ∧
    ∀ f a b c c', (3 ≤ n → c' = c) → Delivers f o.rm o.sat (x f a b c) (op f a b c').bits (op f a b c').flags

theorem mem_types_of_wfA {r : RowA} {okD : Reg → Bool} {okA okB okC : Src → Bool} {o : OpA}
    (h : wfA r okD okA okB okC o = true) : o.t ∈ r.types := by
  simp only [wfA, modsOk, Bool.and_eq_true, and_assoc, List.contains_iff_mem] at h
  exact h.1

theorem mem_floatTypes_of_wf {n : Nat} {rm sat : Bool} {o : OpA} (h : wfFloat n rm sat o = true) : o.t ∈ floatTypes :=
  mem_types_of_wfT h

theorem floatRow_of_mem {o : OpA} {i : Instr} {n : Nat} {x : FloatFmt → Nat → Nat → Nat → Exact}
    (h : (i, n, x) ∈ floatRows o) : FloatRow o i n x := by
  simp only [floatRows, List.mem_cons, Prod.mk.injEq, List.not_mem_nil, or_false] at h
  rcases h with fadd | fsub | fmul | ffma
  · obtain ⟨rfl, rfl, rfl⟩ := fadd
    exact ⟨.inl rfl, mem_floatTypes_of_wf, _, fun _ => rfl, fun f a b _ _ _ =>
      rounded_delivers ((patternCase f a).sum (patternCase f b) o.rm) o.rm o.sat⟩
  · obtain ⟨rfl, rfl, rfl⟩ := fsub
    exact ⟨.inl rfl, mem_floatTypes_of_wf, _, fun _ => rfl, fun f a b _ _ _ =>
      rounded_delivers ((patternCase f a).sum (patternCase f b).negate o.rm) o.rm o.sat⟩
  · obtain ⟨rfl, rfl, rfl⟩ := fmul
    exact ⟨.inl rfl, mem_floatTypes_of_wf, _, fun _ => rfl, fun f a b _ _ _ =>
      rounded_delivers ((patternCase f a).mul (patternCase f b)).product o.rm o.sat⟩
  · obtain ⟨rfl, rfl, rfl⟩ := ffma
    refine ⟨.inr rfl, mem_floatTypes_of_wf, _, fun _ => rfl, fun f a b c c' hc => ?_⟩
    rw [hc (Nat.le_refl 3)]
    exact rounded_delivers (((patternCase f a).mul (patternCase f b)).fma (patternCase f c) o.rm) o.rm o.sat

theorem floatRow_completes {o : OpA} {i : Instr} {n : Nat} {x : FloatFmt → Nat → Nat → Nat → Exact}
    (row : FloatRow o i n x) :
    Completes i (isK o.d) o.pred (useA o n) (fun v => ∀ y ∈ sources o n, Readable v o.t y o.x)
      (fun v r => ∃ z fl, TypedResult o.d o.t z r ∧ z < 2 ^ 32 ∧
        r.flags = voidFlags v ((sources o n).map (fun y => (o.t, y))) ||| allFlags (elems o.t) fl ∧
        ∀ e, e < elems o.t →
          Delivers (fmtOf o.t) o.rm o.sat
            (x (fmtOf o.t) (elemOf o.t (srcBits v o.t o.a) e) (elemOf o.t (srcBits v o.t o.b) e)
              (elemOf o.t (srcBits v o.t o.c) e))
            (elemOf o.t z e) (fl e)) := by
  obtain ⟨hn, typed, op, hrun, hop⟩ := row
  refine completes_of_wf (fun hw => runRegs_completes hrun (fun v hready => ?_))
  have hel (e : Nat) : Delivers (fmtOf o.t) o.rm o.sat
      (x (fmtOf o.t) (elemOf o.t (srcBits v o.t o.a) e) (elemOf o.t (srcBits v o.t o.b) e)
        (elemOf o.t (srcBits v o.t o.c) e))
      (floatElemAt v o n op e).bits (floatElemAt v o n op e).flags := by
    rw [floatElemAt, if_pos (by omega : n ≥ 2)]
    exact hop _ _ _ _ _ (fun h3 => by rw [if_pos h3])
  obtain ⟨z, hz, hlt, he⟩ := semFloat_of_readable (op := op) (.inr hn) (typed hw) hready
    (fun e _ => bits_lt_of_delivers (hel e))
  exact ⟨⟨_, [], _⟩, hz, z, _, ⟨rfl, rfl⟩, hlt, rfl, fun e hlt => he e hlt ▸ hel e⟩

theorem chosen_lt {f : FloatFmt} (less : Int → Int → Bool) {a b : Nat} (ha : a < 2 ^ f.width) (hb : b < 2 ^ f.width) :
    chosen f less a b < 2 ^ f.width := by
  have hnan := nanBits_lt f
  rw [chosen]
  (repeat' split) <;> assumption

theorem float_elemOf_lt {t : Tag} (ht : t ∈ floatTypes) (x e : Nat) : elemOf t x e < 2 ^ (fmtOf t).width :=
  (floatTypes_spec ht).1 ▸ elemOf_lt t x e

theorem forall_sources_two {o : OpA} {P : Src → Prop} (ha : P o.a) (hb : P o.b) : ∀ x ∈ sources o 2, P x := by
  simpa [sources] using ⟨ha, hb⟩

theorem forall_sources_one {o : OpA} {P : Src → Prop} (ha : P o.a) : ∀ x ∈ sources o 1, P x := by
  simpa [sources] using ha

/-- `FMIN` and `FMAX` (R171). -/
theorem minMax_completes (o : OpA) (isMax : Bool) (less : Int → Int → Bool) {i : Instr}
    (hless : ∀ f a b, (elMinMax f isMax a b).bits = chosen f less a b)
    (hrun : ∀ s, exec i s =
      runRegs i (isK o.d) o.pred (useA o 2) (semFloat 2 (fun f a b _ => elMinMax f isMax a b) o) s)
    (typed : wfInstr i = true → o.t ∈ floatTypes) :
    Completes i (isK o.d) o.pred (useA o 2) (fun v => Readable v o.t o.a o.x ∧ Readable v o.t o.b o.x)
      (fun v r => ∃ z, TypedResult o.d o.t z r ∧ z < 2 ^ 32 ∧
        r.flags = voidFlags v [(o.t, o.a), (o.t, o.b)] |||
          allFlags (elems o.t) (fun e => if signalling (fmtOf o.t) (elemOf o.t (srcBits v o.t o.a) e) ||
            signalling (fmtOf o.t) (elemOf o.t (srcBits v o.t o.b) e) then flINV else 0#7) ∧
        ∀ e, e < elems o.t → elemOf o.t z e =
          chosen (fmtOf o.t) less (elemOf o.t (srcBits v o.t o.a) e) (elemOf o.t (srcBits v o.t o.b) e)) := by
  refine completes_of_wf (fun hw => runRegs_completes hrun (fun v hready => ?_))
  obtain ⟨ha, hb⟩ := hready
  have ht := typed hw
  obtain ⟨z, hz, hz32, he⟩ := semFloat_of_readable (op := fun f a b _ => elMinMax f isMax a b) (.inr (.inl rfl)) ht
    (forall_sources_two ha hb)
    (fun e _ => (hless _ _ _).symm ▸ chosen_lt less (float_elemOf_lt ht _ e) (float_elemOf_lt ht _ e))
  refine ⟨⟨_, [], _⟩, hz, z, ⟨rfl, rfl⟩, hz32, ?_, fun e hlt => (he e hlt).trans (hless _ _ _)⟩
  simp only [floatElemAt, elMinMax_flags]
  rfl

/-- `FRND` (R174). -/
theorem frnd_completes (o : OpA) :
    Completes (.frnd o) (isK o.d) o.pred (useA o 1) (fun v => Readable v o.t o.a o.x)
      (fun v r => ∃ z, TypedResult o.d o.t z r ∧ z < 2 ^ 32 ∧
        r.flags = voidFlags v [(o.t, o.a)] |||
          allFlags (elems o.t) (fun e =>
            if signalling (fmtOf o.t) (elemOf o.t (srcBits v o.t o.a) e) then flINV else 0#7) ∧
        ∀ e, e < elems o.t → Integral (fmtOf o.t) o.rm (elemOf o.t (srcBits v o.t o.a) e) (elemOf o.t z e)) := by
  refine completes_of_wf (fun hw => runRegs_completes (fun _ => rfl) (fun v ha => ?_))
  have ht : o.t ∈ floatTypes := mem_floatTypes_of_wf hw
  have hint (e : Nat) := elRound_integral (fmtOf o.t) o.rm (float_elemOf_lt ht (srcBits v o.t o.a) e)
  obtain ⟨z, hz, hz32, he⟩ := semFloat_of_readable (op := fun f a _ _ => elRound f o.rm a) (.inl rfl) ht
    (forall_sources_one ha) (fun e _ => integral_lt (float_elemOf_lt ht _ e) (hint e))
  refine ⟨⟨_, [], _⟩, hz, z, ⟨rfl, rfl⟩, hz32, ?_, fun e hlt => he e hlt ▸ hint e⟩
  simp only [floatElemAt, elRound_flags]
  rfl

theorem classBit_lt {t : Tag} (ht : t ∈ floatTypes) (a : Nat) : classBit (fmtOf t) a < elemWidth t := by
  have hw : 10 ≤ elemWidth t := by
    simp only [floatTypes, List.mem_cons, List.not_mem_nil, or_false] at ht
    rcases ht with rfl | rfl | rfl <;> decide
  simp only [classBit]
  (repeat' split) <;> omega

/-- `FCLASS` (R173). -/
theorem fclass_completes (o : OpA) :
    Completes (.fclass o) (isK o.d) o.pred (useA o 1) (fun v => Readable v o.t o.a o.x)
      (fun v r => r.flags = voidFlags v [(o.t, o.a)] ∧ ∃ z, TypedResult o.d .n32 z r ∧ z < 2 ^ 32 ∧
        ∀ e, e < elems o.t → elemOf o.t z e = 2 ^ classBit (fmtOf o.t) (elemOf o.t (srcBits v o.t o.a) e)) := by
  refine completes_of_wf (fun hw => runRegs_completes (fun _ => rfl) (fun v ha => ?_))
  have hwf : wfFclass o = true := hw
  have ht : o.t ∈ floatTypes := mem_types_of_wfA hwf
  obtain ⟨hwidth, h32⟩ := floatTypes_spec ht
  have hrun : semFclass o v 0#7 = .ok (writeEff o.d .n32 (joinElems (elemWidth o.t)
      ((elemsOf o.t (srcBits v o.t o.a)).map (classMask (fmtOf o.t)))), voidFlags v [(o.t, o.a)]) :=
    Sem.bind_of_ok (readSrc_of_readable ha _)
  refine ⟨⟨_, [], _⟩, hrun, rfl, _, ⟨rfl, rfl⟩, ?_, fun e he => ?_⟩
  · have h := joinElems_lt (elemWidth o.t) ((elemsOf o.t (srcBits v o.t o.a)).map (classMask (fmtOf o.t)))
    rwa [List.length_map, elemsOf, List.length_map, List.length_range, h32] at h
  · have hmask : classMask (fmtOf o.t) (elemOf o.t (srcBits v o.t o.a) e) < 2 ^ elemWidth o.t := by
      rw [classMask_eq]
      exact Nat.pow_lt_pow_right (by decide) (classBit_lt ht _)
    have h := elemOf_joinElems o.t ((elemsOf o.t (srcBits v o.t o.a)).map (classMask (fmtOf o.t))) (e := e)
      (by simpa [elemsOf] using he) (by simpa [elemsOf] using hmask)
    rw [h, ← classMask_eq]
    simp [elemsOf]

/-- A register is all ones where each of its elements is. -/
theorem allOnes_iff {t : Tag} (ht : t ∈ floatTypes) {z : Nat} (hz : z < 2 ^ 32) :
    z = 0xFFFFFFFF ↔ ∀ e, e < elems t → elemOf t z e = 2 ^ elemWidth t - 1 := by
  simp only [floatTypes, List.mem_cons, List.not_mem_nil, or_false] at ht
  rcases ht with rfl | rfl | rfl <;>
    simp only [elems, elemOf, elemWidth, Nat.forall_lt_succ_right, Nat.not_lt_zero, false_imp_iff, implies_true,
      true_and] <;> omega

/-- The comparisons of all elements, as `FCMP` writes them. -/
def comparedElems (o : OpCmp) (a b : Nat) : Rounded :=
  mapElems o.t (fun x y _ => elCmp o.cc.val (elemWidth o.t) (fmtOf o.t) x y) a b 0

theorem elCmp_flags (cc w : Nat) (f : FloatFmt) (a b : Nat) :
    (elCmp cc w f a b).flags = invalidIf (signalling f a || signalling f b) := sigFlags_pair f a b

theorem elCmp_bits (cc w : Nat) (f : FloatFmt) (a b : Nat) :
    (floatCondition f cc a b → (elCmp cc w f a b).bits = 2 ^ w - 1) ∧
      (¬ floatCondition f cc a b → (elCmp cc w f a b).bits = 0) := by
  rw [← fcmpHolds_iff]
  exact ⟨fun h => if_pos h, fun h => if_neg h⟩

/-- Each element is all ones where its comparison holds, or else 0. -/
theorem elemOf_comparedElems (o : OpCmp) (a b : Nat) {e : Nat} (he : e < elems o.t) :
    (floatCondition (fmtOf o.t) o.cc.val (elemOf o.t a e) (elemOf o.t b e) →
      elemOf o.t (comparedElems o a b).bits e = 2 ^ elemWidth o.t - 1) ∧
    (¬ floatCondition (fmtOf o.t) o.cc.val (elemOf o.t a e) (elemOf o.t b e) →
      elemOf o.t (comparedElems o a b).bits e = 0) := by
  have hpos := Nat.two_pow_pos (elemWidth o.t)
  obtain ⟨hyes, hno⟩ := elCmp_bits o.cc.val (elemWidth o.t) (fmtOf o.t) (elemOf o.t a e) (elemOf o.t b e)
  have hlt : (elCmp o.cc.val (elemWidth o.t) (fmtOf o.t) (elemOf o.t a e) (elemOf o.t b e)).bits <
      2 ^ elemWidth o.t := by
    by_cases h : floatCondition (fmtOf o.t) o.cc.val (elemOf o.t a e) (elemOf o.t b e)
    · rw [hyes h]; omega
    · rw [hno h]; omega
  rw [comparedElems, elemOf_mapElems _ _ _ _ _ he hlt]
  exact ⟨hyes, hno⟩

/-- `FCMP` (R172). -/
theorem fcmp_completes (o : OpCmp) :
    Completes (.fcmp o) (isK o.d) o.pred (useReg o.d ++ useSrc o.a ++ useSrc o.b)
      (fun v => Readable v o.t o.a o.raw ∧ Readable v o.t o.b o.raw)
      (fun v r => ∃ (z : Nat) (b : Bool), z < 2 ^ 32 ∧ r.regs = [(regNum o.d, ⟨BitVec.ofNat 32 z, .b32⟩)] ∧
        r.preds = [(o.pd.val, b)] ∧
        r.flags = voidFlags v [(o.t, o.a), (o.t, o.b)] |||
          allFlags (elems o.t) (fun e => if signalling (fmtOf o.t) (elemOf o.t (srcBits v o.t o.a) e) ||
            signalling (fmtOf o.t) (elemOf o.t (srcBits v o.t o.b) e) then flINV else 0#7) ∧
        (b = true ↔ ∀ e, e < elems o.t → floatCondition (fmtOf o.t) o.cc.val (elemOf o.t (srcBits v o.t o.a) e)
          (elemOf o.t (srcBits v o.t o.b) e)) ∧
        ∀ e, e < elems o.t →
          (floatCondition (fmtOf o.t) o.cc.val (elemOf o.t (srcBits v o.t o.a) e) (elemOf o.t (srcBits v o.t o.b) e) →
            elemOf o.t z e = 2 ^ elemWidth o.t - 1) ∧
          (¬ floatCondition (fmtOf o.t) o.cc.val (elemOf o.t (srcBits v o.t o.a) e) (elemOf o.t (srcBits v o.t o.b) e) →
            elemOf o.t z e = 0)) := by
  refine completes_of_wf (fun hw => runRegs_completes (fun _ => rfl) (fun v hready => ?_))
  obtain ⟨ha, hb⟩ := hready
  have ht : o.t ∈ floatTypes := by
    have h : wfFcmp o = true := hw
    simp only [wfFcmp, Bool.and_eq_true, List.contains_iff_mem] at h
    exact h.2
  have hrun : semFcmp o v 0#7 = .ok (
      { regs := writeVal o.d .b32 (comparedElems o (srcBits v o.t o.a) (srcBits v o.t o.b)).bits
        preds := [(o.pd.val, (comparedElems o (srcBits v o.t o.a) (srcBits v o.t o.b)).bits == 0xFFFFFFFF)] },
      voidFlags v [(o.t, o.a), (o.t, o.b)] ||| (comparedElems o (srcBits v o.t o.a) (srcBits v o.t o.b)).flags) :=
    (Sem.bind_of_ok (readSrc_of_readable ha _)).trans (Sem.bind_of_ok (readSrc_of_readable hb _))
  have hz32 : (comparedElems o (srcBits v o.t o.a) (srcBits v o.t o.b)).bits < 2 ^ 32 :=
    (floatTypes_spec ht).2 ▸ mapElems_bits_lt _ _ _ _ _
  refine ⟨⟨_, _, _⟩, hrun, _, _, hz32, rfl, rfl, ?_, ?_, fun e he => elemOf_comparedElems o _ _ he⟩
  · simp only [comparedElems, mapElems_flags, elCmp_flags]
    rfl
  · rw [beq_iff_eq, allOnes_iff ht hz32]
    refine forall₂_congr fun e he => ⟨fun h => ?_, (elemOf_comparedElems o _ _ he).1⟩
    have hone := Nat.one_lt_two_pow (Nat.ne_of_gt (elemWidth_pos o.t))
    refine Classical.byContradiction fun hn => ?_
    rw [(elemOf_comparedElems o _ _ he).2 hn] at h
    omega

/-- Settles O4: every row computes its elements one by one from operands read under its type. -/
theorem floatArithmeticAndComparisons : Obligations.FloatArithmeticAndComparisons := by
  refine ⟨fun o i n x hmem => floatRow_completes (floatRow_of_mem hmem), fun o i less hmem => ?_, fcmp_completes,
    fclass_completes, frnd_completes⟩
  simp only [List.mem_cons, Prod.mk.injEq, List.not_mem_nil, or_false] at hmem
  rcases hmem with ⟨rfl, rfl⟩ | ⟨rfl, rfl⟩
  · exact minMax_completes o false _ (fun f a b => elMinMax_bits f false a b) (fun _ => rfl) mem_floatTypes_of_wf
  · exact minMax_completes o true _ (fun f a b => elMinMax_bits f true a b) (fun _ => rfl) mem_floatTypes_of_wf

/-! ## Proofs: conversions, packing and dot products (R176 to R181) -/

theorem wrapInt_lt (w : Nat) (x : Int) : wrapInt w x < 2 ^ w := by
  have h := Int.emod_lt_of_pos x (b := ((2 ^ w : Nat) : Int)) (by exact_mod_cast Nat.two_pow_pos w)
  rw [wrapInt]
  omega

theorem cvtTypes_spec {t : Tag} (ht : t ∈ cvtTypes) : t = .f32 ∨ t ∈ arithPacked := by
  simp only [cvtTypes, List.mem_cons, List.not_mem_nil, or_false] at ht
  rcases ht with rfl | rfl | rfl | rfl | rfl <;> decide

theorem cvtToInt_lt (t : Tag) (mode : Rnd) (a : Nat) : (cvtToInt t mode a).bits < 2 ^ elemWidth t := by
  rw [cvtToInt]
  cases valueOf .f32 a with
  | nan => exact Nat.two_pow_pos _
  | inf => exact wrapInt_lt _ _
  | fin =>
    dsimp only
    split <;> exact wrapInt_lt _ _

/-- WHAT `CVT` DELIVERS (R177). -/
theorem cvtBits_converts {src t : Tag} (ht : t ∈ cvtTypes) (hne : t ≠ src) (mode : Rnd) (sat : Bool) (a : Nat) :
    Converts src t mode sat a (cvtBits src t mode sat a).bits (cvtBits src t mode sat a).flags := by
  rw [Converts, cvtBits]
  by_cases hsrc : src = .f32
  · have hint := (cvtTypes_spec ht).resolve_left (fun h => hne (h.trans hsrc.symm))
    simp only [hsrc, if_true]
    exact ⟨cvtToInt_toInteger hint mode a, cvtToInt_lt t mode a⟩
  · simp only [hsrc, if_false]
    by_cases hdst : t = .f32
    · simp only [hdst, if_true]
      exact fvInt_delivers _ .f32 mode false
    · have hint := (cvtTypes_spec ht).resolve_left hdst
      simp only [hdst, if_false]
      exact ⟨intOf_putInt hint sat _, wrapInt_lt _ _, trivial⟩

/-- `CVT` (R176, R177). -/
theorem cvt_completes (o : OpCvt) :
    Completes (.cvt o) (isK o.d) o.pred (useReg o.d (tagRegs o.t) ++ useSrc o.a (tagRegs o.src))
      (fun v => Readable v o.src o.a o.raw)
      (fun v r => ∃ z fl, TypedResult o.d o.t z r ∧ r.flags = voidFlags v [(o.src, o.a)] ||| fl ∧
        Converts o.src o.t o.rm o.sat (srcBits v o.src o.a) z fl) := by
  refine completes_of_wf (fun hw => runRegs_completes (fun _ => rfl) (fun v ha => ?_))
  have hwf : wfCvt o = true := hw
  simp only [wfCvt, Bool.and_eq_true, List.contains_iff_mem, bne_iff_ne, and_assoc] at hwf
  obtain ⟨ht, -, hne, -⟩ := hwf
  exact ⟨⟨_, [], _⟩, Sem.bind_of_ok (readSrc_of_readable ha _), _, _, ⟨rfl, rfl⟩, rfl, cvtBits_converts ht hne _ _ _⟩

/-- `FDOT2` (R180). -/
theorem fdot2_completes (o : OpA) :
    Completes (.fdot2 o) (isK o.d) o.pred (useA o 3)
      (fun v => Readable v o.t o.a o.x ∧ Readable v o.t o.b o.x ∧ Readable v .f32 o.c o.x)
      (fun v r => ∃ z fl, TypedResult o.d .f32 z r ∧
        r.flags = voidFlags v [(o.t, o.a), (o.t, o.b), (.f32, o.c)] ||| fl ∧
        Delivers .f32 o.rm o.sat
          (exactDot (fmtOf o.t) o.rm (elemOf o.t (srcBits v o.t o.a) 0) (elemOf o.t (srcBits v o.t o.b) 0)
            (elemOf o.t (srcBits v o.t o.a) 1) (elemOf o.t (srcBits v o.t o.b) 1) (srcBits v .f32 o.c)) z fl) := by
  refine runRegs_completes (fun _ => rfl) (fun v hready => ?_)
  obtain ⟨ha, hb, hc⟩ := hready
  have hdot := rounded_delivers (dot_holds
    ((patternCase (fmtOf o.t) (elemOf o.t (srcBits v o.t o.a) 0)).mul
      (patternCase _ (elemOf o.t (srcBits v o.t o.b) 0)))
    ((patternCase (fmtOf o.t) (elemOf o.t (srcBits v o.t o.a) 1)).mul
      (patternCase _ (elemOf o.t (srcBits v o.t o.b) 1)))
    (patternCase .f32 (srcBits v .f32 o.c)) o.rm) o.rm o.sat
  exact ⟨⟨_, [], _⟩, (Sem.bind_of_ok (readSrc_of_readable ha _)).trans
    ((Sem.bind_of_ok (readSrc_of_readable hb _)).trans
    (Sem.bind_of_ok (readSrc_of_readable hc _))), _, _, ⟨rfl, rfl⟩, rfl, hdot⟩

/-- The exact sum of `IDOT4`, term by term. -/
theorem dot4_eq (ta tb : Tag) (a b : Nat) (c : Int) :
    dot4 ta tb a b c = c + intOf ta (elemOf ta a 0) * intOf tb (elemOf tb b 0) +
      intOf ta (elemOf ta a 1) * intOf tb (elemOf tb b 1) + intOf ta (elemOf ta a 2) * intOf tb (elemOf tb b 2) +
      intOf ta (elemOf ta a 3) * intOf tb (elemOf tb b 3) := rfl

theorem idotAcc_spec (t : Tag) (x : Bool) : idotAcc t x ∈ arithPacked ∧ elemWidth (idotAcc t x) = 32 := by
  rw [idotAcc]
  split <;> decide

/-- `IDOT4` (R181). -/
theorem idot4_completes (o : OpA) :
    Completes (.idot4 o) (isK o.d) o.pred (useA o 3)
      (fun v => Readable v o.t o.a ∧ Readable v (if o.x then otherSign o.t else o.t) o.b ∧
        Readable v (idotAcc o.t o.x) o.c)
      (fun v r =>
        let tb := if o.x then otherSign o.t else o.t
        let tc := idotAcc o.t o.x
        r.flags = voidFlags v [(o.t, o.a), (tb, o.b), (tc, o.c)] ∧
          ∃ z, TypedResult o.d tc z r ∧ z < 2 ^ 32 ∧
            intOf tc z = fit tc o.sat (intOf tc (srcBits v tc o.c) +
              intOf o.t (elemOf o.t (srcBits v o.t o.a) 0) * intOf tb (elemOf tb (srcBits v tb o.b) 0) +
              intOf o.t (elemOf o.t (srcBits v o.t o.a) 1) * intOf tb (elemOf tb (srcBits v tb o.b) 1) +
              intOf o.t (elemOf o.t (srcBits v o.t o.a) 2) * intOf tb (elemOf tb (srcBits v tb o.b) 2) +
              intOf o.t (elemOf o.t (srcBits v o.t o.a) 3) * intOf tb (elemOf tb (srcBits v tb o.b) 3))) := by
  refine runRegs_completes (fun _ => rfl) (fun v hready => ?_)
  obtain ⟨ha, hb, hc⟩ := hready
  obtain ⟨htc, hwidth⟩ := idotAcc_spec o.t o.x
  refine ⟨⟨_, [], _⟩, (Sem.bind_of_ok (readSrc_of_readable ha _)).trans
    ((Sem.bind_of_ok (readSrc_of_readable hb _)).trans
    (Sem.bind_of_ok (readSrc_of_readable hc _))), rfl, _, ⟨rfl, rfl⟩, ?_, ?_⟩
  · exact hwidth ▸ wrapInt_lt _ _
  · rw [← dot4_eq]
    exact intOf_putInt htc o.sat _

/-- A packed type: its elements are those of a float format or of packed integers, and fill one register. -/
theorem packTypes_spec {t : Tag} (ht : t ∈ packTypes) :
    elemWidth t * elems t = 32 ∧ (elems t = 2 ∨ elems t = 4) ∧
      ((∃ f, floatElem t = some f ∧ elemWidth t = f.width) ∨
        (floatElem t = none ∧ t ∈ arithPacked ∧ elemWidth (packScalar t) = 32 ∧
          lowest_ (packScalar t) ≤ lowest_ t ∧ highest_ t ≤ highest_ (packScalar t))) := by
  simp only [packTypes, List.mem_cons, List.not_mem_nil, or_false] at ht
  rcases ht with rfl | rfl | rfl | rfl | rfl | rfl
  · exact ⟨rfl, .inl rfl, .inl ⟨_, rfl, rfl⟩⟩
  · exact ⟨rfl, .inl rfl, .inl ⟨_, rfl, rfl⟩⟩
  · exact ⟨rfl, .inr rfl, .inl ⟨_, rfl, rfl⟩⟩
  · exact ⟨rfl, .inr rfl, .inl ⟨_, rfl, rfl⟩⟩
  · exact ⟨rfl, .inr rfl, .inr (by decide)⟩
  · exact ⟨rfl, .inr rfl, .inr (by decide)⟩

/-- WHAT `PACK` MAKES OF ONE SCALAR (R178). -/
theorem packElem_packs {t : Tag} (ht : t ∈ packTypes) (mode : Rnd) (sat : Bool) (a : Nat) :
    Packs t mode sat a (packElem t mode sat a).bits (packElem t mode sat a).flags ∧
      (packElem t mode sat a).bits < 2 ^ elemWidth t := by
  obtain ⟨-, -, ⟨f, hf, hwidth⟩ | ⟨hf, hint, -⟩⟩ := packTypes_spec ht
  · simp only [Packs, packElem, hf, hwidth]
    have h := cvtFloat_delivers .f32 f mode sat a
    exact ⟨h, bits_lt_of_delivers h⟩
  · simp only [Packs, packElem, hf]
    exact ⟨⟨intOf_putInt hint sat _, trivial⟩, wrapInt_lt _ _⟩

/-- WHAT `UNPK` MAKES OF ONE ELEMENT (R179). -/
theorem unpkElem_unpacks {t : Tag} (ht : t ∈ packTypes) (x : Nat) :
    Unpacks t x (unpkElem t x).bits (unpkElem t x).flags := by
  obtain ⟨-, -, ⟨f, hf, -⟩ | ⟨hf, -, hwidth, hlo, hhi⟩⟩ := packTypes_spec ht
  · simp only [Unpacks, unpkElem, hf]
    exact cvtFloat_delivers f .f32 .ne false x
  · simp only [Unpacks, unpkElem, hf]
    obtain ⟨hx, hx'⟩ := intOf_mem_range t x
    have hhigh := highest_eq t
    exact ⟨hwidth ▸ intOf_wrapInt_of_mem (Int.le_trans hlo hx) (by omega), wrapInt_lt 32 _, trivial⟩

/-- `UNPK` (R179). -/
theorem unpk_completes (o : OpUnpk) :
    Completes (.unpk o) (isK o.d) o.pred (useReg o.d ++ useSrc o.a) (fun v => Readable v o.t o.a)
      (fun v r => ∃ z fl, TypedResult o.d (packScalar o.t) z r ∧ r.flags = voidFlags v [(o.t, o.a)] ||| fl ∧
        Unpacks o.t (elemOf o.t (srcBits v o.t o.a) o.el.val) z fl) := by
  refine completes_of_wf (fun hw => runRegs_completes (fun _ => rfl) (fun v ha => ?_))
  have hwf : wfUnpk o = true := hw
  simp only [wfUnpk, Bool.and_eq_true, List.contains_iff_mem, and_assoc] at hwf
  obtain ⟨ht, -⟩ := hwf
  exact ⟨⟨_, [], _⟩, Sem.bind_of_ok (readSrc_of_readable ha _), _, _, ⟨rfl, rfl⟩, rfl, unpkElem_unpacks ht _⟩

/-- The elements that `PACK` joins: the two it has made and, of a four-element type, two of C (R178). -/
def packedElems (t : Tag) (hi : Bool) (ea eb c : Nat) : List Nat :=
  if elems t = 2 then [ea, eb]
  else if hi then [elemOf t c 0, elemOf t c 1, ea, eb]
  else [ea, eb, elemOf t c 2, elemOf t c 3]

theorem packedElems_length {t : Tag} (ht : t ∈ packTypes) (hi : Bool) (ea eb c : Nat) :
    (packedElems t hi ea eb c).length = elems t := by
  obtain ⟨-, h | h, -⟩ := packTypes_spec ht <;> cases hi <;> simp [packedElems, h]

/-- Each element of the joined register is the one that was put there. -/
theorem elemOf_packed (t : Tag) (hi : Bool) {ea eb : Nat} (ha : ea < 2 ^ elemWidth t) (hb : eb < 2 ^ elemWidth t)
    (c : Nat) {e x : Nat} (h : (packedElems t hi ea eb c)[e]? = some x) :
    elemOf t (joinElems (elemWidth t) (packedElems t hi ea eb c)) e = x := by
  obtain ⟨he, rfl⟩ := List.getElem?_eq_some_iff.1 h
  refine elemOf_joinElems t _ he ?_
  have hall : ∀ y ∈ packedElems t hi ea eb c, y < 2 ^ elemWidth t := by
    rw [packedElems]
    (repeat' split) <;> simp [ha, hb, elemOf_lt]
  exact hall _ (List.getElem_mem he)

theorem elemOf_packed_made {t : Tag} (ht : t ∈ packTypes) {hi : Bool} (hhi : elems t = 2 → hi = false) {ea eb : Nat}
    (ha : ea < 2 ^ elemWidth t) (hb : eb < 2 ^ elemWidth t) (c : Nat) :
    elemOf t (joinElems (elemWidth t) (packedElems t hi ea eb c)) (if hi then 2 else 0) = ea ∧
      elemOf t (joinElems (elemWidth t) (packedElems t hi ea eb c)) (if hi then 3 else 1) = eb := by
  obtain ⟨-, h | h, -⟩ := packTypes_spec ht
  · obtain rfl := hhi h
    exact ⟨elemOf_packed t false ha hb c (by simp [packedElems, h]),
      elemOf_packed t false ha hb c (by simp [packedElems, h])⟩
  · refine ⟨elemOf_packed t hi ha hb c ?_, elemOf_packed t hi ha hb c ?_⟩ <;> cases hi <;> simp [packedElems, h]

theorem elemOf_packed_kept {t : Tag} (h4 : elems t = 4) (hi : Bool) {ea eb : Nat}
    (ha : ea < 2 ^ elemWidth t) (hb : eb < 2 ^ elemWidth t) (c : Nat) {e : Nat}
    (he : e ∈ (if hi then [0, 1] else [2, 3])) :
    elemOf t (joinElems (elemWidth t) (packedElems t hi ea eb c)) e = elemOf t c e := by
  refine elemOf_packed t hi ha hb c ?_
  cases hi <;> simp only [if_true, if_false, Bool.false_eq_true, List.mem_cons, List.not_mem_nil, or_false] at he <;>
    rcases he with rfl | rfl <;> simp [packedElems, h4]

/-- `PACK` reads C for a four-element type only, and goes on with 0 for the others (R178). -/
theorem readPackC {v : View} {o : OpA} (h : elems o.t = 4 → Readable v o.t o.c) {α : Type} (k : Nat → Sem α)
    (fl : Flags) :
    (if elems o.t = 4 then readSrc v o.c o.t >>= k else pure 0 >>= k) fl =
      k (if elems o.t = 4 then srcBits v o.t o.c else 0)
        (fl ||| (if elems o.t = 4 then voidOf v o.t o.c else 0#7)) := by
  split
  · next h4 => exact Sem.bind_of_ok (readSrc_of_readable (h h4) fl)
  · rw [BitVec.or_zero]
    rfl

/-- `PACK` (R178). -/
theorem pack_completes (o : OpA) :
    Completes (.pack o) (isK o.d) o.pred
      (useReg o.d ++ useSrc o.a ++ useSrc o.b ++ (if elems o.t = 4 then useSrc o.c else []))
      (fun v => Readable v (packScalar o.t) o.a ∧ Readable v (packScalar o.t) o.b ∧
        (elems o.t = 4 → Readable v o.t o.c))
      (fun v r => ∃ z fa fb, TypedResult o.d o.t z r ∧ z < 2 ^ 32 ∧
        r.flags = voidFlags v [(packScalar o.t, o.a), (packScalar o.t, o.b)] |||
          (if elems o.t = 4 then voidOf v o.t o.c else 0#7) ||| fa ||| fb ∧
        Packs o.t o.rm o.sat (srcBits v (packScalar o.t) o.a) (elemOf o.t z (if o.x then 2 else 0)) fa ∧
        Packs o.t o.rm o.sat (srcBits v (packScalar o.t) o.b) (elemOf o.t z (if o.x then 3 else 1)) fb ∧
        (elems o.t = 4 → ∀ e ∈ (if o.x then [0, 1] else [2, 3]),
          elemOf o.t z e = elemOf o.t (srcBits v o.t o.c) e)) := by
  refine completes_of_wf (fun hw => runRegs_completes (fun _ => rfl) (fun v hready => ?_))
  obtain ⟨ha, hb, hc⟩ := hready
  have hwf : wfPack o = true := hw
  simp only [wfPack, Bool.and_eq_true, List.contains_iff_mem, and_assoc] at hwf
  obtain ⟨ht, -, -, -, -, hx⟩ := hwf
  have hlow : elems o.t = 2 → o.x = false := fun h => by
    rw [if_pos h, Bool.and_eq_true, Bool.not_eq_true'] at hx
    exact hx.2
  obtain ⟨hpa, hlta⟩ := packElem_packs ht o.rm o.sat (srcBits v (packScalar o.t) o.a)
  obtain ⟨hpb, hltb⟩ := packElem_packs ht o.rm o.sat (srcBits v (packScalar o.t) o.b)
  have hrun : semPack o v 0#7 = .ok (writeEff o.d o.t (joinElems (elemWidth o.t) (packedElems o.t o.x
      (packElem o.t o.rm o.sat (srcBits v (packScalar o.t) o.a)).bits
      (packElem o.t o.rm o.sat (srcBits v (packScalar o.t) o.b)).bits
      (if elems o.t = 4 then srcBits v o.t o.c else 0))),
      voidFlags v [(packScalar o.t, o.a), (packScalar o.t, o.b)] |||
        (if elems o.t = 4 then voidOf v o.t o.c else 0#7) |||
        (packElem o.t o.rm o.sat (srcBits v (packScalar o.t) o.a)).flags |||
        (packElem o.t o.rm o.sat (srcBits v (packScalar o.t) o.b)).flags) :=
    (Sem.bind_of_ok (readSrc_of_readable ha _)).trans ((Sem.bind_of_ok (readSrc_of_readable hb _)).trans
      (readPackC hc _ _))
  obtain ⟨hea, heb⟩ := elemOf_packed_made ht hlow hlta hltb (if elems o.t = 4 then srcBits v o.t o.c else 0)
  refine ⟨⟨_, [], _⟩, hrun, _, _, _, ⟨rfl, rfl⟩, ?_, rfl, hea.symm ▸ hpa, heb.symm ▸ hpb, fun h4 e he => ?_⟩
  · have hlt := joinElems_lt (elemWidth o.t) (packedElems o.t o.x
      (packElem o.t o.rm o.sat (srcBits v (packScalar o.t) o.a)).bits
      (packElem o.t o.rm o.sat (srcBits v (packScalar o.t) o.b)).bits (if elems o.t = 4 then srcBits v o.t o.c else 0))
    rwa [packedElems_length ht, (packTypes_spec ht).1] at hlt
  · rw [if_pos h4]
    exact elemOf_packed_kept h4 o.x hlta hltb _ he

/-- Settles O8: each conversion, packing and dot product is one computation on operands read under its types. -/
theorem conversionsAndDotProducts : Obligations.ConversionsAndDotProducts :=
  ⟨cvt_completes, pack_completes, unpk_completes, fdot2_completes, idot4_completes⟩

end Sys2Proof.Machine
